-- ==== Sys2Proof/Word.lean ====
section
/-!
DEFINITION. The word types of the K4200 and their plainest arithmetic (00_scope.md, R1 to R3).
Nothing here knows an instruction; what a test could show wrong about a meaning stands elsewhere.
-/
namespace Sys2Proof

/-- R2: a byte. -/
abbrev Byte := BitVec 8
/-- R2: a word, the carrier of a floating-point value (R20) and a lane of a vector. -/
abbrev W32 := BitVec 32
/-- R2: a double, the data of a scalar register (R63). -/
abbrev W64 := BitVec 64
/-- R28: a 128-bit scalar operand. -/
abbrev W128 := BitVec 128

/-- A bit as a value: 1 for true. -/
def bit01 (b : Bool) : Nat := if b then 1 else 0

/-- R1: the bytes of `v`, `n` of them, the least significant first. -/
def leBytes : Nat → Nat → List Byte
  | 0, _ => []
  | n + 1, v => BitVec.ofNat 8 v :: leBytes n (v / 256)

/-- R1: the value of a list of bytes, the first least significant. -/
def leNat : List Byte → Nat
  | [] => 0
  | b :: bs => b.toNat + 256 * leNat bs

end Sys2Proof
end

