-- ==== Sys2Proof/Syntax.lean ====
section
/-!
DEFINITION. The syntax: `Instr` has one constructor for every row of spec/opcode_table.json, in the table's order.
The first 117 are the C-class words (03_encoding.md R57 to R60, 04_opcode_map.md R85 to R93), the next 149 the A-class
instructions (R61, R94 to R100), the last 103 the steps of the device that are no words (95_what_each_step_holds.md).
A field the encoding gives a fixed set of codes is an inductive type; a number the encoding holds is a bit vector of its width.
-/
namespace Sys2Proof

/-- R62: a field that names a scalar register, `g0` to `g31`. -/
abbrev GR := BitVec 5
/-- R62: a field that names a vector register, `v0` to `v31`. -/
abbrev VR := BitVec 5
/-- R62: a field that names a predicate, `p0` to `p7`. -/
abbrev PR := BitVec 3
/-- R62: a field that names a mask, `m0` to `m7`. -/
abbrev MR := BitVec 3
/-- R57: the 10-bit offset of a CM access. -/
abbrev Off10 := BitVec 10
/-- R57: the 21-bit word offset of a CB branch. -/
abbrev Off21 := BitVec 21
/-- R57: the 12-bit immediate of a CI word. -/
abbrev Imm12 := BitVec 12
/-- R60: a control register number. -/
abbrev CRNum := BitVec 12
/-- R61: the 13-bit immediate of an AI word. -/
abbrev Imm13 := BitVec 13
/-- R86: the body length of `LOOPI`. -/
abbrev Len5 := BitVec 5
abbrev BV2 := BitVec 2
abbrev BV3 := BitVec 3
abbrev BV4 := BitVec 4
abbrev BV6 := BitVec 6
abbrev BV15 := BitVec 15

/-- R58: the scope codes. -/
inductive Scope where | core | cl | pk | sy
deriving DecidableEq, Repr

/-- R81: the types of the scalar integer majors. -/
inductive IntTy where | i64 | i32 | z32 | q
deriving DecidableEq, Repr

/-- R81: the types of the vector integer majors. -/
inductive VTy where | i32 | z32 | i64
deriving DecidableEq, Repr

/-- R82: table F. -/
inductive FTy where | f32 | bf16 | f16 | e4m3 | e5m2 | e3m2 | e2m3 | e2m1
deriving DecidableEq, Repr

/-- R82: table N. -/
inductive NTy where | mi8 | bf16 | f16 | e4m3 | e5m2 | e3m2 | e2m3 | e2m1
deriving DecidableEq, Repr

/-- R82: the memory-type field of major `0x1B`. -/
inductive MTy where | w | bf16 | f16 | e4m3 | e5m2 | mi8 | b | h
deriving DecidableEq, Repr

/-- R35: the rounding modes an encoded field may name (code 7 is undecodable, R83). -/
inductive RMode where | rne | rz | ru | rd | rmm | ro | sr
deriving DecidableEq, Repr

/-- R110: the sizes of `SEXT` and `ZEXT`. -/
inductive BHW where | b | h | w
deriving DecidableEq, Repr

/-- R87: the address modes of major `0x14`. -/
inductive XMode where | indexed | scaled | postInc | offset
deriving DecidableEq, Repr

/-- R88, R152: how a sync access waits. -/
inductive Wait where
  | unbounded
  /-- expiry after the cycles the register holds, cause `0x0B` -/
  | bounded (limit : GR)
  /-- no wait; the predicate is true on success -/
  | attempt (p : PR)
deriving DecidableEq, Repr

/-- R207: what a `TWAIT` waits for. -/
inductive TSel where
  | tag (t : BV3)
  | all
deriving DecidableEq, Repr

/-- R192: the selectors of `MSET`. -/
inductive MSel where
  | kvalid | sparse | metaBase | ring
  | acc (k : BV3)
deriving DecidableEq, Repr

/-- R99: the operand formats of `MMA`. -/
inductive MxFmt where | e4m3 | e5m2 | e3m2 | e2m3 | e2m1 | mi8
deriving DecidableEq, Repr

/-- R100: the field fl of the AM format. -/
inductive MmaFl where | plain | rot | sparse
deriving DecidableEq, Repr

/-- R317: the bytes of a posted write, `none` where the byte enable is clear. -/
abbrev TlpBytes := List (Option Byte)

/-- R418: why a start stage fails, or that it passed. -/
inductive StartFail where
  | signature | image | selfTest | dieTraining | hbmTraining
deriving DecidableEq, Repr
abbrev OptCause := Option StartFail

/-- R153, R373: the operations an atomic unit performs. -/
inductive AOp where | add | and | or | xor | min | max | minu | maxu | swap | cas | fadd
deriving DecidableEq, Repr

/-- R151: the operations of a sync access. -/
inductive SyncOp where | ldff | ldfe | stef | stsf | ferd | feset | feclr
deriving DecidableEq, Repr

/-- R373: one aggregated element: a store (`op = none`) or a non-returning atomic, its size in bytes, the address it
carries, its data, the S of an `AFADD` operand, and the strand that issued it. -/
structure AggElem where
  op : Option AOp
  size : Nat
  addr : W64
  data : W64
  s : Bool
  slot : Nat
  /-- the generic address as issued (R376) -/
  issued : W64
  /-- R184: the lane of a vector store -/
  lane : Option Nat := none
deriving DecidableEq, Repr

/-- R391, R393, R397: what another device answers to a request. -/
inductive FabAns where
  | data (bytes : List Byte) (s : Bool)
  /-- an attempt, or a wait that was given up -/
  | failed
  | busy
  | fault (cause : Nat)
  /-- R379: the answers to a token -/
  | placed | full | retry | refused (tail head : Nat) | expired (tail head : Nat)
  /-- R213: the reply of a handler -/
  | call (v : W64)
deriving DecidableEq, Repr

/-- R390 to R397: what a packet from another device asks for. -/
inductive FabBody where
  | load (reqId size : Nat) (pa : Nat)
  | store (reqId : Nat) (pa : Nat) (bytes : List Byte)
  | nibble (reqId : Nat) (pa : Nat) (hi : Bool) (code : Byte)
  | atomic (reqId : Nat) (op : AOp) (size : Nat) (pa : Nat) (v cmp : W64) (s : Bool)
  | sync (reqId : Nat) (op : SyncOp) (attempt : Bool) (pa : Nat) (v : W64)
  | withdraw (reqId : Nat)
  | agg (srcSeq : Nat) (elems : List AggElem)
  | token (reqId : Nat) (msg : Bool) (core queue : Nat) (bytes : List Byte)
  | amsg (reqId : Option Nat) (pa index : Nat) (args : List W64)
  | marker (reqId : Nat)
  | reply (reqId : Nat) (ans : FabAns)
  /-- a reply to an aggregation packet of core `core` (R376) -/
  | aggReply (core seq mask : Nat) (causes : List Nat)
deriving DecidableEq, Repr

/-- R391 to R393: a packet as it reaches the target's window. -/
structure FabPkt where
  srcDev : Nat
  srcPart : Nat
  dstPart : Nat
  srcCore : Nat
  /-- 16-bit fabric sequence number (R392) -/
  seq : Nat
  /-- admitted only after every earlier packet of its source is performed (R393) -/
  flagged : Bool
  /-- R395: in combining mode: it takes no window entry -/
  comb : Bool := false
  body : FabBody
deriving DecidableEq, Repr

/-- One constructor for each row of spec/opcode_table.json. -/
inductive Instr where
  /-- `CNOP` (R72) -/
  | cnop
  /-- `MOVPC` (R85) -/
  | movpc (d : GR) (pg : PR) (pn : Bool)
  /-- `BP` (R134) -/
  | bp (pg : PR) (pn : Bool) (off : Off21)
  /-- `BZ` (R134) -/
  | bz (a : GR) (pg : PR) (imm : Imm12)
  /-- `BNZ` (R134) -/
  | bnz (a : GR) (pg : PR) (imm : Imm12)
  /-- `JAL` (R134) -/
  | jal (pg : PR) (pn : Bool) (off : Off21)
  /-- `JALR` (R134) -/
  | jalr (d : GR) (a : GR) (pg : PR) (imm : Imm12)
  /-- `RET` (R134) -/
  | ret (a : GR) (pg : PR) (pn : Bool)
  /-- `LOOPI` (R86, R135) -/
  | loopi (k : Bool) (len : Len5) (pg : PR) (cnt : Imm12)
  /-- `LOOPR` (R86, R135) -/
  | loopr (k : Bool) (a : GR) (pg : PR) (len : Imm12)
  /-- `REPI` (R137) -/
  | repi (pg : PR) (cnt : Imm12)
  /-- `REPR` (R137) -/
  | repr (a : GR) (pg : PR)
  /-- `LDB` (R140) -/
  | ldb (x : GR) (b : GR) (pg : PR) (sc : Scope) (off : Off10)
  /-- `LDBU` (R140) -/
  | ldbu (x : GR) (b : GR) (pg : PR) (sc : Scope) (off : Off10)
  /-- `LDH` (R140) -/
  | ldh (x : GR) (b : GR) (pg : PR) (sc : Scope) (off : Off10)
  /-- `LDHU` (R140) -/
  | ldhu (x : GR) (b : GR) (pg : PR) (sc : Scope) (off : Off10)
  /-- `LDW` (R140) -/
  | ldw (x : GR) (b : GR) (pg : PR) (sc : Scope) (off : Off10)
  /-- `LDWU` (R140) -/
  | ldwu (x : GR) (b : GR) (pg : PR) (sc : Scope) (off : Off10)
  /-- `LDD` (R140) -/
  | ldd (x : GR) (b : GR) (pg : PR) (sc : Scope) (off : Off10)
  /-- `STB` (R140) -/
  | stb (x : GR) (b : GR) (pg : PR) (sc : Scope) (off : Off10)
  /-- `STH` (R140) -/
  | sth (x : GR) (b : GR) (pg : PR) (sc : Scope) (off : Off10)
  /-- `STW` (R140) -/
  | stw (x : GR) (b : GR) (pg : PR) (sc : Scope) (off : Off10)
  /-- `STD` (R140) -/
  | std (x : GR) (b : GR) (pg : PR) (sc : Scope) (off : Off10)
  /-- `LDB_X` (R87, R140) -/
  | ldbX (a : GR) (b : GR) (c : GR) (pg : PR) (mode : XMode) (mig : Bool)
  /-- `LDBU_X` (R87, R140) -/
  | ldbuX (a : GR) (b : GR) (c : GR) (pg : PR) (mode : XMode) (mig : Bool)
  /-- `LDH_X` (R87, R140) -/
  | ldhX (a : GR) (b : GR) (c : GR) (pg : PR) (mode : XMode) (mig : Bool)
  /-- `LDHU_X` (R87, R140) -/
  | ldhuX (a : GR) (b : GR) (c : GR) (pg : PR) (mode : XMode) (mig : Bool)
  /-- `LDW_X` (R87, R140) -/
  | ldwX (a : GR) (b : GR) (c : GR) (pg : PR) (mode : XMode) (mig : Bool)
  /-- `LDWU_X` (R87, R140) -/
  | ldwuX (a : GR) (b : GR) (c : GR) (pg : PR) (mode : XMode) (mig : Bool)
  /-- `LDD_X` (R87, R140) -/
  | lddX (a : GR) (b : GR) (c : GR) (pg : PR) (mode : XMode) (mig : Bool)
  /-- `LDQ` (R87, R140) -/
  | ldq (a : GR) (b : GR) (c : GR) (pg : PR) (mode : XMode) (mig : Bool)
  /-- `STB_X` (R87, R140) -/
  | stbX (a : GR) (b : GR) (c : GR) (pg : PR) (mode : XMode) (mig : Bool)
  /-- `STH_X` (R87, R140) -/
  | sthX (a : GR) (b : GR) (c : GR) (pg : PR) (mode : XMode) (mig : Bool)
  /-- `STW_X` (R87, R140) -/
  | stwX (a : GR) (b : GR) (c : GR) (pg : PR) (mode : XMode) (mig : Bool)
  /-- `STD_X` (R87, R140) -/
  | stdX (a : GR) (b : GR) (c : GR) (pg : PR) (mode : XMode) (mig : Bool)
  /-- `STQ` (R87, R140) -/
  | stq (a : GR) (b : GR) (c : GR) (pg : PR) (mode : XMode) (mig : Bool)
  /-- `LDFF` (R88, R151) -/
  | ldff (a : GR) (b : GR) (pg : PR) (sc : Scope) (w : Wait)
  /-- `LDFE` (R88, R151) -/
  | ldfe (a : GR) (b : GR) (pg : PR) (sc : Scope) (w : Wait)
  /-- `STEF` (R88, R151) -/
  | stef (a : GR) (b : GR) (pg : PR) (sc : Scope) (w : Wait)
  /-- `STSF` (R88, R151) -/
  | stsf (a : GR) (b : GR) (pg : PR) (sc : Scope) (w : Wait)
  /-- `FERD` (R151) -/
  | ferd (a : GR) (b : GR) (pg : PR) (sc : Scope)
  /-- `FESET` (R151) -/
  | feset (b : GR) (pg : PR) (sc : Scope)
  /-- `FECLR` (R151) -/
  | feclr (b : GR) (pg : PR) (sc : Scope)
  /-- `AADD` (R89, R153) -/
  | aadd (dbl : Bool) (a : GR) (b : GR) (c : GR) (pg : PR) (sc : Scope)
  /-- `AAND` (R89, R153) -/
  | aand (dbl : Bool) (a : GR) (b : GR) (c : GR) (pg : PR) (sc : Scope)
  /-- `AOR` (R89, R153) -/
  | aor (dbl : Bool) (a : GR) (b : GR) (c : GR) (pg : PR) (sc : Scope)
  /-- `AXOR` (R89, R153) -/
  | axor (dbl : Bool) (a : GR) (b : GR) (c : GR) (pg : PR) (sc : Scope)
  /-- `AMIN` (R89, R153) -/
  | amin (dbl : Bool) (a : GR) (b : GR) (c : GR) (pg : PR) (sc : Scope)
  /-- `AMAX` (R89, R153) -/
  | amax (dbl : Bool) (a : GR) (b : GR) (c : GR) (pg : PR) (sc : Scope)
  /-- `AMINU` (R89, R153) -/
  | aminu (dbl : Bool) (a : GR) (b : GR) (c : GR) (pg : PR) (sc : Scope)
  /-- `AMAXU` (R89, R153) -/
  | amaxu (dbl : Bool) (a : GR) (b : GR) (c : GR) (pg : PR) (sc : Scope)
  /-- `ASWAP` (R89, R153) -/
  | aswap (dbl : Bool) (a : GR) (b : GR) (c : GR) (pg : PR) (sc : Scope)
  /-- `ACAS` (R89, R153) -/
  | acas (dbl : Bool) (a : GR) (b : GR) (c : GR) (pg : PR) (sc : Scope)
  /-- `AFADD` (R155) -/
  | afadd (a : GR) (b : GR) (c : GR) (pg : PR) (sc : Scope)
  /-- `FENCE` (R156) -/
  | fence (mask : BV4) (pg : PR) (sc : Scope)
  /-- `FENCER` (R157) -/
  | fencer (a : GR) (b : GR) (mask : BV4) (pg : PR) (sc : Scope)
  /-- `IFENCE` (R158) -/
  | ifence (pg : PR)
  /-- `FENCE_TL` (R159) -/
  | fenceTl (pg : PR) (sc : Scope)
  /-- `AGF` (R160) -/
  | agf (a : GR) (pg : PR)
  /-- `AGW` (R161) -/
  | agw (pg : PR)
  /-- `VLD` (R185) -/
  | vld (v : VR) (b : GR) (mg : MR) (sc : Scope) (off : Off10)
  /-- `VST` (R185) -/
  | vst (v : VR) (b : GR) (mg : MR) (sc : Scope) (off : Off10)
  /-- `VLDS` (R186) -/
  | vlds (v : VR) (b : GR) (c : GR) (mg : MR) (mt : MTy)
  /-- `VLDX` (R186) -/
  | vldx (v : VR) (b : GR) (c : VR) (mg : MR) (mt : MTy)
  /-- `VLDB` (R186) -/
  | vldb (v : VR) (b : GR) (mg : MR) (mt : MTy)
  /-- `VSTS` (R186) -/
  | vsts (v : VR) (b : GR) (c : GR) (mg : MR)
  /-- `VSTX` (R186) -/
  | vstx (v : VR) (b : GR) (c : VR) (mg : MR)
  /-- `VSTN` (R188) -/
  | vstn (v : VR) (b : GR) (mode : RMode) (mg : MR) (fmt : NTy)
  /-- `VSPILL` (R189) -/
  | vspill (v : VR) (b : GR)
  /-- `VFILL` (R189) -/
  | vfill (v : VR) (b : GR)
  /-- `FSTN` (R150) -/
  | fstn (a : GR) (b : GR) (mode : RMode) (pg : PR) (fmt : NTy)
  /-- `TCOPY` (R204) -/
  | tcopy (a : GR) (b : GR) (c : GR) (pg : PR) (tag : BV3)
  /-- `TCOPY2D` (R204) -/
  | tcopy2d (a : GR) (b : GR) (c : GR) (pg : PR) (tag : BV3)
  /-- `TGATHER` (R204) -/
  | tgather (a : GR) (b : GR) (c : GR) (pg : PR) (tag : BV3)
  /-- `TSCATTER` (R204) -/
  | tscatter (a : GR) (b : GR) (c : GR) (pg : PR) (tag : BV3)
  /-- `TFILL` (R204) -/
  | tfill (a : GR) (b : GR) (c : GR) (pg : PR) (tag : BV3)
  /-- `TWAIT` (R207) -/
  | twait (sel : TSel) (pg : PR)
  /-- `QENQ` (R209) -/
  | qenq (a : GR) (b : GR) (c : GR) (pg : PR) (len : BV3)
  /-- `QDEQ` (R209) -/
  | qdeq (a : GR) (b : GR) (c : GR) (pg : PR) (q : BV3)
  /-- `QTRY` (R210) -/
  | qtry (a : GR) (b : GR) (c : PR) (pg : PR) (len : BV3)
  /-- `QPOLL` (R210) -/
  | qpoll (a : GR) (b : GR) (c : PR) (pg : PR) (q : BV3)
  /-- `CALLAT` (R211) -/
  | callat (d : GR) (b : GR) (c : GR) (pg : PR)
  /-- `RETV` (R212) -/
  | retv (a : GR) (pg : PR)
  /-- `AMSG` (R213) -/
  | amsg (b : GR) (c : GR) (pg : PR)
  /-- `AMSG_RET` (R213) -/
  | amsgRet (d : GR) (b : GR) (c : GR) (pg : PR)
  /-- `FRAME` (R214) -/
  | frame (a : GR) (b : GR) (c : GR) (pg : PR)
  /-- `SPAWN` (R215) -/
  | spawn (a : GR) (b : GR) (pg : PR)
  /-- `SYNC` (R217) -/
  | sync (a : GR) (pg : PR)
  /-- `TEND` (R216) -/
  | tend (a : GR) (pg : PR)
  /-- `PUBLISH` (R218) -/
  | publish (a : GR) (b : GR) (pg : PR)
  /-- `LAUNCH` (R219, R273) -/
  | launch (a : GR) (c : PR) (pg : PR)
  /-- `SHRD` (R220) -/
  | shrd (a : GR) (n : BV4) (pg : PR)
  /-- `SHWR` (R220) -/
  | shwr (a : GR) (n : BV4) (pg : PR)
  /-- `SEMP` (R221) -/
  | semp (n : BV4) (pg : PR)
  /-- `SEMV` (R221) -/
  | semv (n : BV4) (pg : PR)
  /-- `BAR` (R222) -/
  | bar (n : BV4) (pg : PR) (sc : Scope)
  /-- `XBORROW` (R223) -/
  | xborrow (b : GR) (c : PR) (pg : PR)
  /-- `XMOV` (R223, R314) -/
  | xmov (a : GR) (b : GR) (pg : PR) (vec : Bool) (toBorrowed : Bool)
  /-- `XRETURN` (R223) -/
  | xreturn (pg : PR)
  /-- `MIGRATE` (R224) -/
  | migrate (a : GR) (b : GR) (pg : PR)
  /-- `HBEAT` (R225, R284) -/
  | hbeat (pg : PR)
  /-- `WAITT` (R225) -/
  | waitt (a : GR) (pg : PR)
  /-- `YIELD` (R225) -/
  | yield (pg : PR)
  /-- `SYSC` (R226) -/
  | sysc (n : BV15)
  /-- `BRK` (R226) -/
  | brk (n : BV15)
  /-- `XRET` (R227) -/
  | xret (pg : PR)
  /-- `TLBINV` (R228) -/
  | tlbinv (a : GR) (pg : PR) (sc : Scope)
  /-- `CCTL_WB` (R229) -/
  | cctlWb (a : GR) (b : GR) (pg : PR)
  /-- `CCTL_INV` (R229) -/
  | cctlInv (a : GR) (b : GR) (pg : PR)
  /-- `CCTL_WBINV` (R229) -/
  | cctlWbinv (a : GR) (b : GR) (pg : PR)
  /-- `CCTL_PREFETCH` (R229) -/
  | cctlPrefetch (a : GR) (b : GR) (pg : PR)
  /-- `CCTL_WB_L1D` (R229) -/
  | cctlWbL1d (pg : PR)
  /-- `CCTL_INV_CC` (R229) -/
  | cctlInvCc (pg : PR)
  /-- `CCTL_SET_CC` (R229, R323) -/
  | cctlSetCc (a : GR) (pg : PR)
  /-- `CRRD` (R93) -/
  | crrd (d : GR) (pg : PR) (n : CRNum)
  /-- `CRWR` (R93) -/
  | crwr (a : GR) (pg : PR) (n : CRNum)
  /-- `CRSWP` (R93) -/
  | crswp (d : GR) (a : GR) (pg : PR) (n : CRNum)
  /-- `ADD` (R106) -/
  | add (t : IntTy) (d : GR) (a : GR) (b : GR) (pg : PR)
  /-- `SUB` (R106) -/
  | sub (t : IntTy) (d : GR) (a : GR) (b : GR) (pg : PR)
  /-- `AND` (R106) -/
  | and (t : IntTy) (d : GR) (a : GR) (b : GR) (pg : PR)
  /-- `OR` (R106) -/
  | or (t : IntTy) (d : GR) (a : GR) (b : GR) (pg : PR)
  /-- `XOR` (R106) -/
  | xor (t : IntTy) (d : GR) (a : GR) (b : GR) (pg : PR)
  /-- `ANDN` (R106) -/
  | andn (t : IntTy) (d : GR) (a : GR) (b : GR) (pg : PR)
  /-- `SHL` (R106) -/
  | shl (t : IntTy) (d : GR) (a : GR) (b : GR) (pg : PR)
  /-- `SHR` (R106) -/
  | shr (t : IntTy) (d : GR) (a : GR) (b : GR) (pg : PR)
  /-- `SRA` (R106) -/
  | sra (t : IntTy) (d : GR) (a : GR) (b : GR) (pg : PR)
  /-- `ROR` (R106) -/
  | ror (t : IntTy) (d : GR) (a : GR) (b : GR) (pg : PR)
  /-- `MIN` (R106) -/
  | min (t : IntTy) (d : GR) (a : GR) (b : GR) (pg : PR)
  /-- `MAX` (R106) -/
  | max (t : IntTy) (d : GR) (a : GR) (b : GR) (pg : PR)
  /-- `MINU` (R106) -/
  | minu (t : IntTy) (d : GR) (a : GR) (b : GR) (pg : PR)
  /-- `MAXU` (R106) -/
  | maxu (t : IntTy) (d : GR) (a : GR) (b : GR) (pg : PR)
  /-- `MUL` (R107) -/
  | mul (t : IntTy) (d : GR) (a : GR) (b : GR) (pg : PR)
  /-- `MULH` (R107) -/
  | mulh (t : IntTy) (d : GR) (a : GR) (b : GR) (pg : PR)
  /-- `MULHU` (R107) -/
  | mulhu (t : IntTy) (d : GR) (a : GR) (b : GR) (pg : PR)
  /-- `DIV` (R107, R108) -/
  | div (t : IntTy) (d : GR) (a : GR) (b : GR) (pg : PR)
  /-- `DIVU` (R107, R108) -/
  | divu (t : IntTy) (d : GR) (a : GR) (b : GR) (pg : PR)
  /-- `REM` (R107, R108) -/
  | rem (t : IntTy) (d : GR) (a : GR) (b : GR) (pg : PR)
  /-- `REMU` (R107, R108) -/
  | remu (t : IntTy) (d : GR) (a : GR) (b : GR) (pg : PR)
  /-- `CLZ` (R109) -/
  | clz (t : IntTy) (d : GR) (a : GR) (pg : PR)
  /-- `CTZ` (R109) -/
  | ctz (t : IntTy) (d : GR) (a : GR) (pg : PR)
  /-- `POPC` (R109) -/
  | popc (t : IntTy) (d : GR) (a : GR) (pg : PR)
  /-- `SEXT` (R110) -/
  | sext (sz : BHW) (d : GR) (a : GR) (pg : PR)
  /-- `ZEXT` (R110) -/
  | zext (sz : BHW) (d : GR) (a : GR) (pg : PR)
  /-- `BFX` (R111) -/
  | bfx (d : GR) (a : GR) (b : GR) (pg : PR)
  /-- `BFXU` (R111) -/
  | bfxu (d : GR) (a : GR) (b : GR) (pg : PR)
  /-- `BFI` (R111) -/
  | bfi (d : GR) (a : GR) (b : GR) (pg : PR)
  /-- `CMPEQ` (R112) -/
  | cmpeq (t : IntTy) (d : PR) (a : GR) (b : GR) (pg : PR)
  /-- `CMPNE` (R112) -/
  | cmpne (t : IntTy) (d : PR) (a : GR) (b : GR) (pg : PR)
  /-- `CMPLT` (R112) -/
  | cmplt (t : IntTy) (d : PR) (a : GR) (b : GR) (pg : PR)
  /-- `CMPLE` (R112) -/
  | cmple (t : IntTy) (d : PR) (a : GR) (b : GR) (pg : PR)
  /-- `CMPLTU` (R112) -/
  | cmpltu (t : IntTy) (d : PR) (a : GR) (b : GR) (pg : PR)
  /-- `CMPLEU` (R112) -/
  | cmpleu (t : IntTy) (d : PR) (a : GR) (b : GR) (pg : PR)
  /-- `PAND` (R113) -/
  | pand (d : PR) (a : PR) (b : PR) (pg : PR)
  /-- `POR` (R113) -/
  | por (d : PR) (a : PR) (b : PR) (pg : PR)
  /-- `PXOR` (R113) -/
  | pxor (d : PR) (a : PR) (b : PR) (pg : PR)
  /-- `PANDN` (R113) -/
  | pandn (d : PR) (a : PR) (b : PR) (pg : PR)
  /-- `PNOT` (R113) -/
  | pnot (d : PR) (a : PR) (pg : PR)
  /-- `PRD` (R113) -/
  | prd (d : GR) (pg : PR)
  /-- `PWR` (R113, R114) -/
  | pwr (a : GR) (pg : PR)
  /-- `ADDI` (R115) -/
  | addi (d : GR) (a : GR) (imm : Imm13) (pg : PR)
  /-- `ANDI` (R115) -/
  | andi (d : GR) (a : GR) (imm : Imm13) (pg : PR)
  /-- `ORI` (R115) -/
  | ori (d : GR) (a : GR) (imm : Imm13) (pg : PR)
  /-- `XORI` (R115) -/
  | xori (d : GR) (a : GR) (imm : Imm13) (pg : PR)
  /-- `SHLI` (R116) -/
  | shli (d : GR) (a : GR) (sh : BV6) (pg : PR)
  /-- `SHRI` (R116) -/
  | shri (d : GR) (a : GR) (sh : BV6) (pg : PR)
  /-- `SRAI` (R116) -/
  | srai (d : GR) (a : GR) (sh : BV6) (pg : PR)
  /-- `RORI` (R116) -/
  | rori (d : GR) (a : GR) (sh : BV6) (pg : PR)
  /-- `MOVI` (R117) -/
  | movi (d : GR) (imm : Imm13) (pg : PR)
  /-- `MOVH` (R96, R117) -/
  | movh (d : GR) (k : BV3) (imm : Imm13) (pg : PR)
  /-- `LEA` (R118) -/
  | lea (d : GR) (a : GR) (b : GR) (sh : BV3) (pg : PR)
  /-- `CVTA` (R119) -/
  | cvta (d : GR) (a : GR) (pg : PR)
  /-- `SEL` (R120) -/
  | sel (d : GR) (q : PR) (a : GR) (b : GR) (pg : PR)
  /-- `MOV` (R120) -/
  | mov (d : GR) (a : GR) (pg : PR)
  /-- `FADD` (R122) -/
  | fadd (t : FTy) (d : GR) (a : GR) (b : GR) (pg : PR)
  /-- `FSUB` (R122) -/
  | fsub (t : FTy) (d : GR) (a : GR) (b : GR) (pg : PR)
  /-- `FMUL` (R122) -/
  | fmul (t : FTy) (d : GR) (a : GR) (b : GR) (pg : PR)
  /-- `FDIV` (R122) -/
  | fdiv (t : FTy) (d : GR) (a : GR) (b : GR) (pg : PR)
  /-- `FSQRT` (R122) -/
  | fsqrt (t : FTy) (d : GR) (a : GR) (pg : PR)
  /-- `FFMA` (R122) -/
  | ffma (t : FTy) (d : GR) (a : GR) (b : GR) (c : GR) (pg : PR)
  /-- `FMIN` (R124) -/
  | fmin (t : FTy) (d : GR) (a : GR) (b : GR) (pg : PR)
  /-- `FMAX` (R124) -/
  | fmax (t : FTy) (d : GR) (a : GR) (b : GR) (pg : PR)
  /-- `FNEG` (R125) -/
  | fneg (d : GR) (a : GR) (pg : PR)
  /-- `FABS` (R125) -/
  | fabs (d : GR) (a : GR) (pg : PR)
  /-- `FCMPEQ` (R126) -/
  | fcmpeq (d : PR) (a : GR) (b : GR) (pg : PR)
  /-- `FCMPLT` (R126) -/
  | fcmplt (d : PR) (a : GR) (b : GR) (pg : PR)
  /-- `FCMPLE` (R126) -/
  | fcmple (d : PR) (a : GR) (b : GR) (pg : PR)
  /-- `FCMPUN` (R126) -/
  | fcmpun (d : PR) (a : GR) (b : GR) (pg : PR)
  /-- `FCLASS` (R127) -/
  | fclass (d : GR) (a : GR) (pg : PR)
  /-- `FCVT` (R128) -/
  | fcvt (t : FTy) (d : GR) (a : GR) (pg : PR)
  /-- `FCVTIF` (R129) -/
  | fcvtif (t : FTy) (d : GR) (a : GR) (pg : PR)
  /-- `FCVTFI` (R130) -/
  | fcvtfi (d : GR) (a : GR) (pg : PR)
  /-- `FSTK` (R131) -/
  | fstk (d : GR) (a : GR) (b : GR) (pg : PR)
  /-- `FSTKR` (R131) -/
  | fstkr (d : GR) (a : GR) (pg : PR)
  /-- `VADD` (R167) -/
  | vadd (t : VTy) (d : VR) (a : VR) (b : VR) (mg : MR)
  /-- `VSUB` (R167) -/
  | vsub (t : VTy) (d : VR) (a : VR) (b : VR) (mg : MR)
  /-- `VAND` (R167) -/
  | vand (t : VTy) (d : VR) (a : VR) (b : VR) (mg : MR)
  /-- `VOR` (R167) -/
  | vor (t : VTy) (d : VR) (a : VR) (b : VR) (mg : MR)
  /-- `VXOR` (R167) -/
  | vxor (t : VTy) (d : VR) (a : VR) (b : VR) (mg : MR)
  /-- `VANDN` (R167) -/
  | vandn (t : VTy) (d : VR) (a : VR) (b : VR) (mg : MR)
  /-- `VSHL` (R167) -/
  | vshl (t : VTy) (d : VR) (a : VR) (b : VR) (mg : MR)
  /-- `VSHR` (R167) -/
  | vshr (t : VTy) (d : VR) (a : VR) (b : VR) (mg : MR)
  /-- `VSRA` (R167) -/
  | vsra (t : VTy) (d : VR) (a : VR) (b : VR) (mg : MR)
  /-- `VMIN` (R167) -/
  | vmin (t : VTy) (d : VR) (a : VR) (b : VR) (mg : MR)
  /-- `VMAX` (R167) -/
  | vmax (t : VTy) (d : VR) (a : VR) (b : VR) (mg : MR)
  /-- `VMUL` (R167) -/
  | vmul (t : VTy) (d : VR) (a : VR) (b : VR) (mg : MR)
  /-- `VMULH` (R167) -/
  | vmulh (t : VTy) (d : VR) (a : VR) (b : VR) (mg : MR)
  /-- `VCMPEQ` (R168) -/
  | vcmpeq (t : VTy) (d : MR) (a : VR) (b : VR) (mg : MR)
  /-- `VCMPNE` (R168) -/
  | vcmpne (t : VTy) (d : MR) (a : VR) (b : VR) (mg : MR)
  /-- `VCMPLT` (R168) -/
  | vcmplt (t : VTy) (d : MR) (a : VR) (b : VR) (mg : MR)
  /-- `VCMPLE` (R168) -/
  | vcmple (t : VTy) (d : MR) (a : VR) (b : VR) (mg : MR)
  /-- `MAND` (R169) -/
  | mand (d : MR) (a : MR) (b : MR) (mg : MR)
  /-- `MOR` (R169) -/
  | mor (d : MR) (a : MR) (b : MR) (mg : MR)
  /-- `MXOR` (R169) -/
  | mxor (d : MR) (a : MR) (b : MR) (mg : MR)
  /-- `MANDN` (R169) -/
  | mandn (d : MR) (a : MR) (b : MR) (mg : MR)
  /-- `MNOT` (R169) -/
  | mnot (d : MR) (a : MR) (mg : MR)
  /-- `MPOPC` (R169) -/
  | mpopc (d : GR) (a : MR) (mg : MR)
  /-- `MFROMG` (R169) -/
  | mfromg (d : MR) (a : GR) (mg : MR)
  /-- `MTOG` (R169) -/
  | mtog (d : GR) (a : MR) (mg : MR)
  /-- `VFADD` (R170) -/
  | vfadd (t : FTy) (d : VR) (a : VR) (b : VR) (mg : MR)
  /-- `VFSUB` (R170) -/
  | vfsub (t : FTy) (d : VR) (a : VR) (b : VR) (mg : MR)
  /-- `VFMUL` (R170) -/
  | vfmul (t : FTy) (d : VR) (a : VR) (b : VR) (mg : MR)
  /-- `VFDIV` (R170) -/
  | vfdiv (t : FTy) (d : VR) (a : VR) (b : VR) (mg : MR)
  /-- `VFSQRT` (R170) -/
  | vfsqrt (t : FTy) (d : VR) (a : VR) (mg : MR)
  /-- `VFMIN` (R170) -/
  | vfmin (t : FTy) (d : VR) (a : VR) (b : VR) (mg : MR)
  /-- `VFMAX` (R170) -/
  | vfmax (t : FTy) (d : VR) (a : VR) (b : VR) (mg : MR)
  /-- `VFNEG` (R170) -/
  | vfneg (d : VR) (a : VR) (mg : MR)
  /-- `VFABS` (R170) -/
  | vfabs (d : VR) (a : VR) (mg : MR)
  /-- `VFFMA` (R170) -/
  | vffma (t : FTy) (d : VR) (a : VR) (b : VR) (c : VR) (mg : MR)
  /-- `VFCMPEQ` (R171) -/
  | vfcmpeq (d : MR) (a : VR) (b : VR) (mg : MR)
  /-- `VFCMPLT` (R171) -/
  | vfcmplt (d : MR) (a : VR) (b : VR) (mg : MR)
  /-- `VFCMPLE` (R171) -/
  | vfcmple (d : MR) (a : VR) (b : VR) (mg : MR)
  /-- `VFCMPUN` (R171) -/
  | vfcmpun (d : MR) (a : VR) (b : VR) (mg : MR)
  /-- `VFRED` (R172) -/
  | vfred (t : FTy) (d : GR) (a : VR) (mg : MR)
  /-- `VFRMIN` (R172) -/
  | vfrmin (t : FTy) (d : GR) (a : VR) (mg : MR)
  /-- `VFRMAX` (R172) -/
  | vfrmax (t : FTy) (d : GR) (a : VR) (mg : MR)
  /-- `VFCVT` (R173) -/
  | vfcvt (t : FTy) (d : VR) (a : VR) (mg : MR)
  /-- `VFCVTIF` (R173) -/
  | vfcvtif (t : FTy) (d : VR) (a : VR) (mg : MR)
  /-- `VFCVTFI` (R173) -/
  | vfcvtfi (d : VR) (a : VR) (mg : MR)
  /-- `VFRCP` (R174) -/
  | vfrcp (t : FTy) (d : VR) (a : VR) (mg : MR)
  /-- `VFRSQRT` (R174) -/
  | vfrsqrt (t : FTy) (d : VR) (a : VR) (mg : MR)
  /-- `VFEXP2` (R174) -/
  | vfexp2 (t : FTy) (d : VR) (a : VR) (mg : MR)
  /-- `VFLOG2` (R174) -/
  | vflog2 (t : FTy) (d : VR) (a : VR) (mg : MR)
  /-- `VPERM` (R175) -/
  | vperm (d : VR) (a : VR) (b : VR) (mg : MR)
  /-- `VSLIDE` (R175) -/
  | vslide (d : VR) (a : VR) (b : GR) (mg : MR)
  /-- `VZIP` (R176) -/
  | vzip (d : VR) (a : VR) (b : VR) (mg : MR)
  /-- `VUNZIP` (R176) -/
  | vunzip (d : VR) (a : VR) (mg : MR)
  /-- `VBCAST` (R175) -/
  | vbcast (d : VR) (a : GR) (mg : MR)
  /-- `VCOMPRESS` (R175) -/
  | vcompress (d : VR) (a : VR) (mg : MR)
  /-- `VEXPAND` (R175) -/
  | vexpand (d : VR) (a : VR) (mg : MR)
  /-- `VMOV` (R175) -/
  | vmov (d : VR) (a : VR) (mg : MR)
  /-- `VINS` (R177) -/
  | vins (d : VR) (a : GR) (b : GR) (mg : MR)
  /-- `VEXT` (R177) -/
  | vext (d : GR) (a : VR) (b : GR) (mg : MR)
  /-- `RNGH` (R178) -/
  | rngh (d : GR) (a : GR) (b : GR) (mg : MR)
  /-- `VRNGH` (R178) -/
  | vrngh (d : VR) (a : GR) (b : GR) (mg : MR)
  /-- `VQMX` (R180) -/
  | vqmx (fmt : NTy) (mode : RMode) (d : VR) (b : GR) (a : VR) (mg : MR)
  /-- `VDQMX` (R182) -/
  | vdqmx (fmt : NTy) (d : VR) (a : VR) (b : GR) (mg : MR)
  /-- `VPACK` (R183) -/
  | vpack (fmt : NTy) (mode : RMode) (d : VR) (a : VR) (mg : MR)
  /-- `MSET` (R192) -/
  | mset (sel : MSel) (a : GR) (pg : PR)
  /-- `MZERO` (R198) -/
  | mzero (k : BV3) (a : GR) (pg : PR)
  /-- `MLDA` (R198) -/
  | mlda (sc : Scope) (k : BV3) (a : GR) (b : GR) (pg : PR)
  /-- `MSTA` (R199) -/
  | msta (fmt : FTy) (sc : Scope) (mode : RMode) (k : BV3) (a : GR) (b : GR) (pg : PR)
  /-- `MSEED` (R200) -/
  | mseed (a : GR) (pg : PR)
  /-- `MRING` (R201) -/
  | mring (a : GR) (b : GR) (pg : PR)
  /-- `MWAIT` (R202) -/
  | mwait (pg : PR)
  /-- `MMA` (R193, R195) -/
  | mma (fa : MxFmt) (fb : MxFmt) (k : BV3) (n : BV6) (m : BV2) (ga : GR) (gs : GR) (fl : MmaFl)
  /-- `MMA_BF16` (R193, R195) -/
  | mmaBf16 (k : BV3) (n : BV6) (m : BV2) (ga : GR) (fl : MmaFl)
  /-- `DELAYED_COMPLETION` (R104) -/
  | delayedCompletion (core : Nat) (slot : Nat)
  /-- `LOAD_REPLY` (R142) -/
  | loadReply (id : Nat)
  /-- `ATOMIC_REPLY` (R153) -/
  | atomicReply (id : Nat)
  /-- `CALL_REPLY` (R211) -/
  | callReply (id : Nat)
  /-- `HOME_ACCESS` (R380) -/
  | homeAccess (id : Nat)
  /-- `HBM_FILL` (R380) -/
  | hbmFill (part : Nat) (line : Nat)
  /-- `SLICE_EVICT` (R381) -/
  | sliceEvict (part : Nat) (line : Nat)
  /-- `REPLICA_INVAL_ACK` (R338) -/
  | replicaInvalAck (part : Nat) (region : Nat) (slice : Nat)
  /-- `PAGE_WALK_DONE` (R328) -/
  | pageWalkDone (cl : Nat)
  /-- `WALKER_READ_ERROR` (R422) -/
  | walkerReadError (cl : Nat) (retryOk : Bool)
  /-- `PTS_TICK` (R333) -/
  | ptsTick (core : Nat)
  /-- `HOT_WINDOW` (R337) -/
  | hotWindow (slice : Nat)
  /-- `SYNC_WAIT_EXPIRE` (R152) -/
  | syncWaitExpire (core : Nat) (slot : Nat)
  /-- `SYNC_BUSY_RETRY` (R152) -/
  | syncBusyRetry (core : Nat) (slot : Nat)
  /-- `AGG_AGE_SEND` (R75) -/
  | aggAgeSend (core : Nat) (buf : Nat)
  /-- `AGG_SEND_RESUME` (R375) -/
  | aggSendResume (core : Nat)
  /-- `AGG_PACKET_APPLY` (R377) -/
  | aggPacketApply (id : Nat)
  /-- `AGG_REPLY` (R376) -/
  | aggReply (id : Nat)
  /-- `MESH_PACKET_ARRIVE` (R370) -/
  | meshPacketArrive (id : Nat)
  /-- `ESCAPE_DIVERT` (R369) -/
  | escapeDivert (id : Nat)
  /-- `LINK_CRC_FAIL` (R372) -/
  | linkCrcFail (src : Nat) (dst : Nat) (again : Bool)
  /-- `QUEUE_TOKEN_ARRIVE` (R379) -/
  | queueTokenArrive (id : Nat)
  /-- `QENQ_RETRY` (R379) -/
  | qenqRetry (core : Nat) (slot : Nat)
  /-- `QUEUE_WAIT_EXPIRE` (R209) -/
  | queueWaitExpire (core : Nat) (slot : Nat)
  /-- `CALL_ARRIVE` (R364) -/
  | callArrive (id : Nat)
  /-- `SLOT_OFFER` (R258) -/
  | slotOffer (core : Nat)
  /-- `MIGRATION_ARRIVE` (R256) -/
  | migrationArrive (id : Nat)
  /-- `DEQUE_SPILL_DONE` (R246) -/
  | dequeSpillDone (core : Nat) (slot : Nat)
  /-- `STEAL_PROBE` (R249) -/
  | stealProbe (core : Nat)
  /-- `STEAL_PROBE_ANSWER` (R250) -/
  | stealProbeAnswer (id : Nat)
  /-- `STEAL_COPY_DONE` (R250) -/
  | stealCopyDone (id : Nat)
  /-- `STEAL_PAUSE_END` (R249) -/
  | stealPauseEnd (core : Nat)
  /-- `YIELD_END` (R225) -/
  | yieldEnd (core : Nat) (slot : Nat)
  /-- `WAITT_RELEASE` (R225) -/
  | waittRelease (core : Nat) (slot : Nat)
  /-- `HEARTBEAT_MISS` (R285) -/
  | heartbeatMiss (core : Nat) (slot : Nat)
  /-- `FENCED_PACKET` (R286) -/
  | fencedPacket (id : Nat)
  /-- `ME_COMMAND_START` (R301) -/
  | meCommandStart (core : Nat)
  /-- `LATCH_TILE_ARRIVE` (R304) -/
  | latchTileArrive (core : Nat)
  /-- `MMA_TILE` (R195) -/
  | mmaTile (core : Nat)
  /-- `TILE_HAND_ON` (R197) -/
  | tileHandOn (core : Nat)
  /-- `ROTATE_COPY` (R308) -/
  | rotateCopy (core : Nat)
  /-- `ME_COMMAND_DONE` (R301) -/
  | meCommandDone (core : Nat)
  /-- `TE_COMMAND_DONE` (R207) -/
  | teCommandDone (core : Nat) (idx : Nat)
  /-- `JOB_ENTRY_READ` (R261) -/
  | jobEntryRead (part : Nat) (queue : Nat)
  /-- `EDGE_TEST` (R266) -/
  | edgeTest (part : Nat)
  /-- `JOB_AGING` (R268) -/
  | jobAging (part : Nat) (job : Nat)
  /-- `JOB_PLACE` (R270) -/
  | jobPlace (part : Nat)
  /-- `GANG_START` (R272) -/
  | gangStart (cl : Nat)
  /-- `JOB_COMPLETE` (R267) -/
  | jobComplete (part : Nat) (job : Nat)
  /-- `SWITCH_STOP` (R289) -/
  | switchStop (part : Nat)
  /-- `SWITCH_SAVE_DONE` (R290) -/
  | switchSaveDone (part : Nat)
  /-- `SWITCH_RESUME` (R295) -/
  | switchResume (part : Nat)
  /-- `HOST_WRITE_TLP` (R317) -/
  | hostWriteTlp (req : Nat) (bar : Nat) (addr : Nat) (bytes : TlpBytes)
  /-- `HOST_LINE_ACK` (R317) -/
  | hostLineAck (id : Nat)
  /-- `HOST_READ` (R400) -/
  | hostRead (req : Nat) (bar : Nat) (addr : Nat) (len : Nat)
  /-- `FABRIC_PACKET_ARRIVE` (R393) -/
  | fabricPacketArrive (pkt : FabPkt)
  /-- `ADMISSION_CREDIT` (R392) -/
  | admissionCredit (dev : Nat)
  /-- `PORT_CRC_FAIL` (R392) -/
  | portCrcFail (port : Nat) (again : Bool)
  /-- `SWITCH_COMBINE` (R395) -/
  | switchCombine (fst : Nat) (snd : Nat)
  /-- `COMBINED_REPLY` (R395) -/
  | combinedReply (id : Nat) (reply : W64)
  /-- `AMSG_TRIGGER_ARRIVE` (R382) -/
  | amsgTriggerArrive (id : Nat)
  /-- `HANDLER_RUN` (R383) -/
  | handlerRun (slice : Nat)
  /-- `BIND_ENTRY` (R386) -/
  | bindEntry (slice : Nat)
  /-- `FCSR_WRITE` (R231) -/
  | fcsrWrite (core : Nat) (slot : Nat) (val : W64)
  /-- `HBI_WRITE` (R284) -/
  | hbiWrite (core : Nat) (slot : Nat) (val : W64)
  /-- `AGAGE_WRITE` (R230) -/
  | agageWrite (core : Nat) (slot : Nat) (val : W64)
  /-- `QCFG_ENABLE` (R378) -/
  | qcfgEnable (core : Nat) (q : BV3) (val : W64)
  /-- `QCFG_DISABLE` (R378) -/
  | qcfgDisable (core : Nat) (q : BV3) (val : W64)
  /-- `SWCTL_ARM` (R288) -/
  | swctlArm (part : Nat) (val : W64)
  /-- `SWCTL_RES` (R295) -/
  | swctlRes (part : Nat) (val : W64)
  /-- `UNFENCE` (R286) -/
  | unfence (part : Nat) (val : W64)
  /-- `PMCTL_GO` (R330) -/
  | pmctlGo (part : Nat) (val : W64)
  /-- `PAGE_COPY_DONE` (R330) -/
  | pageCopyDone (part : Nat)
  /-- `PMCTL_CLR` (R330) -/
  | pmctlClr (part : Nat) (val : W64)
  /-- `BCTL_GO` (R386) -/
  | bctlGo (part : Nat) (val : W64)
  /-- `SQCFG_ENABLE` (R401) -/
  | sqcfgEnable (part : Nat) (queue : Nat) (val : W64)
  /-- `SQCFG_DISABLE` (R401) -/
  | sqcfgDisable (part : Nat) (queue : Nat) (val : W64)
  /-- `DOORBELL` (R402) -/
  | doorbell (part : Nat) (queue : Nat) (val : W64)
  /-- `MSIREQ` (R403) -/
  | msireq (part : Nat) (val : W64)
  /-- `MESHCTL_WRITE` (R369) -/
  | meshctlWrite (val : W64)
  /-- `PLIM_WRITE` (R425) -/
  | plimWrite (val : W64)
  /-- `REGISTER_WRITE` (R4) -/
  | registerWrite (off : Nat) (val : W64) (prv : Bool)
  /-- `MB_SET_DEVID` (R421) -/
  | mbSetDevid
  /-- `MB_CREATE_PARTITION` (R406) -/
  | mbCreatePartition
  /-- `MB_DESTROY_PARTITION` (R406) -/
  | mbDestroyPartition
  /-- `MB_WRITE_FIRMWARE` (R421) -/
  | mbWriteFirmware
  /-- `MB_RESTART` (R421) -/
  | mbRestart
  /-- `SPDM_GET_MEASUREMENTS` (R410) -/
  | spdmGetMeasurements
  /-- `SPDM_REQUEST` (R409) -/
  | spdmRequest
  /-- `KEY_BIND` (R411) -/
  | keyBind
  /-- `KEY_UNBIND` (R412) -/
  | keyUnbind
  /-- `KEY_QUERY` (R411) -/
  | keyQuery
  /-- `POWER_ON` (R418) -/
  | powerOn
  /-- `START_STAGE_DONE` (R418) -/
  | startStageDone (failed : OptCause)
  /-- `STAGE_TIMEOUT` (R418) -/
  | stageTimeout
  /-- `START_RETRY` (R418) -/
  | startRetry
  /-- `MEMORY_READ_ERROR` (R422) -/
  | memoryReadError (part : Nat) (pa : Nat) (retryOk : Bool)
  /-- `ACC_ECC_ERROR` (R422) -/
  | accEccError (core : Nat) (retryOk : Bool)
  /-- `ISLAND_FREQ_CHANGE` (R424) -/
  | islandFreqChange (island : Nat) (mhz : Nat)
  /-- `POWER_WINDOW` (R425) -/
  | powerWindow (mw : Nat)
  /-- `OVER_TEMPERATURE` (R425) -/
  | overTemperature (sensor : Nat) (deg : Nat)
  /-- `THERMAL_RESTART` (R425) -/
  | thermalRestart
  /-- `ISLAND_STALL_END` (R424) -/
  | islandStallEnd (island : Nat)
deriving DecidableEq, Repr

end Sys2Proof
end

