-- ==== Sys2Proof/Config.lean ====
section
/-!
DEFINITION. What the model fixes for the machine: the figures of the package (01_machine.md R8 to R19), and the values the
spec leaves open, which are opaque constants without a body (log 3).
-/
namespace Sys2Proof.Config

/-- R17: the cores of the package. -/
def cores : Nat := 3072
/-- R17: the clusters of the package. -/
def clusters : Nat := 192
/-- R17: the slices of the package. -/
def slices : Nat := 64
/-- R15: the slots of a core. -/
def slots : Nat := 16
/-- R15: the bytes of LM of a core. -/
def lmBytes : Nat := 0x40000
/-- R14: the bytes of CSM of a cluster. -/
def csmBytes : Nat := 0x200000
/-- R15: the physical vector registers of a core. -/
def vregPool : Nat := 256
/-- R371: the delivery bound on the package, in cycles. -/
def deliveryBound : Nat := 2400
/-- R17: the package's HBM in bytes. -/
def hbmBytes : Nat := 512 * 2 ^ 30

/-- A value the spec leaves open, the n-th that is drawn (log 3): nothing constrains it. -/
opaque freeValue : Nat → W64
/-- R406, R418, R421: whether the Ed448 signature of an image verifies under the vendor's root; the keys are outside the spec (log 3). -/
opaque imageOk : List Byte → Bool
/-- R416: the bytes of a save key by the value that its creation drew (log 3). -/
opaque saveKeyBytes : Nat → List Byte
/-- R418: the images that the flash holds when the device is made, by stage (log 3). -/
opaque factoryImage : Nat → List Byte
/-- R406: the length of a supervisor firmware image as its first 64 bytes give it, its entry, and the offset in the partition's HBM at
which firmware loads it (log 3). -/
opaque imageLen : List Byte → Nat
opaque imageEntry : List Byte → W64
opaque imagePlace : List Byte → Nat
/-- R390: whether another device on the switch plane of a port holds a `DEVID` (log 3). -/
opaque devidHeld : Nat → Nat → Bool
/-- R399: where the MSI-X table and the pending-bit array lie in BAR 0, and the two registers of the configuration space that the model
has, which the spec does not say (log 49). -/
opaque msixTableAt : Nat
opaque msixPbaAt : Nat
opaque rebarAt : Nat
opaque msixCtlAt : Nat
/-- R409: the public half of the device identity key, and the chain of certificate slot 0, of which the spec gives no byte (log 3). -/
opaque identityKey : List Byte
opaque identityChain : List Byte
/-- R409: what the SPDM responder computes with keys of which the spec gives no byte (log 3): the Ed448 signature of the identity key over
a message, its share of a P-384 key exchange by its random number, and the verify data of a handshake by its messages. -/
opaque spdmSign : List Byte → List Byte → List Byte
opaque spdmShare : List Byte → List Byte
opaque spdmVerify : List (List Byte) → List Byte
/-- R409: whether a `FINISH` that ends these messages verifies, and whether it proves the requester's certificate chain (log 3). -/
opaque spdmFinishOk : List (List Byte) → Bool
opaque spdmMutual : List Byte → List (List Byte) → Bool
/-- R409: the key and the vector of a session, 32 and 12 bytes: by the messages from which they are derived, whether the handshake has ended,
and whether they are those of the device's answers (log 3). -/
opaque spdmSecret : List (List Byte) → Bool → Bool → BitVec 352
/-- R424: the supply in mV at a frequency in MHz other than 2,400 (log 3). -/
opaque supplyMv : Nat → Nat

end Sys2Proof.Config
end

