-- ==== Sys2Proof/WellFormed.lean ====
section
/-!
DEFINITION. Which terms of `Instr` an encoding, or an event of the device, can be: the checks of 04_opcode_map.md that the
fields alone do not make (R71, R84), and the bounds of the units an event names (01_machine.md R11 to R18).
-/
namespace Sys2Proof

/-- R230: the control register numbers that are listed. -/
def crListed (n : Nat) : Bool :=
  n == 0x000 || (0x010 ≤ n && n ≤ 0x016) || n == 0x020 || (0x030 ≤ n && n ≤ 0x035) || (0x040 ≤ n && n ≤ 0x042) ||
  (0x050 ≤ n && n ≤ 0x057) || (0x100 ≤ n && n ≤ 0x105)

/-- R96: `MOVH` takes a = 1 to 4; for 4 the top bit of the immediate is reserved. -/
def movhOk (k : BV3) (imm : Imm13) : Bool :=
  1 ≤ k.toNat && k.toNat ≤ 4 && !(k == 4 && imm.getLsbD 12)

/-- R11: 3,072 cores. -/
def coreOk (c : Nat) : Bool := c < 3072
/-- R15: 16 slots a core. -/
def slotOk (k : Nat) : Bool := k < 16
/-- R405: partitions 0 to 63. -/
def partOk (p : Nat) : Bool := p < 64

/-- R71, R84, R134: whether an instruction meets the encoding rules its constructor's fields leave open. Each constructor not named
has none. -/
def Instr.wellFormed : Instr → Bool
  | .movpc _ _ pn => !pn
  | .loopi _ len _ _ => len != 0
  | .ldbX a b _ _ mode _ => !(mode == .postInc && a == b)
  | .fence mask _ _ => mask != 0
  | .qenq _ _ _ _ len => len.toNat < 6
  | .crrd _ _ n => crListed n.toNat
  | .crwr a _ n => a != 0 && crListed n.toNat
  | .crswp d a _ n => d != 0 && a != 0 && crListed n.toNat
  | .min t _ _ _ _ => t != .q
  | .movh _ k imm _ => movhOk k imm
  | .vqmx fmt _ _ _ _ _ => fmt != .bf16 && fmt != .f16
  | .delayedCompletion core slot => coreOk core && slotOk slot
  | .hbmFill part _ => partOk part
  | .pageWalkDone cl => cl < 192
  | .ptsTick core => coreOk core
  | .hotWindow slice => slice < 64
  | .aggAgeSend core buf => coreOk core && buf < 16
  | .jobEntryRead part queue => partOk part && queue < 64
  | .admissionCredit dev => dev < 512
  | .portCrcFail port _ => port < 18
  | .islandFreqChange island _ => island < 20
  | .loopr _ _ _ len => len != 0
  | .ldbuX a b _ _ mode _ => !(mode == .postInc && a == b)
  | .fencer _ _ mask _ _ => mask != 0
  | .qtry _ _ _ _ len => len.toNat < 6
  | .max t _ _ _ _ => t != .q
  | .syncWaitExpire core slot => coreOk core && slotOk slot
  | .sliceEvict part _ => partOk part
  | .walkerReadError cl _ => cl < 192
  | .aggSendResume core => coreOk core
  | .handlerRun slice => slice < 64
  | .sqcfgEnable part queue _ => partOk part && queue < 64
  | .islandStallEnd island => island < 20
  | .ldhX a b _ _ mode _ => !(mode == .postInc && a == b)
  | .minu t _ _ _ _ => t != .q
  | .syncBusyRetry core slot => coreOk core && slotOk slot
  | .replicaInvalAck part _ _ => partOk part
  | .gangStart cl => cl < 192
  | .slotOffer core => coreOk core
  | .bindEntry slice => slice < 64
  | .sqcfgDisable part queue _ => partOk part && queue < 64
  | .ldhuX a b _ _ mode _ => !(mode == .postInc && a == b)
  | .maxu t _ _ _ _ => t != .q
  | .qenqRetry core slot => coreOk core && slotOk slot
  | .edgeTest part => partOk part
  | .stealProbe core => coreOk core
  | .doorbell part queue _ => partOk part && queue < 64
  | .ldwX a b _ _ mode _ => !(mode == .postInc && a == b)
  | .mul t _ _ _ _ => t != .q
  | .queueWaitExpire core slot => coreOk core && slotOk slot
  | .jobAging part _ => partOk part
  | .stealPauseEnd core => coreOk core
  | .ldwuX a b _ _ mode _ => !(mode == .postInc && a == b)
  | .mulh t _ _ _ _ => t != .q
  | .dequeSpillDone core slot => coreOk core && slotOk slot
  | .jobPlace part => partOk part
  | .meCommandStart core => coreOk core
  | .lddX a b _ _ mode _ => !(mode == .postInc && a == b)
  | .mulhu t _ _ _ _ => t != .q
  | .yieldEnd core slot => coreOk core && slotOk slot
  | .jobComplete part _ => partOk part
  | .latchTileArrive core => coreOk core
  | .ldq a b _ _ mode _ => !(mode == .postInc && a == b)
  | .div t _ _ _ _ => t != .q
  | .waittRelease core slot => coreOk core && slotOk slot
  | .switchStop part => partOk part
  | .mmaTile core => coreOk core
  | .divu t _ _ _ _ => t != .q
  | .heartbeatMiss core slot => coreOk core && slotOk slot
  | .switchSaveDone part => partOk part
  | .tileHandOn core => coreOk core
  | .rem t _ _ _ _ => t != .q
  | .fcsrWrite core slot _ => coreOk core && slotOk slot
  | .switchResume part => partOk part
  | .rotateCopy core => coreOk core
  | .remu t _ _ _ _ => t != .q
  | .hbiWrite core slot _ => coreOk core && slotOk slot
  | .swctlArm part _ => partOk part
  | .meCommandDone core => coreOk core
  | .clz t _ _ _ => t != .q
  | .agageWrite core slot _ => coreOk core && slotOk slot
  | .swctlRes part _ => partOk part
  | .teCommandDone core _ => coreOk core
  | .ctz t _ _ _ => t != .q
  | .unfence part _ => partOk part
  | .qcfgEnable core _ _ => coreOk core
  | .popc t _ _ _ => t != .q
  | .pmctlGo part _ => partOk part
  | .qcfgDisable core _ _ => coreOk core
  | .pageCopyDone part => partOk part
  | .accEccError core _ => coreOk core
  | .pmctlClr part _ => partOk part
  | .bctlGo part _ => partOk part
  | .msireq part _ => partOk part
  | .memoryReadError part _ _ => partOk part
  | _ => true

end Sys2Proof
end

