-- ==== Sys2Proof/Decode.lean ====
section
/-!
DEFINITION. The encoding: formats (03_encoding.md R57, R61), the opcode map (04_opcode_map.md), the decoder, total on any
word and rejecting by name, and after it the encoder, written from the same tables.
-/
namespace Sys2Proof

/-- R71, R84: why a word is undecodable. -/
inductive DecodeError where
  | reservedMajor | reservedMinor | reservedField | reservedCode | illFormed
deriving DecidableEq, Repr

def b1 (b : Bool) : BitVec 1 := if b then 1 else 0
/-- A 2-bit field above a 1-bit field. -/
def hi2 (h : BV2) (l : BitVec 1) : BV3 := h ++ l
/-- Two 2-bit fields. -/
def two2 (h l : BV2) : BV4 := h ++ l
/-- R86: the field d of major `0x08`. -/
def loopD (op : BV2) (k : Bool) : BitVec 5 := op ++ b1 k ++ (0 : BV2)
/-- R96: the immediate of a shift. -/
def shImm (op : BV2) (sh : BV6) : Imm13 := op ++ (0 : BitVec 5) ++ sh
/-- R62: a field that names a predicate or a mask; bits 4:3 must be zero. -/
def low3 (f : BitVec 5) : Option BV3 := if f.extractLsb' 3 2 == 0 then some (f.extractLsb' 0 3) else none
/-- R90, R220: a 4-bit number in a 5-bit field whose top bit is reserved. -/
def low4 (f : BitVec 5) : Option BV4 := if f.extractLsb' 4 1 == 0 then some (f.extractLsb' 0 4) else none

def Scope.code : Scope → BV2 | .core => 0 | .cl => 1 | .pk => 2 | .sy => 3
def Scope.ofCode (c : BV2) : Scope := match c.toNat with | 0 => .core | 1 => .cl | 2 => .pk | _ => .sy
def IntTy.code : IntTy → BV3 | .i64 => 0 | .i32 => 1 | .z32 => 2 | .q => 3
def IntTy.ofCode (c : BV3) : Option IntTy := match c.toNat with | 0 => some .i64 | 1 => some .i32 | 2 => some .z32 | 3 => some .q | _ => none
def VTy.code : VTy → BV3 | .i32 => 0 | .z32 => 1 | .i64 => 2
def VTy.ofCode (c : BV3) : Option VTy := match c.toNat with | 0 => some .i32 | 1 => some .z32 | 2 => some .i64 | _ => none
def FTy.code : FTy → BV3 | .f32 => 0 | .bf16 => 1 | .f16 => 2 | .e4m3 => 3 | .e5m2 => 4 | .e3m2 => 5 | .e2m3 => 6 | .e2m1 => 7
def FTy.ofCode (c : BV3) : FTy := match c.toNat with | 0 => .f32 | 1 => .bf16 | 2 => .f16 | 3 => .e4m3 | 4 => .e5m2 | 5 => .e3m2 | 6 => .e2m3 | _ => .e2m1
def NTy.code : NTy → BV3 | .mi8 => 0 | .bf16 => 1 | .f16 => 2 | .e4m3 => 3 | .e5m2 => 4 | .e3m2 => 5 | .e2m3 => 6 | .e2m1 => 7
def NTy.ofCode (c : BV3) : NTy := match c.toNat with | 0 => .mi8 | 1 => .bf16 | 2 => .f16 | 3 => .e4m3 | 4 => .e5m2 | 5 => .e3m2 | 6 => .e2m3 | _ => .e2m1
def MTy.code : MTy → BV3 | .w => 0 | .bf16 => 1 | .f16 => 2 | .e4m3 => 3 | .e5m2 => 4 | .mi8 => 5 | .b => 6 | .h => 7
def MTy.ofCode (c : BV3) : MTy := match c.toNat with | 0 => .w | 1 => .bf16 | 2 => .f16 | 3 => .e4m3 | 4 => .e5m2 | 5 => .mi8 | 6 => .b | _ => .h
def RMode.code : RMode → BV3 | .rne => 0 | .rz => 1 | .ru => 2 | .rd => 3 | .rmm => 4 | .ro => 5 | .sr => 6
def RMode.ofCode (c : BV3) : Option RMode := match c.toNat with | 0 => some .rne | 1 => some .rz | 2 => some .ru | 3 => some .rd | 4 => some .rmm | 5 => some .ro | 6 => some .sr | _ => none
def RMode.of5 (f : BitVec 5) : Option RMode := match low3 f with | some c => RMode.ofCode c | none => none
def BHW.code : BHW → BV3 | .b => 0 | .h => 1 | .w => 2
def BHW.ofCode (c : BV3) : Option BHW := match c.toNat with | 0 => some .b | 1 => some .h | 2 => some .w | _ => none
def XMode.code : XMode → BV2 | .indexed => 0 | .scaled => 1 | .postInc => 2 | .offset => 3
def XMode.ofCode (c : BV2) : XMode := match c.toNat with | 0 => .indexed | 1 => .scaled | 2 => .postInc | _ => .offset
def MxFmt.code : MxFmt → BV3 | .e4m3 => 0 | .e5m2 => 1 | .e3m2 => 2 | .e2m3 => 3 | .e2m1 => 4 | .mi8 => 5
def MxFmt.ofCode (c : BV3) : Option MxFmt := match c.toNat with | 0 => some .e4m3 | 1 => some .e5m2 | 2 => some .e3m2 | 3 => some .e2m3 | 4 => some .e2m1 | 5 => some .mi8 | _ => none
/-- R99: the major of an `MMA` by its A format. -/
def MxFmt.major : MxFmt → BitVec 6 | .e4m3 => 0x20 | .e5m2 => 0x21 | .e3m2 => 0x22 | .e2m3 => 0x23 | .e2m1 => 0x24 | .mi8 => 0x25
def MmaFl.code : MmaFl → BV2 | .plain => 0 | .rot => 1 | .sparse => 2
def MmaFl.ofCode (c : BV2) : Option MmaFl := match c.toNat with | 0 => some .plain | 1 => some .rot | 2 => some .sparse | _ => none
/-- R192: the selector codes of `MSET`. -/
def MSel.code : MSel → BitVec 5 | .kvalid => 0 | .sparse => 1 | .metaBase => 2 | .ring => 3 | .acc k => (1 : BV2) ++ k
def MSel.ofCode (c : BitVec 5) : Option MSel :=
  match c.toNat with
  | 0 => some .kvalid | 1 => some .sparse | 2 => some .metaBase | 3 => some .ring
  | _ => if c.extractLsb' 3 2 == 1 then some (.acc (c.extractLsb' 0 3)) else none
/-- R88: the wait kind and the field c. -/
def Wait.kind : Wait → BV2 | .unbounded => 0 | .bounded _ => 1 | .attempt _ => 2
def Wait.cField : Wait → BitVec 5 | .unbounded => 0 | .bounded g => g | .attempt p => p.setWidth 5
def Wait.ofFields (k : BV2) (c : BitVec 5) : Option Wait :=
  match k.toNat with
  | 0 => if c == 0 then some .unbounded else none
  | 1 => some (.bounded c)
  | 2 => (match low3 c with | some p => some (.attempt p) | none => none)
  | _ => none
/-- R207: c and flags of `TWAIT`. -/
def TSel.cField : TSel → BitVec 5 | .tag _ => 0 | .all => 1
def TSel.flField : TSel → BV3 | .tag t => t | .all => 0
def TSel.ofFields (c : BitVec 5) (fl : BV3) : Option TSel :=
  match c.toNat with | 0 => some (.tag fl) | 1 => if fl == 0 then some .all else none | _ => none

/-! ### Formats (R57, R61): the fields by name, the word from them and the fields of a word. -/

structure FCR where (d a b : BitVec 5) (pg : BV3) (pn : BitVec 1) (fn : BV6)
deriving DecidableEq, Repr
structure FCI where (d a : BitVec 5) (pg : BV3) (imm : Imm12)
deriving DecidableEq, Repr
structure FCM where (s b : BitVec 5) (pg : BV3) (sc : BV2) (off : Off10)
deriving DecidableEq, Repr
structure FCB where (pg : BV3) (pn : BitVec 1) (off : Off21)
deriving DecidableEq, Repr
structure FCX where (a b c : BitVec 5) (pg fl : BV3) (fn : BV4)
deriving DecidableEq, Repr
structure FAR where (d a b c : BitVec 5) (t pg : BV3)
deriving DecidableEq, Repr
structure FAI where (d a : BitVec 5) (imm : Imm13) (pg : BV3)
deriving DecidableEq, Repr
structure FAM where (bf acc : BV3) (n : BV6) (m : BV2) (ga gs : BitVec 5) (fl : BV2)
deriving DecidableEq, Repr

/-- R57: a C-class word with L = 1 and the given major. -/
def packCR (mj : BitVec 6) (f : FCR) : W32 :=
  BitVec.ofNat 32 (2 ^ 31 + mj.toNat * 2 ^ 25 + f.d.toNat * 2 ^ 20 + f.a.toNat * 2 ^ 15 + f.b.toNat * 2 ^ 10 + f.pg.toNat * 2 ^ 7 + f.pn.toNat * 2 ^ 6 + f.fn.toNat)
def packCI (mj : BitVec 6) (f : FCI) : W32 :=
  BitVec.ofNat 32 (2 ^ 31 + mj.toNat * 2 ^ 25 + f.d.toNat * 2 ^ 20 + f.a.toNat * 2 ^ 15 + f.pg.toNat * 2 ^ 12 + f.imm.toNat)
def packCM (mj : BitVec 6) (f : FCM) : W32 :=
  BitVec.ofNat 32 (2 ^ 31 + mj.toNat * 2 ^ 25 + f.s.toNat * 2 ^ 20 + f.b.toNat * 2 ^ 15 + f.pg.toNat * 2 ^ 12 + f.sc.toNat * 2 ^ 10 + f.off.toNat)
def packCB (mj : BitVec 6) (f : FCB) : W32 :=
  BitVec.ofNat 32 (2 ^ 31 + mj.toNat * 2 ^ 25 + f.pg.toNat * 2 ^ 22 + f.pn.toNat * 2 ^ 21 + f.off.toNat)
def packCX (mj : BitVec 6) (f : FCX) : W32 :=
  BitVec.ofNat 32 (2 ^ 31 + mj.toNat * 2 ^ 25 + f.a.toNat * 2 ^ 20 + f.b.toNat * 2 ^ 15 + f.c.toNat * 2 ^ 10 + f.pg.toNat * 2 ^ 7 + f.fl.toNat * 2 ^ 4 + f.fn.toNat)
/-- R61: an A-class word with the given major. -/
def packAR (mj : BitVec 6) (f : FAR) : W32 :=
  BitVec.ofNat 32 (mj.toNat * 2 ^ 26 + f.d.toNat * 2 ^ 21 + f.a.toNat * 2 ^ 16 + f.b.toNat * 2 ^ 11 + f.c.toNat * 2 ^ 6 + f.t.toNat * 2 ^ 3 + f.pg.toNat)
def packAI (mj : BitVec 6) (f : FAI) : W32 :=
  BitVec.ofNat 32 (mj.toNat * 2 ^ 26 + f.d.toNat * 2 ^ 21 + f.a.toNat * 2 ^ 16 + f.imm.toNat * 2 ^ 3 + f.pg.toNat)
def packAM (mj : BitVec 6) (f : FAM) : W32 :=
  BitVec.ofNat 32 (mj.toNat * 2 ^ 26 + f.bf.toNat * 2 ^ 23 + f.acc.toNat * 2 ^ 20 + f.n.toNat * 2 ^ 14 + f.m.toNat * 2 ^ 12 + f.ga.toNat * 2 ^ 7 + f.gs.toNat * 2 ^ 2 + f.fl.toNat)

/-- R57: the major of a C-class word. -/
def majorC (w : W32) : BitVec 6 := w.extractLsb' 25 6
/-- R61: the major of an A-class word. -/
def majorA (w : W32) : BitVec 6 := w.extractLsb' 26 6
def unpackCR (w : W32) : FCR := ⟨w.extractLsb' 20 5, w.extractLsb' 15 5, w.extractLsb' 10 5, w.extractLsb' 7 3, w.extractLsb' 6 1, w.extractLsb' 0 6⟩
def unpackCI (w : W32) : FCI := ⟨w.extractLsb' 20 5, w.extractLsb' 15 5, w.extractLsb' 12 3, w.extractLsb' 0 12⟩
def unpackCM (w : W32) : FCM := ⟨w.extractLsb' 20 5, w.extractLsb' 15 5, w.extractLsb' 12 3, w.extractLsb' 10 2, w.extractLsb' 0 10⟩
def unpackCB (w : W32) : FCB := ⟨w.extractLsb' 22 3, w.extractLsb' 21 1, w.extractLsb' 0 21⟩
def unpackCX (w : W32) : FCX := ⟨w.extractLsb' 20 5, w.extractLsb' 15 5, w.extractLsb' 10 5, w.extractLsb' 7 3, w.extractLsb' 4 3, w.extractLsb' 0 4⟩
def unpackAR (w : W32) : FAR := ⟨w.extractLsb' 21 5, w.extractLsb' 16 5, w.extractLsb' 11 5, w.extractLsb' 6 5, w.extractLsb' 3 3, w.extractLsb' 0 3⟩
def unpackAI (w : W32) : FAI := ⟨w.extractLsb' 21 5, w.extractLsb' 16 5, w.extractLsb' 3 13, w.extractLsb' 0 3⟩
def unpackAM (w : W32) : FAM := ⟨w.extractLsb' 23 3, w.extractLsb' 20 3, w.extractLsb' 14 6, w.extractLsb' 12 2, w.extractLsb' 7 5, w.extractLsb' 2 5, w.extractLsb' 0 2⟩

/-! ### The decoder -/

/-- R72, R84, R85: major `0x00`. DEDUCED (log 53): R84 makes pg the guard of every C-class cell, so it may be other than zero in `CNOP`. -/
def decMisc (f : FCR) : Except DecodeError Instr :=
  match f.fn.toNat with
  | 0 => if f.d == 0 && f.a == 0 && f.b == 0 && f.pn == 0 then .ok .cnop else .error .reservedField
  | 1 => if f.a == 0 && f.b == 0 then .ok (.movpc f.d f.pg (f.pn == 1)) else .error .reservedField
  | _ => .error .reservedMinor

/-- R86: major `0x08`, by d<4:3>. -/
def decLoop (f : FCI) : Except DecodeError Instr :=
  match (f.d.extractLsb' 3 2).toNat with
  | 0 => if f.d.extractLsb' 0 2 == 0 then .ok (.loopi (f.d.getLsbD 2) f.a f.pg f.imm) else .error .reservedField
  | 1 => if f.d.extractLsb' 0 2 == 0 then .ok (.loopr (f.d.getLsbD 2) f.a f.pg f.imm) else .error .reservedField
  | 2 => if f.a == 0 && f.d.extractLsb' 0 3 == 0 then .ok (.repi f.pg f.imm) else .error .reservedField
  | 3 => if f.imm == 0 && f.d.extractLsb' 0 3 == 0 then .ok (.repr f.a f.pg) else .error .reservedField
  | _ => .error .reservedMinor

/-- R87: major `0x14`. -/
def decXMem (f : FCX) : Except DecodeError Instr :=
  match f.fn.toNat with
  | 0 => .ok (.ldbX f.a f.b f.c f.pg (XMode.ofCode (f.fl.extractLsb' 1 2)) (f.fl.getLsbD 0))
  | 1 => .ok (.ldbuX f.a f.b f.c f.pg (XMode.ofCode (f.fl.extractLsb' 1 2)) (f.fl.getLsbD 0))
  | 2 => .ok (.ldhX f.a f.b f.c f.pg (XMode.ofCode (f.fl.extractLsb' 1 2)) (f.fl.getLsbD 0))
  | 3 => .ok (.ldhuX f.a f.b f.c f.pg (XMode.ofCode (f.fl.extractLsb' 1 2)) (f.fl.getLsbD 0))
  | 4 => .ok (.ldwX f.a f.b f.c f.pg (XMode.ofCode (f.fl.extractLsb' 1 2)) (f.fl.getLsbD 0))
  | 5 => .ok (.ldwuX f.a f.b f.c f.pg (XMode.ofCode (f.fl.extractLsb' 1 2)) (f.fl.getLsbD 0))
  | 6 => .ok (.lddX f.a f.b f.c f.pg (XMode.ofCode (f.fl.extractLsb' 1 2)) (f.fl.getLsbD 0))
  | 7 => .ok (.ldq f.a f.b f.c f.pg (XMode.ofCode (f.fl.extractLsb' 1 2)) (f.fl.getLsbD 0))
  | 8 => .ok (.stbX f.a f.b f.c f.pg (XMode.ofCode (f.fl.extractLsb' 1 2)) (f.fl.getLsbD 0))
  | 9 => .ok (.sthX f.a f.b f.c f.pg (XMode.ofCode (f.fl.extractLsb' 1 2)) (f.fl.getLsbD 0))
  | 10 => .ok (.stwX f.a f.b f.c f.pg (XMode.ofCode (f.fl.extractLsb' 1 2)) (f.fl.getLsbD 0))
  | 11 => .ok (.stdX f.a f.b f.c f.pg (XMode.ofCode (f.fl.extractLsb' 1 2)) (f.fl.getLsbD 0))
  | 12 => .ok (.stq f.a f.b f.c f.pg (XMode.ofCode (f.fl.extractLsb' 1 2)) (f.fl.getLsbD 0))
  | _ => .error .reservedMinor

/-- R88: major `0x15`, by flags<6:4>. -/
def decSync (f : FCX) : Except DecodeError Instr :=
  match f.fl.toNat with
  | 0 => (match Wait.ofFields (f.fn.extractLsb' 0 2) f.c with | some w => .ok (.ldff f.a f.b f.pg (Scope.ofCode (f.fn.extractLsb' 2 2)) w) | none => .error .reservedCode)
  | 1 => (match Wait.ofFields (f.fn.extractLsb' 0 2) f.c with | some w => .ok (.ldfe f.a f.b f.pg (Scope.ofCode (f.fn.extractLsb' 2 2)) w) | none => .error .reservedCode)
  | 2 => (match Wait.ofFields (f.fn.extractLsb' 0 2) f.c with | some w => .ok (.stef f.a f.b f.pg (Scope.ofCode (f.fn.extractLsb' 2 2)) w) | none => .error .reservedCode)
  | 3 => (match Wait.ofFields (f.fn.extractLsb' 0 2) f.c with | some w => .ok (.stsf f.a f.b f.pg (Scope.ofCode (f.fn.extractLsb' 2 2)) w) | none => .error .reservedCode)
  | 4 => if f.c == 0 && f.fn.extractLsb' 0 2 == 0 then .ok (.ferd f.a f.b f.pg (Scope.ofCode (f.fn.extractLsb' 2 2))) else .error .reservedField
  | 5 => if f.a == 0 && f.c == 0 && f.fn.extractLsb' 0 2 == 0 then .ok (.feset f.b f.pg (Scope.ofCode (f.fn.extractLsb' 2 2))) else .error .reservedField
  | 6 => if f.a == 0 && f.c == 0 && f.fn.extractLsb' 0 2 == 0 then .ok (.feclr f.b f.pg (Scope.ofCode (f.fn.extractLsb' 2 2))) else .error .reservedField
  | _ => .error .reservedMinor

/-- R89: majors `0x16` and `0x17`. -/
def decAtomic (dbl : Bool) (f : FCX) : Except DecodeError Instr :=
  match f.fn.toNat with
  | 0 => if f.fl.getLsbD 0 == false then .ok (.aadd dbl f.a f.b f.c f.pg (Scope.ofCode (f.fl.extractLsb' 1 2))) else .error .reservedField
  | 1 => if f.fl.getLsbD 0 == false then .ok (.aand dbl f.a f.b f.c f.pg (Scope.ofCode (f.fl.extractLsb' 1 2))) else .error .reservedField
  | 2 => if f.fl.getLsbD 0 == false then .ok (.aor dbl f.a f.b f.c f.pg (Scope.ofCode (f.fl.extractLsb' 1 2))) else .error .reservedField
  | 3 => if f.fl.getLsbD 0 == false then .ok (.axor dbl f.a f.b f.c f.pg (Scope.ofCode (f.fl.extractLsb' 1 2))) else .error .reservedField
  | 4 => if f.fl.getLsbD 0 == false then .ok (.amin dbl f.a f.b f.c f.pg (Scope.ofCode (f.fl.extractLsb' 1 2))) else .error .reservedField
  | 5 => if f.fl.getLsbD 0 == false then .ok (.amax dbl f.a f.b f.c f.pg (Scope.ofCode (f.fl.extractLsb' 1 2))) else .error .reservedField
  | 6 => if f.fl.getLsbD 0 == false then .ok (.aminu dbl f.a f.b f.c f.pg (Scope.ofCode (f.fl.extractLsb' 1 2))) else .error .reservedField
  | 7 => if f.fl.getLsbD 0 == false then .ok (.amaxu dbl f.a f.b f.c f.pg (Scope.ofCode (f.fl.extractLsb' 1 2))) else .error .reservedField
  | 8 => if f.fl.getLsbD 0 == false then .ok (.aswap dbl f.a f.b f.c f.pg (Scope.ofCode (f.fl.extractLsb' 1 2))) else .error .reservedField
  | 9 => if f.fl.getLsbD 0 == false then .ok (.acas dbl f.a f.b f.c f.pg (Scope.ofCode (f.fl.extractLsb' 1 2))) else .error .reservedField
  | 10 => if f.fl.getLsbD 0 == false && !dbl then .ok (.afadd f.a f.b f.c f.pg (Scope.ofCode (f.fl.extractLsb' 1 2))) else .error .reservedField
  | _ => .error .reservedMinor

/-- R90: major `0x18`. -/
def decFence (f : FCX) : Except DecodeError Instr :=
  match f.fn.toNat with
  | 0 => if f.a == 0 && f.b == 0 && f.fl.getLsbD 0 == false then (match low4 f.c with | some mask => .ok (.fence mask f.pg (Scope.ofCode (f.fl.extractLsb' 1 2))) | none => .error .reservedCode) else .error .reservedField
  | 1 => if f.fl.getLsbD 0 == false then (match low4 f.c with | some mask => .ok (.fencer f.a f.b mask f.pg (Scope.ofCode (f.fl.extractLsb' 1 2))) | none => .error .reservedCode) else .error .reservedField
  | 2 => if f.a == 0 && f.b == 0 && f.c == 0 && f.fl == 0 then .ok (.ifence f.pg) else .error .reservedField
  | 3 => if f.a == 0 && f.b == 0 && f.c == 0 && f.fl.getLsbD 0 == false then .ok (.fenceTl f.pg (Scope.ofCode (f.fl.extractLsb' 1 2))) else .error .reservedField
  | 4 => if f.b == 0 && f.c == 0 && f.fl == 0 then .ok (.agf f.a f.pg) else .error .reservedField
  | 5 => if f.a == 0 && f.b == 0 && f.c == 0 && f.fl == 0 then .ok (.agw f.pg) else .error .reservedField
  | _ => .error .reservedMinor

/-- R91: major `0x1B`. -/
def decVMem (f : FCX) : Except DecodeError Instr :=
  match f.fn.toNat with
  | 0 => .ok (.vlds f.a f.b f.c f.pg (MTy.ofCode f.fl))
  | 1 => .ok (.vldx f.a f.b f.c f.pg (MTy.ofCode f.fl))
  | 2 => if f.c == 0 then .ok (.vldb f.a f.b f.pg (MTy.ofCode f.fl)) else .error .reservedField
  | 3 => if f.fl == 0 then .ok (.vsts f.a f.b f.c f.pg) else .error .reservedField
  | 4 => if f.fl == 0 then .ok (.vstx f.a f.b f.c f.pg) else .error .reservedField
  | _ => .error .reservedMinor

/-- R91: major `0x1C`. -/
def decVNarrow (f : FCX) : Except DecodeError Instr :=
  match f.fn.toNat with
  | 0 => (match RMode.of5 f.c with | some mode => .ok (.vstn f.a f.b mode f.pg (NTy.ofCode f.fl)) | none => .error .reservedCode)
  | 3 => (match RMode.of5 f.c with | some mode => .ok (.fstn f.a f.b mode f.pg (NTy.ofCode f.fl)) | none => .error .reservedCode)
  | 1 => if f.c == 0 && f.pg == 0 && f.fl == 0 then .ok (.vspill f.a f.b) else .error .reservedField
  | 2 => if f.c == 0 && f.pg == 0 && f.fl == 0 then .ok (.vfill f.a f.b) else .error .reservedField
  | _ => .error .reservedMinor

/-- R92: major `0x1D`. -/
def decTe (f : FCX) : Except DecodeError Instr :=
  match f.fn.toNat with
  | 0 => .ok (.tcopy f.a f.b f.c f.pg f.fl)
  | 1 => .ok (.tcopy2d f.a f.b f.c f.pg f.fl)
  | 2 => .ok (.tgather f.a f.b f.c f.pg f.fl)
  | 3 => .ok (.tscatter f.a f.b f.c f.pg f.fl)
  | 4 => .ok (.tfill f.a f.b f.c f.pg f.fl)
  | 5 => if f.a == 0 && f.b == 0 then (match TSel.ofFields f.c f.fl with | some sel => .ok (.twait sel f.pg) | none => .error .reservedCode) else .error .reservedField
  | _ => .error .reservedMinor

/-- R92: major `0x1E`; flags<4> tells `AMSG` from `AMSG.ret`. -/
def decQueue (f : FCX) : Except DecodeError Instr :=
  match f.fn.toNat with
  | 0 => .ok (.qenq f.a f.b f.c f.pg f.fl)
  | 1 => .ok (.qdeq f.a f.b f.c f.pg f.fl)
  | 2 => (match low3 f.c with | some c => .ok (.qtry f.a f.b c f.pg f.fl) | none => .error .reservedCode)
  | 3 => (match low3 f.c with | some c => .ok (.qpoll f.a f.b c f.pg f.fl) | none => .error .reservedCode)
  | 4 => if f.fl == 0 then .ok (.callat f.a f.b f.c f.pg) else .error .reservedField
  | 5 => if f.b == 0 && f.c == 0 && f.fl == 0 then .ok (.retv f.a f.pg) else .error .reservedField
  | 6 => if f.fl.getLsbD 0 then if f.fl == 1 then .ok (.amsgRet f.a f.b f.c f.pg) else .error .reservedField else if f.a == 0 && f.fl == 0 then .ok (.amsg f.b f.c f.pg) else .error .reservedField
  | _ => .error .reservedMinor

/-- R92: major `0x1F`. -/
def decTask (f : FCX) : Except DecodeError Instr :=
  match f.fn.toNat with
  | 0 => if f.fl == 0 then .ok (.frame f.a f.b f.c f.pg) else .error .reservedField
  | 1 => if f.c == 0 && f.fl == 0 then .ok (.spawn f.a f.b f.pg) else .error .reservedField
  | 4 => if f.c == 0 && f.fl == 0 then .ok (.publish f.a f.b f.pg) else .error .reservedField
  | 2 => if f.b == 0 && f.c == 0 && f.fl == 0 then .ok (.sync f.a f.pg) else .error .reservedField
  | 3 => if f.b == 0 && f.c == 0 && f.fl == 0 then .ok (.tend f.a f.pg) else .error .reservedField
  | 5 => if f.b == 0 && f.fl == 0 then (match low3 f.c with | some c => .ok (.launch f.a c f.pg) | none => .error .reservedCode) else .error .reservedField
  | _ => .error .reservedMinor

/-- R92: major `0x20`. -/
def decStrand (f : FCX) : Except DecodeError Instr :=
  match f.fn.toNat with
  | 0 => if f.b == 0 && f.fl == 0 then (match low4 f.c with | some n => .ok (.shrd f.a n f.pg) | none => .error .reservedCode) else .error .reservedField
  | 1 => if f.b == 0 && f.fl == 0 then (match low4 f.c with | some n => .ok (.shwr f.a n f.pg) | none => .error .reservedCode) else .error .reservedField
  | 2 => if f.a == 0 && f.b == 0 && f.fl == 0 then (match low4 f.c with | some n => .ok (.semp n f.pg) | none => .error .reservedCode) else .error .reservedField
  | 3 => if f.a == 0 && f.b == 0 && f.fl == 0 then (match low4 f.c with | some n => .ok (.semv n f.pg) | none => .error .reservedCode) else .error .reservedField
  | 4 => if f.a == 0 && f.b == 0 && f.fl.getLsbD 0 == false then (match low4 f.c with | some n => .ok (.bar n f.pg (Scope.ofCode (f.fl.extractLsb' 1 2))) | none => .error .reservedCode) else .error .reservedField
  | 5 => if f.a == 0 && f.fl == 0 then (match low3 f.c with | some c => .ok (.xborrow f.b c f.pg) | none => .error .reservedCode) else .error .reservedField
  | 6 => if f.c == 0 && f.fl.getLsbD 2 == false then .ok (.xmov f.a f.b f.pg (f.fl.getLsbD 1) (f.fl.getLsbD 0)) else .error .reservedField
  | 7 => if f.a == 0 && f.b == 0 && f.c == 0 && f.fl == 0 then .ok (.xreturn f.pg) else .error .reservedField
  | 8 => if f.c == 0 && f.fl == 0 then .ok (.migrate f.a f.b f.pg) else .error .reservedField
  | 9 => if f.a == 0 && f.b == 0 && f.c == 0 && f.fl == 0 then .ok (.hbeat f.pg) else .error .reservedField
  | 10 => if f.b == 0 && f.c == 0 && f.fl == 0 then .ok (.waitt f.a f.pg) else .error .reservedField
  | 11 => if f.a == 0 && f.b == 0 && f.c == 0 && f.fl == 0 then .ok (.yield f.pg) else .error .reservedField
  | _ => .error .reservedMinor

/-- R92: `CCTL`, by flags<6:4>. -/
def decCctl (f : FCX) : Except DecodeError Instr :=
  match f.fl.toNat with
  | 0 => if f.c == 0 then .ok (.cctlWb f.a f.b f.pg) else .error .reservedField
  | 1 => if f.c == 0 then .ok (.cctlInv f.a f.b f.pg) else .error .reservedField
  | 2 => if f.c == 0 then .ok (.cctlWbinv f.a f.b f.pg) else .error .reservedField
  | 3 => if f.c == 0 then .ok (.cctlPrefetch f.a f.b f.pg) else .error .reservedField
  | 4 => if f.a == 0 && f.b == 0 && f.c == 0 then .ok (.cctlWbL1d f.pg) else .error .reservedField
  | 5 => if f.a == 0 && f.b == 0 && f.c == 0 then .ok (.cctlInvCc f.pg) else .error .reservedField
  | 6 => if f.b == 0 && f.c == 0 then .ok (.cctlSetCc f.a f.pg) else .error .reservedField
  | _ => .error .reservedMinor

/-- R92: major `0x21`. -/
def decSystem (f : FCX) : Except DecodeError Instr :=
  match f.fn.toNat with
  | 0 => if f.pg == 0 && f.fl == 0 then .ok (.sysc (f.a ++ f.b ++ f.c)) else .error .reservedField
  | 1 => if f.pg == 0 && f.fl == 0 then .ok (.brk (f.a ++ f.b ++ f.c)) else .error .reservedField
  | 2 => if f.a == 0 && f.b == 0 && f.c == 0 && f.fl == 0 then .ok (.xret f.pg) else .error .reservedField
  | 3 => if f.b == 0 && f.c == 0 && f.fl.getLsbD 0 == false then .ok (.tlbinv f.a f.pg (Scope.ofCode (f.fl.extractLsb' 1 2))) else .error .reservedField
  | 4 => decCctl f
  | _ => .error .reservedMinor

/-- R93: major `0x22`; which of d and a are zero chooses the instruction. -/
def decCr (f : FCI) : Except DecodeError Instr :=
  if f.a == 0 then .ok (.crrd f.d f.pg f.imm)
  else if f.d == 0 then .ok (.crwr f.a f.pg f.imm)
  else .ok (.crswp f.d f.a f.pg f.imm)

/-- R57, R85: the word at a bundle start, by its major; the bit L is not looked at. -/
def rawDecodeC (w : W32) : Except DecodeError Instr :=
  match (majorC w).toNat with
  | 0x00 => decMisc (unpackCR w)
  | 0x01 => let f := unpackCB w; .ok (.bp f.pg (f.pn == 1) f.off)
  | 0x02 => let f := unpackCI w; if f.d == 0 then .ok (.bz f.a f.pg f.imm) else .error .reservedField
  | 0x03 => let f := unpackCI w; if f.d == 0 then .ok (.bnz f.a f.pg f.imm) else .error .reservedField
  | 0x04 => let f := unpackCB w; .ok (.jal f.pg (f.pn == 1) f.off)
  | 0x05 => let f := unpackCI w; .ok (.jalr f.d f.a f.pg f.imm)
  | 0x06 => let f := unpackCR w; if f.d == 0 && f.b == 0 && f.fn == 0 then .ok (.ret f.a f.pg (f.pn == 1)) else .error .reservedField
  | 0x08 => decLoop (unpackCI w)
  | 0x09 => let f := unpackCM w; .ok (.ldb f.s f.b f.pg (Scope.ofCode f.sc) f.off)
  | 0x0A => let f := unpackCM w; .ok (.ldbu f.s f.b f.pg (Scope.ofCode f.sc) f.off)
  | 0x0B => let f := unpackCM w; .ok (.ldh f.s f.b f.pg (Scope.ofCode f.sc) f.off)
  | 0x0C => let f := unpackCM w; .ok (.ldhu f.s f.b f.pg (Scope.ofCode f.sc) f.off)
  | 0x0D => let f := unpackCM w; .ok (.ldw f.s f.b f.pg (Scope.ofCode f.sc) f.off)
  | 0x0E => let f := unpackCM w; .ok (.ldwu f.s f.b f.pg (Scope.ofCode f.sc) f.off)
  | 0x0F => let f := unpackCM w; .ok (.ldd f.s f.b f.pg (Scope.ofCode f.sc) f.off)
  | 0x10 => let f := unpackCM w; .ok (.stb f.s f.b f.pg (Scope.ofCode f.sc) f.off)
  | 0x11 => let f := unpackCM w; .ok (.sth f.s f.b f.pg (Scope.ofCode f.sc) f.off)
  | 0x12 => let f := unpackCM w; .ok (.stw f.s f.b f.pg (Scope.ofCode f.sc) f.off)
  | 0x13 => let f := unpackCM w; .ok (.std f.s f.b f.pg (Scope.ofCode f.sc) f.off)
  | 0x14 => decXMem (unpackCX w)
  | 0x15 => decSync (unpackCX w)
  | 0x16 => decAtomic false (unpackCX w)
  | 0x17 => decAtomic true (unpackCX w)
  | 0x18 => decFence (unpackCX w)
  | 0x19 => let f := unpackCM w; .ok (.vld f.s f.b f.pg (Scope.ofCode f.sc) f.off)
  | 0x1A => let f := unpackCM w; .ok (.vst f.s f.b f.pg (Scope.ofCode f.sc) f.off)
  | 0x1B => decVMem (unpackCX w)
  | 0x1C => decVNarrow (unpackCX w)
  | 0x1D => decTe (unpackCX w)
  | 0x1E => decQueue (unpackCX w)
  | 0x1F => decTask (unpackCX w)
  | 0x20 => decStrand (unpackCX w)
  | 0x21 => decSystem (unpackCX w)
  | 0x22 => decCr (unpackCI w)
  | _ => .error .reservedMajor

/-- R95: major `0x01`. -/
def decAlu (f : FAR) : Except DecodeError Instr :=
  match f.c.toNat with
  | 0 => (match IntTy.ofCode f.t with | some t => .ok (.add t f.d f.a f.b f.pg) | none => .error .reservedCode)
  | 1 => (match IntTy.ofCode f.t with | some t => .ok (.sub t f.d f.a f.b f.pg) | none => .error .reservedCode)
  | 2 => (match IntTy.ofCode f.t with | some t => .ok (.and t f.d f.a f.b f.pg) | none => .error .reservedCode)
  | 3 => (match IntTy.ofCode f.t with | some t => .ok (.or t f.d f.a f.b f.pg) | none => .error .reservedCode)
  | 4 => (match IntTy.ofCode f.t with | some t => .ok (.xor t f.d f.a f.b f.pg) | none => .error .reservedCode)
  | 5 => (match IntTy.ofCode f.t with | some t => .ok (.andn t f.d f.a f.b f.pg) | none => .error .reservedCode)
  | 6 => (match IntTy.ofCode f.t with | some t => .ok (.shl t f.d f.a f.b f.pg) | none => .error .reservedCode)
  | 7 => (match IntTy.ofCode f.t with | some t => .ok (.shr t f.d f.a f.b f.pg) | none => .error .reservedCode)
  | 8 => (match IntTy.ofCode f.t with | some t => .ok (.sra t f.d f.a f.b f.pg) | none => .error .reservedCode)
  | 9 => (match IntTy.ofCode f.t with | some t => .ok (.ror t f.d f.a f.b f.pg) | none => .error .reservedCode)
  | 10 => (match IntTy.ofCode f.t with | some t => .ok (.min t f.d f.a f.b f.pg) | none => .error .reservedCode)
  | 11 => (match IntTy.ofCode f.t with | some t => .ok (.max t f.d f.a f.b f.pg) | none => .error .reservedCode)
  | 12 => (match IntTy.ofCode f.t with | some t => .ok (.minu t f.d f.a f.b f.pg) | none => .error .reservedCode)
  | 13 => (match IntTy.ofCode f.t with | some t => .ok (.maxu t f.d f.a f.b f.pg) | none => .error .reservedCode)
  | 14 => (match IntTy.ofCode f.t with | some t => .ok (.mul t f.d f.a f.b f.pg) | none => .error .reservedCode)
  | 15 => (match IntTy.ofCode f.t with | some t => .ok (.mulh t f.d f.a f.b f.pg) | none => .error .reservedCode)
  | 16 => (match IntTy.ofCode f.t with | some t => .ok (.mulhu t f.d f.a f.b f.pg) | none => .error .reservedCode)
  | 17 => (match IntTy.ofCode f.t with | some t => .ok (.div t f.d f.a f.b f.pg) | none => .error .reservedCode)
  | 18 => (match IntTy.ofCode f.t with | some t => .ok (.divu t f.d f.a f.b f.pg) | none => .error .reservedCode)
  | 19 => (match IntTy.ofCode f.t with | some t => .ok (.rem t f.d f.a f.b f.pg) | none => .error .reservedCode)
  | 20 => (match IntTy.ofCode f.t with | some t => .ok (.remu t f.d f.a f.b f.pg) | none => .error .reservedCode)
  | _ => .error .reservedMinor

/-- R95: major `0x02`. -/
def decBits (f : FAR) : Except DecodeError Instr :=
  match f.c.toNat with
  | 0 => if f.b == 0 then (match IntTy.ofCode f.t with | some t => .ok (.clz t f.d f.a f.pg) | none => .error .reservedCode) else .error .reservedField
  | 1 => if f.b == 0 then (match IntTy.ofCode f.t with | some t => .ok (.ctz t f.d f.a f.pg) | none => .error .reservedCode) else .error .reservedField
  | 2 => if f.b == 0 then (match IntTy.ofCode f.t with | some t => .ok (.popc t f.d f.a f.pg) | none => .error .reservedCode) else .error .reservedField
  | 3 => if f.b == 0 then (match BHW.ofCode f.t with | some sz => .ok (.sext sz f.d f.a f.pg) | none => .error .reservedCode) else .error .reservedField
  | 4 => if f.b == 0 then (match BHW.ofCode f.t with | some sz => .ok (.zext sz f.d f.a f.pg) | none => .error .reservedCode) else .error .reservedField
  | 5 => if f.t == 0 then .ok (.bfx f.d f.a f.b f.pg) else .error .reservedField
  | 6 => if f.t == 0 then .ok (.bfxu f.d f.a f.b f.pg) else .error .reservedField
  | 7 => if f.t == 0 then .ok (.bfi f.d f.a f.b f.pg) else .error .reservedField
  | _ => .error .reservedMinor

/-- R95: major `0x03`. -/
def decCmp (f : FAR) : Except DecodeError Instr :=
  match f.c.toNat with
  | 0 => (match IntTy.ofCode f.t with | some t => (match low3 f.d with | some d => .ok (.cmpeq t d f.a f.b f.pg) | none => .error .reservedCode) | none => .error .reservedCode)
  | 1 => (match IntTy.ofCode f.t with | some t => (match low3 f.d with | some d => .ok (.cmpne t d f.a f.b f.pg) | none => .error .reservedCode) | none => .error .reservedCode)
  | 2 => (match IntTy.ofCode f.t with | some t => (match low3 f.d with | some d => .ok (.cmplt t d f.a f.b f.pg) | none => .error .reservedCode) | none => .error .reservedCode)
  | 3 => (match IntTy.ofCode f.t with | some t => (match low3 f.d with | some d => .ok (.cmple t d f.a f.b f.pg) | none => .error .reservedCode) | none => .error .reservedCode)
  | 4 => (match IntTy.ofCode f.t with | some t => (match low3 f.d with | some d => .ok (.cmpltu t d f.a f.b f.pg) | none => .error .reservedCode) | none => .error .reservedCode)
  | 5 => (match IntTy.ofCode f.t with | some t => (match low3 f.d with | some d => .ok (.cmpleu t d f.a f.b f.pg) | none => .error .reservedCode) | none => .error .reservedCode)
  | 8 => if f.t == 0 then (match low3 f.d with | some d => (match low3 f.a with | some a => (match low3 f.b with | some b => .ok (.pand d a b f.pg) | none => .error .reservedCode) | none => .error .reservedCode) | none => .error .reservedCode) else .error .reservedField
  | 9 => if f.t == 0 then (match low3 f.d with | some d => (match low3 f.a with | some a => (match low3 f.b with | some b => .ok (.por d a b f.pg) | none => .error .reservedCode) | none => .error .reservedCode) | none => .error .reservedCode) else .error .reservedField
  | 10 => if f.t == 0 then (match low3 f.d with | some d => (match low3 f.a with | some a => (match low3 f.b with | some b => .ok (.pxor d a b f.pg) | none => .error .reservedCode) | none => .error .reservedCode) | none => .error .reservedCode) else .error .reservedField
  | 11 => if f.t == 0 then (match low3 f.d with | some d => (match low3 f.a with | some a => (match low3 f.b with | some b => .ok (.pandn d a b f.pg) | none => .error .reservedCode) | none => .error .reservedCode) | none => .error .reservedCode) else .error .reservedField
  | 12 => if f.b == 0 && f.t == 0 then (match low3 f.d with | some d => (match low3 f.a with | some a => .ok (.pnot d a f.pg) | none => .error .reservedCode) | none => .error .reservedCode) else .error .reservedField
  | 14 => if f.a == 0 && f.b == 0 && f.t == 0 then .ok (.prd f.d f.pg) else .error .reservedField
  | 15 => if f.d == 0 && f.b == 0 && f.t == 0 then .ok (.pwr f.a f.pg) else .error .reservedField
  | _ => .error .reservedMinor

/-- R95: major `0x0A`. -/
def decAddr (f : FAR) : Except DecodeError Instr :=
  match f.c.toNat with
  | 0 => .ok (.lea f.d f.a f.b f.t f.pg)
  | 1 => if f.b == 0 && f.t == 0 then .ok (.cvta f.d f.a f.pg) else .error .reservedField
  | 2 => .ok (.sel f.d f.t f.a f.b f.pg)
  | 3 => if f.b == 0 && f.t == 0 then .ok (.mov f.d f.a f.pg) else .error .reservedField
  | _ => .error .reservedMinor

/-- R97: major `0x0B`. -/
def decFp2 (f : FAR) : Except DecodeError Instr :=
  match f.c.toNat with
  | 0 => .ok (.fadd (FTy.ofCode f.t) f.d f.a f.b f.pg)
  | 1 => .ok (.fsub (FTy.ofCode f.t) f.d f.a f.b f.pg)
  | 2 => .ok (.fmul (FTy.ofCode f.t) f.d f.a f.b f.pg)
  | 3 => .ok (.fdiv (FTy.ofCode f.t) f.d f.a f.b f.pg)
  | 4 => if f.b == 0 then .ok (.fsqrt (FTy.ofCode f.t) f.d f.a f.pg) else .error .reservedField
  | 5 => .ok (.fmin (FTy.ofCode f.t) f.d f.a f.b f.pg)
  | 6 => .ok (.fmax (FTy.ofCode f.t) f.d f.a f.b f.pg)
  | _ => .error .reservedMinor

/-- R97: major `0x0D`. -/
def decFcmp (f : FAR) : Except DecodeError Instr :=
  match f.c.toNat with
  | 0 => if f.t == 0 then (match low3 f.d with | some d => .ok (.fcmpeq d f.a f.b f.pg) | none => .error .reservedCode) else .error .reservedField
  | 1 => if f.t == 0 then (match low3 f.d with | some d => .ok (.fcmplt d f.a f.b f.pg) | none => .error .reservedCode) else .error .reservedField
  | 2 => if f.t == 0 then (match low3 f.d with | some d => .ok (.fcmple d f.a f.b f.pg) | none => .error .reservedCode) else .error .reservedField
  | 3 => if f.t == 0 then (match low3 f.d with | some d => .ok (.fcmpun d f.a f.b f.pg) | none => .error .reservedCode) else .error .reservedField
  | 4 => if f.b == 0 && f.t == 0 then .ok (.fclass f.d f.a f.pg) else .error .reservedField
  | _ => .error .reservedMinor

/-- R97: major `0x0E`. -/
def decFcvt (f : FAR) : Except DecodeError Instr :=
  match f.c.toNat with
  | 0 => if f.b == 0 && f.t == 0 then .ok (.fneg f.d f.a f.pg) else .error .reservedField
  | 1 => if f.b == 0 && f.t == 0 then .ok (.fabs f.d f.a f.pg) else .error .reservedField
  | 4 => if f.b == 0 && f.t == 0 then .ok (.fcvtfi f.d f.a f.pg) else .error .reservedField
  | 6 => if f.b == 0 && f.t == 0 then .ok (.fstkr f.d f.a f.pg) else .error .reservedField
  | 2 => if f.b == 0 then .ok (.fcvt (FTy.ofCode f.t) f.d f.a f.pg) else .error .reservedField
  | 3 => if f.b == 0 then .ok (.fcvtif (FTy.ofCode f.t) f.d f.a f.pg) else .error .reservedField
  | 5 => if f.t == 0 then .ok (.fstk f.d f.a f.b f.pg) else .error .reservedField
  | _ => .error .reservedMinor

/-- R98: major `0x10`. -/
def decVInt (f : FAR) : Except DecodeError Instr :=
  match f.c.toNat with
  | 0 => (match VTy.ofCode f.t with | some t => .ok (.vadd t f.d f.a f.b f.pg) | none => .error .reservedCode)
  | 1 => (match VTy.ofCode f.t with | some t => .ok (.vsub t f.d f.a f.b f.pg) | none => .error .reservedCode)
  | 2 => (match VTy.ofCode f.t with | some t => .ok (.vand t f.d f.a f.b f.pg) | none => .error .reservedCode)
  | 3 => (match VTy.ofCode f.t with | some t => .ok (.vor t f.d f.a f.b f.pg) | none => .error .reservedCode)
  | 4 => (match VTy.ofCode f.t with | some t => .ok (.vxor t f.d f.a f.b f.pg) | none => .error .reservedCode)
  | 5 => (match VTy.ofCode f.t with | some t => .ok (.vandn t f.d f.a f.b f.pg) | none => .error .reservedCode)
  | 6 => (match VTy.ofCode f.t with | some t => .ok (.vshl t f.d f.a f.b f.pg) | none => .error .reservedCode)
  | 7 => (match VTy.ofCode f.t with | some t => .ok (.vshr t f.d f.a f.b f.pg) | none => .error .reservedCode)
  | 8 => (match VTy.ofCode f.t with | some t => .ok (.vsra t f.d f.a f.b f.pg) | none => .error .reservedCode)
  | 9 => (match VTy.ofCode f.t with | some t => .ok (.vmin t f.d f.a f.b f.pg) | none => .error .reservedCode)
  | 10 => (match VTy.ofCode f.t with | some t => .ok (.vmax t f.d f.a f.b f.pg) | none => .error .reservedCode)
  | 11 => (match VTy.ofCode f.t with | some t => .ok (.vmul t f.d f.a f.b f.pg) | none => .error .reservedCode)
  | 12 => (match VTy.ofCode f.t with | some t => .ok (.vmulh t f.d f.a f.b f.pg) | none => .error .reservedCode)
  | _ => .error .reservedMinor

/-- R98: major `0x11`. -/
def decVCmp (f : FAR) : Except DecodeError Instr :=
  match f.c.toNat with
  | 0 => (match VTy.ofCode f.t with | some t => (match low3 f.d with | some d => .ok (.vcmpeq t d f.a f.b f.pg) | none => .error .reservedCode) | none => .error .reservedCode)
  | 1 => (match VTy.ofCode f.t with | some t => (match low3 f.d with | some d => .ok (.vcmpne t d f.a f.b f.pg) | none => .error .reservedCode) | none => .error .reservedCode)
  | 2 => (match VTy.ofCode f.t with | some t => (match low3 f.d with | some d => .ok (.vcmplt t d f.a f.b f.pg) | none => .error .reservedCode) | none => .error .reservedCode)
  | 3 => (match VTy.ofCode f.t with | some t => (match low3 f.d with | some d => .ok (.vcmple t d f.a f.b f.pg) | none => .error .reservedCode) | none => .error .reservedCode)
  | _ => .error .reservedMinor

/-- R98: major `0x12`. -/
def decMask (f : FAR) : Except DecodeError Instr :=
  match f.c.toNat with
  | 0 => if f.t == 0 then (match low3 f.d with | some d => (match low3 f.a with | some a => (match low3 f.b with | some b => .ok (.mand d a b f.pg) | none => .error .reservedCode) | none => .error .reservedCode) | none => .error .reservedCode) else .error .reservedField
  | 1 => if f.t == 0 then (match low3 f.d with | some d => (match low3 f.a with | some a => (match low3 f.b with | some b => .ok (.mor d a b f.pg) | none => .error .reservedCode) | none => .error .reservedCode) | none => .error .reservedCode) else .error .reservedField
  | 2 => if f.t == 0 then (match low3 f.d with | some d => (match low3 f.a with | some a => (match low3 f.b with | some b => .ok (.mxor d a b f.pg) | none => .error .reservedCode) | none => .error .reservedCode) | none => .error .reservedCode) else .error .reservedField
  | 3 => if f.t == 0 then (match low3 f.d with | some d => (match low3 f.a with | some a => (match low3 f.b with | some b => .ok (.mandn d a b f.pg) | none => .error .reservedCode) | none => .error .reservedCode) | none => .error .reservedCode) else .error .reservedField
  | 4 => if f.b == 0 && f.t == 0 then (match low3 f.d with | some d => (match low3 f.a with | some a => .ok (.mnot d a f.pg) | none => .error .reservedCode) | none => .error .reservedCode) else .error .reservedField
  | 5 => if f.b == 0 && f.t == 0 then (match low3 f.a with | some a => .ok (.mpopc f.d a f.pg) | none => .error .reservedCode) else .error .reservedField
  | 6 => if f.b == 0 && f.t == 0 then (match low3 f.d with | some d => .ok (.mfromg d f.a f.pg) | none => .error .reservedCode) else .error .reservedField
  | 7 => if f.b == 0 && f.t == 0 then (match low3 f.a with | some a => .ok (.mtog f.d a f.pg) | none => .error .reservedCode) else .error .reservedField
  | _ => .error .reservedMinor

/-- R98: major `0x13`. -/
def decVFp (f : FAR) : Except DecodeError Instr :=
  match f.c.toNat with
  | 0 => .ok (.vfadd (FTy.ofCode f.t) f.d f.a f.b f.pg)
  | 1 => .ok (.vfsub (FTy.ofCode f.t) f.d f.a f.b f.pg)
  | 2 => .ok (.vfmul (FTy.ofCode f.t) f.d f.a f.b f.pg)
  | 3 => .ok (.vfdiv (FTy.ofCode f.t) f.d f.a f.b f.pg)
  | 4 => if f.b == 0 then .ok (.vfsqrt (FTy.ofCode f.t) f.d f.a f.pg) else .error .reservedField
  | 5 => .ok (.vfmin (FTy.ofCode f.t) f.d f.a f.b f.pg)
  | 6 => .ok (.vfmax (FTy.ofCode f.t) f.d f.a f.b f.pg)
  | 7 => if f.b == 0 && f.t == 0 then .ok (.vfneg f.d f.a f.pg) else .error .reservedField
  | 8 => if f.b == 0 && f.t == 0 then .ok (.vfabs f.d f.a f.pg) else .error .reservedField
  | _ => .error .reservedMinor

/-- R98: major `0x15`. -/
def decVFcmp (f : FAR) : Except DecodeError Instr :=
  match f.c.toNat with
  | 0 => if f.t == 0 then (match low3 f.d with | some d => .ok (.vfcmpeq d f.a f.b f.pg) | none => .error .reservedCode) else .error .reservedField
  | 1 => if f.t == 0 then (match low3 f.d with | some d => .ok (.vfcmplt d f.a f.b f.pg) | none => .error .reservedCode) else .error .reservedField
  | 2 => if f.t == 0 then (match low3 f.d with | some d => .ok (.vfcmple d f.a f.b f.pg) | none => .error .reservedCode) else .error .reservedField
  | 3 => if f.t == 0 then (match low3 f.d with | some d => .ok (.vfcmpun d f.a f.b f.pg) | none => .error .reservedCode) else .error .reservedField
  | 4 => if f.b == 0 then .ok (.vfred (FTy.ofCode f.t) f.d f.a f.pg) else .error .reservedField
  | 5 => if f.b == 0 then .ok (.vfrmin (FTy.ofCode f.t) f.d f.a f.pg) else .error .reservedField
  | 6 => if f.b == 0 then .ok (.vfrmax (FTy.ofCode f.t) f.d f.a f.pg) else .error .reservedField
  | _ => .error .reservedMinor

/-- R98: major `0x16`. -/
def decVFcvt (f : FAR) : Except DecodeError Instr :=
  match f.c.toNat with
  | 0 => if f.b == 0 then .ok (.vfcvt (FTy.ofCode f.t) f.d f.a f.pg) else .error .reservedField
  | 1 => if f.b == 0 then .ok (.vfcvtif (FTy.ofCode f.t) f.d f.a f.pg) else .error .reservedField
  | 2 => if f.b == 0 && f.t == 0 then .ok (.vfcvtfi f.d f.a f.pg) else .error .reservedField
  | 3 => if f.b == 0 then .ok (.vfrcp (FTy.ofCode f.t) f.d f.a f.pg) else .error .reservedField
  | 4 => if f.b == 0 then .ok (.vfrsqrt (FTy.ofCode f.t) f.d f.a f.pg) else .error .reservedField
  | 5 => if f.b == 0 then .ok (.vfexp2 (FTy.ofCode f.t) f.d f.a f.pg) else .error .reservedField
  | 6 => if f.b == 0 then .ok (.vflog2 (FTy.ofCode f.t) f.d f.a f.pg) else .error .reservedField
  | _ => .error .reservedMinor

/-- R98: major `0x17`. -/
noncomputable def decPerm (f : FAR) : Except DecodeError Instr :=
  match f.c.toNat with
  | 0 => if f.t == 0 then .ok (.vperm f.d f.a f.b f.pg) else .error .reservedField
  | 1 => if f.t == 0 then .ok (.vslide f.d f.a f.b f.pg) else .error .reservedField
  | 2 => if f.t == 0 then .ok (.vzip f.d f.a f.b f.pg) else .error .reservedField
  | 3 => if f.b == 0 && f.t == 0 then .ok (.vunzip f.d f.a f.pg) else .error .reservedField
  | 4 => if f.b == 0 && f.t == 0 then .ok (.vbcast f.d f.a f.pg) else .error .reservedField
  | 5 => if f.b == 0 && f.t == 0 then .ok (.vcompress f.d f.a f.pg) else .error .reservedField
  | 6 => if f.b == 0 && f.t == 0 then .ok (.vexpand f.d f.a f.pg) else .error .reservedField
  | 7 => if f.b == 0 && f.t == 0 then .ok (.vmov f.d f.a f.pg) else .error .reservedField
  | _ => .error .reservedMinor

/-- R98: major `0x19`. -/
noncomputable def decLane (f : FAR) : Except DecodeError Instr :=
  match f.c.toNat with
  | 0 => if f.t == 0 then .ok (.rngh f.d f.a f.b f.pg) else .error .reservedField
  | 1 => if f.t == 0 then .ok (.vrngh f.d f.a f.b f.pg) else .error .reservedField
  | 2 => if f.t == 0 then .ok (.vins f.d f.a f.b f.pg) else .error .reservedField
  | 3 => if f.t == 0 then .ok (.vext f.d f.a f.b f.pg) else .error .reservedField
  | _ => .error .reservedMinor

/-- R96: major `0x08`, by imm13<12:11>. -/
def decShImm (f : FAI) : Except DecodeError Instr :=
  match (f.imm.extractLsb' 11 2).toNat with
  | 0 => if f.imm.extractLsb' 6 5 == 0 then .ok (.shli f.d f.a (f.imm.extractLsb' 0 6) f.pg) else .error .reservedField
  | 1 => if f.imm.extractLsb' 6 5 == 0 then .ok (.shri f.d f.a (f.imm.extractLsb' 0 6) f.pg) else .error .reservedField
  | 2 => if f.imm.extractLsb' 6 5 == 0 then .ok (.srai f.d f.a (f.imm.extractLsb' 0 6) f.pg) else .error .reservedField
  | 3 => if f.imm.extractLsb' 6 5 == 0 then .ok (.rori f.d f.a (f.imm.extractLsb' 0 6) f.pg) else .error .reservedField
  | _ => .error .reservedMinor

/-- R96: major `0x09`: a = 0 is `MOVI`, 1 to 4 `MOVH`. -/
def decMovImm (f : FAI) : Except DecodeError Instr :=
  if f.a == 0 then .ok (.movi f.d f.imm f.pg)
  else (match low3 f.a with | some k => .ok (.movh f.d k f.imm f.pg) | none => .error .reservedCode)

/-- R98: major `0x18`, by c<4:3>. -/
noncomputable def decMx (f : FAR) : Except DecodeError Instr :=
  match (f.c.extractLsb' 3 2).toNat with
  | 0 => (match RMode.ofCode (f.c.extractLsb' 0 3) with | some mode => .ok (.vqmx (NTy.ofCode f.t) mode f.d f.b f.a f.pg) | none => .error .reservedCode)
  | 1 => if f.c.extractLsb' 0 3 == 0 then .ok (.vdqmx (NTy.ofCode f.t) f.d f.a f.b f.pg) else .error .reservedField
  | 2 => if f.b == 0 then (match RMode.ofCode (f.c.extractLsb' 0 3) with | some mode => .ok (.vpack (NTy.ofCode f.t) mode f.d f.a f.pg) | none => .error .reservedCode) else .error .reservedField
  | _ => .error .reservedMinor

/-- R98: major `0x1A`; c = 24 to 31 is `MSTA`, with c<2:0> the mode. -/
noncomputable def decMatrix (f : FAR) : Except DecodeError Instr :=
  match f.c.toNat with
  | 0 => if f.d == 0 && f.t == 0 then (match MSel.ofCode f.b with | some sel => .ok (.mset sel f.a f.pg) | none => .error .reservedCode) else .error .reservedField
  | 1 => if f.b == 0 && f.t == 0 then (match low3 f.d with | some k => .ok (.mzero k f.a f.pg) | none => .error .reservedCode) else .error .reservedField
  | 2 => if f.t == 0 then .ok (.mlda (Scope.ofCode (f.d.extractLsb' 3 2)) (f.d.extractLsb' 0 3) f.a f.b f.pg) else .error .reservedField
  | 3 => if f.d == 0 && f.b == 0 && f.t == 0 then .ok (.mseed f.a f.pg) else .error .reservedField
  | 4 => if f.d == 0 && f.a == 0 && f.b == 0 && f.t == 0 then .ok (.mwait f.pg) else .error .reservedField
  | 5 => if f.d == 0 && f.t == 0 then .ok (.mring f.a f.b f.pg) else .error .reservedField
  | n => if n ≥ 24 then (match RMode.ofCode (f.c.extractLsb' 0 3) with | some mode => .ok (.msta (FTy.ofCode f.t) (Scope.ofCode (f.d.extractLsb' 3 2)) mode (f.d.extractLsb' 0 3) f.a f.b f.pg) | none => .error .reservedCode) else .error .reservedMinor

/-- R99, R100: majors `0x20` to `0x25`. -/
noncomputable def decMma (fa : MxFmt) (f : FAM) : Except DecodeError Instr :=
  (match MxFmt.ofCode f.bf with | some fb => (match MmaFl.ofCode f.fl with | some fl => .ok (.mma fa fb f.acc f.n f.m f.ga f.gs fl) | none => .error .reservedCode) | none => .error .reservedCode)

/-- R61, R94: an A-class word, by its major. -/
noncomputable def rawDecodeA (w : W32) : Except DecodeError Instr :=
  match (majorA w).toNat with
  | 0x01 => decAlu (unpackAR w)
  | 0x02 => decBits (unpackAR w)
  | 0x03 => decCmp (unpackAR w)
  | 0x04 => let f := unpackAI w; .ok (.addi f.d f.a f.imm f.pg)
  | 0x05 => let f := unpackAI w; .ok (.andi f.d f.a f.imm f.pg)
  | 0x06 => let f := unpackAI w; .ok (.ori f.d f.a f.imm f.pg)
  | 0x07 => let f := unpackAI w; .ok (.xori f.d f.a f.imm f.pg)
  | 0x08 => decShImm (unpackAI w)
  | 0x09 => decMovImm (unpackAI w)
  | 0x0A => decAddr (unpackAR w)
  | 0x0B => decFp2 (unpackAR w)
  | 0x0C => let f := unpackAR w; .ok (.ffma (FTy.ofCode f.t) f.d f.a f.b f.c f.pg)
  | 0x0D => decFcmp (unpackAR w)
  | 0x0E => decFcvt (unpackAR w)
  | 0x10 => decVInt (unpackAR w)
  | 0x11 => decVCmp (unpackAR w)
  | 0x12 => decMask (unpackAR w)
  | 0x13 => decVFp (unpackAR w)
  | 0x14 => let f := unpackAR w; .ok (.vffma (FTy.ofCode f.t) f.d f.a f.b f.c f.pg)
  | 0x15 => decVFcmp (unpackAR w)
  | 0x16 => decVFcvt (unpackAR w)
  | 0x17 => decPerm (unpackAR w)
  | 0x18 => decMx (unpackAR w)
  | 0x19 => decLane (unpackAR w)
  | 0x1A => decMatrix (unpackAR w)
  | 0x20 => decMma .e4m3 (unpackAM w)
  | 0x21 => decMma .e5m2 (unpackAM w)
  | 0x22 => decMma .e3m2 (unpackAM w)
  | 0x23 => decMma .e2m3 (unpackAM w)
  | 0x24 => decMma .e2m1 (unpackAM w)
  | 0x25 => decMma .mi8 (unpackAM w)
  | 0x26 => let f := unpackAM w; if f.bf == 0 && f.gs == 0 then (match MmaFl.ofCode f.fl with | some fl => .ok (.mmaBf16 f.acc f.n f.m f.ga fl) | none => .error .reservedCode) else .error .reservedField
  | _ => .error .reservedMajor

/-- R71: a C-class word decodes to an instruction that meets every encoding rule, or is rejected by name. -/
noncomputable def decodeC (w : W32) : Except DecodeError Instr :=
  match rawDecodeC w with
  | .ok i => if i.wellFormed then .ok i else .error .illFormed
  | .error e => .error e

/-- R71: an A-class word likewise. -/
noncomputable def decodeA (w : W32) : Except DecodeError Instr :=
  match rawDecodeA w with
  | .ok i => if i.wellFormed then .ok i else .error .illFormed
  | .error e => .error e

/-- R50: a bundle: a C-class word, and with L = 0 an A-class word. -/
structure Bundle where
  c : Instr
  a : Option Instr
deriving DecidableEq, Repr

/-- R50: the bit L of the word at a bundle start. -/
def lone (w : W32) : Bool := w.getLsbD 31

/-- R1, R50: the bundle at the head of a list of bytes, with the bytes that follow it. -/
noncomputable def decodeBytes : List Byte → Option (Bundle × List Byte)
  | b0 :: b1 :: b2 :: b3 :: rest =>
    let w := BitVec.ofNat 32 (leNat [b0, b1, b2, b3])
    match decodeC w with
    | .error _ => none
    | .ok c =>
      if lone w then some (⟨c, none⟩, rest)
      else match rest with
        | b4 :: b5 :: b6 :: b7 :: rest' =>
          match decodeA (BitVec.ofNat 32 (leNat [b4, b5, b6, b7])) with
          | .ok a => some (⟨c, some a⟩, rest')
          | .error _ => none
        | _ => none
  | _ => none

/-- The instruction a bundle stands for: its A instruction where the C word is only the `CNOP` that irmas puts before a
lone A instruction (R76), its C instruction otherwise. -/
def Bundle.instr (b : Bundle) : Instr :=
  match b.c, b.a with
  | .cnop, some a => a
  | c, _ => c

/-- The instruction the decoder reads from a word numbered as spec/opcode_table.json numbers it, its bits above `nbits`
zero: the words laid out little-endian (R1), the first at the lowest address. -/
noncomputable def decodeTableWord (nbits w : Nat) : Option Instr :=
  match decodeBytes (leBytes 8 (w % 2 ^ nbits)) with
  | some (b, _) => some b.instr
  | none => none

/-! ### The encoder -/

/-- R57, R61, R85 to R100: the word of an instruction, a C-class one as a lone word (L = 1). A step of the device has no
word; it is given 0. -/
def encode : Instr → W32
  | .cnop => packCR 0x00 ⟨0, 0, 0, 0, 0, 0⟩
  | .movpc d pg pn => packCR 0x00 ⟨d, 0, 0, pg, (b1 pn), 1⟩
  | .bp pg pn off => packCB 0x01 ⟨pg, (b1 pn), off⟩
  | .bz a pg imm => packCI 0x02 ⟨0, a, pg, imm⟩
  | .bnz a pg imm => packCI 0x03 ⟨0, a, pg, imm⟩
  | .jal pg pn off => packCB 0x04 ⟨pg, (b1 pn), off⟩
  | .jalr d a pg imm => packCI 0x05 ⟨d, a, pg, imm⟩
  | .ret a pg pn => packCR 0x06 ⟨0, a, 0, pg, (b1 pn), 0⟩
  | .loopi k len pg cnt => packCI 0x08 ⟨(loopD 0 k), len, pg, cnt⟩
  | .loopr k a pg len => packCI 0x08 ⟨(loopD 1 k), a, pg, len⟩
  | .repi pg cnt => packCI 0x08 ⟨(loopD 2 false), 0, pg, cnt⟩
  | .repr a pg => packCI 0x08 ⟨(loopD 3 false), a, pg, 0⟩
  | .ldb x b pg sc off => packCM 0x09 ⟨x, b, pg, (sc.code), off⟩
  | .ldbu x b pg sc off => packCM 0x0A ⟨x, b, pg, (sc.code), off⟩
  | .ldh x b pg sc off => packCM 0x0B ⟨x, b, pg, (sc.code), off⟩
  | .ldhu x b pg sc off => packCM 0x0C ⟨x, b, pg, (sc.code), off⟩
  | .ldw x b pg sc off => packCM 0x0D ⟨x, b, pg, (sc.code), off⟩
  | .ldwu x b pg sc off => packCM 0x0E ⟨x, b, pg, (sc.code), off⟩
  | .ldd x b pg sc off => packCM 0x0F ⟨x, b, pg, (sc.code), off⟩
  | .stb x b pg sc off => packCM 0x10 ⟨x, b, pg, (sc.code), off⟩
  | .sth x b pg sc off => packCM 0x11 ⟨x, b, pg, (sc.code), off⟩
  | .stw x b pg sc off => packCM 0x12 ⟨x, b, pg, (sc.code), off⟩
  | .std x b pg sc off => packCM 0x13 ⟨x, b, pg, (sc.code), off⟩
  | .ldbX a b c pg mode mig => packCX 0x14 ⟨a, b, c, pg, (hi2 mode.code (b1 mig)), 0⟩
  | .ldbuX a b c pg mode mig => packCX 0x14 ⟨a, b, c, pg, (hi2 mode.code (b1 mig)), 1⟩
  | .ldhX a b c pg mode mig => packCX 0x14 ⟨a, b, c, pg, (hi2 mode.code (b1 mig)), 2⟩
  | .ldhuX a b c pg mode mig => packCX 0x14 ⟨a, b, c, pg, (hi2 mode.code (b1 mig)), 3⟩
  | .ldwX a b c pg mode mig => packCX 0x14 ⟨a, b, c, pg, (hi2 mode.code (b1 mig)), 4⟩
  | .ldwuX a b c pg mode mig => packCX 0x14 ⟨a, b, c, pg, (hi2 mode.code (b1 mig)), 5⟩
  | .lddX a b c pg mode mig => packCX 0x14 ⟨a, b, c, pg, (hi2 mode.code (b1 mig)), 6⟩
  | .ldq a b c pg mode mig => packCX 0x14 ⟨a, b, c, pg, (hi2 mode.code (b1 mig)), 7⟩
  | .stbX a b c pg mode mig => packCX 0x14 ⟨a, b, c, pg, (hi2 mode.code (b1 mig)), 8⟩
  | .sthX a b c pg mode mig => packCX 0x14 ⟨a, b, c, pg, (hi2 mode.code (b1 mig)), 9⟩
  | .stwX a b c pg mode mig => packCX 0x14 ⟨a, b, c, pg, (hi2 mode.code (b1 mig)), 10⟩
  | .stdX a b c pg mode mig => packCX 0x14 ⟨a, b, c, pg, (hi2 mode.code (b1 mig)), 11⟩
  | .stq a b c pg mode mig => packCX 0x14 ⟨a, b, c, pg, (hi2 mode.code (b1 mig)), 12⟩
  | .ldff a b pg sc w => packCX 0x15 ⟨a, b, (w.cField), pg, 0, (two2 sc.code w.kind)⟩
  | .ldfe a b pg sc w => packCX 0x15 ⟨a, b, (w.cField), pg, 1, (two2 sc.code w.kind)⟩
  | .stef a b pg sc w => packCX 0x15 ⟨a, b, (w.cField), pg, 2, (two2 sc.code w.kind)⟩
  | .stsf a b pg sc w => packCX 0x15 ⟨a, b, (w.cField), pg, 3, (two2 sc.code w.kind)⟩
  | .ferd a b pg sc => packCX 0x15 ⟨a, b, 0, pg, 4, (two2 sc.code 0)⟩
  | .feset b pg sc => packCX 0x15 ⟨0, b, 0, pg, 5, (two2 sc.code 0)⟩
  | .feclr b pg sc => packCX 0x15 ⟨0, b, 0, pg, 6, (two2 sc.code 0)⟩
  | .aadd dbl a b c pg sc => packCX (if dbl then 0x17 else 0x16) ⟨a, b, c, pg, (hi2 sc.code 0), 0⟩
  | .aand dbl a b c pg sc => packCX (if dbl then 0x17 else 0x16) ⟨a, b, c, pg, (hi2 sc.code 0), 1⟩
  | .aor dbl a b c pg sc => packCX (if dbl then 0x17 else 0x16) ⟨a, b, c, pg, (hi2 sc.code 0), 2⟩
  | .axor dbl a b c pg sc => packCX (if dbl then 0x17 else 0x16) ⟨a, b, c, pg, (hi2 sc.code 0), 3⟩
  | .amin dbl a b c pg sc => packCX (if dbl then 0x17 else 0x16) ⟨a, b, c, pg, (hi2 sc.code 0), 4⟩
  | .amax dbl a b c pg sc => packCX (if dbl then 0x17 else 0x16) ⟨a, b, c, pg, (hi2 sc.code 0), 5⟩
  | .aminu dbl a b c pg sc => packCX (if dbl then 0x17 else 0x16) ⟨a, b, c, pg, (hi2 sc.code 0), 6⟩
  | .amaxu dbl a b c pg sc => packCX (if dbl then 0x17 else 0x16) ⟨a, b, c, pg, (hi2 sc.code 0), 7⟩
  | .aswap dbl a b c pg sc => packCX (if dbl then 0x17 else 0x16) ⟨a, b, c, pg, (hi2 sc.code 0), 8⟩
  | .acas dbl a b c pg sc => packCX (if dbl then 0x17 else 0x16) ⟨a, b, c, pg, (hi2 sc.code 0), 9⟩
  | .afadd a b c pg sc => packCX 0x16 ⟨a, b, c, pg, (hi2 sc.code 0), 10⟩
  | .fence mask pg sc => packCX 0x18 ⟨0, 0, (mask.setWidth 5), pg, (hi2 sc.code 0), 0⟩
  | .fencer a b mask pg sc => packCX 0x18 ⟨a, b, (mask.setWidth 5), pg, (hi2 sc.code 0), 1⟩
  | .ifence pg => packCX 0x18 ⟨0, 0, 0, pg, 0, 2⟩
  | .fenceTl pg sc => packCX 0x18 ⟨0, 0, 0, pg, (hi2 sc.code 0), 3⟩
  | .agf a pg => packCX 0x18 ⟨a, 0, 0, pg, 0, 4⟩
  | .agw pg => packCX 0x18 ⟨0, 0, 0, pg, 0, 5⟩
  | .vld v b mg sc off => packCM 0x19 ⟨v, b, mg, (sc.code), off⟩
  | .vst v b mg sc off => packCM 0x1A ⟨v, b, mg, (sc.code), off⟩
  | .vlds v b c mg mt => packCX 0x1B ⟨v, b, c, mg, (mt.code), 0⟩
  | .vldx v b c mg mt => packCX 0x1B ⟨v, b, c, mg, (mt.code), 1⟩
  | .vldb v b mg mt => packCX 0x1B ⟨v, b, 0, mg, (mt.code), 2⟩
  | .vsts v b c mg => packCX 0x1B ⟨v, b, c, mg, 0, 3⟩
  | .vstx v b c mg => packCX 0x1B ⟨v, b, c, mg, 0, 4⟩
  | .vstn v b mode mg fmt => packCX 0x1C ⟨v, b, (mode.code.setWidth 5), mg, (fmt.code), 0⟩
  | .vspill v b => packCX 0x1C ⟨v, b, 0, 0, 0, 1⟩
  | .vfill v b => packCX 0x1C ⟨v, b, 0, 0, 0, 2⟩
  | .fstn a b mode pg fmt => packCX 0x1C ⟨a, b, (mode.code.setWidth 5), pg, (fmt.code), 3⟩
  | .tcopy a b c pg tag => packCX 0x1D ⟨a, b, c, pg, tag, 0⟩
  | .tcopy2d a b c pg tag => packCX 0x1D ⟨a, b, c, pg, tag, 1⟩
  | .tgather a b c pg tag => packCX 0x1D ⟨a, b, c, pg, tag, 2⟩
  | .tscatter a b c pg tag => packCX 0x1D ⟨a, b, c, pg, tag, 3⟩
  | .tfill a b c pg tag => packCX 0x1D ⟨a, b, c, pg, tag, 4⟩
  | .twait sel pg => packCX 0x1D ⟨0, 0, (sel.cField), pg, (sel.flField), 5⟩
  | .qenq a b c pg len => packCX 0x1E ⟨a, b, c, pg, len, 0⟩
  | .qdeq a b c pg q => packCX 0x1E ⟨a, b, c, pg, q, 1⟩
  | .qtry a b c pg len => packCX 0x1E ⟨a, b, (c.setWidth 5), pg, len, 2⟩
  | .qpoll a b c pg q => packCX 0x1E ⟨a, b, (c.setWidth 5), pg, q, 3⟩
  | .callat d b c pg => packCX 0x1E ⟨d, b, c, pg, 0, 4⟩
  | .retv a pg => packCX 0x1E ⟨a, 0, 0, pg, 0, 5⟩
  | .amsg b c pg => packCX 0x1E ⟨0, b, c, pg, 0, 6⟩
  | .amsgRet d b c pg => packCX 0x1E ⟨d, b, c, pg, 1, 6⟩
  | .frame a b c pg => packCX 0x1F ⟨a, b, c, pg, 0, 0⟩
  | .spawn a b pg => packCX 0x1F ⟨a, b, 0, pg, 0, 1⟩
  | .sync a pg => packCX 0x1F ⟨a, 0, 0, pg, 0, 2⟩
  | .tend a pg => packCX 0x1F ⟨a, 0, 0, pg, 0, 3⟩
  | .publish a b pg => packCX 0x1F ⟨a, b, 0, pg, 0, 4⟩
  | .launch a c pg => packCX 0x1F ⟨a, 0, (c.setWidth 5), pg, 0, 5⟩
  | .shrd a n pg => packCX 0x20 ⟨a, 0, (n.setWidth 5), pg, 0, 0⟩
  | .shwr a n pg => packCX 0x20 ⟨a, 0, (n.setWidth 5), pg, 0, 1⟩
  | .semp n pg => packCX 0x20 ⟨0, 0, (n.setWidth 5), pg, 0, 2⟩
  | .semv n pg => packCX 0x20 ⟨0, 0, (n.setWidth 5), pg, 0, 3⟩
  | .bar n pg sc => packCX 0x20 ⟨0, 0, (n.setWidth 5), pg, (hi2 sc.code 0), 4⟩
  | .xborrow b c pg => packCX 0x20 ⟨0, b, (c.setWidth 5), pg, 0, 5⟩
  | .xmov a b pg vec toBorrowed => packCX 0x20 ⟨a, b, 0, pg, (hi2 (if vec then 1 else 0) (b1 toBorrowed)), 6⟩
  | .xreturn pg => packCX 0x20 ⟨0, 0, 0, pg, 0, 7⟩
  | .migrate a b pg => packCX 0x20 ⟨a, b, 0, pg, 0, 8⟩
  | .hbeat pg => packCX 0x20 ⟨0, 0, 0, pg, 0, 9⟩
  | .waitt a pg => packCX 0x20 ⟨a, 0, 0, pg, 0, 10⟩
  | .yield pg => packCX 0x20 ⟨0, 0, 0, pg, 0, 11⟩
  | .sysc n => packCX 0x21 ⟨(n.extractLsb' 10 5), (n.extractLsb' 5 5), (n.extractLsb' 0 5), 0, 0, 0⟩
  | .brk n => packCX 0x21 ⟨(n.extractLsb' 10 5), (n.extractLsb' 5 5), (n.extractLsb' 0 5), 0, 0, 1⟩
  | .xret pg => packCX 0x21 ⟨0, 0, 0, pg, 0, 2⟩
  | .tlbinv a pg sc => packCX 0x21 ⟨a, 0, 0, pg, (hi2 sc.code 0), 3⟩
  | .cctlWb a b pg => packCX 0x21 ⟨a, b, 0, pg, 0, 4⟩
  | .cctlInv a b pg => packCX 0x21 ⟨a, b, 0, pg, 1, 4⟩
  | .cctlWbinv a b pg => packCX 0x21 ⟨a, b, 0, pg, 2, 4⟩
  | .cctlPrefetch a b pg => packCX 0x21 ⟨a, b, 0, pg, 3, 4⟩
  | .cctlWbL1d pg => packCX 0x21 ⟨0, 0, 0, pg, 4, 4⟩
  | .cctlInvCc pg => packCX 0x21 ⟨0, 0, 0, pg, 5, 4⟩
  | .cctlSetCc a pg => packCX 0x21 ⟨a, 0, 0, pg, 6, 4⟩
  | .crrd d pg n => packCI 0x22 ⟨d, 0, pg, n⟩
  | .crwr a pg n => packCI 0x22 ⟨0, a, pg, n⟩
  | .crswp d a pg n => packCI 0x22 ⟨d, a, pg, n⟩
  | .add t d a b pg => packAR 0x01 ⟨d, a, b, 0, (t.code), pg⟩
  | .sub t d a b pg => packAR 0x01 ⟨d, a, b, 1, (t.code), pg⟩
  | .and t d a b pg => packAR 0x01 ⟨d, a, b, 2, (t.code), pg⟩
  | .or t d a b pg => packAR 0x01 ⟨d, a, b, 3, (t.code), pg⟩
  | .xor t d a b pg => packAR 0x01 ⟨d, a, b, 4, (t.code), pg⟩
  | .andn t d a b pg => packAR 0x01 ⟨d, a, b, 5, (t.code), pg⟩
  | .shl t d a b pg => packAR 0x01 ⟨d, a, b, 6, (t.code), pg⟩
  | .shr t d a b pg => packAR 0x01 ⟨d, a, b, 7, (t.code), pg⟩
  | .sra t d a b pg => packAR 0x01 ⟨d, a, b, 8, (t.code), pg⟩
  | .ror t d a b pg => packAR 0x01 ⟨d, a, b, 9, (t.code), pg⟩
  | .min t d a b pg => packAR 0x01 ⟨d, a, b, 10, (t.code), pg⟩
  | .max t d a b pg => packAR 0x01 ⟨d, a, b, 11, (t.code), pg⟩
  | .minu t d a b pg => packAR 0x01 ⟨d, a, b, 12, (t.code), pg⟩
  | .maxu t d a b pg => packAR 0x01 ⟨d, a, b, 13, (t.code), pg⟩
  | .mul t d a b pg => packAR 0x01 ⟨d, a, b, 14, (t.code), pg⟩
  | .mulh t d a b pg => packAR 0x01 ⟨d, a, b, 15, (t.code), pg⟩
  | .mulhu t d a b pg => packAR 0x01 ⟨d, a, b, 16, (t.code), pg⟩
  | .div t d a b pg => packAR 0x01 ⟨d, a, b, 17, (t.code), pg⟩
  | .divu t d a b pg => packAR 0x01 ⟨d, a, b, 18, (t.code), pg⟩
  | .rem t d a b pg => packAR 0x01 ⟨d, a, b, 19, (t.code), pg⟩
  | .remu t d a b pg => packAR 0x01 ⟨d, a, b, 20, (t.code), pg⟩
  | .clz t d a pg => packAR 0x02 ⟨d, a, 0, 0, (t.code), pg⟩
  | .ctz t d a pg => packAR 0x02 ⟨d, a, 0, 1, (t.code), pg⟩
  | .popc t d a pg => packAR 0x02 ⟨d, a, 0, 2, (t.code), pg⟩
  | .sext sz d a pg => packAR 0x02 ⟨d, a, 0, 3, (sz.code), pg⟩
  | .zext sz d a pg => packAR 0x02 ⟨d, a, 0, 4, (sz.code), pg⟩
  | .bfx d a b pg => packAR 0x02 ⟨d, a, b, 5, 0, pg⟩
  | .bfxu d a b pg => packAR 0x02 ⟨d, a, b, 6, 0, pg⟩
  | .bfi d a b pg => packAR 0x02 ⟨d, a, b, 7, 0, pg⟩
  | .cmpeq t d a b pg => packAR 0x03 ⟨(d.setWidth 5), a, b, 0, (t.code), pg⟩
  | .cmpne t d a b pg => packAR 0x03 ⟨(d.setWidth 5), a, b, 1, (t.code), pg⟩
  | .cmplt t d a b pg => packAR 0x03 ⟨(d.setWidth 5), a, b, 2, (t.code), pg⟩
  | .cmple t d a b pg => packAR 0x03 ⟨(d.setWidth 5), a, b, 3, (t.code), pg⟩
  | .cmpltu t d a b pg => packAR 0x03 ⟨(d.setWidth 5), a, b, 4, (t.code), pg⟩
  | .cmpleu t d a b pg => packAR 0x03 ⟨(d.setWidth 5), a, b, 5, (t.code), pg⟩
  | .pand d a b pg => packAR 0x03 ⟨(d.setWidth 5), (a.setWidth 5), (b.setWidth 5), 8, 0, pg⟩
  | .por d a b pg => packAR 0x03 ⟨(d.setWidth 5), (a.setWidth 5), (b.setWidth 5), 9, 0, pg⟩
  | .pxor d a b pg => packAR 0x03 ⟨(d.setWidth 5), (a.setWidth 5), (b.setWidth 5), 10, 0, pg⟩
  | .pandn d a b pg => packAR 0x03 ⟨(d.setWidth 5), (a.setWidth 5), (b.setWidth 5), 11, 0, pg⟩
  | .pnot d a pg => packAR 0x03 ⟨(d.setWidth 5), (a.setWidth 5), 0, 12, 0, pg⟩
  | .prd d pg => packAR 0x03 ⟨d, 0, 0, 14, 0, pg⟩
  | .pwr a pg => packAR 0x03 ⟨0, a, 0, 15, 0, pg⟩
  | .addi d a imm pg => packAI 0x04 ⟨d, a, imm, pg⟩
  | .andi d a imm pg => packAI 0x05 ⟨d, a, imm, pg⟩
  | .ori d a imm pg => packAI 0x06 ⟨d, a, imm, pg⟩
  | .xori d a imm pg => packAI 0x07 ⟨d, a, imm, pg⟩
  | .shli d a sh pg => packAI 0x08 ⟨d, a, (shImm 0 sh), pg⟩
  | .shri d a sh pg => packAI 0x08 ⟨d, a, (shImm 1 sh), pg⟩
  | .srai d a sh pg => packAI 0x08 ⟨d, a, (shImm 2 sh), pg⟩
  | .rori d a sh pg => packAI 0x08 ⟨d, a, (shImm 3 sh), pg⟩
  | .movi d imm pg => packAI 0x09 ⟨d, 0, imm, pg⟩
  | .movh d k imm pg => packAI 0x09 ⟨d, (k.setWidth 5), imm, pg⟩
  | .lea d a b sh pg => packAR 0x0A ⟨d, a, b, 0, sh, pg⟩
  | .cvta d a pg => packAR 0x0A ⟨d, a, 0, 1, 0, pg⟩
  | .sel d q a b pg => packAR 0x0A ⟨d, a, b, 2, q, pg⟩
  | .mov d a pg => packAR 0x0A ⟨d, a, 0, 3, 0, pg⟩
  | .fadd t d a b pg => packAR 0x0B ⟨d, a, b, 0, (t.code), pg⟩
  | .fsub t d a b pg => packAR 0x0B ⟨d, a, b, 1, (t.code), pg⟩
  | .fmul t d a b pg => packAR 0x0B ⟨d, a, b, 2, (t.code), pg⟩
  | .fdiv t d a b pg => packAR 0x0B ⟨d, a, b, 3, (t.code), pg⟩
  | .fsqrt t d a pg => packAR 0x0B ⟨d, a, 0, 4, (t.code), pg⟩
  | .ffma t d a b c pg => packAR 0x0C ⟨d, a, b, c, (t.code), pg⟩
  | .fmin t d a b pg => packAR 0x0B ⟨d, a, b, 5, (t.code), pg⟩
  | .fmax t d a b pg => packAR 0x0B ⟨d, a, b, 6, (t.code), pg⟩
  | .fneg d a pg => packAR 0x0E ⟨d, a, 0, 0, 0, pg⟩
  | .fabs d a pg => packAR 0x0E ⟨d, a, 0, 1, 0, pg⟩
  | .fcmpeq d a b pg => packAR 0x0D ⟨(d.setWidth 5), a, b, 0, 0, pg⟩
  | .fcmplt d a b pg => packAR 0x0D ⟨(d.setWidth 5), a, b, 1, 0, pg⟩
  | .fcmple d a b pg => packAR 0x0D ⟨(d.setWidth 5), a, b, 2, 0, pg⟩
  | .fcmpun d a b pg => packAR 0x0D ⟨(d.setWidth 5), a, b, 3, 0, pg⟩
  | .fclass d a pg => packAR 0x0D ⟨d, a, 0, 4, 0, pg⟩
  | .fcvt t d a pg => packAR 0x0E ⟨d, a, 0, 2, (t.code), pg⟩
  | .fcvtif t d a pg => packAR 0x0E ⟨d, a, 0, 3, (t.code), pg⟩
  | .fcvtfi d a pg => packAR 0x0E ⟨d, a, 0, 4, 0, pg⟩
  | .fstk d a b pg => packAR 0x0E ⟨d, a, b, 5, 0, pg⟩
  | .fstkr d a pg => packAR 0x0E ⟨d, a, 0, 6, 0, pg⟩
  | .vadd t d a b mg => packAR 0x10 ⟨d, a, b, 0, (t.code), mg⟩
  | .vsub t d a b mg => packAR 0x10 ⟨d, a, b, 1, (t.code), mg⟩
  | .vand t d a b mg => packAR 0x10 ⟨d, a, b, 2, (t.code), mg⟩
  | .vor t d a b mg => packAR 0x10 ⟨d, a, b, 3, (t.code), mg⟩
  | .vxor t d a b mg => packAR 0x10 ⟨d, a, b, 4, (t.code), mg⟩
  | .vandn t d a b mg => packAR 0x10 ⟨d, a, b, 5, (t.code), mg⟩
  | .vshl t d a b mg => packAR 0x10 ⟨d, a, b, 6, (t.code), mg⟩
  | .vshr t d a b mg => packAR 0x10 ⟨d, a, b, 7, (t.code), mg⟩
  | .vsra t d a b mg => packAR 0x10 ⟨d, a, b, 8, (t.code), mg⟩
  | .vmin t d a b mg => packAR 0x10 ⟨d, a, b, 9, (t.code), mg⟩
  | .vmax t d a b mg => packAR 0x10 ⟨d, a, b, 10, (t.code), mg⟩
  | .vmul t d a b mg => packAR 0x10 ⟨d, a, b, 11, (t.code), mg⟩
  | .vmulh t d a b mg => packAR 0x10 ⟨d, a, b, 12, (t.code), mg⟩
  | .vcmpeq t d a b mg => packAR 0x11 ⟨(d.setWidth 5), a, b, 0, (t.code), mg⟩
  | .vcmpne t d a b mg => packAR 0x11 ⟨(d.setWidth 5), a, b, 1, (t.code), mg⟩
  | .vcmplt t d a b mg => packAR 0x11 ⟨(d.setWidth 5), a, b, 2, (t.code), mg⟩
  | .vcmple t d a b mg => packAR 0x11 ⟨(d.setWidth 5), a, b, 3, (t.code), mg⟩
  | .mand d a b mg => packAR 0x12 ⟨(d.setWidth 5), (a.setWidth 5), (b.setWidth 5), 0, 0, mg⟩
  | .mor d a b mg => packAR 0x12 ⟨(d.setWidth 5), (a.setWidth 5), (b.setWidth 5), 1, 0, mg⟩
  | .mxor d a b mg => packAR 0x12 ⟨(d.setWidth 5), (a.setWidth 5), (b.setWidth 5), 2, 0, mg⟩
  | .mandn d a b mg => packAR 0x12 ⟨(d.setWidth 5), (a.setWidth 5), (b.setWidth 5), 3, 0, mg⟩
  | .mnot d a mg => packAR 0x12 ⟨(d.setWidth 5), (a.setWidth 5), 0, 4, 0, mg⟩
  | .mpopc d a mg => packAR 0x12 ⟨d, (a.setWidth 5), 0, 5, 0, mg⟩
  | .mfromg d a mg => packAR 0x12 ⟨(d.setWidth 5), a, 0, 6, 0, mg⟩
  | .mtog d a mg => packAR 0x12 ⟨d, (a.setWidth 5), 0, 7, 0, mg⟩
  | .vfadd t d a b mg => packAR 0x13 ⟨d, a, b, 0, (t.code), mg⟩
  | .vfsub t d a b mg => packAR 0x13 ⟨d, a, b, 1, (t.code), mg⟩
  | .vfmul t d a b mg => packAR 0x13 ⟨d, a, b, 2, (t.code), mg⟩
  | .vfdiv t d a b mg => packAR 0x13 ⟨d, a, b, 3, (t.code), mg⟩
  | .vfsqrt t d a mg => packAR 0x13 ⟨d, a, 0, 4, (t.code), mg⟩
  | .vfmin t d a b mg => packAR 0x13 ⟨d, a, b, 5, (t.code), mg⟩
  | .vfmax t d a b mg => packAR 0x13 ⟨d, a, b, 6, (t.code), mg⟩
  | .vfneg d a mg => packAR 0x13 ⟨d, a, 0, 7, 0, mg⟩
  | .vfabs d a mg => packAR 0x13 ⟨d, a, 0, 8, 0, mg⟩
  | .vffma t d a b c mg => packAR 0x14 ⟨d, a, b, c, (t.code), mg⟩
  | .vfcmpeq d a b mg => packAR 0x15 ⟨(d.setWidth 5), a, b, 0, 0, mg⟩
  | .vfcmplt d a b mg => packAR 0x15 ⟨(d.setWidth 5), a, b, 1, 0, mg⟩
  | .vfcmple d a b mg => packAR 0x15 ⟨(d.setWidth 5), a, b, 2, 0, mg⟩
  | .vfcmpun d a b mg => packAR 0x15 ⟨(d.setWidth 5), a, b, 3, 0, mg⟩
  | .vfred t d a mg => packAR 0x15 ⟨d, a, 0, 4, (t.code), mg⟩
  | .vfrmin t d a mg => packAR 0x15 ⟨d, a, 0, 5, (t.code), mg⟩
  | .vfrmax t d a mg => packAR 0x15 ⟨d, a, 0, 6, (t.code), mg⟩
  | .vfcvt t d a mg => packAR 0x16 ⟨d, a, 0, 0, (t.code), mg⟩
  | .vfcvtif t d a mg => packAR 0x16 ⟨d, a, 0, 1, (t.code), mg⟩
  | .vfcvtfi d a mg => packAR 0x16 ⟨d, a, 0, 2, 0, mg⟩
  | .vfrcp t d a mg => packAR 0x16 ⟨d, a, 0, 3, (t.code), mg⟩
  | .vfrsqrt t d a mg => packAR 0x16 ⟨d, a, 0, 4, (t.code), mg⟩
  | .vfexp2 t d a mg => packAR 0x16 ⟨d, a, 0, 5, (t.code), mg⟩
  | .vflog2 t d a mg => packAR 0x16 ⟨d, a, 0, 6, (t.code), mg⟩
  | .vperm d a b mg => packAR 0x17 ⟨d, a, b, 0, 0, mg⟩
  | .vslide d a b mg => packAR 0x17 ⟨d, a, b, 1, 0, mg⟩
  | .vzip d a b mg => packAR 0x17 ⟨d, a, b, 2, 0, mg⟩
  | .vunzip d a mg => packAR 0x17 ⟨d, a, 0, 3, 0, mg⟩
  | .vbcast d a mg => packAR 0x17 ⟨d, a, 0, 4, 0, mg⟩
  | .vcompress d a mg => packAR 0x17 ⟨d, a, 0, 5, 0, mg⟩
  | .vexpand d a mg => packAR 0x17 ⟨d, a, 0, 6, 0, mg⟩
  | .vmov d a mg => packAR 0x17 ⟨d, a, 0, 7, 0, mg⟩
  | .vins d a b mg => packAR 0x19 ⟨d, a, b, 2, 0, mg⟩
  | .vext d a b mg => packAR 0x19 ⟨d, a, b, 3, 0, mg⟩
  | .rngh d a b mg => packAR 0x19 ⟨d, a, b, 0, 0, mg⟩
  | .vrngh d a b mg => packAR 0x19 ⟨d, a, b, 1, 0, mg⟩
  | .vqmx fmt mode d b a mg => packAR 0x18 ⟨d, a, b, (mode.code.setWidth 5), (fmt.code), mg⟩
  | .vdqmx fmt d a b mg => packAR 0x18 ⟨d, a, b, 8, (fmt.code), mg⟩
  | .vpack fmt mode d a mg => packAR 0x18 ⟨d, a, 0, (16 + mode.code.setWidth 5), (fmt.code), mg⟩
  | .mset sel a pg => packAR 0x1A ⟨0, a, (sel.code), 0, 0, pg⟩
  | .mzero k a pg => packAR 0x1A ⟨(k.setWidth 5), a, 0, 1, 0, pg⟩
  | .mlda sc k a b pg => packAR 0x1A ⟨(sc.code ++ k), a, b, 2, 0, pg⟩
  | .msta fmt sc mode k a b pg => packAR 0x1A ⟨(sc.code ++ k), a, b, (24 + mode.code.setWidth 5), (fmt.code), pg⟩
  | .mseed a pg => packAR 0x1A ⟨0, a, 0, 3, 0, pg⟩
  | .mring a b pg => packAR 0x1A ⟨0, a, b, 5, 0, pg⟩
  | .mwait pg => packAR 0x1A ⟨0, 0, 0, 4, 0, pg⟩
  | .mma fa fb k n m ga gs fl => packAM fa.major ⟨(fb.code), k, n, m, ga, gs, (fl.code)⟩
  | .mmaBf16 k n m ga fl => packAM 0x26 ⟨0, k, n, m, ga, 0, (fl.code)⟩
  | _ => 0

/-- Whether a constructor is an instruction with a word, and not a step of the device: the first 266 are. -/
def Instr.hasWord (i : Instr) : Bool := decide (i.ctorIdx < 266)
/-- R50, R57: whether it is C-class: the first 117 are. -/
def Instr.isC (i : Instr) : Bool := decide (i.ctorIdx < 117)
/-- The decoding of a word of an instruction's class. -/
noncomputable def Instr.decodeAs (i : Instr) (w : W32) : Except DecodeError Instr := if i.isC then decodeC w else decodeA w

end Sys2Proof
end

