-- ==== Sys2Proof/Machine/State.lean ====
section
/-!
DEFINITION. The state of the device: plain data, one home for each register, each field's value after reset as its default.
INVENTORY.md lists every piece with the rule that names it; log 4 names the values the spec does not give.
-/
namespace Sys2Proof.Machine
open Sys2Proof

/-- A table by number; a number not listed reads as the default the accessor names (Machine/Ops.lean). -/
abbrev Tbl (α : Type) := List (Nat × α)

/-! ### Strands (03_encoding.md R63 to R68; 10_execution_model.md R243) -/

/-- R63: the 66-bit image of a `g` register. -/
structure GReg where
  data : W64 := 0
  s : Bool := false
  full : Bool := true
deriving DecidableEq, Repr

/-- R67: a vector register, 32 lanes of `w` and, in one word, their S. -/
structure VReg where
  w : Vector W32 32 := Vector.replicate 32 0
  s : BitVec 32 := 0
deriving DecidableEq, Repr

/-- R231: `FCSR`. -/
structure Fcsr where
  seed : W32 := 1
  ovf : Bool := false
  fen : BitVec 5 := 0
  frm : BV3 := 0
  fflags : BitVec 5 := 0
deriving DecidableEq, Repr

/-- R135: a hardware loop. -/
structure HwLoop where
  cnt : W32 := 0
  beg : BitVec 57 := 0
  fin : BitVec 57 := 0
deriving DecidableEq, Repr

/-- R73, R232: the trap registers. `XSTAT.BH` and `BSLOT` are read from the borrow record. -/
structure TrapRegs where
  cause : W64 := 0
  value : W64 := 0
  pc : W64 := 0
  vec : W64 := 0
  scratch : W64 := 0
  lv : Bool := false
  pf : Bool := false
  pp : Bool := false
deriving DecidableEq, Repr

/-- R192: a strand's engine state. -/
structure EngState where
  kvalid : BitVec 11 := 1024
  sparseM : BV2 := 0
  sparseN : BV4 := 0
  metaBase : W64 := 0
  ring : BV2 := 0
  acc : Vector (BitVec 14) 8 := Vector.replicate 8 0
deriving DecidableEq, Repr

/-- R119, R244: where a strand's private area lies. -/
structure PrivArea where
  core : Nat := 0
  off : Nat := 0
  size : Nat := 256
deriving DecidableEq, Repr

/-- R74: the issuer of an access: its core and partition, its privilege and private area. -/
structure Actor where
  core : Nat := 0
  part : Nat := 0
  priv : Bool := false
  priva : PrivArea := { }
deriving DecidableEq, Repr

/-- R259: a borrowed slot and its registers. R223 starts the `g` registers at 0 and is silent on the vector registers: the model starts
them at 0 too (DESIGN CHOICE, log 4). -/
structure Borrow where
  slot : Nat
  vcount : Nat
  g : Vector GReg 32 := Vector.replicate 32 { }
  v : Vector VReg 32 := Vector.replicate 32 { }
deriving DecidableEq, Repr

/-- R211, R255: who waits for a callee's reply. -/
structure Caller where
  dev : Nat := 0
  core : Nat := 0
  slot : Nat := 0
  req : Nat := 0
deriving DecidableEq, Repr

/-- R243, R247, R252: how a strand came to be. -/
inductive Role where
  | root | thief | gang (gid : Nat) | callee (caller : Caller)
deriving DecidableEq, Repr

/-- R393, R395: what a packet for another device will be answered by. -/
inductive FabKey where
  | req (id : Nat)
  | agg (core seq : Nat)
deriving DecidableEq, Repr

/-- R159: an access that used a dropped translation: the packet or request that carries it, its core, and what answers it where it goes to
another device. -/
structure TlbUse where
  id : Nat
  core : Nat
  key : Option FabKey := none
deriving DecidableEq, Repr

/-- A strand's whole context. -/
structure Strand where
  /-- the strand's identity, so that a late reply finds its own strand -/
  sid : Nat := 0
  pc : W64 := 0
  g : Vector GReg 32 := Vector.replicate 32 { }
  p : BitVec 8 := 1
  m : Vector W32 8 := (Vector.replicate 8 0).set 0 0xFFFFFFFF
  v : Vector VReg 32 := Vector.replicate 32 { }
  /-- R184: registers whose load has not wholly arrived -/
  vpend : BitVec 32 := 0
  valloc : BV6 := 0
  fcsr : Fcsr := { }
  loop0 : HwLoop := { }
  loop1 : HwLoop := { }
  repc : W32 := 0
  /-- R139: loop and repeat checks are suspended -/
  checksOff : Bool := false
  priv : Bool := false
  x : TrapRegs := { }
  hbi : W32 := 0
  /-- R284: the heartbeat counter -/
  hbc : W32 := 0
  /-- R284: it was set in this cycle, so it counts from the next one -/
  hbNew : Bool := true
  agage : BitVec 13 := 512
  /-- R75: the `AGAGE` that stood at the start of this cycle, where it has been written since -/
  agageOld : Option (BitVec 13) := none
  eng : EngState := { }
  /-- R191: an engine fault not yet reported -/
  meFault : Bool := false
  /-- R207: tags with a faulted command -/
  teFaulted : BitVec 8 := 0
  /-- R75: aggregated elements not yet acknowledged -/
  unackElems : Nat := 0
  /-- R144: direct writes not yet acknowledged -/
  unackWrites : Nat := 0
  /-- R159: accesses that used translations its `TLBINV`s dropped -/
  tlbWait : List TlbUse := []
  /-- R159: its `TLBINV`s by page, none for all pages, and the scope at which each has been performed -/
  tlbInvs : List (Option Nat × Scope) := []
  priva : PrivArea := { }
  borrow : Option Borrow := none
  role : Role := .root
  /-- the partition the strand runs in (R230 `PARTID`) -/
  part : Nat := 0
  /-- the job, by the number the model gives it -/
  job : Option Nat := none
deriving DecidableEq, Repr

/-- R240: what holds a strand. -/
inductive Hold where
  /-- R65: a register named by the next bundle is empty -/
  | regs
  /-- R191, R203, R275: a full matrix or transfer engine's queue, or both -/
  | meQueue | teQueue | queues
  /-- R64 -/
  | chainIn | chainOut
  /-- R221 -/
  | semp (n : Nat)
  /-- R225: the strands still awaited, and the cycle at which the wait ends -/
  | yield (others : List Nat) (limit : Nat)
  /-- R104, R165: the cycle at which the bundle takes effect -/
  | extended (until_ : Nat)
  /-- R328: a page walk, and a translation found in the cluster TLB, ready at that cycle -/
  | walk
  | tlbFill (until_ : Nat)
  /-- R380: accesses wait for a fill at the home of a line; the bundle is tried again at that cycle -/
  | homeBusy (until_ : Nat)
  /-- R142, R153: replies still to come -/
  | replies
  /-- R144, R161: acknowledgements; the bundle is issued again when they have come (R238) -/
  | acks
  /-- R207 -/
  | teDone
  /-- R202 -/
  | meDone
  /-- R222 -/
  | barrier (n : Nat)
  /-- R225 -/
  | gtime (t : W64)
  /-- R152: a sync access, by its request -/
  | syncWait (req : Nat)
  /-- R152: the access is sent again at that cycle -/
  | syncBusy (req : Nat) (at_ : Nat)
  /-- R209: a `QENQ`, by its request, and the cycle of its limit -/
  | qenq (req : Nat) (limit : Nat)
  | qenqRetry (req : Nat) (at_ : Nat) (limit : Nat)
  /-- R209: a `QDEQ`, its queue and its limit -/
  | qdeq (q : Nat) (limit : Nat)
  /-- R246: the spill of the oldest entry -/
  | spill (until_ : Nat)
  /-- R375: a `Send` that waits for a place -/
  | send
  /-- R141, R205: a transfer-engine range -/
  | scoreboard
  /-- R159: a `FENCE.tl` at a scope -/
  | tlb (sc : Scope)
  /-- R149, R224: departure by migration -/
  | depart
  /-- R245, R285: the strand is removed once its elements and engine commands are done -/
  | removed
deriving DecidableEq, Repr

/-- R240: the states of a slot. A Borrowed slot names the slot of its borrower; a Reserved one its claimant: true for a gang. -/
inductive SlotState where
  | free | reserved (gang : Bool) | ready | waiting (h : Hold) | parked (h : Hold) | borrowed (by_ : Nat)
deriving DecidableEq, Repr

/-- R253: a word of a chain queue, the gang that pushed it, and, while it is still to come, what it waits for: the request that loads
it, or the bundle that may yet trap (R56). Its place is that of its issue. -/
structure ChainWord where
  w : W64
  gid : Nat := 0
  wait : Option Nat := none
deriving DecidableEq, Repr

/-- A bundle that issued and still waits for a reply (R142, R290): what a late fault restores. -/
structure InFlight where
  pc : W64
  /-- the strand as it stood before the bundle -/
  pre : Strand
  /-- requests not yet answered -/
  pending : List Nat
  /-- R64: the word it popped from the chain queue -/
  popped : Option ChainWord := none
  /-- R56: the number under which chain words and matrix commands of the bundle wait until nothing of it can trap -/
  tag : Nat := 0
  /-- R185: the acquire that the bundle takes once all its lanes have arrived -/
  acquire : Scope := .core
  /-- R184: requests numbered from here on are the bundle's own -/
  from_ : Nat := 0
deriving DecidableEq, Repr

/-- R220, R221, R225, R284: what the C word of a bundle has done at its issue, beside an A word that waits after it: a write of a shared
register, with the value it replaced, or another effect. -/
inductive Early where
  | shwr (n : BV4) (old : W64)
  | other
deriving DecidableEq, Repr

structure Slot where
  st : SlotState := .free
  /-- R289: Stopped, with `st` the record of its prior state -/
  stopped : Bool := false
  /-- R238: the bundle at pc has issued and is held by a wait that R238 names -/
  named : Bool := false
  strand : Strand := { }
  inflight : Option InFlight := none
  /-- R241: the cycle of the previous issue, none before the first -/
  lastIssue : Option Nat := none
  /-- the bundle at pc was issued before and held; its issue counts from the first time -/
  again : Bool := false
  /-- R328: the page whose walk has failed for this bundle -/
  walkFault : Option Nat := none
  /-- R149, R224: the target did not take the strand -/
  noMig : Bool := false
  /-- R104: the bundle at pc has waited its extended time -/
  delayDone : Bool := false
  /-- R221: the bundle at pc holds a grant of its `SEMP` -/
  sempGrant : Option BV4 := none
  /-- R275: an entry of the matrix or transfer engine's queue is granted to the bundle at pc -/
  meGrant : Bool := false
  teGrant : Bool := false
  /-- R218, R273: doublewords that the bundle at pc has read, by address -/
  reads : List (W64 × List Byte) := []
  /-- R215: the bundle at pc has sent the step of its `SPAWN` to the counter: a place of the deque is kept for its entry -/
  spawning : Bool := false
  /-- R301: the `MWAIT` at pc has passed the engine -/
  meWaited : Bool := false
  /-- the C word of the bundle at pc has taken effect -/
  early : Option Early := none
  /-- R253: the place in a core's chain queue that the bundle at pc holds from its issue on: the core and the number of the place -/
  place : Option (Nat × Nat) := none
  /-- R229: the vector registers the slot holds of the core's pool, its own -/
  vregs : Nat := 0
deriving DecidableEq, Repr

/-! ### Locations and memory (17_memory_hierarchy.md R321, R324, R339) -/

/-- R74: a translated location. -/
inductive Loc where
  | lm (core off : Nat)
  | csm (cluster off : Nat)
  /-- a partition's HBM or slice memory, by its PA offset (R324) -/
  | hbm (part off : Nat)
  /-- host memory (R324) -/
  | host (addr : Nat)
  /-- the partition area in BAR 0 (R324, R399) -/
  | regs (part off : Nat)
  /-- another device's location, by PA -/
  | dev (pa : Nat)
deriving DecidableEq, Repr

/-- R325: what a translation gives beside the location: cached, key slot, and the VA line for the tweak (R341). -/
structure PageAttr where
  cached : Bool := false
  slot : Nat := 0
deriving DecidableEq, Repr

/-- R328: a translation held by a TLB: the page's partition, its VA and PA base, log2 of its size, and its flags byte. -/
structure TlbEntry where
  part : Nat
  va : Nat
  pa : Nat
  lg : Nat
  flags : BitVec 8
  slot : Nat
deriving DecidableEq, Repr

/-- R328: an access that waits for a walk. -/
structure WalkWaiter where
  core : Nat
  slot : Nat
  sid : Nat
deriving DecidableEq, Repr

/-- R328: a walk, and the accesses that joined it. -/
structure Walk where
  part : Nat
  va : Nat
  waiters : List WalkWaiter
deriving DecidableEq, Repr

/-- R332, R333: a line of an L1D. `excl` is Exclusive; else Leased. -/
structure L1Line where
  part : Nat
  pa : Nat
  data : List Byte
  dirty : BitVec 64 := 0
  excl : Bool := false
  wts : Nat := 0
  rts : Nat := 0
  kslot : Nat := 0
deriving DecidableEq, Repr

/-- R333: a line of a cluster cache. -/
structure CcLine where
  part : Nat
  pa : Nat
  data : List Byte
  dirty : BitVec 64 := 0
  owners : BitVec 16 := 0
  wts : Nat := 0
  rts : Nat := 0
  kslot : Nat := 0
deriving DecidableEq, Repr

/-! ### The network (20_network_slices.md) -/

/-- R370: the units that send and perform packets. -/
inductive Node where
  | core (n : Nat) | slice (n : Nat) | csm (n : Nat) | iod | dev (n : Nat)
deriving DecidableEq, Repr

/-- R368. -/
inductive Chan where | request | reply | aggregated | escape
deriving DecidableEq, Repr

/-- Where the value of a reply goes. -/
inductive Dest where
  | none_
  /-- `size` bytes, extended with sign or zeros (R140) -/
  | g (r : GR) (size : Nat) (sext : Bool)
  | pair (r : GR)
  /-- R155: `m` with the word's S -/
  | gS (r : GR)
  /-- a lane of a vector load (R184) -/
  | lane (v : VR) (i : Nat) (mt : MTy)
  /-- R186: the lanes of a mask, each with the one element read -/
  | bcast (v : VR) (act : W32) (mt : MTy)
  /-- R189: bytes of the image of a vector register, from a byte offset -/
  | image (v : VR) (off : Nat)
  /-- R218, R273: a doubleword that a held bundle reads as a load: it is kept with the slot -/
  | held
deriving DecidableEq, Repr

/-- R214 to R217: a step at a join counter: what `FRAME` sets, with the LM offset and the bytes of its header; what `SPAWN` adds and `TEND`
takes; and what `SYNC` does, with the offset of its header and the PC it leaves there. -/
inductive CtrOp where
  | frame (off : Nat) (header : List Byte)
  | spawn
  | tend
  | sync (off : Nat) (pc : W64)
deriving DecidableEq, Repr

/-- What an access does at its home. -/
inductive AccKind where
  | load
  | store (data : List Byte)
  /-- R188: one nibble of a byte -/
  | nibble (hi : Bool) (code : Byte)
  | atomic (op : AOp) (v cmp : W64) (s : Bool)
  | sync (op : SyncOp) (v : W64) (attempt : Bool)
  /-- R214 to R217: one indivisible step at a join counter -/
  | ctr (op : CtrOp)
  /-- R332: the fill of a line for the cluster cache and L1D of the requester -/
  | line
  /-- R317: a host line, with its byte enables -/
  | hostLine (bytes : TlpBytes)
deriving DecidableEq, Repr

/-- An access on its way to its home, and who asked. -/
structure Access where
  req : Nat
  kind : AccKind
  loc : Loc
  size : Nat
  /-- the generic address as issued -/
  va : W64
  kslot : Nat := 0
  core : Nat
  slot : Nat
  part : Nat
  /-- the privilege a register view asks for (R4) -/
  priv : Bool := false
  /-- R393: admitted at another device only after the packets before it are performed -/
  flagged : Bool := false
  /-- R395: an `AADD` in combining mode -/
  comb : Bool := false
deriving DecidableEq, Repr

/-- What an access gave: bytes read, S read, satisfied or not, busy, or a cause. -/
inductive AccResult where
  | data (bytes : List Byte) (s : Bool)
  | failed
  | busy
  | fault (cause : Nat)
deriving DecidableEq, Repr

/-- R374: why an aggregation buffer was sent. -/
inductive Trigger where | size | age | agf | release | eviction | direct | switch_
deriving DecidableEq, Repr

/-- R255: an entry of a call queue. -/
structure Call where
  caller : Caller
  /-- the caller's partition, job and call setting (R255) -/
  part : Nat
  job : Option Nat
  psize : Nat
  agage : BitVec 13
  hbi : W32
  entry : W64
  args : List W64
  /-- R364: the cycle of its target in which it came -/
  came : Nat := 0
deriving DecidableEq, Repr

/-- R256: a migrating strand; `strand` holds the registers that travel, the others already zero. -/
structure Migration where
  origin : Nat
  originSlot : Nat
  live : W32
  strand : Strand
  target : Nat
deriving DecidableEq, Repr

/-- R208, R379: a token. -/
structure Token where
  dev : Nat
  /-- the device that holds the queue -/
  tdev : Nat
  core : Nat
  part : Nat
  target : Nat
  queue : Nat
  bytes : List Byte
  msg : Bool
  /-- the sender's slot and request -/
  slot : Nat
  req : Nat
deriving DecidableEq, Repr

/-- R379: what the target answers to a token. -/
inductive TokenAns where
  | placed | refused (tail head : Nat) | full | retry | expired (tail head : Nat)
deriving DecidableEq, Repr

/-- R382: a trigger in a Phlox queue. -/
structure PhloxTrig where
  dev : Nat := 0
  core : Nat := 0
  slot : Nat := 0
  part : Nat := 0
  req : Option Nat := none
  pa : Nat
  index : Nat
  args : List W64
deriving DecidableEq, Repr

/-- R383: a handler under way on the Phlox core of a slice: its trigger, registers and `LPA`. -/
structure Rv where
  slice : Nat
  trig : PhloxTrig
  x : Vector W32 32 := Vector.replicate 32 0
  pc : W32 := 0
  lpa : Nat := 0
  /-- R384: instructions it may still run -/
  left : Nat := 256
  /-- the cycle of the slice's island from which its next instruction runs -/
  due : Nat := 0
deriving DecidableEq, Repr

/-- R246: a deque entry. -/
structure DequeEntry where
  pc : W64
  frame : W64
  counter : W64
  tiles : W64
  /-- R217, R250: the LM offset of the frame, as `SPAWN` found it; the ring's 32 bytes do not keep it (log 47) -/
  at_ : Option Nat := none
deriving DecidableEq, Repr

/-- What a packet carries. -/
inductive Body where
  | access (a : Access)
  | accReply (req : Nat) (slot : Nat) (r : AccResult)
  | withdraw (req : Nat) (slot : Nat) (loc : Loc)
  | agg (elems : List (AggElem × Nat)) (trig : Trigger)
  | aggReply (seq : Nat) (mask : W32) (causes : List Nat)
  | token (t : Token)
  | tokenWithdraw (queue req : Nat)
  | tokenReply (req : Nat) (slot : Nat) (a : TokenAns)
  | call (c : Call)
  | callReply (req : Nat) (slot : Nat) (v : W64)
  | amsg (t : PhloxTrig)
  | migrate (m : Migration)
  /-- whether the target took the strand -/
  | migrateAns (slot : Nat) (ok : Bool)
  | probe (job thief : Nat)
  /-- R249: the probed unit has no entry -/
  | noEntry
  /-- R250: the steal copy: the entry, and bytes by LM offset -/
  | stealCopy (e : DequeEntry) (img : List (Nat × List Byte))
  /-- R393 -/
  | marker (req : Nat)
  /-- R376, R393: an aggregation packet from another device, by its core and number there, and its answer -/
  | fabAgg (core seq : Nat) (elems : List AggElem)
  | fabAggReply (core seq : Nat) (mask : W32) (causes : List Nat)
deriving DecidableEq, Repr

structure Packet where
  id : Nat
  src : Node
  dst : Node
  part : Nat
  chan : Chan
  seq : Nat
  sent : Nat
  body : Body
  /-- R369: the islands' cycles when its NI sent it -/
  clocks : List Nat := []
deriving DecidableEq, Repr

/-- A request that a strand of the core made and that is not yet answered. -/
structure Req where
  id : Nat
  slot : Nat
  sid : Nat
  dest : Dest
  /-- R88: the predicate of an attempt -/
  pred : Option PR := none
  /-- the access, to be sent again (R152) -/
  acc : Option Access := none
  tok : Option Token := none
  /-- R152, R209: the cycle of the limit -/
  limit : Option Nat := none
  /-- the core was told to give the wait up -/
  withdrawn : Bool := false
  /-- R242: the cycle the data arrives, for a bank of the own cluster, and the data -/
  due : Option (Nat × List Byte) := none
  /-- a direct write that only counts as unacknowledged -/
  isWrite : Bool := false
  /-- R290: withdrawn by a gang switch, to be issued again -/
  again : Bool := false
  /-- R144: an acquire, done when the reply has arrived -/
  acquire : Scope := .core
  /-- R335: the line filled is dropped once it has served this access -/
  drop : Bool := false
  /-- R379: the NI holds it behind an earlier one for its queue -/
  unsent : Bool := false
  /-- R393: a fence marker to that device -/
  marker : Option Nat := none
  /-- the number of the engine command whose access it is -/
  eng : Option Nat := none
deriving DecidableEq, Repr

/-- R75: an aggregation buffer: its destination, elements, the cycle of the first and its strand set (slots). -/
structure AggBuf where
  dest : Option Node := none
  elems : List (AggElem × Nat) := []
  first : Nat := 0
  /-- R75: the cycle of the last insertion; the age trigger of a cycle is evaluated before that cycle's insertion -/
  joined : Nat := 0
  strands : BitVec 16 := 0
  /-- R375: a `Send` waits for a place, with its trigger -/
  sending : Option Trigger := none
deriving DecidableEq, Repr

/-- R375: a packet sent and not yet acknowledged. -/
structure SentAgg where
  dest : Node
  seq : Nat
  elems : List (AggElem × Nat)
deriving DecidableEq, Repr

/-! ### Queues, engines (08_isa_engines_tasks.md; 14_matrix_engine.md) -/

/-- R233, R378: a hardware queue; lengths and senders of the slots, and reservations (R379). -/
structure HwQueue where
  tail : BitVec 9 := 0
  head : BitVec 9 := 0
  base : BitVec 10 := 0
  logn : BV4 := 0
  slotSz : BV2 := 0
  cls : Bool := false
  en : Bool := false
  /-- for each token not yet taken, oldest first: length, sender core, sender device -/
  tokens : List (Nat × Nat × Nat) := []
  waiting : List Token := []
deriving DecidableEq, Repr

/-- R29: an accumulator element. -/
structure AccElem where
  w : W32 := 0
  s : Bool := false
deriving DecidableEq, Repr

/-- R197, R201: a tile with its hop count. -/
structure Tile where
  bytes : List Byte
  hop : Nat
deriving DecidableEq, Repr

/-- R197, R304: a used tile to be handed on: the core whose latch takes it, the gang whose tile it is, and whether its transfer has
started; it holds its latch half until that ends. -/
structure HandOn where
  tile : Tile
  dst : Nat
  gid : Nat
  going : Bool := false
  id : Nat := 0
deriving DecidableEq, Repr

/-- R304: a tile on its way into a latch: the core it comes from, and the 64-byte parts still to come. -/
structure TileIn where
  tile : Tile
  src : Nat
  left : Nat
deriving DecidableEq, Repr

/-- R308: a copy to be made into the LM of a core, for a gang: bytes by offset. -/
structure RotCopy where
  dst : Nat
  gid : Nat
  img : List (Nat × List Byte)
deriving DecidableEq, Repr

/-- R191 to R202: an engine command with its snapshot. -/
inductive MeOp where
  | mset
  | mzero (base count : Nat)
  | mlda (sc : Scope) (base : Nat) (addr shape : W64)
  | msta (fmt : FTy) (sc : Scope) (mode : RMode) (base : Nat) (addr shape : W64) (ovf : Bool)
  | mseed (key : W64)
  | mring (addr : W64) (units hop count : Nat)
  | mwait
  /-- none for the formats of `MMA.bf16` -/
  | mma (fmts : Option (MxFmt × MxFmt)) (base m n : Nat) (ga gs : W64) (fl : MmaFl)
deriving DecidableEq, Repr

/-- An access of an engine's command under way: its request, whether that fills a line of the cluster cache, for a read or not, and its
answer. -/
structure EngIo where
  req : Option Nat := none
  fill : Bool := false
  read : Bool := false
  res : Option AccResult := none
deriving DecidableEq, Repr

structure MeCmd where
  slot : Nat
  sid : Nat
  op : MeOp
  eng : EngState
  who : Actor
  /-- the number that the answers to its accesses name -/
  id : Nat := 0
  /-- tiles done (`MMA`), tiles placed (`MRING`), elements done (R312) -/
  progress : Nat := 0
  /-- R307, R312: of the tile under way, the steps done (`MMA`) or the 64-byte units placed (`MRING`) -/
  sub : Nat := 0
  /-- R302: what it has read for the tile under way: the A operand's rows, scales and metadata, or the bytes placed -/
  held : List (List Byte) := []
  io : EngIo := {}
  /-- R42, R310: the generator of the column of the `MSTA` element under way has advanced -/
  drew : Bool := false
  /-- R308: the own A slot has received the copy -/
  rotated : Bool := false
  /-- R191, R311: abandoned or discarded -/
  dead : Bool := false
  /-- R56: the bundle that issued it may yet trap: it does not start -/
  wait : Option Nat := none
deriving DecidableEq, Repr

/-- R203, R204: a transfer-engine command. -/
inductive TeKind where | copy | copy2d | gather | scatter | fill
deriving DecidableEq, Repr

structure TeCmd where
  slot : Nat
  sid : Nat
  tag : BV3
  kind : TeKind
  a : W64
  b : W64
  s0 : W64
  s1 : W64
  who : Actor
  /-- the number that the answers to its accesses name -/
  id : Nat := 0
  /-- R353: it has taken its acquire -/
  started : Bool := false
  /-- the row or element under way, the bytes of it that are done, its index, and bytes read and not yet written -/
  row : Nat := 0
  n : Nat := 0
  idx : Option Nat := none
  buf : Option (List Byte) := none
  io : EngIo := {}
  /-- all its writes are made; its release is not -/
  written : Bool := false
  /-- it made a record -/
  failed : Bool := false
deriving DecidableEq, Repr

/-- R249, R250: a core's steal engine. -/
structure StealEng where
  /-- the rotating start; none before the first job -/
  k : Nat := 0
  /-- the position in the probe order of the round under way -/
  pos : Nat := 0
  /-- the cycle at which the pause ends -/
  pause : Option Nat := none
  /-- the slot reserved for the thief while a probe or copy is under way -/
  slot : Option Nat := none
deriving DecidableEq, Repr

/-- R250: an entry that a core gives to a thief: the unit that was probed, and what the core's release still awaits: packets of elements
and direct writes. -/
structure StealGive where
  id : Nat
  src : Node
  part : Nat
  thief : Nat
  entry : DequeEntry
  acks : List (Node × Nat)
  writes : List Nat
deriving DecidableEq, Repr

/-- R258: the claimants that wait for a slot of the core beside its queues: a gang's strand or a task job's root. -/
structure Claim where
  job : Nat
  gang : Option Nat
  /-- member number in the gang -/
  member : Nat
  vregs : Nat
deriving DecidableEq, Repr

/-! ### Cores and clusters (01_machine.md R14, R15) -/

structure Core where
  slots : Vector Slot 16 := Vector.replicate 16 { }
  /-- R241 -/
  rot : BV4 := 0
  /-- R275: the rotation pointers by which entries of the matrix and the transfer engine's queue are granted -/
  meRot : BV4 := 0
  teRot : BV4 := 0
  sh : Vector W64 16 := Vector.replicate 16 0
  /-- R220: writes not yet seen: the cycle they are seen from, the register and the value -/
  shPend : List (Nat × BV4 × W64) := []
  sem : Vector (BitVec 16) 16 := Vector.replicate 16 0
  /-- R221: slots that wait, in the order they first found the count zero, with their semaphore -/
  semWait : List (Nat × BV4) := []
  queues : Vector HwQueue 8 := Vector.replicate 8 { }
  /-- R253, oldest first -/
  chain : List ChainWord := []
  /-- R246: the NI part of the deque, head first -/
  deque : List DequeEntry := []
  ringHead : Nat := 0
  ringCount : Nat := 0
  dequeJob : Option Nat := none
  calls : List Call := []
  inbox : List Migration := []
  /-- R29: elements that are not (+0, S = 0) -/
  acc : Tbl AccElem := []
  gens : Vector W32 16 := Vector.replicate 16 1
  latch : List Tile := []
  meQueue : List MeCmd := []
  /-- the head command has started (R301) -/
  meBusy : Bool := false
  /-- R301: `MSTA`s whose occupancy has ended and that are not complete -/
  meLate : List MeCmd := []
  handOn : List HandOn := []
  /-- R308: rotate copies not yet made -/
  rotOut : List RotCopy := []
  /-- R304: tiles on the way to the latch -/
  tileIn : List TileIn := []
  teQueue : List TeCmd := []
  aggs : Vector AggBuf 16 := Vector.replicate 16 { }
  sent : List SentAgg := []
  reqs : List Req := []
  l1d : List L1Line := []
  pts : Nat := 0
  /-- R333: the cycle of the next tick of pts -/
  ptsDue : Nat := 128
  l1tlb : List TlbEntry := []
  /-- R158, R332, R414: the lines of global code the L1I holds: location key, key slot, bytes -/
  l1i : List (Nat × Nat × List Byte) := []
  fenced : Bool := false
  steal : StealEng := { }
  /-- R250: entries being given to thieves -/
  giving : List StealGive := []
  claims : List Claim := []
  /-- the job placed on the core (R244, R271) -/
  job : Option Nat := none
deriving DecidableEq, Repr

/-- R254: a barrier: the gang that owns it and the strands that have arrived, each with its scope. -/
structure Barrier where
  gid : Option Nat := none
  arrived : List (Nat × Scope) := []
deriving DecidableEq, Repr

structure Cluster where
  /-- R229, R323: the size code of the cluster cache -/
  ccCode : BV2 := 0
  cc : List CcLine := []
  mts : Nat := 0
  /-- R333: the logical time of the latest release at cluster scope (log 7) -/
  relTs : Nat := 0
  tlb : List TlbEntry := []
  walks : List Walk := []
  barriers : Vector Barrier 16 := Vector.replicate 16 { }
  /-- R242, R322: the cycle from which each CSM bank is free, by bank; a bank not listed is free -/
  bankFree : List (Nat × Nat) := []
  /-- R252: gangs that wait to start or run -/
  gangs : List Nat := []
deriving DecidableEq, Repr

/-- R151, R152: a waiter of a retry list. -/
structure Waiter where
  acc : Access
  src : Node
deriving DecidableEq, Repr

/-- R382, R383: a Phlox core. -/
inductive PhloxEntry where
  | trig (t : PhloxTrig)
  | bind (part index pa len : Nat)
deriving DecidableEq, Repr

structure Slice where
  /-- R380, R381, R414: the HBM lines held in SRAM: partition, line address and the key slot they were filled under; the S bits stand in
  State.sbits -/
  lines : List (Nat × Nat × Nat) := []
  /-- R380: accesses that wait for a fill, in arrival order -/
  fills : List (Access × Node) := []
  /-- R380: the result-forwarding buffers: for each bank the last words -/
  forwards : List (Nat × Nat) := []
  /-- R337: reads from other dies in this window, by partition and region -/
  hot : List (Nat × Nat × Nat) := []
  /-- R337: the end of the window under way, in ns -/
  hotDue : Nat := 1000000
  /-- R329: the translation cache -/
  tlb : List TlbEntry := []
  queue : List PhloxEntry := []
  pending : List PhloxTrig := []
  /-- R382: the handler under way, and the pending triggers that a binding has released -/
  run : Option Rv := none
  ready : List PhloxTrig := []
  /-- R385, R386: the bound indices, and the code of each handler that was ever bound -/
  bound : BitVec 64 := 0
  code : Tbl (List Byte) := []
  scratch : Tbl Byte := []
  /-- R384: the cycle from which the next entry may start -/
  entryAt : Nat := 0
deriving DecidableEq, Repr

/-- Retry lists, by home unit (R152). -/
abbrev Retry := List (Node × Waiter)

/-! ### Jobs (11_scheduling.md) -/

/-- R261: the descriptor's fields the front end keeps. -/
structure Job where
  part : Nat
  queue : Nat
  /-- slot of the submission queue, and its offset in the partition's HBM -/
  qslot : Nat
  slotAt : Nat := 0
  bytes : List Byte
  /-- R267: 1 read, 2 waiting, 3 running … -/
  st : Nat := 0
  reason : Nat := 0
  level : Nat := 0
  /-- `GTIME` at its reading, and the rises in level since -/
  read : Nat := 0
  rises : Nat := 0
  /-- the clusters it holds, while it is placed -/
  clusters : List Nat := []
  placed : Bool := false
  /-- R267: the request by which 1 is being added to its completion counter -/
  adding : Option Nat := none
deriving DecidableEq, Repr

/-- R252, R272: a gang. -/
structure Gang where
  job : Nat
  cluster : Nat
  index : Nat := 0
  size : Nat := 0
  /-- R272: the core and slot reserved for each member, none while it is still to be reserved -/
  places : List (Option (Nat × Nat)) := []
  started : Bool := false
  /-- the strands that have not ended, by identity -/
  live : List Nat := []
  /-- its cores in ring order (R11, R253) -/
  cores : List Nat := []
  barriers : Nat := 0
  /-- R272: the cluster's barriers it was given, in the order of its own numbers -/
  bars : List Nat := []
deriving DecidableEq, Repr

/-! ### Partitions (12_traps_preemption.md R287; 17 R331; 20 R385; 22 R399 to R402; 23 R405; 24 R423) -/

structure PmReg where
  sz : BV2 := 0
  err : Bool := false
  st : BV2 := 0
  /-- R330: the migration under way: offsets of the old and the new page, and its bytes -/
  src : Nat := 0
  dst : Nat := 0
  len : Nat := 0
deriving DecidableEq, Repr

structure SubQueue where
  base : BitVec 52 := 0
  logn : BV4 := 0
  en : Bool := false
  weight : BV4 := 0
  ivec : BitVec 5 := 0
  ie : Bool := false
  mode : Bool := false
  err : BitVec 8 := 0
  head : Nat := 0
  tail : Nat := 0
  /-- R261: the next slot the front end reads -/
  next : Nat := 0
  /-- R401: `LOGN` at the last enabling: the size of the ring that `HEAD` and the tail count in -/
  ring : BV4 := 0
deriving DecidableEq, Repr

structure FaultRec where
  w0 : W64 := 0
  w1 : W64 := 0
deriving DecidableEq, Repr

/-- R337, R338: a replicated region: its number, the home slice whose lines of it are replicated, and the slices that may hold a
replica; the lines those slices hold, by slice, first offset and key slot (R414); the invalidations asked for and not acknowledged; and the lines that a
write waits for, which are not refilled. A replica's bytes are its home's: a line leaves before its home writes it. -/
structure Replica where
  region : Nat
  home : Nat
  at_ : List Nat
  lines : List (Nat × Nat × Nat) := []
  asked : List (Nat × Nat) := []
  closed : List Nat := []
deriving DecidableEq, Repr

/-- R293: the internal sections of a save area, by its offset: what the image does not lay out of the cores, clusters, placed jobs,
gangs and parked packets, the packet numbers of the partition's units (R370), and the islands' cycles at the stop (R296). -/
structure SaveImage where
  base : Nat
  cores : Tbl Core := []
  clusters : Tbl Cluster := []
  jobs : Tbl Job := []
  gangs : Tbl Gang := []
  parked : List Packet := []
  sends : List (Node × Node × Nat) := []
  recvs : List (Node × Node × Nat) := []
  cycles : List Nat := []
  /-- R290: answers of other devices that came for its strands while it was swapped out: the device and the answer -/
  late : List (Nat × FabBody) := []
deriving DecidableEq, Repr

structure Partition where
  exists_ : Bool := false
  hbm : Nat := 0
  clusters : List Nat := []
  slices : List Nat := []
  entry : W64 := 0
  digest : List Byte := []
  swtime : W64 := 0
  swbase : BitVec 52 := 0
  swErr : BitVec 8 := 0
  swSt : BV3 := 0
  /-- R288, R295: the time of the stop or the resume that was accepted -/
  swAt : W64 := 0
  ptRoot : BitVec 40 := 0
  ten : Bool := false
  hotthr : BitVec 16 := 0
  scr : BV3 := 0
  imode : Bool := false
  pmsrc : BitVec 40 := 0
  pmdst : BitVec 40 := 0
  pm : PmReg := { }
  bslice : BV6 := 0
  bcode : BitVec 52 := 0
  blen : BitVec 16 := 0
  bidx : BV6 := 0
  bErr : BV2 := 0
  bBusy : Bool := false
  pmask : BitVec 18 := 0
  peers : Vector W64 16 := Vector.replicate 16 0
  waper : BitVec 7 := 0
  wbase : BitVec 57 := 0
  pcl : Vector (BitVec 48) 4 := Vector.replicate 4 0
  psl : W64 := 0
  kown : Vector W64 4 := Vector.replicate 4 0
  lfcnt : W32 := 0
  lfrecs : Vector FaultRec 16 := Vector.replicate 16 { }
  squeues : Vector SubQueue 64 := Vector.replicate 64 { }
  /-- R269: for each level the queue that holds the turn and the jobs it has dispatched in it -/
  turns : Vector (Nat × Nat) 4 := Vector.replicate 4 (0, 0)
  /-- R270: the waiting job -/
  waitJob : Option Nat := none
  /-- R266: the time of the next test of the edges, in ns -/
  edgeDue : Nat := 0
  replicas : List Replica := []
  /-- R245: the faults of removed strands, reported to the supervisor (log 45) -/
  strandFaults : List FaultRec := []
  images : List SaveImage := []
  /-- R416: the marked ranges, those of its save areas: first offset and bytes -/
  marked : List (Nat × Nat) := []
  /-- R416: the save key, a free value drawn at creation -/
  saveKey : Option Nat := none
  /-- R289, R424: a stop under way: the islands whose units are still to stop, since they take no cycle -/
  stopLeft : Option (List Nat) := none
  /-- R289: the packets of the routers' park buffers, and the islands' cycles at the stop -/
  parked : List Packet := []
  stopCycles : List Nat := []
  /-- R295: packets injected again at the resume, before which no held traffic is admitted: each with the request it makes -/
  injected : List (Nat × Option Nat) := []
deriving DecidableEq, Repr

/-! ### The device -/

/-- R411: a key slot that holds a key: its partition, the key and the digest of the binder's certificate chain. -/
structure KeySlot where
  part : Nat
  key : List Byte
  binder : List Byte
deriving DecidableEq, Repr

/-- R424: a voltage and frequency island. -/
structure Island where
  mhz : Nat := 2400
  setMhz : Nat := 2400
  mv : Nat := 500
  ecnt : Nat := 0
  stall : Option Nat := none
  /-- cycles counted -/
  cycles : Nat := 0
  /-- hundred-kilohertz parts of the next cycle -/
  part : Nat := 0
deriving DecidableEq, Repr

/-- R254 to R425 leave no more: what a bundle is doing while it issues. `flow` says how its control goes on. -/
inductive Flow where
  | seq
  | taken (target : W64)
  /-- R135, R137: a fall-through to an address other than the next bundle's -/
  | fall (target : W64)
  | trapped
  /-- the bundle is issued again when the hold is over -/
  | held
  /-- R224: the strand departs by migration once the bundle is done -/
  | depart (target : Nat) (live : W32)
  /-- R54, R245: the strand ends once the bundle is done -/
  | endStrand
deriving DecidableEq, Repr

/-- The bundle that issues: where, its words, and the strand before it (R54). -/
structure Cur where
  core : Nat := 0
  slot : Nat := 0
  pc : W64 := 0
  cword : W32 := 0
  aword : W32 := 0
  len : Nat := 4
  pre : Strand := { }
  /-- R64: the head of the chain queue the bundle reads -/
  qi : W64 := 0
  /-- the number that the bundle's first request takes -/
  tok : Nat := 0
  /-- the word that executes is the A word -/
  isA : Bool := false
  flow : Flow := .seq
deriving DecidableEq, Repr

/-! ### The fabric, the host, start-up and power (16, 22, 23, 24) -/

/-- R392: a packet sent to another device and not yet admitted there. -/
structure FabOut where
  dev : Nat
  seq : Nat
  port : Nat
  /-- R391: the partition it is for; none for a reply, which its request names -/
  tpart : Option Nat
  pkt : Packet
deriving DecidableEq, Repr

/-- R395: a request that a switch holds: its parts are the requests combined in it and their operands, oldest first; a part of this
device names its core and request. -/
structure SwitchAdd where
  id : Nat
  dev : Nat
  pa : Nat
  size : Nat
  parts : List (Option (Nat × Nat) × W64)
  /-- R391: the partition it is for -/
  tpart : Option Nat := none
  /-- R392: the partition it comes from, and the port it has left by -/
  part : Nat := 0
  port : Nat := 0
deriving DecidableEq, Repr

/-- R317: a request of a Requester ID's sequence: a posted write, or a read of so many bytes. -/
structure HostItem where
  req : Nat
  bar : Nat
  addr : Nat
  bytes : TlpBytes := []
  read : Option Nat := none
deriving DecidableEq, Repr

/-- R400: a host read and what completed it; none for an Unsupported Request. -/
structure HostDone where
  req : Nat
  bar : Nat
  addr : Nat
  data : Option (List Byte)
deriving DecidableEq, Repr

/-- R418 to R420: the start under way. -/
structure Boot where
  stage : BV2 := 0
  cause : BitVec 8 := 0
  att : BV2 := 0
  min : Bool := false
  /-- the time the stage under way began; none when none is -/
  began : Option Nat := some 0
  /-- the time at which a new start begins -/
  again : Option Nat := none
  /-- R410, R418: the images of the flash as the start found them, which its stages measure -/
  images : Tbl (List Byte) := []
deriving DecidableEq, Repr

/-- R421: the management mailbox. -/
structure Mailbox where
  cmd : W64 := 0
  busy : Bool := false
  status : BitVec 8 := 0
deriving DecidableEq, Repr

/-- R409: the SPDM connection: the secured session's mutual authentication, the requester's certificate chain, the session's identifiers of
requester and responder, whether its handshake is over, and the messages so far, requests and answers in turn. -/
structure Spdm where
  mutualAuth : Bool := false
  chain : List Byte := []
  session : Option (List Byte × List Byte) := none
  established : Bool := false
  transcript : List (List Byte) := []
  /-- R409: the messages from which the keys of the session are derived, and the records of either side that they have sealed -/
  keyed : List (List Byte) := []
  taken : Nat := 0
  given : Nat := 0
deriving DecidableEq, Repr

/-- R399, R403: MSI-X as PCI Express has it (log 49): its enable and its mask for the function, the table by vector, as two doublewords
whose last has the mask at bit 32, and the pending vectors. -/
structure Msix where
  enable : Bool := false
  fmask : Bool := false
  table : Tbl (W64 × W64) := []
  pending : List Nat := []
deriving DecidableEq, Repr

/-- R425. -/
structure Power where
  mw : W32 := 0
  ovr : Bool := false
  plim : BitVec 12 := 3000
  /-- degrees by sensor; the sensor of island i has number i -/
  sensors : Tbl Nat := []
  /-- the temperature stop is on -/
  stopped : Bool := false
deriving DecidableEq, Repr

/-- An input or a step of the device still to be taken, not before time `due` (log 2). -/
structure AgendaEntry where
  due : Nat
  what : Instr
deriving DecidableEq, Repr

/-- The whole device. -/
structure State where
  cores : Tbl Core := []
  clusters : Tbl Cluster := []
  slices : Tbl Slice := []
  parts : Tbl Partition := []
  islands : Vector Island 20 := Vector.replicate 20 { }
  /-- every byte of memory that is not 0, by location key, keys rising (log 6) -/
  mem : List Host.Cell := []
  /-- R339: the empty 8-byte words, by key / 8, rising -/
  fe : List Nat := []
  /-- R381: the slice words whose S is 1, by key / 4, rising -/
  sbits : List Nat := []
  retry : Retry := []
  /-- packets in flight, oldest first -/
  net : List Packet := []
  /-- R370: packets that arrived ahead of a missing one -/
  reorder : List Packet := []
  /-- packets whose turn has come, not yet performed -/
  arrived : List Packet := []
  /-- R370: the next number to send and to perform, by source and destination -/
  sendSeq : List (Node × Node × Nat) := []
  recvSeq : List (Node × Node × Nat) := []
  /-- R372: links out of service -/
  failed : List (Nat × Nat) := []
  dlt : BitVec 16 := 1024
  /-- R390: `DEVID`, and whether the firmware has set it -/
  devid : BitVec 9 := 0
  devidSet : Bool := false
  /-- R411, by slot -/
  keys : Tbl KeySlot := []
  /-- R422: retired 4 KiB pages, by partition and page -/
  retired : List (Nat × Nat) := []
  jobs : Tbl Job := []
  gangs : Tbl Gang := []
  /-- R392: the next fabric number by target device; packets not yet admitted there; credits returned, by source device -/
  fabSeq : List (Nat × Nat) := []
  fabOut : List FabOut := []
  fabCredits : List (Nat × Nat) := []
  /-- R392, R393: the next number to admit by source device; packets held in the windows -/
  fabRecv : List (Nat × Nat) := []
  fabIn : List FabPkt := []
  /-- R395: packets not yet acknowledged, by target device -/
  fabOpen : List (Nat × FabKey) := []
  switchBuf : List SwitchAdd := []
  /-- R392, R420: ports out of service or down -/
  portsDown : BitVec 18 := 0
  /-- R399: log2 of the window's bytes -/
  winLg : Nat := 36
  /-- R317: requests not yet admitted, oldest first; lines not yet acknowledged, by Requester ID and access -/
  hostQ : List HostItem := []
  hostOpen : List (Nat × Nat) := []
  /-- R400: reads completed, oldest first -/
  hostDone : List HostDone := []
  /-- R318: Unsupported Requests reported -/
  hostUr : Nat := 0
  /-- R403: interrupts sent, oldest first, and what masks them -/
  msi : List Nat := []
  msix : Msix := { }
  boot : Boot := { }
  mailbox : Mailbox := { }
  /-- R418: the images of the flash by stage -/
  flash : Tbl (List Byte) := []
  spdm : Spdm := { }
  power : Power := { }
  /-- R5: the time, in cycles of a nominal 2.4 GHz clock; GTIME = time · 5 / 12 ns -/
  time : Nat := 0
  cur : Cur := { }
  agenda : List AgendaEntry := []
  /-- log 2: the device takes its own asynchronous steps in the default order -/
  auto : Bool := true
  /-- log 3: free values drawn -/
  freeCtr : Nat := 0
  /-- numbers for packets, requests, strands, jobs -/
  token : Nat := 0
deriving DecidableEq, Repr

/-- Why the machine stops. -/
inductive Fault where
  /-- Raised by an event of the device that names a core, slot, cluster, slice or partition that does not exist (01_machine.md
  R8 to R16): safe, since no such event can happen. -/
  | noSuchUnit
deriving DecidableEq, Repr

/-- Why an instruction has no meaning here. -/
inductive Refusal where
  /-- Raised by an arm of exec that has no meaning yet: safe. -/
  | notModelled (mnemonic : String)
deriving DecidableEq, Repr

/-- The device right after reset (00_scope.md, Reset column; 17 R339; log 4): every field at its default. -/
def State.reset : State := { }

end Sys2Proof.Machine
end

