-- ==== Sys2Proof/Machine/Ops.lean ====
section
/-!
DEFINITION. The named operations over the state: tables, memory, the registers of the bundle that issues, taking an exception
and returning from it, time, and packets.
-/
namespace Sys2Proof.Machine
open Sys2Proof

/-- The outcome of a meaning. -/
abbrev Res := Host.Outcome State Fault Refusal

/-! ### Tables and vectors -/

/-- The entry of number `k`, `d` where none is listed. -/
def tget (t : Tbl α) (k : Nat) (d : α) : α :=
  match t with
  | [] => d
  | (j, a) :: r => if j = k then a else tget r k d

/-- The table with entry `k` set; numbers stay rising. -/
def tset (t : Tbl α) (k : Nat) (a : α) : Tbl α :=
  match t with
  | [] => [(k, a)]
  | (j, b) :: r => if k < j then (k, a) :: (j, b) :: r else if j = k then (k, a) :: r else (j, b) :: tset r k a

/-- The table without entry `k`. -/
def tdel (t : Tbl α) (k : Nat) : Tbl α := t.filter (fun e => e.1 != k)

/-- Element `i` of a vector, `d` past its end. -/
def vget (v : Vector α n) (i : Nat) (d : α) : α := v[i]?.getD d
/-- A vector with element `i` set; past its end nothing changes. -/
def vset (v : Vector α n) (i : Nat) (a : α) : Vector α n := v.setIfInBounds i a

/-- Element `r` of a file of 32 registers. -/
def rget (v : Vector α 32) (r : BitVec 5) : α := v[r.toNat]'(r.isLt)
def rset (v : Vector α 32) (r : BitVec 5) (a : α) : Vector α 32 := v.set r.toNat a (r.isLt)
/-- Element `r` of a file of 8 registers. -/
def mget (v : Vector α 8) (r : BitVec 3) : α := v[r.toNat]'(r.isLt)
def mset (v : Vector α 8) (r : BitVec 3) (a : α) : Vector α 8 := v.set r.toNat a (r.isLt)

/-- A list with some elements replaced from place `o`. -/
def overwrite (l : List α) (o : Nat) (b : List α) : List α := l.take o ++ b ++ l.drop (o + b.length)

/-- An ordered set of numbers: insertion and removal. -/
def sinsert (l : List Nat) (k : Nat) : List Nat :=
  match l with
  | [] => [k]
  | j :: r => if k < j then k :: j :: r else if j = k then j :: r else j :: sinsert r k
def sremove (l : List Nat) (k : Nat) : List Nat := l.filter (· != k)

/-! ### The units of the state, each through one pair of accessors -/

def State.core (s : State) (n : Nat) : Core := tget s.cores n { }
def State.setCore (s : State) (n : Nat) (c : Core) : State := { s with cores := tset s.cores n c }
def State.cluster (s : State) (n : Nat) : Cluster := tget s.clusters n { }
def State.setCluster (s : State) (n : Nat) (c : Cluster) : State := { s with clusters := tset s.clusters n c }
def State.slice (s : State) (n : Nat) : Slice := tget s.slices n { }
def State.setSlice (s : State) (n : Nat) (c : Slice) : State := { s with slices := tset s.slices n c }
def State.partn (s : State) (n : Nat) : Partition := tget s.parts n { }
def State.setPartn (s : State) (n : Nat) (p : Partition) : State := { s with parts := tset s.parts n p }
def State.slotOf (s : State) (c k : Nat) : Slot := vget (s.core c).slots k { }
def State.setSlot (s : State) (c k : Nat) (x : Slot) : State :=
  s.setCore c { s.core c with slots := vset (s.core c).slots k x }
/-- R241: a slot that is Free again; its 8 cycles count on. -/
def Slot.freed (x : Slot) : Slot := { lastIssue := x.lastIssue }
def State.strandOf (s : State) (c k : Nat) : Strand := (s.slotOf c k).strand
def State.setStrandOf (s : State) (c k : Nat) (x : Strand) : State := s.setSlot c k { s.slotOf c k with strand := x }

/-- The strand that issues, as it stands (it may hold writes of the bundle's C word). -/
def State.strand (s : State) : Strand := s.strandOf s.cur.core s.cur.slot
def State.setStrand (s : State) (x : Strand) : State := s.setStrandOf s.cur.core s.cur.slot x
def State.modStrand (s : State) (f : Strand → Strand) : State := s.setStrand (f s.strand)
def State.flow (s : State) (f : Flow) : State := { s with cur := { s.cur with flow := f } }

/-- A fresh number for a packet, request, strand or job. -/
def State.fresh (s : State) : Nat × State := (s.token, { s with token := s.token + 1 })
/-- A free value (log 3). -/
def State.draw (s : State) : W64 × State := (Config.freeValue s.freeCtr, { s with freeCtr := s.freeCtr + 1 })

/-! ### Places on the package (01_machine.md R10 to R13, R18) -/

/-- R11: the package cluster of a core. -/
def clusterOf (core : Nat) : Nat := core / 16
/-- R10: the die of a package cluster. -/
def dieOf (cluster : Nat) : Nat := cluster / 48
/-- R10: a cluster's column and row. -/
def colOf (cluster : Nat) : Nat := cluster % 48 % 8
def rowOf (cluster : Nat) : Nat := cluster % 48 / 8
/-- R18: the island of a cluster, 0 to 15. -/
def islandOf (cluster : Nat) : Nat :=
  dieOf cluster * 4 + (if rowOf cluster ≥ 3 then 2 else 0) + (if colOf cluster ≥ 4 then 1 else 0)
/-- R12: the column and row a slice attaches at. -/
def sliceCol (slice : Nat) : Nat := slice % 16 % 8
def sliceRow (slice : Nat) : Nat := if slice % 16 < 8 then 0 else 5
/-- R18: the island of a slice. -/
def sliceIsland (slice : Nat) : Nat :=
  slice / 16 * 4 + (if sliceRow slice ≥ 3 then 2 else 0) + (if sliceCol slice ≥ 4 then 1 else 0)
/-- R13: the hops of a column distance, a skip channel for 4. -/
def rowHops (d : Nat) : Nat := if d ≥ 4 then d - 3 else d
def absDiff (a b : Nat) : Nat := (a - b) + (b - a)
/-- R13: the mesh distance of two clusters of one die. -/
def meshDist (a b : Nat) : Nat := rowHops (absDiff (colOf a) (colOf b)) + absDiff (rowOf a) (rowOf b)

/-- R5: cycles counted by the island of a core's cluster. -/
def State.cycle (s : State) (core : Nat) : Nat := (vget s.islands (islandOf (clusterOf core)) { }).cycles
/-- R5, R18: `GTIME` in ns. -/
def State.gtime (s : State) : W64 := BitVec.ofNat 64 (s.time * 5 / 12)

/-! ### Memory (log 6): bytes by location key -/

/-- R324, R321: the key of a location. Registers and other devices hold no bytes of this memory. -/
def Loc.key : Loc → Nat
  | .hbm p o => p * 2 ^ 44 + o
  | .host a => 2 ^ 51 + a
  | .lm c o => 2 ^ 52 + c * 2 ^ 18 + o
  | .csm c o => 2 ^ 53 + c * 2 ^ 21 + o
  | .regs p o => 2 ^ 54 + p * 2 ^ 44 + o
  | .dev a => 2 ^ 55 + a

/-- A location `n` bytes on. -/
def Loc.add : Loc → Nat → Loc
  | .hbm p o, n => .hbm p (o + n)
  | .host a, n => .host (a + n)
  | .lm c o, n => .lm c (o + n)
  | .csm c o, n => .csm c (o + n)
  | .regs p o, n => .regs p (o + n)
  | .dev a, n => .dev (a + n)

/-- What an unlisted address reads as (R339; log 6). -/
def memDefault : Byte := 0

def memRead (m : List Host.Cell) (k : Nat) : Byte := tget m k memDefault

def memWrite (m : List Host.Cell) (k : Nat) (b : Byte) : List Host.Cell :=
  match m with
  | [] => if b = memDefault then [] else [(k, b)]
  | (j, x) :: r =>
    if k < j then (if b = memDefault then (j, x) :: r else (k, b) :: (j, x) :: r)
    else if j = k then (if b = memDefault then r else (k, b) :: r)
    else (j, x) :: memWrite r k b

def memReadN (m : List Host.Cell) (k : Nat) : Nat → List Byte
  | 0 => []
  | n + 1 => memRead m k :: memReadN m (k + 1) n

def memWriteN (m : List Host.Cell) (k : Nat) : List Byte → List Host.Cell
  | [] => m
  | b :: bs => memWriteN (memWrite m k b) (k + 1) bs

/-- The canonical form: keys rising, no entry that reads as an unlisted address does. -/
def Memory.wf : List Host.Cell → Bool
  | [] => true
  | [(_, b)] => b != memDefault
  | (j, b) :: (k, c) :: r => b != memDefault && decide (j < k) && Memory.wf ((k, c) :: r)

def State.readAt (s : State) (l : Loc) (n : Nat) : List Byte := memReadN s.mem l.key n
def State.writeAt (s : State) (l : Loc) (bs : List Byte) : State := { s with mem := memWriteN s.mem l.key bs }
def State.readW (s : State) (l : Loc) : W64 := BitVec.ofNat 64 (leNat (s.readAt l 8))
def State.writeW (s : State) (l : Loc) (v : W64) : State := s.writeAt l (leBytes 8 v.toNat)

/-- R339: the F/E bit of the word that holds a location: true for full. -/
def State.isFull (s : State) (l : Loc) : Bool := !(s.fe.contains (l.key / 8))
def State.setFull (s : State) (l : Loc) (full : Bool) : State :=
  { s with fe := if full then sremove s.fe (l.key / 8) else sinsert s.fe (l.key / 8) }
/-- R381: the S bit of a slice word. -/
def State.wordS (s : State) (l : Loc) : Bool := s.sbits.contains (l.key / 4)
def State.setWordS (s : State) (l : Loc) (b : Bool) : State :=
  { s with sbits := if b then sinsert s.sbits (l.key / 4) else sremove s.sbits (l.key / 4) }

/-! ### The registers of the bundle (R54, R63 to R68): sources from before the bundle, writes to the strand -/

/-- R63, R64: a scalar source, 64 data bits. -/
def State.g (s : State) (r : GR) : W64 :=
  if r = 0 then 0 else if r = 30 then s.cur.qi else (rget s.cur.pre.g r).data
/-- R21, R63: the S of a scalar source. A word of a chain queue has 64 bits (R64), and the spec gives one popped through `g30` no S: it reads as
0 (DESIGN CHOICE, log 27). -/
def State.gS (s : State) (r : GR) : Bool :=
  if r = 0 then false else if r = 30 then false else (rget s.cur.pre.g r).s
/-- R66: a 128-bit source. -/
def State.gq (s : State) (r : GR) : W128 := s.g (r + 1) ++ s.g r
/-- R68: a predicate source. -/
def State.pr (s : State) (p : PR) : Bool := if p = 0 then true else s.cur.pre.p.getLsbD p.toNat
/-- R68: a mask source. -/
def State.mr (s : State) (m : MR) : W32 := if m = 0 then 0xFFFFFFFF else mget s.cur.pre.m m
/-- A vector source. -/
def State.vr (s : State) (v : VR) : VReg := rget s.cur.pre.v v

/-- R64, R253: the core fed by a core's `g29`: the next of the gang's cores. Where a strand has migrated to a core that is none of them, the
spec is silent: its `g29` feeds the first (DESIGN CHOICE, log 42). -/
def nextInRing (cores : List Nat) (c : Nat) : Nat :=
  match cores.dropWhile (· != c) with
  | _ :: n :: _ => n
  | _ => cores.headD c
def prevInRing (cores : List Nat) (c : Nat) : Nat := nextInRing cores.reverse c
def State.gang (s : State) (g : Nat) : Gang := tget s.gangs g { job := 0, cluster := 0 }
def Strand.gid (x : Strand) : Option Nat := match x.role with | .gang g => some g | _ => none
def State.downstream (s : State) (core : Nat) (x : Strand) : Option Nat :=
  match x.gid with | some g => some (nextInRing (s.gang g).cores core) | none => none

/-- The chain queues, each word changed or taken out. -/
def State.mapChains (s : State) (f : ChainWord → Option ChainWord) : State :=
  { s with cores := s.cores.map fun e => if e.2.chain.isEmpty then e else (e.1, { e.2 with chain := e.2.chain.filterMap f }) }
/-- R253: the place that the bundle of a slot holds in a chain queue is given up. -/
def State.dropPlace (s : State) (c k : Nat) : State :=
  { s with cores := match (s.slotOf c k).place with
    | some (_, id) => (s.mapChains fun e => if e.wait = some id then none else some e).cores
    | none => s.cores }

/-- R63, R65, R103: a write of a scalar register: the data, S, and full; `g0` discards, `g29` pushes. -/
def State.setGS (s : State) (r : GR) (d : W64) (b : Bool) : State :=
  if r = 0 then s
  else if r = 29 then
    match s.downstream s.cur.core s.strand with
    | some c => s.setCore c { s.core c with chain := (s.core c).chain ++ [{ w := d, gid := s.strand.gid.getD 0 }] }
    | none => s
  else s.modStrand fun x => { x with g := rset x.g r { data := d, s := b, full := true } }
def State.setG (s : State) (r : GR) (d : W64) : State := s.setGS r d false
/-- R66: a 128-bit result. -/
def State.setQ (s : State) (r : GR) (d : W128) : State :=
  (s.setG r (d.extractLsb' 0 64)).setG (r + 1) (d.extractLsb' 64 64)
/-- R65: a destination marked empty. -/
def State.markEmpty (s : State) (r : GR) : State :=
  if r = 0 ∨ r = 29 then s else s.modStrand fun x => { x with g := rset x.g r { rget x.g r with full := false } }
/-- R68: a predicate result; `p0` is discarded. -/
def setBit8 (w : BitVec 8) (i : Nat) (b : Bool) : BitVec 8 :=
  if b then w ||| ((1 : BitVec 8) <<< i) else w &&& ~~~((1 : BitVec 8) <<< i)
def State.setP (s : State) (p : PR) (b : Bool) : State :=
  if p = 0 then s else s.modStrand fun x => { x with p := setBit8 x.p p.toNat b }
/-- R68: a mask result; `m0` is discarded. -/
def State.setM (s : State) (m : MR) (w : W32) : State :=
  if m = 0 then s else s.modStrand fun x => { x with m := mset x.m m w }
def State.setV (s : State) (v : VR) (x : VReg) : State := s.modStrand fun y => { y with v := rset y.v v x }

/-! ### Taking an exception, and the return from it (R73, R276, R227, R279) -/

/-- R73, R276: the strand as trap entry leaves it. -/
def Strand.enter (x : Strand) (cause : Nat) (value pc : W64) : Strand :=
  { x with
    x := { x.x with cause := BitVec.ofNat 64 cause, value := value, pc := pc, lv := true,
                    pf := if cause = 0x0C then false else x.x.pf, pp := x.priv }
    priv := true
    pc := x.x.vec
    checksOff := true
    meFault := if cause = 0x0D then false else x.meFault }

/-- R73: a trap of the strand in a slot; the strand is Ready at `XVEC`. -/
def State.trapAt (s : State) (c k cause : Nat) (value pc : W64) : State :=
  (s.dropPlace c k).setSlot c k
    { s.slotOf c k with
      st := .ready, strand := (s.strandOf c k).enter cause value pc, inflight := none, again := false, named := false, delayDone := false
      sempGrant := none, walkFault := none, noMig := false, meGrant := false, teGrant := false, meWaited := false, early := none
      place := none, reads := [], spawning := false }

/-- R73: a trap of the bundle that issues. -/
def State.trap (s : State) (cause : Nat) (value : W64) : State :=
  (s.setStrand (s.strand.enter cause value s.cur.pc)).flow .trapped

/-- R277: the private-window address of the fault log. -/
def logAddr : W64 := 0x01C0000000000000

/-- R227, R279, R139: the strand as `XRET` leaves it. -/
def Strand.leave (x : Strand) : Strand :=
  let y := if x.x.lv then x
    else { x with loop0 := { x.loop0 with cnt := 0 }, loop1 := { x.loop1 with cnt := 0 }, repc := 0 }
  { y with priv := x.x.pp, checksOff := false }

/-- The word that executes (R277, causes 0x01, 0x03, 0x13). -/
def State.word (s : State) : W64 := (if s.cur.isA then s.cur.aword else s.cur.cword).setWidth 64

/-- The bundle is held, and issued again when the hold is over (R238, R240). -/
def State.park (s : State) (h : Hold) : State :=
  (s.setSlot s.cur.core s.cur.slot { s.slotOf s.cur.core s.cur.slot with st := .parked h }).flow .held
def State.wait (s : State) (h : Hold) : State :=
  (s.setSlot s.cur.core s.cur.slot { s.slotOf s.cur.core s.cur.slot with st := .waiting h }).flow .held
/-- The bundle completes and the strand is then held on something outside (R240). -/
def State.parkAfter (s : State) (h : Hold) : State :=
  s.setSlot s.cur.core s.cur.slot { s.slotOf s.cur.core s.cur.slot with st := .parked h }
/-- The same for a hold inside the core. -/
def State.waitAfter (s : State) (h : Hold) : State :=
  s.setSlot s.cur.core s.cur.slot { s.slotOf s.cur.core s.cur.slot with st := .waiting h }
/-- A hold is over (R240). -/
def State.wake (s : State) (c k : Nat) : State :=
  match (s.slotOf c k).st with
  | .waiting _ => s.setSlot c k { s.slotOf c k with st := .ready }
  | .parked _ => s.setSlot c k { s.slotOf c k with st := .ready }
  | _ => s

/-! ### Steps of the device -/

/-- An event that names a unit; a unit that does not exist has none. -/
def onUnit (ok : Bool) (r : Res) : Res := if ok then r else .fault .noSuchUnit
/-- R419, R425: an island stopped for its temperature, which spares the IOD core, and the ports' island once the device is in minimal mode. -/
def State.islandCold (s : State) (i : Nat) : Bool := s.power.stopped && i != 16 && !(s.boot.min && i == 17)
/-- R424, R425: an island that takes no step: in the stall of a change of frequency, or stopped. -/
def State.islandOff (s : State) (i : Nat) : Bool := (vget s.islands i {}).stall.isSome || s.islandCold i
/-- R18: the island of a unit; the ports of other devices lie in that of the IOD's ports. -/
def Node.island : Node → Nat
  | .core c => islandOf (clusterOf c) | .csm cl => islandOf cl | .slice n => sliceIsland n | .iod => 16 | .dev _ => 17
/-- R285, R289, R424: a core that is fenced, or whose partition or island is stopped. -/
def State.coreStopped (s : State) (c : Nat) : Bool := (s.core c).fenced || (s.slotOf c 0).stopped || s.islandOff (islandOf (clusterOf c))
/-- An event of a core, which takes no step while it is stopped. -/
def onCore (core : Nat) (ok : Bool) (s : State) (r : Res) : Res :=
  onUnit (decide (core < Config.cores) && ok) (if s.coreStopped core then .next s else r)
/-- An event of a cluster or of a slice, which takes no step while its island is stopped (R424). -/
def onCluster (cl : Nat) (s : State) (r : Res) : Res :=
  onUnit (decide (cl < Config.clusters)) (if s.islandOff (islandOf cl) then .next s else r)
def onSlice (slice : Nat) (ok : Bool) (s : State) (r : Res) : Res :=
  onUnit (decide (slice < Config.slices) && ok) (if s.islandOff (sliceIsland slice) then .next s else r)
/-- R18, R424: a step of the security controller, which takes none while the island of the IOD core is stopped. -/
def onController (s : State) (r : Res) : Res := if s.islandOff 16 then .next s else r
/-- R289: a partition that a gang switch has stopped. -/
def State.heldPart (s : State) (part : Nat) : Bool := decide ((s.partn part).swSt.toNat ≥ 2) || (s.partn part).stopLeft.isSome
/-- R289, R295, R319: traffic for a partition waits: it is stopped, or packets injected again at its resume are still to be performed. -/
def State.admitHeld (s : State) (part : Nat) : Bool := s.heldPart part || !(s.partn part).injected.isEmpty
/-- R289, R424, R425: the front end takes no step for a partition: it is stopped, or the island of the IOD core is, or the device has lost
its jobs to its temperature. -/
def State.frontOff (s : State) (part : Nat) : Bool := s.heldPart part || s.islandOff 16 || s.power.stopped
/-- An event of a partition's front end. -/
def onPart (part : Nat) (ok : Bool) (s : State) (r : Res) : Res :=
  onUnit (decide (part < 64) && ok) (if s.frontOff part then .next s else r)

/-! ### Packets (R368, R370) -/

def seqOf (t : List (Node × Node × Nat)) (a b : Node) : Nat :=
  match t.find? (fun e => e.1 == a && e.2.1 == b) with | some e => e.2.2 | none => 0
def seqSet (t : List (Node × Node × Nat)) (a b : Node) (n : Nat) : List (Node × Node × Nat) :=
  (t.filter fun e => !(e.1 == a && e.2.1 == b)) ++ [(a, b, n)]

/-- R370: a unit sends a packet, which carries the pair's next sequence number. -/
def State.send (s : State) (src dst : Node) (part : Nat) (chan : Chan) (body : Body) : State :=
  let q := seqOf s.sendSeq src dst
  { s with
    token := s.token + 1
    sendSeq := seqSet s.sendSeq src dst ((q + 1) % 65536)
    net := s.net ++ [{ id := s.token, src, dst, part, chan, seq := q, sent := s.time, body, clocks := s.islands.toList.map (·.cycles) }] }

/-- R370: the IOD is one unit: what it takes in from another device's packets, and its answers to them, pass from one part of it to the other
without a number of any pair. -/
def State.sendInside (s : State) (src dst : Node) (part : Nat) (chan : Chan) (body : Body) : State :=
  { s with
    token := s.token + 1
    arrived := s.arrived ++ [{ id := s.token, src, dst, part, chan, seq := 0, sent := s.time, body, clocks := s.islands.toList.map (·.cycles) }] }
/-- R370: a packet that passed so. -/
def Packet.inside (p : Packet) : Bool :=
  match p.src, p.dst with | .iod, .dev _ | .dev _, .iod => true | _, _ => false
/-- R351, R370: a packet whose turn has come is performed; another of its pair may not pass it. A unit whose island is stopped takes none
(R424). -/
def State.takeArrived (s : State) (id : Nat) : Option (Packet × State) :=
  match s.arrived.find? fun p => p.id == id with
  | none => none
  | some p =>
    if s.islandOff p.dst.island then none else
    match s.arrived.find? fun q => q.src == p.src && q.dst == p.dst with
    | some q => if q.id = id then some (p, { s with arrived := s.arrived.filter fun x => x.id != id }) else none
    | none => none
/-- R119, R321: the LM-window address of an offset of a core's LM; an offset past 2^18 sets bit 30. -/
def lmAlias (core : Nat) (off : Nat) : W64 :=
  BitVec.ofNat 64 (0x01E0000000000000 + (if off ≥ 2 ^ 18 then 2 ^ 30 else 0) + dieOf (clusterOf core) * 2 ^ 28 +
    clusterOf core % 48 * 2 ^ 22 + core % 16 * 2 ^ 18 + off % 2 ^ 18)

end Sys2Proof.Machine
end

