-- ==== Sys2Proof/Machine/Crypto.lean ====
section
/-!
DEFINITION. XTS-AES-256 of a 64-byte line (17_memory_hierarchy.md R341; 23_security_partitions.md R411, R416; the ciphers
themselves are IEEE 1619 and FIPS 197, log 12) and SHAKE256 and SHA3-512 (23 R410, R411; FIPS 202, log 12).
-/
namespace Sys2Proof.Machine
open Sys2Proof

/-! ### GF(2^8) and the S-box -/

def xtime (a : Byte) : Byte := (a <<< 1) ^^^ (if a.getLsbD 7 then 0x1B else 0)
/-- The product, over the bits of `b` from bit `8 - n` upward. -/
def gmulGo : Nat → Byte → Byte → Byte → Byte
  | 0, _, _, acc => acc
  | n + 1, a, b, acc => gmulGo n (xtime a) (b >>> 1) (if b.getLsbD 0 then acc ^^^ a else acc)
def gmul (a b : Byte) : Byte := gmulGo 8 a b 0
/-- The inverse, `a^254`; 0 for 0. -/
def ginv (a : Byte) : Byte :=
  let a2 := gmul a a
  let a3 := gmul a2 a
  let a12 := (let x := gmul a3 a3; gmul x x)
  let a15 := gmul a12 a3
  let a240 := (let x := gmul a15 a15; let y := gmul x x; let z := gmul y y; gmul z z)
  gmul (gmul a240 a12) a2
def sbox (a : Byte) : Byte :=
  let b := ginv a
  b ^^^ b.rotateLeft 1 ^^^ b.rotateLeft 2 ^^^ b.rotateLeft 3 ^^^ b.rotateLeft 4 ^^^ 0x63
def invSbox (a : Byte) : Byte := ginv (a.rotateLeft 1 ^^^ a.rotateLeft 3 ^^^ a.rotateLeft 6 ^^^ 0x05)

/-! ### AES-256: a block is 16 bytes, column by column -/

def xorBytes (a b : List Byte) : List Byte := a.zipWith (· ^^^ ·) b
/-- The words of the key schedule, newest first. -/
def expandGo : Nat → Nat → Byte → List (List Byte) → List (List Byte)
  | 0, _, _, ws => ws
  | n + 1, i, rc, ws =>
    let t := ws.headD []
    let old := (ws.drop 7).headD []
    if i % 8 = 0 then
      let r := (t.drop 1 ++ t.take 1).map sbox
      expandGo n (i + 1) (xtime rc) (xorBytes old (xorBytes r [rc, 0, 0, 0]) :: ws)
    else if i % 8 = 4 then expandGo n (i + 1) rc (xorBytes old (t.map sbox) :: ws)
    else expandGo n (i + 1) rc (xorBytes old t :: ws)
/-- Pieces of `n` elements, at most `k` of them. -/
def pieces (n : Nat) : Nat → List α → List (List α)
  | 0, _ => []
  | k + 1, l => l.take n :: pieces n k (l.drop n)
/-- The 15 round keys of a 32-byte key. -/
def roundKeys (key : List Byte) : List (List Byte) :=
  (pieces 4 15 (expandGo 52 8 1 (pieces 4 8 key).reverse).reverse).map fun ws => ws.foldr (· ++ ·) []

def at_ (l : List Byte) (i : Nat) : Byte := l.getD i 0
def shiftRows (b : List Byte) : List Byte := (List.range 16).map fun i => at_ b ((i + 4 * (i % 4)) % 16)
def invShiftRows (b : List Byte) : List Byte := (List.range 16).map fun i => at_ b ((i + 12 * (i % 4)) % 16)
/-- A column product with the circulant matrix whose first row is `r`. -/
def mixWith (r : List Byte) (b : List Byte) : List Byte :=
  (List.range 16).map fun i =>
    (List.range 4).foldl (fun acc k => acc ^^^ gmul (at_ r ((k + 4 - i % 4) % 4)) (at_ b (i / 4 * 4 + k))) 0
def mixColumns (b : List Byte) : List Byte := mixWith [2, 3, 1, 1] b
def invMixColumns (b : List Byte) : List Byte := mixWith [14, 11, 13, 9] b

/-- The rounds after the first key: the last has no column mix. -/
def encRounds : List (List Byte) → List Byte → List Byte
  | [], b => b
  | [k], b => xorBytes (shiftRows (b.map sbox)) k
  | k :: ks, b => encRounds ks (xorBytes (mixColumns (shiftRows (b.map sbox))) k)
def aesEnc (key b : List Byte) : List Byte :=
  match roundKeys key with
  | [] => b
  | k :: ks => encRounds ks (xorBytes b k)
/-- The inverse rounds, with the keys from the last but one to the first. -/
def decRounds : List (List Byte) → List Byte → List Byte
  | [], b => b
  | [k], b => xorBytes ((invShiftRows b).map invSbox) k
  | k :: ks, b => decRounds ks (invMixColumns (xorBytes ((invShiftRows b).map invSbox) k))
def aesDec (key b : List Byte) : List Byte :=
  match (roundKeys key).reverse with
  | [] => b
  | k :: ks => decRounds ks (xorBytes b k)

/-! ### XTS (IEEE 1619): the first half of the key is the data key, the second the tweak key -/

/-- The tweak of the next block: times x in GF(2^128), little-endian. -/
def nextTweak (t : List Byte) : List Byte :=
  let v := leNat t
  leBytes 16 (if v ≥ pow2' 127 then (2 * v % pow2' 128) ^^^ 0x87 else 2 * v)
where
  /-- A power of two. -/
  pow2' (n : Nat) : Nat := 2 ^ n
def xtsGo (f : List Byte → List Byte) : Nat → List Byte → List Byte → List Byte
  | 0, _, _ => []
  | n + 1, t, l => xorBytes (f (xorBytes (l.take 16) t)) t ++ xtsGo f n (nextTweak t) (l.drop 16)
/-- R341: the plaintext of a 64-byte line under a 64-byte key and a tweak. -/
def xtsDec (key : List Byte) (tweak : Nat) (line : List Byte) : List Byte :=
  xtsGo (aesDec (key.take 32)) 4 (aesEnc (key.drop 32) (leBytes 16 tweak)) line
/-- The ciphertext of a line. -/
def xtsEnc (key : List Byte) (tweak : Nat) (line : List Byte) : List Byte :=
  xtsGo (aesEnc (key.take 32)) 4 (aesEnc (key.drop 32) (leBytes 16 tweak)) line

/-! ### AES-256-GCM (NIST SP 800-38D): blocks are polynomials, the first bit the coefficient of 1 -/

def gcmBlock (b : List Byte) : BitVec 128 := BitVec.ofNat 128 (leNat b.reverse)
def blockBytes (v : BitVec 128) : List Byte := (leBytes 16 v.toNat).reverse
def ghashMulGo : Nat → BitVec 128 → BitVec 128 → BitVec 128 → BitVec 128
  | 0, _, _, z => z
  | n + 1, x, v, z =>
    ghashMulGo n (x <<< 1) ((v >>> 1) ^^^ (if v.getLsbD 0 then (0xE1 : BitVec 128) <<< 120 else 0)) (if x.getLsbD 127 then z ^^^ v else z)
def ghashMul (x y : BitVec 128) : BitVec 128 := ghashMulGo 128 x y 0
/-- Bytes in blocks of 16, the last one filled with zeros. -/
def gcmBlocks (b : List Byte) : List (List Byte) := (pieces 16 ((b.length + 15) / 16) b).map fun p => p ++ List.replicate (16 - p.length) 0
def ghash (h : BitVec 128) (blocks : List (List Byte)) : BitVec 128 := blocks.foldl (fun y b => ghashMul (y ^^^ gcmBlock b) h) 0
/-- The counter block of a 12-byte vector. -/
def gcmCounter (iv : List Byte) (n : Nat) : List Byte := iv.take 12 ++ (leBytes 4 n).reverse
def gcmStream (key iv : List Byte) (n : Nat) : List Byte :=
  (List.range ((n + 15) / 16)).flatMap fun i => aesEnc key (gcmCounter iv (i + 2))
def gcmTag (key iv aad cipher : List Byte) : List Byte :=
  let h := gcmBlock (aesEnc key (List.replicate 16 0))
  let sizes := (leBytes 8 (8 * aad.length)).reverse ++ (leBytes 8 (8 * cipher.length)).reverse
  xorBytes (blockBytes (ghash h (gcmBlocks aad ++ gcmBlocks cipher ++ [sizes]))) (aesEnc key (gcmCounter iv 1))
/-- R409: a message encrypted, and its tag. -/
def gcmSeal (key iv aad msg : List Byte) : List Byte :=
  let c := xorBytes msg (gcmStream key iv msg.length)
  c ++ gcmTag key iv aad c
/-- R409: the message of a ciphertext with its tag; none where the tag does not authenticate it. -/
def gcmOpen (key iv aad sealed : List Byte) : Option (List Byte) :=
  let n := sealed.length - 16
  let c := sealed.take n
  if 16 ≤ sealed.length ∧ gcmTag key iv aad c = sealed.drop n then some (xorBytes c (gcmStream key iv n)) else none

/-! ### Keccak (FIPS 202): 25 lanes of 64 bits, lane x + 5y -/

def lane (a : List W64) (i : Nat) : W64 := a.getD i 0
/-- The rotation of each lane, by the walk of the standard: lane and number of the step. -/
def rhoGo : Nat → Nat → Nat → Nat → List (Nat × Nat)
  | 0, _, _, _ => []
  | n + 1, t, x, y => (x + 5 * y, (t + 1) * (t + 2) / 2 % 64) :: rhoGo n (t + 1) y ((2 * x + 3 * y) % 5)
def rho (i : Nat) : Nat := ((rhoGo 24 0 1 0).lookup i).getD 0
/-- The round constants' bits come from this shift register. -/
def rcStep (r : Byte) : Byte := (r <<< 1) ^^^ (if r.getLsbD 7 then 0x71 else 0)
def rcBits : Nat → Nat → Byte → W64 → W64 × Byte
  | 0, _, r, acc => (acc, r)
  | n + 1, j, r, acc => rcBits n (j + 1) (rcStep r) (if r.getLsbD 0 then acc ^^^ ((1 : W64) <<< (2 ^ j - 1)) else acc)
def keccakRound (a : List W64) (rc : W64) : List W64 :=
  let c := (List.range 5).map fun x => lane a x ^^^ lane a (x + 5) ^^^ lane a (x + 10) ^^^ lane a (x + 15) ^^^ lane a (x + 20)
  let d := (List.range 5).map fun x => lane c ((x + 4) % 5) ^^^ (lane c ((x + 1) % 5)).rotateLeft 1
  let e := (List.range 25).map fun i => (lane a i ^^^ lane d (i % 5)).rotateLeft (rho i)
  -- lane (y, 2x + 3y) takes lane (x, y)
  let b := (List.range 25).map fun i =>
    let y := i % 5
    let z := i / 5
    let x := (z + 2 * y) * 3 % 5
    lane e (x + 5 * y)
  let q := (List.range 25).map fun i =>
    lane b i ^^^ (~~~(lane b (i / 5 * 5 + (i + 1) % 5)) &&& lane b (i / 5 * 5 + (i + 2) % 5))
  q.set 0 (lane q 0 ^^^ rc)
def keccakGo : Nat → Byte → List W64 → List W64
  | 0, _, a => a
  | n + 1, r, a => let (rc, r2) := rcBits 7 0 r 0; keccakGo n r2 (keccakRound a rc)
def keccakF (a : List W64) : List W64 := keccakGo 24 1 a
def toLanes (b : List Byte) : List W64 := (List.range 25).map fun i => BitVec.ofNat 64 (leNat ((b.drop (8 * i)).take 8))
def ofLanes (a : List W64) : List Byte := (a.map fun x => leBytes 8 x.toNat).foldr (· ++ ·) []
/-- The message padded: the suffix byte, zeros, and the last bit of the rate. -/
def padTo (rate : Nat) (suffix : Byte) (m : List Byte) : List Byte :=
  let z := rate - m.length % rate
  if z = 1 then m ++ [suffix ||| 0x80] else m ++ suffix :: List.replicate (z - 2) 0 ++ [0x80]
def absorb (rate : Nat) : Nat → List Byte → List W64 → List W64
  | 0, _, a => a
  | n + 1, m, a => absorb rate n (m.drop rate) (keccakF (a.zipWith (· ^^^ ·) (toLanes (m.take rate))))
/-- A sponge of one output block at most. -/
def sponge (rate : Nat) (suffix : Byte) (out : Nat) (m : List Byte) : List Byte :=
  let p := padTo rate suffix m
  (ofLanes (absorb rate (p.length / rate) p (List.replicate 25 0))).take out
/-- R410: SHAKE256 with 64 bytes of output. -/
def shake256 (m : List Byte) : List Byte := sponge 136 0x1F 64 m
/-- R411: SHA3-512. -/
def sha3_512 (m : List Byte) : List Byte := sponge 72 0x06 64 m

end Sys2Proof.Machine
end

