-- ==== Sys2Proof/Machine/Translate.lean ====
section
/-!
DEFINITION. Generic addresses, page tables, TLBs, physical addresses and home slices (03_encoding.md R74; 17_memory_hierarchy.md
R321, R324 to R330, R336; 22_fabric_host.md R391).
-/
namespace Sys2Proof.Machine
open Sys2Proof

/-- R74: what an access is translated for. -/
inductive Kind where | fetch | load | store
deriving DecidableEq, Repr

/-- R74: the translation and access causes. -/
def Kind.tcause : Kind → Nat | .fetch => 0x04 | .load => 0x06 | .store => 0x07
def Kind.acause : Kind → Nat | .fetch => 0x05 | _ => 0x08

/-- R74: a translation: a location, a fault, or a page not yet known to the core's TLB. -/
inductive TRes where
  | ok (l : Loc) (a : PageAttr)
  | fault (cause : Nat)
  | miss
deriving DecidableEq, Repr

def Strand.actor (x : Strand) (core : Nat) : Actor := { core, part := x.part, priv := x.priv, priva := x.priva }

/-! ### Page tables (R325, R326) -/

/-- Bits `hi` to `lo` of a number. -/
def field (v lo n : Nat) : Nat := v / 2 ^ lo % 2 ^ n
def bit (v i : Nat) : Bool := v.testBit i

/-- R324: the location of a physical offset of the own device in a partition, outside the register area. -/
def State.offLoc (s : State) (part off : Nat) : Option Loc :=
  let p := s.partn part
  let k := (off - 2 ^ 41) / 2 ^ 23
  if off < p.hbm then some (.hbm part off)
  else if 2 ^ 41 ≤ off ∧ k < p.slices.length ∧ (off - 2 ^ 41) % 2 ^ 23 < p.scr.toNat * 2 ^ 20 then some (.hbm part off)
  else if 2 ^ 42 ≤ off ∧ off < 2 ^ 43 then some (.host (off - 2 ^ 42))
  else none

/-- R391: the lowest-numbered valid peer entry for a device. -/
def Partition.peerFor (p : Partition) (dev : Nat) : Option Nat :=
  (p.peers.toList.find? fun w => w.getLsbD 63 && (w.extractLsb' 16 9).toNat == dev).map fun w => (w.extractLsb' 0 6).toNat

/-- R416: a line marked as part of a save area. -/
def Partition.isMarked (p : Partition) (off : Nat) : Bool := p.marked.any fun r => decide (r.1 ≤ off) && decide (off < r.1 + r.2)
/-- R422: a page taken out of use. -/
def State.isRetired (s : State) (part off : Nat) : Bool := s.retired.contains (part, off / 4096)

/-- R324: the location of a physical address; none where it lies outside the partition. -/
def State.paLoc (s : State) (part pa : Nat) : Option Loc :=
  let p := s.partn part
  let dev := pa / 2 ^ 43
  let off := pa % 2 ^ 43
  if dev ≠ s.devid.toNat then
    if p.pmask ≠ 0 ∧ (p.peerFor dev).isSome then some (.dev pa) else none
  else if 2 ^ 40 ≤ off ∧ off < 2 ^ 40 + 2 ^ 19 then some (.regs part (off - 2 ^ 40))
  else if s.isRetired part off then none
  else s.offLoc part off

/-- R330: a page under migration in state 2 is reached at its new place. -/
def pmBytes (sz : BV2) : Nat := match sz.toNat with | 0 => 2 ^ 12 | 1 => 2 ^ 16 | _ => 2 ^ 21
def Loc.forward (s : State) : Loc → Loc
  | .hbm part off =>
    let m := (s.partn part).pm
    if m.st = 2 ∧ m.src ≤ off ∧ off < m.src + m.len then .hbm part (m.dst + (off - m.src)) else .hbm part off
  | l => l

/-- R326: a page-table entry as the walker reads it at its home; none where it does not lie in the partition's memory. -/
def State.pte (s : State) (part pa : Nat) : Option Nat :=
  if pa / 2 ^ 43 ≠ s.devid.toNat ∨ s.isRetired part (pa % 2 ^ 43) then none
  else match s.offLoc part (pa % 2 ^ 43) with
    | some (.hbm p o) => some (leNat (s.readAt ((Loc.hbm p o).forward s) 8))
    | _ => none

/-- R325, R326: a leaf at a level: the physical base of its page and its slot, or none where the walk ends. -/
def leafOf (level e : Nat) : Option (Nat × Nat) :=
  let rwx := field e 1 3
  let ca := field e 6 2
  let lg := 12 + 9 * (level - 1)
  if level = 5 ∨ ca ≥ 2 ∨ rwx = 0 ∨ !bit e 0 ∨ field e 52 12 ≠ 0 then none
  else if level = 1 then (if field e 8 4 ≠ 0 then none else some (field e 12 40 * 4096, 0))
  else
    let slot := field e 8 8
    let pa := field e 21 31 * 2 ^ 21
    if field e 16 5 ≠ 0 ∨ (bit e 2 ∧ slot ≠ 0) ∨ (level = 4 ∧ bit e 5) ∨ pa % 2 ^ lg ≠ 0 then none
    else some (pa, slot)

/-- R326: the group of a contiguous-16 leaf: the 16 entries are leaves, equal but for consecutive bases from an aligned one. -/
def groupOk (level : Nat) (es : List (Option Nat)) : Option Nat :=
  let size := 2 ^ (12 + 9 * (level - 1))
  match es with
  | some e0 :: _ =>
    match leafOf level e0 with
    | some (b, sl) =>
      if b % (16 * size) = 0 ∧ (es.zipIdx.all fun x =>
        match x.1 with
        | some e => field e 0 8 == field e0 0 8 && leafOf level e == some (b + x.2 * size, sl)
        | none => false)
      then some b else none
    | none => none
  | _ => none

/-- R325, R326: a walk from a table of level `n`. -/
def State.walkFrom (s : State) (part va : Nat) : Nat → Nat → Option TlbEntry
  | 0, _ => none
  | n + 1, table =>
    let level := n + 1
    let idx := field va (12 + 9 * n) 9
    match s.pte part (table + 8 * idx) with
    | none => none
    | some e =>
      if !bit e 0 then none
      else if field e 1 3 = 0 then
        if field e 52 12 ≠ 0 ∨ field e 8 4 ≠ 0 ∨ field e 4 4 ≠ 0 then none
        else s.walkFrom part va n (field e 12 40 * 4096)
      else match leafOf level e with
        | none => none
        | some (b, sl) =>
          let lg := 12 + 9 * n
          if bit e 5 then
            match groupOk level ((List.range 16).map fun k => s.pte part (table + 8 * (idx / 16 * 16 + k))) with
            | some g => some { part, va := va / 2 ^ (lg + 4) * 2 ^ (lg + 4), pa := g, lg := lg + 4, flags := BitVec.ofNat 8 e, slot := sl }
            | none => none
          else some { part, va := va / 2 ^ lg * 2 ^ lg, pa := b, lg, flags := BitVec.ofNat 8 e, slot := sl }
/-- R326, R331: a walk of the partition's tables. -/
def State.walk (s : State) (part va : Nat) : Option TlbEntry :=
  let p := s.partn part
  if p.ten then s.walkFrom part va 5 (p.ptRoot.toNat * 4096) else none

/-- R325: the offsets of the entries that a walk of `n` levels reads in the partition's memory. -/
def State.readsFrom (s : State) (part va : Nat) : Nat → Nat → List Nat
  | 0, _ => []
  | n + 1, table =>
    let at_ := table + 8 * field va (12 + 9 * n) 9
    match s.pte part at_ with
    | none => []
    | some e =>
      if bit e 0 ∧ field e 1 3 = 0 then at_ % 2 ^ 43 :: s.readsFrom part va n (field e 12 40 * 4096)
      else if bit e 0 ∧ bit e 5 then
        at_ % 2 ^ 43 :: ((List.range 16).map fun k => (table + 8 * (field va (12 + 9 * n) 9 / 16 * 16 + k)) % 2 ^ 43).filter (· ≠ at_ % 2 ^ 43)
      else [at_ % 2 ^ 43]
def State.walkReads (s : State) (part va : Nat) : List Nat :=
  let p := s.partn part
  if p.ten then s.readsFrom part va 5 (p.ptRoot.toNat * 4096) else []

/-! ### TLBs (R328) -/

def TlbEntry.covers (e : TlbEntry) (part va : Nat) : Bool := e.part == part && va / 2 ^ e.lg * 2 ^ e.lg == e.va
def tlbFind (t : List TlbEntry) (part va : Nat) : Option TlbEntry := t.find? fun e => e.covers part va
/-- A translation is installed; with the TLB full, the oldest one goes (log 7). -/
def tlbAdd (t : List TlbEntry) (cap : Nat) (e : TlbEntry) : List TlbEntry :=
  let r := t.filter (· != e)
  (if r.length ≥ cap then r.drop 1 else r) ++ [e]

/-- R327, R412: a key slot, not 0, that holds no key of a partition. -/
def State.slotBad (s : State) (kslot part : Nat) : Bool :=
  kslot != 0 && (match s.keys.lookup kslot with | some k => k.part != part | none => true)
/-- R327: whether a leaf denies an access. -/
def TlbEntry.denies (s : State) (e : TlbEntry) (k : Kind) (priv : Bool) : Bool :=
  !(match k with | .load => e.flags.getLsbD 1 | .store => e.flags.getLsbD 2 | .fetch => e.flags.getLsbD 3) ||
  (!priv && !e.flags.getLsbD 4) ||
  s.slotBad e.slot e.part

/-- R325, R332, R344: a location of memory that the caches may hold. -/
def Loc.cacheable : Loc → Bool | .hbm _ _ => true | _ => false
/-- R332: under cluster cache code 0 every page counts as uncached. -/
def State.ccOn (s : State) (cl : Nat) : Bool := (s.cluster cl).ccCode != 0

/-- R422: a physical address of a page taken out of use. -/
def State.retiredPa (s : State) (part pa : Nat) : Bool := pa / 2 ^ 43 == s.devid.toNat && s.isRetired part (pa % 2 ^ 43)
/-- R74: the location of an address under a translation. Every access to a page taken out of use, a fetch too, fails with `0x08` (R422). -/
def State.located (s : State) (a : Actor) (k : Kind) (va : Nat) (e : TlbEntry) : TRes :=
  match s.paLoc a.part (e.pa + va % 2 ^ e.lg) with
  | none => .fault (if s.retiredPa a.part (e.pa + va % 2 ^ e.lg) then 0x08 else k.acause)
  | some l =>
    if e.denies s k a.priv then .fault k.acause
    else .ok l { cached := (field e.flags.toNat 6 2 == 0) && s.ccOn (clusterOf a.core) && l.cacheable, slot := e.slot }

/-! ### Windows (R321) -/

/-- R229, R323: the bytes of a cluster's cache. -/
def ccBytes (code : BV2) : Nat := code.toNat * 2 ^ 19
/-- R321: the package cluster a window address names; none where it names none of the partition. -/
def State.windowCluster (s : State) (part va : Nat) : Option Nat :=
  let clid := field va 22 6
  let cl := field va 28 2 * 48 + clid
  if field va 30 22 = 0 ∧ clid < 48 ∧ (s.partn part).clusters.contains cl then some cl else none

/-- R74: the windows; none for a global address. -/
def State.window (s : State) (a : Actor) (k : Kind) (va : Nat) : Option TRes :=
  let off := va % 2 ^ 52
  match field va 52 5 with
  | 0x1C => some (if off < a.priva.size then .ok (.lm a.priva.core (a.priva.off + off)) {} else .fault k.acause)
  | 0x1D => some (if off < Config.lmBytes then .ok (.lm a.core off) {} else .fault k.acause)
  | 0x1E => some (match s.windowCluster a.part va with
      | some cl => .ok (.lm (cl * 16 + field va 18 4) (va % 2 ^ 18)) {}
      | none => .fault k.acause)
  | 0x1F => some (match s.windowCluster a.part va with
      | some cl => if va % 2 ^ 22 < Config.csmBytes - ccBytes (s.cluster cl).ccCode then .ok (.csm cl (va % 2 ^ 22)) {}
                   else .fault k.acause
      | none => .fault k.acause)
  | _ => none

/-- R74: `Translate` of a strand: a global address needs its core's TLB. -/
def State.translate (s : State) (a : Actor) (k : Kind) (va : W64) : TRes :=
  if va.extractLsb' 57 7 ≠ 0 then .fault k.tcause
  else match s.window a k va.toNat with
    | some r => r
    | none =>
      match tlbFind (s.core a.core).l1tlb a.part va.toNat with
      | some e => s.located a k va.toNat e
      | none => .miss

/-- R328: the same for an engine or a slice, which waits for the walk: the walk's result counts at once. -/
def State.translateNow (s : State) (a : Actor) (k : Kind) (va : W64) : TRes :=
  match s.translate a k va with
  | .miss =>
    match tlbFind (s.cluster (clusterOf a.core)).tlb a.part va.toNat with
    | some e => s.located a k va.toNat e
    | none => match s.walk a.part va.toNat with | some e => s.located a k va.toNat e | none => .fault k.tcause
  | r => r

/-! ### Homes (R336, R380) -/

/-- R336: the XOR of the 6-bit chunks of a line number. -/
def xorChunks : Nat → Nat → Nat
  | 0, _ => 0
  | n + 1, v => (v % 64) ^^^ xorChunks n (v / 64)
def Partition.homeIndex (p : Partition) (line : Nat) : Nat :=
  (if p.imode then xorChunks 8 line else line) % p.slices.length
/-- R324, R336: the home slice of a partition's HBM or slice-memory offset. -/
def State.homeSlice (s : State) (part off : Nat) : Nat :=
  let p := s.partn part
  if off ≥ 2 ^ 41 then p.slices.getD ((off - 2 ^ 41) / 2 ^ 23) 0 else p.slices.getD (p.homeIndex (off / 64)) 0
/-- R380: the bank of a line of its home: its number among the home's lines, by eight. -/
def State.homeBank (s : State) (part off : Nat) : Nat :=
  let p := s.partn part
  if off ≥ 2 ^ 41 then field off 6 3
  else
    let line := off / 64
    if p.imode then
      let i := p.homeIndex line
      let base := line / 64 * 64
      let per := ((List.range 64).filter fun v => v % p.slices.length == i).length
      (line / 64 * per + ((List.range (line % 64)).filter fun k => p.homeIndex (base + k) == i).length) % 8
    else line / p.slices.length % 8

/-- R344, R370: the unit at which a location is performed. -/
def State.home (s : State) : Loc → Node
  | .lm c _ => .core c
  | .csm cl _ => .csm cl
  | .hbm p o => .slice (s.homeSlice p o)
  | .host _ => .iod
  | .regs _ _ => .iod
  | .dev pa => .dev (pa / 2 ^ 43)
/-- R152: the bank of a home that keeps a word's retry list, and its places. -/
def State.bankOf (s : State) : Loc → Nat
  | .lm _ o => field o 5 3
  | .csm _ o => field o 3 5
  | .hbm p o => s.homeBank p o
  | _ => 0
def retryPlaces : Loc → Nat | .hbm _ _ => 64 | _ => 16

/-! ### Routes (R12, R13, R367, R369, R372): a router has its package cluster's number -/

def iodRouter : Nat := 192
/-- R8: the end, on a compute die, of that die's own link to the IOD; it joins the mesh at the routers of column 7. -/
def diePort (die : Nat) : Nat := 193 + die
/-- The far end of the edge hop into a slice. -/
def sliceEnd (n : Nat) : Nat := 1000 + n
/-- The router a unit sits at; none for the IOD. -/
def Node.router : Node → Option Nat
  | .core n => some (clusterOf n)
  | .csm c => some c
  | .slice n => some (n / 16 * 48 + sliceRow n * 8 + sliceCol n)
  | _ => none
/-- R367: the hops of a row from column `c` to `d`; skips of 4 unless on the escape channel. -/
def rowLinks (base : Nat) (skip : Bool) (d : Nat) : Nat → Nat → List (Nat × Nat)
  | 0, _ => []
  | n + 1, c =>
    if c = d then []
    else
      let k := if skip && absDiff c d ≥ 4 then 4 else 1
      let e := if c < d then c + k else c - k
      (base + c, base + e) :: rowLinks base skip d n e
/-- The hops of a column from row `r` to `d`. -/
def colLinks (base col d : Nat) : Nat → Nat → List (Nat × Nat)
  | 0, _ => []
  | n + 1, r =>
    if r = d then []
    else
      let e := if r < d then r + 1 else r - 1
      (base + r * 8 + col, base + e * 8 + col) :: colLinks base col d n e
def dieBase (r : Nat) : Nat := r / 48 * 48
/-- R367, R369: the links of a route between two routers of a die. -/
def dieLinks (escape : Bool) (a b : Nat) : List (Nat × Nat) :=
  let base := dieBase a
  if escape then
    colLinks base (colOf a) (rowOf b) 8 (rowOf a) ++ rowLinks (base + rowOf b * 8) false (colOf b) 8 (colOf a)
  else rowLinks (base + rowOf a * 8) true (colOf b) 8 (colOf a) ++ colLinks base (colOf b) (rowOf b) 8 (rowOf a)
/-- R367: the column-7 router of the row of a router, on the same die. -/
def edgeRouter (r : Nat) : Nat := dieBase r + rowOf r * 8 + 7
/-- R369: the die-to-die router an escaped packet leaves by: that of the row of the destination. -/
def exitRouter (escape : Bool) (a : Nat) (b : Option Nat) : Nat :=
  match escape, b with | true, some r => dieBase a + rowOf r * 8 + 7 | _, _ => edgeRouter a
/-- R8, R367: from a router of column 7 over its die's one link to the IOD, and from the IOD to such a router. -/
def outLinks (r : Nat) : List (Nat × Nat) := [(r, diePort (dieOf r)), (diePort (dieOf r), iodRouter)]
def inLinks (r : Nat) : List (Nat × Nat) := [(iodRouter, diePort (dieOf r)), (diePort (dieOf r), r)]
/-- R367: the links of the route between two routers, none for the IOD. -/
def linksOf (escape : Bool) (a b : Option Nat) : List (Nat × Nat) :=
  match a, b with
  | some x, some y =>
    if dieBase x = dieBase y then dieLinks escape x y
    else dieLinks escape x (exitRouter escape x (some y)) ++ outLinks (exitRouter escape x (some y)) ++ inLinks (edgeRouter y) ++
      dieLinks escape (edgeRouter y) y
  | some x, none => dieLinks escape x (edgeRouter x) ++ outLinks (edgeRouter x)
  | none, some y => inLinks (edgeRouter y) ++ dieLinks escape (edgeRouter y) y
  | none, none => []
/-- R367: the route of a packet. -/
def Node.route (escape : Bool) (a b : Node) : List (Nat × Nat) :=
  linksOf escape a.router b.router ++
  (match b, b.router with | .slice n, some r => [(r, sliceEnd n)] | _, _ => []) ++
  (match a, a.router with | .slice n, some r => [(sliceEnd n, r)] | _, _ => [])
/-- R372: no request can go from one unit to another, or no answer back: what the model makes between them without a packet waits
(log 36). -/
def State.cutOff (s : State) (a b : Node) : Bool :=
  !s.failed.isEmpty && (a.route false b ++ b.route false a).any fun l => s.failed.contains l
/-- R328, R372: an entry that a unit's walk reads lies at a home that it cannot reach. -/
def State.walkCut (s : State) (src : Node) (part va : Nat) : Bool :=
  !s.failed.isEmpty && (s.walkReads part va).any fun o => s.cutOff src (.slice (s.homeSlice part o))

/-- R345: whether two byte ranges meet. -/
def meets (a n b m : Nat) : Bool := decide (a < b + m) && decide (b < a + n)

end Sys2Proof.Machine
end

