-- ==== Sys2Proof/Machine/Cache.lean ====
section
/-!
DEFINITION. Memory at its homes, and the caches of global lines: the cluster cache and the L1Ds with leases in logical time
(17_memory_hierarchy.md R332 to R335, R338, R341; 20 R381; 23 R414), release and acquire of the caches (06 R144).
-/
namespace Sys2Proof.Machine
open Sys2Proof

/-! ### Homes (R341, R381, R416) -/

/-- The offsets of the 4-byte words a range touches. -/
def wordsOf (off n : Nat) : List Nat := (List.range ((off + n + 3) / 4 - off / 4)).map fun i => (off / 4 + i) * 4
/-- R381: a write to words of a slice other than `AFADD` sets their S to 0. -/
def State.clearS (s : State) (l : Loc) (n : Nat) : State :=
  match l with
  | .hbm p o => { s with sbits := (wordsOf o n).foldl (fun t w => sremove t ((Loc.hbm p w).key / 4)) s.sbits }
  | _ => s
/-- R338: no replica holds a line whose home writes it: a copy that is left has acknowledged its invalidation (log 36). -/
def State.dropReplicas (s : State) (l : Loc) (n : Nat) : State :=
  match l with
  | .hbm p o =>
    if (s.partn p).replicas.isEmpty then s
    else s.setPartn p { s.partn p with replicas := (s.partn p).replicas.map fun r =>
      { r with lines := r.lines.filter fun e => decide (e.2.1 + 64 ≤ o) || decide (o + n ≤ e.2.1) } }
  | _ => s
/-- A write at the home of a location. -/
def State.homeWrite (s : State) (l : Loc) (bs : List Byte) : State :=
  let l := l.forward s
  ((s.writeAt l bs).clearS l bs.length).dropReplicas l bs.length
/-- R341: the plaintext of a line filled under a key slot; slot 0 is memory as it stands. -/
def State.homeLine (s : State) (part off kslot va : Nat) : List Byte :=
  let b := s.readAt ((Loc.hbm part off).forward s) 64
  if kslot = 0 then b
  else match s.keys.lookup kslot with
    | some k => xtsDec k.key (va % 2 ^ 57 / 64) b
    | none => b
/-- A read at the home of a location. -/
def State.homeRead (s : State) (l : Loc) (n kslot va : Nat) : List Byte :=
  match l with
  | .hbm part off =>
    if kslot = 0 then s.readAt (l.forward s) n
    else ((s.homeLine part (off / 64 * 64) kslot va).drop (off % 64)).take n
  | _ => s.readAt l n

/-! ### Replicas (R337, R338) -/

/-- The first offset of the line that holds an offset. -/
def lineOf (off : Nat) : Nat := off / 64 * 64
/-- The die of a unit; none for the IOD and other devices. -/
def Node.die : Node → Option Nat
  | .core c => some (dieOf (clusterOf c)) | .csm cl => some (dieOf cl) | .slice n => some (n / 16) | _ => none
def Partition.replica (p : Partition) (home region : Nat) : Option Replica := p.replicas.find? fun r => r.region == region && r.home == home
def Partition.setReplica (p : Partition) (r : Replica) : Partition :=
  { p with replicas := p.replicas.map fun x => if x.region == r.region && x.home == r.home then r else x }
/-- R337: the slices that hold the replicas of a home's region: one on each other die of the partition. -/
def Partition.replicaSlices (p : Partition) (home : Nat) : List Nat :=
  (List.range 4).filterMap fun d =>
    if d = home / 16 then none
    else if p.slices.contains (d * 16 + home % 16) then some (d * 16 + home % 16) else p.slices.find? fun n => n / 16 == d
def State.replicate (s : State) (part home region : Nat) : State :=
  let p := s.partn part
  if (p.replica home region).isSome || decide ((p.replicas.filter fun r => r.home == home).length ≥ 64) || (p.replicaSlices home).isEmpty then s
  else s.setPartn part { p with replicas := p.replicas ++ [{ region, home, at_ := p.replicaSlices home }] }
def hotCount (l : List (Nat × Nat × Nat)) (part region : Nat) : Nat :=
  match l.find? fun e => e.1 == part && e.2.1 == region with | some e => e.2.2 | none => 0
/-- R337: a read that arrives from another die, the IOD's among them, counts; the region that reaches `HOTTHR` is replicated. -/
def State.countHot (s : State) (home : Nat) (src : Node) (part off : Nat) : State :=
  let thr := (s.partn part).hotthr.toNat
  if src.die = some (home / 16) ∨ thr = 0 ∨ off ≥ 2 ^ 41 then s
  else
    let g := off / 65536
    let sl := s.slice home
    let n := hotCount sl.hot part g + 1
    let t := s.setSlice home { sl with hot := (sl.hot.filter fun e => !(e.1 == part && e.2.1 == g)) ++ [(part, g, n)] }
    if n ≥ thr then t.replicate part home g else t
/-- R337: the slice of a die that may hold a replica of a line, with its region's record. -/
def State.replicaOn (s : State) (die part off : Nat) : Option (Replica × Nat) :=
  if off ≥ 2 ^ 41 then none
  else ((s.partn part).replica (s.homeSlice part off) (off / 65536)).bind fun r => (r.at_.find? fun m => m / 16 == die).map fun m => (r, m)
/-- R414: whether a slice holds a line under a key slot. -/
def Slice.has (c : Slice) (part off kslot : Nat) : Bool := c.lines.contains (part, lineOf off, kslot)
/-- R381: a line leaves the SRAM of its slice; the S bits of its words are lost. A line of slice memory does not leave. -/
def State.evictLine (s : State) (n part off : Nat) : State :=
  if off ≥ 2 ^ 41 then s
  else (s.setSlice n { s.slice n with lines := (s.slice n).lines.filter fun e => !(e.1 == part && e.2.1 == off) }).clearS (.hbm part off) 64
/-- R16, R324: the HBM lines that the 8 MiB of a slice have room for beside its slice memory. -/
def State.sliceLines (s : State) (part : Nat) : Nat := (8 - (s.partn part).scr.toNat) * 16384
/-- R337: the lines of replicas that a slice holds. -/
def Partition.replicaLines (p : Partition) (n : Nat) : Nat := (p.replicas.map fun r => (r.lines.filter fun e => e.1 == n).length).sum
/-- A slice drops one line of its replicas. -/
def dropReplicaLine (n : Nat) : List Replica → List Replica
  | [] => []
  | r :: l => if r.lines.any fun e => e.1 == n then { r with lines := r.lines.eraseP fun e => e.1 == n } :: l else r :: dropReplicaLine n l
/-- R16, R17, R324: a slice's lines, those of replicas among them, leave room for `extra` more beside its slice memory: home lines that
came longest ago leave first, then lines of replicas (R381; DESIGN CHOICE, log 7). -/
def State.makeRoom (s : State) (n part extra : Nat) : State :=
  let lines := (s.slice n).lines
  let surplus := lines.length + (s.partn part).replicaLines n + extra - s.sliceLines part
  let t := (lines.take surplus).foldl (fun u e => u.evictLine n e.1 e.2.1) s
  let rest := surplus - lines.length
  if rest = 0 then t
  else t.setPartn part { t.partn part with replicas := (List.range rest).foldl (fun l _ => dropReplicaLine n l) (t.partn part).replicas }
/-- R380, R414: a slice holds a line of HBM under a key slot: a copy under another slot counts as absent and leaves, and the line is filled
again. -/
def State.holdLine (s : State) (n part off kslot : Nat) : State :=
  if off ≥ 2 ^ 41 ∨ (s.slice n).has part off kslot then s
  else
    let t := if (s.slice n).lines.any fun e => e.1 == part && e.2.1 == lineOf off then s.evictLine n part (lineOf off) else s
    let t := t.makeRoom n part 1
    t.setSlice n { t.slice n with lines := (t.slice n).lines ++ [(part, lineOf off, kslot)] }
/-- Whether a location lies in a line of HBM. -/
def Loc.onLine : Loc → Nat → Nat → Bool | .hbm p o, part, off => p == part && lineOf o == lineOf off | _, _, _ => false
/-- R337, R338, R414: a replica takes the line its home has read for it, unless a write waits for the line; a copy under another key slot
goes. -/
def State.fillReplica (s : State) (r : Replica) (m part off kslot : Nat) : State :=
  if r.closed.contains (lineOf off) || r.lines.contains (m, lineOf off, kslot) || (s.slice r.home).fills.any (fun f => f.1.loc.onLine part off)
  then s
  else
    let t := s.makeRoom m part 1
    match (t.partn part).replica r.home r.region with
    | none => t
    | some q => t.setPartn part ((t.partn part).setReplica
      { q with lines := (q.lines.filter fun e => !(e.1 == m && e.2.1 == lineOf off)) ++ [(m, lineOf off, kslot)] })
/-- R338: whether a write to a line still waits for its replicas; the state with their invalidation asked for, and the line closed to
refills from then until the write is performed. -/
def State.writeGate (s : State) (n part off : Nat) : State × Bool :=
  match (s.partn part).replica n (off / 65536) with
  | none => (s, true)
  | some r =>
    let held := (r.lines.filter fun e => e.2.1 == lineOf off).map fun e => (e.1, e.2.1)
    (s.setPartn part ((s.partn part).setReplica
      { r with closed := sinsert r.closed (lineOf off), asked := r.asked ++ held.filter fun e => !r.asked.contains e }), held.isEmpty)
/-- R338: a write to a line has been performed: its replicas may fill it again. -/
def State.reopen (s : State) (n part off : Nat) : State :=
  match (s.partn part).replica n (off / 65536) with
  | none => s
  | some r => s.setPartn part ((s.partn part).setReplica { r with closed := sremove r.closed (lineOf off) })
/-- R337: a read of a line for a unit that the model makes without a packet (log 36): its die's replica answers it, or it arrives at
the home, where it counts, and fills the replica. -/
def State.noteRead (s : State) (src : Node) (part off kslot : Nat) : State :=
  let home := s.homeSlice part off
  match src.die.bind fun d => s.replicaOn d part off with
  | some (r, m) =>
    if r.lines.contains (m, lineOf off, kslot) then s
    else ((s.holdLine home part off kslot).fillReplica r m part off kslot).countHot home (.slice m) part off
  | none => (s.holdLine home part off kslot).countHot home src part off

/-- R337: the reads of a walk count at their homes: those of the entries on its way, and of the 16 of a contiguous group. -/
def State.noteWalk (s : State) (src : Node) (part va : Nat) : State :=
  (s.walkReads part va).foldl (fun u o => u.noteRead src part o 0) s

/-- R328, R337: a translation that an engine or a prefetch needs and no TLB holds is walked, its reads counted, and held from then on. -/
def State.walkNow (s : State) (who : Actor) (kd : Kind) (va : W64) : State :=
  let cl := clusterOf who.core
  if s.translate who kd va != .miss then s
  else match tlbFind (s.cluster cl).tlb who.part va.toNat with
    | some e => s.setCore who.core { s.core who.core with l1tlb := tlbAdd (s.core who.core).l1tlb 1024 e }
    | none =>
      let t := s.noteWalk (.csm cl) who.part va.toNat
      match s.walk who.part va.toNat with
      | none => t
      | some e =>
        let u := t.setCluster cl { t.cluster cl with tlb := tlbAdd (t.cluster cl).tlb 16384 e }
        u.setCore who.core { u.core who.core with l1tlb := tlbAdd (u.core who.core).l1tlb 1024 e }
/-- R328, R372: the walk that such an access needs cannot be made. -/
def State.walkHeld (s : State) (who : Actor) (kd : Kind) (va : W64) : Bool :=
  s.translate who kd va == .miss && (tlbFind (s.cluster (clusterOf who.core)).tlb who.part va.toNat).isNone &&
  s.walkCut (.csm (clusterOf who.core)) who.part va.toNat

/-! ### Bytes of a line and their masks -/

/-- R333: the bytes of a mask taken from `new`, the others from `old`. -/
def mergeBytes (mask : BitVec 64) (new old : List Byte) : List Byte :=
  (List.range 64).map fun i => if mask.getLsbD i then new.getD i 0 else old.getD i 0
def maskOfRange (o n : Nat) : BitVec 64 := BitVec.ofNat 64 ((2 ^ n - 1) * 2 ^ o)
/-- R405: the partition that holds a core's cluster. -/
def State.partOf (s : State) (core : Nat) : Nat := ((s.parts.find? fun e => e.2.clusters.contains (clusterOf core)).map (·.1)).getD 0
/-- R380: accesses to a line wait at its home for its fill. -/
def State.lineBusy (s : State) (part pa : Nat) : Bool := (s.slice (s.homeSlice part pa)).fills.any fun f => f.1.loc.onLine part pa
def State.onTheWay (s : State) : List Packet := s.net ++ s.reorder ++ s.arrived
/-- A line that a cluster's cache is writing back: its packet is on the way, or held. -/
def State.wbOut (s : State) (cl part off : Nat) : Bool :=
  s.onTheWay.any fun p => p.src == .csm cl && (match p.body with | .access a => a.loc.onLine part off | _ => false)
/-- R338: a write of a line that its home cannot perform before its replicas have acknowledged their invalidation, or behind another that
waits so. -/
def State.gated (s : State) (part off : Nat) : Bool :=
  match (s.partn part).replica (s.homeSlice part off) (off / 65536) with
  | none => false
  | some r => r.closed.contains (lineOf off) || r.lines.any fun e => e.2.1 == lineOf off
/-- R338, R372, R380: a line written back waits at its home behind accesses to the line or for its replicas, or before a failed link. -/
def State.writesWait (s : State) (part : Nat) : Bool :=
  (s.slices.any fun e => e.2.fills.any fun f => f.1.part == part && (match f.1.kind, f.2 with | .hostLine _, .csm _ => true | _, _ => false)) ||
  s.onTheWay.any fun p => p.part == part && (match p.src, p.body with | .csm _, .access _ => true | _, _ => false)
/-- The write of a line's dirty bytes, as an access of a cluster's cache. -/
def lineWrite (cl req part pa : Nat) (dirty : BitVec 64) (data : List Byte) : Access :=
  { req, loc := .hbm part pa, size := 64, va := 0, core := cl * 16, slot := 0, part
    kind := .hostLine ((List.range 64).map fun i => if dirty.getLsbD i then some (data.getD i 0) else none) }
/-- The dirty bytes of a line go from a cluster to its home: by a packet where its replicas are to drop it first (R338), where a failed link
holds it (R372), or behind such a one; else they join what waits there for the line (R380), or are written. -/
def State.writeBack (s : State) (cl part pa : Nat) (dirty : BitVec 64) (data : List Byte) : State :=
  let n := s.homeSlice part pa
  let (id, t) := s.fresh
  if dirty = 0 then s
  else if s.cutOff (.csm cl) (.slice n) || s.gated part pa || s.wbOut cl part pa then
    t.send (.csm cl) (.slice n) part .request (.access (lineWrite cl id part pa dirty data))
  else if s.lineBusy part pa then
    t.setSlice n { t.slice n with fills := (t.slice n).fills ++ [(lineWrite cl id part pa dirty data, .csm cl)] }
  else (List.range 64).foldl (fun t i => if dirty.getLsbD i then t.homeWrite (.hbm part (pa + i)) [data.getD i 0] else t) s

/-! ### The cluster cache and the L1Ds (R333, R414) -/

def ccFind (l : List CcLine) (part pa kslot : Nat) : Option CcLine :=
  l.find? fun e => e.part == part && e.pa == pa && e.kslot == kslot
def ccPut (l : List CcLine) (e : CcLine) : List CcLine := (l.filter fun x => !(x.part == e.part && x.pa == e.pa)) ++ [e]
def l1Find (l : List L1Line) (part pa kslot : Nat) : Option L1Line :=
  l.find? fun e => e.part == part && e.pa == pa && e.kslot == kslot
def l1Put (l : List L1Line) (e : L1Line) : List L1Line := (l.filter fun x => !(x.part == e.part && x.pa == e.pa)) ++ [e]
def l1Drop (l : List L1Line) (part pa : Nat) : List L1Line := l.filter fun x => !(x.part == part && x.pa == pa)
/-- The cores of a cluster. -/
def coresOf (cl : Nat) : List Nat := (List.range 16).map fun k => cl * 16 + k

/-- The dirty bytes of a core's L1D line go to the cluster cache, or to the home where the cluster cache does not hold the line;
the owner bit of the core is set (R333). The line's times cover the owner's accesses up to its pts (log 7). -/
def State.l1Flush (s : State) (core : Nat) (e : L1Line) : State :=
  let cl := clusterOf core
  if !e.excl && e.dirty == 0 then s
  else match ccFind (s.cluster cl).cc e.part e.pa e.kslot with
    | some x =>
      s.setCluster cl { s.cluster cl with
        cc := ccPut (s.cluster cl).cc { x with
          data := mergeBytes e.dirty e.data x.data, dirty := x.dirty ||| e.dirty
          owners := if e.dirty = 0 then x.owners else x.owners ||| ((1 : BitVec 16) <<< (core % 16))
          wts := max x.wts e.wts, rts := max x.rts (max e.rts (s.core core).pts) } }
    | none => if e.dirty = 0 then s else s.writeBack cl e.part e.pa e.dirty e.data
/-- R333: another L1D that holds the line Exclusive writes back its dirty bytes and keeps a lease up to its own pts. -/
def State.recallFrom (s : State) (core part pa : Nat) : State :=
  match (s.core core).l1d.find? fun e => e.part == part && e.pa == pa && e.excl with
  | none => s
  | some e =>
    let t := s.l1Flush core e
    t.setCore core { t.core core with l1d := l1Put (t.core core).l1d { e with excl := false, dirty := 0, rts := (t.core core).pts } }
def State.recall (s : State) (cl part pa : Nat) (except_ : Option Nat) : State :=
  (coresOf cl).foldl (fun t c => if except_ = some c then t else t.recallFrom c part pa) s

/-- R333, R335: fills in flight for lines of a cluster serve their accesses and are then dropped. -/
def State.dropFills (s : State) (cl : Nat) (sel : Access → Nat → Nat → Bool) : State :=
  (coresOf cl).foldl (fun u c => if (u.core c).reqs.isEmpty then u else u.setCore c { u.core c with
    reqs := (u.core c).reqs.map fun r =>
      match r.acc with
      | some a => (match a.kind, a.loc with
        | .line, .hbm p o => if sel a p (lineOf o) then { r with drop := true } else r
        | _, _ => r)
      | none => r }) s
/-- R333: a line leaves a cluster cache: its dirty bytes go to the home, mts covers its leases, and a fill that was asked for before is
not kept (R342). -/
def State.ccEvict (s : State) (cl : Nat) (e : CcLine) : State :=
  let t := (s.recall cl e.part e.pa none).dropFills cl fun _ p pa => p == e.part && pa == e.pa
  let x := (ccFind (t.cluster cl).cc e.part e.pa e.kslot).getD e
  let u := t.writeBack cl x.part x.pa x.dirty x.data
  u.setCluster cl { u.cluster cl with
    cc := (u.cluster cl).cc.filter fun y => !(y.part == x.part && y.pa == x.pa), mts := max (u.cluster cl).mts x.rts }
/-- R414: copies of a line under another slot count as absent: a dirty one is written back, and they are dropped. -/
def State.dropOtherSlot (s : State) (cl part pa kslot : Nat) : State :=
  match (s.cluster cl).cc.find? fun e => e.part == part && e.pa == pa && e.kslot != kslot with
  | none => s
  | some e =>
    let t := s.ccEvict cl e
    (coresOf cl).foldl (fun u c =>
      if (u.core c).l1d.isEmpty then u else u.setCore c { u.core c with l1d := l1Drop (u.core c).l1d part pa }) t
/-- R14, R323: lines a cluster cache of a size code has room for. -/
def ccLines (code : BV2) : Nat := ccBytes code / 64
/-- With the cluster cache full, the line put longest ago leaves it (DESIGN CHOICE, log 7). -/
def State.ccRoom (s : State) (cl : Nat) : State :=
  match (s.cluster cl).cc with
  | e :: r => if r.length + 1 ≥ ccLines (s.cluster cl).ccCode then s.ccEvict cl e else s
  | [] => s
/-- R333: a line filled from its home. -/
def State.ccFill (s : State) (cl part pa kslot : Nat) (data : List Byte) : State :=
  match ccFind (s.cluster cl).cc part pa kslot with
  | some _ => s
  | none =>
    let t := (s.dropOtherSlot cl part pa kslot).ccRoom cl
    t.setCluster cl { t.cluster cl with
      cc := ccPut (t.cluster cl).cc { part, pa, data, wts := (t.cluster cl).mts, rts := (t.cluster cl).mts, kslot } }
/-- R332, R333: the cluster cache of a core holds a line, filled from its home where it did not. -/
def State.ccGet (s : State) (core part pa kslot va : Nat) : State :=
  let cl := clusterOf core
  match ccFind (s.cluster cl).cc part pa kslot with
  | some _ => s
  | none =>
    let t := (s.dropOtherSlot cl part pa kslot).noteRead (.core core) part pa kslot
    t.ccFill cl part pa kslot (t.homeLine part pa kslot va)
/-- R15: lines an L1D or an L1I of 32 KiB has room for. -/
def l1Lines : Nat := 512
/-- With the L1D full, the line put longest ago leaves it (DESIGN CHOICE, log 7). -/
def State.l1Room (s : State) (core part pa : Nat) : State :=
  let l := (s.core core).l1d
  if l.any fun e => e.part == part && e.pa == pa then s
  else match l with
    | e :: r =>
      if r.length + 1 ≥ l1Lines then
        let t := s.l1Flush core e
        t.setCore core { t.core core with l1d := (t.core core).l1d.drop 1 }
      else s
    | [] => s
/-- R333: the line that a core holds Exclusive. -/
def State.holdsExcl (s : State) (core part pa kslot : Nat) : Bool :=
  match l1Find (s.core core).l1d part pa kslot with | some e => e.excl | none => false

/-- R333: a lease of a line the cluster cache holds. -/
def State.lease (s : State) (core part pa kslot : Nat) : State :=
  let cl := clusterOf core
  let s := if s.holdsExcl core part pa kslot then s else (s.recall cl part pa (some core)).l1Room core part pa
  match (if s.holdsExcl core part pa kslot then none else ccFind (s.cluster cl).cc part pa kslot) with
  | none => s
  | some x =>
    let pts := (s.core core).pts
    let rts := max (max x.rts x.wts) (pts + 32)
    let t := s.setCluster cl { s.cluster cl with cc := ccPut (s.cluster cl).cc { x with rts } }
    t.setCore core { t.core core with
      l1d := l1Put (t.core core).l1d { part, pa, data := x.data, wts := x.wts, rts, kslot }
      pts := max (max pts x.wts) (rts - 32) }
/-- R333: a line the cluster cache holds, taken Exclusive. -/
def State.exclusive (s : State) (core part pa kslot : Nat) : State :=
  let cl := clusterOf core
  let s := (s.recall cl part pa (some core)).l1Room core part pa
  match ccFind (s.cluster cl).cc part pa kslot with
  | none => s
  | some x =>
    let w := max (s.core core).pts (x.rts + 1)
    let t := s.setCluster cl { s.cluster cl with cc := ccPut (s.cluster cl).cc { x with wts := w, rts := w } }
    t.setCore core { t.core core with
      l1d := l1Put (t.core core).l1d { part, pa, data := x.data, excl := true, wts := w, rts := w, kslot }, pts := w }

/-- R372, R380, R338: a line that a core's cluster cannot read now: accesses wait for it at its home, the cluster's own bytes are on their way
there, or no packet can reach that home. -/
def State.lineKept (s : State) (core part pa : Nat) : Bool :=
  s.lineBusy part pa || s.wbOut (clusterOf core) part pa || s.cutOff (.core core) (.slice (s.homeSlice part pa))
/-- R372, R380: a store whose line the cluster must first fill, and cannot now. -/
def State.fillBusy (s : State) (core part pa kslot : Nat) : Bool :=
  !s.holdsExcl core part pa kslot && (ccFind (s.cluster (clusterOf core)).cc part pa kslot).isNone && s.lineKept core part pa
/-- R333: the bytes of a line that the L1D answers: a Leased line whose lease covers pts, or an Exclusive one. -/
def State.l1Hit (s : State) (core part pa kslot : Nat) : Option (List Byte) :=
  match l1Find (s.core core).l1d part pa kslot with
  | some e => if e.excl || decide ((s.core core).pts ≤ e.rts) then some e.data else none
  | none => none
/-- R333: a store into the L1D; the line is obtained Exclusive first (log 13: the fill takes no time). The store counts as made at the
core's pts, so that a reader of the line is not before it in the cluster's order (log 7). -/
def State.l1Store (s : State) (core part off kslot : Nat) (va : Nat) (bs : List Byte) : State :=
  let pa := off / 64 * 64
  let cl := clusterOf core
  let s := if s.holdsExcl core part pa kslot then s else (s.ccGet core part pa kslot va).exclusive core part pa kslot
  match l1Find (s.core core).l1d part pa kslot with
  | none => s
  | some e =>
    let w := max e.wts (s.core core).pts
    let e2 := { e with data := overwrite e.data (off % 64) bs, dirty := e.dirty ||| maskOfRange (off % 64) bs.length
                       wts := w, rts := max e.rts w }
    let t := s.setCore core { s.core core with l1d := l1Put (s.core core).l1d e2 }
    match ccFind (t.cluster cl).cc part pa kslot with
    | none => t
    | some x => t.setCluster cl { t.cluster cl with
        cc := ccPut (t.cluster cl).cc { x with owners := x.owners ||| ((1 : BitVec 16) <<< (core % 16)) } }

/-- R333: a core's clock is not before a logical time. -/
def State.raisePts (s : State) (core t : Nat) : State :=
  if t ≤ (s.core core).pts then s else s.setCore core { s.core core with pts := t }
/-- A location that its own core, or its own cluster, serves without the network. -/
def Loc.near (core : Nat) : Loc → Bool
  | .lm c _ => clusterOf c == clusterOf core
  | .csm cl _ => cl == clusterOf core
  | _ => false
/-- R333, R349: an access of a core to the LM or CSM of its cluster stands in the cluster's one order by logical time, after the releases
and the LM and CSM accesses made before it (log 7). -/
def State.nearTime (s : State) (core : Nat) : State :=
  let cl := clusterOf core
  if !s.ccOn cl then s
  else
    let t := max (s.core core).pts (s.cluster cl).relTs
    (s.raisePts core t).setCluster cl { s.cluster cl with relTs := t }
/-- R344: a line as the cluster cache holds it, filled first where absent, and read there for a core: the read stands in the cluster's
order at the core's pts, after the line's last write (R333, R349; log 7). -/
def State.ccLine (s : State) (core part pa kslot va : Nat) : State × List Byte :=
  let cl := clusterOf core
  let t := (s.ccGet core part pa kslot va).recall cl part pa none
  match ccFind (t.cluster cl).cc part pa kslot with
  | some x =>
    let u := t.raisePts core x.wts
    (u.setCluster cl { u.cluster cl with cc := ccPut (u.cluster cl).cc { x with rts := max x.rts (u.core core).pts } }, x.data)
  | none => (t, [])
/-- R344, R333: a write of an engine, or of a `.cl` release, at the cluster cache, after every lease of the line; the core's own lease
ends with the rise of its pts. -/
def State.ccStore (s : State) (core part off kslot va : Nat) (bs : List Byte) : State :=
  let pa := off / 64 * 64
  let cl := clusterOf core
  let t := (s.ccGet core part pa kslot va).recall cl part pa none
  match ccFind (t.cluster cl).cc part pa kslot with
  | none => t
  | some x =>
    let w := max (t.core core).pts (x.rts + 1)
    (t.raisePts core w).setCluster cl { t.cluster cl with
      cc := ccPut (t.cluster cl).cc { x with
        data := overwrite x.data (off % 64) bs, dirty := x.dirty ||| maskOfRange (off % 64) bs.length
        owners := x.owners ||| ((1 : BitVec 16) <<< (core % 16)), wts := w, rts := w } }

/-! ### Release and acquire of the caches (R144, R334, R335, R250, R157) -/

/-- Whether a line's bytes meet a byte range of physical offsets; all lines for none. -/
def inRange (r : Option (Nat → Bool)) (pa : Nat) : Bool := match r with | none => true | some f => f pa

/-- R144: the dirty lines of the core's L1D, and the cluster-cache lines whose owner bits name the core, go to their homes; `sel`
selects lines by partition and address. -/
def State.wbCore (s : State) (core : Nat) (sel : Nat → Nat → Bool) : State :=
  let cl := clusterOf core
  let t := ((s.core core).l1d.filter fun e => sel e.part e.pa).foldl (fun u e =>
    let v := u.l1Flush core e
    v.setCore core { v.core core with l1d := l1Put (v.core core).l1d { e with dirty := 0 } }) s
  ((t.cluster cl).cc.filter fun e => sel e.part e.pa && e.owners.getLsbD (core % 16)).foldl (fun u e =>
    let u := u.recall cl e.part e.pa (some core)
    match ccFind (u.cluster cl).cc e.part e.pa e.kslot with
    | none => u
    | some x =>
      let v := u.writeBack cl x.part x.pa x.dirty x.data
      v.setCluster cl { v.cluster cl with
        cc := ccPut (v.cluster cl).cc { x with dirty := 0, owners := x.owners &&& ~~~((1 : BitVec 16) <<< (core % 16)) } }) t

/-- R335: the core's L1D and its cluster cache drop their lines, dirty bytes written back first; a fill in flight serves its
access and is then dropped. -/
def State.invCore (s : State) (core : Nat) (sel : Nat → Nat → Bool) : State :=
  let cl := clusterOf core
  let t := ((s.core core).l1d.filter fun e => sel e.part e.pa).foldl (fun u e => u.l1Flush core e) s
  let t := t.setCore core { t.core core with l1d := (t.core core).l1d.filter fun e => !sel e.part e.pa }
  let t := ((t.cluster cl).cc.filter fun e => sel e.part e.pa).foldl (fun u e => u.ccEvict cl e) t
  t.dropFills cl fun _ => sel

def everyLine : Nat → Nat → Bool := fun _ _ => true
/-- One cache line. -/
def oneLine (part pa : Nat) : Nat → Nat → Bool := fun p a => p == part && a == pa
/-- The dirty bytes of one line go home from every cache of a cluster. -/
def State.wbLine (s : State) (cl part pa : Nat) : State :=
  let t := s.recall cl part pa none
  match (t.cluster cl).cc.find? fun e => e.part == part && e.pa == pa with
  | none => t
  | some x =>
    if x.dirty = 0 then t
    else
      let u := t.writeBack cl x.part x.pa x.dirty x.data
      u.setCluster cl { u.cluster cl with cc := ccPut (u.cluster cl).cc { x with dirty := 0, owners := 0 } }
/-- R333, R347: a release of a core stands at its pts in the cluster's order; what is then filled from a home comes after one at
package scope (log 7). -/
def State.markRelease (s : State) (core : Nat) (wide : Bool) : State :=
  let cl := clusterOf core
  let c := s.cluster cl
  let t := (s.core core).pts
  if t ≤ c.relTs ∧ (!wide ∨ t ≤ c.mts) then s
  else s.setCluster cl { c with relTs := max c.relTs t, mts := if wide then max c.mts t else c.mts }
/-- R333, R347: the core's clock passes the releases of its cluster and every lease of a line that has left the cluster cache (log 7). -/
def State.pastLeases (s : State) (core : Nat) : State :=
  let c := s.cluster (clusterOf core)
  s.raisePts core (max c.relTs (c.mts + 1))
/-- R144: whether a scope reaches beyond the cluster. -/
def Scope.wide : Scope → Bool | .pk | .sy => true | _ => false
/-- R144: the caches' part of a release, and of an acquire, at a scope. -/
def State.cacheRelease (s : State) (core : Nat) (sc : Scope) : State :=
  match sc with
  | .core => s
  | .cl => s.markRelease core false
  | _ => (s.wbCore core everyLine).markRelease core true
def State.cacheAcquire (s : State) (core : Nat) (sc : Scope) : State :=
  match sc with
  | .core => s
  | .cl => s.raisePts core (s.cluster (clusterOf core)).relTs
  | _ => (s.invCore core everyLine).pastLeases core
/-- R344, R346: an access of the core has been performed at the home of a line: its bytes come after what the caches of the cluster
held, whose dirty bytes were written back before it. -/
def State.homeDone (s : State) (core : Nat) (l : Loc) : State :=
  match l with
  | .hbm p o =>
    let sel := oneLine p (lineOf o)
    if ((s.cluster (clusterOf core)).cc.any fun e => sel e.part e.pa) || (coresOf (clusterOf core)).any fun c => (s.core c).l1d.any fun e => sel e.part e.pa
    then (s.invCore core sel).pastLeases core
    else s
  | _ => s
/-- R346: the bytes of a line that the cluster has written and that an access performed at its home must see. -/
def State.homeFirst (s : State) (core : Nat) (l : Loc) : State :=
  match l with
  | .hbm p o => s.wbLine (clusterOf core) p (lineOf o)
  | _ => s

/-- R229, R323, R290: every line of a cluster goes: L1Ds and cluster cache written back and invalidated. -/
def State.flushCluster (s : State) (cl : Nat) : State :=
  let t := (coresOf cl).foldl (fun u c => (u.core c).l1d.foldl (fun v e => v.l1Flush c e) u) s
  let t := (coresOf cl).foldl (fun u c => if (u.core c).l1d.isEmpty then u else u.setCore c { u.core c with l1d := [] }) t
  (t.cluster cl).cc.foldl (fun u e => u.ccEvict cl e) t

end Sys2Proof.Machine
end

