-- ==== Sys2Proof/Machine/Number.lean ====
section
/-!
DEFINITION. Number formats, round-to-odd narrowing, the final rounding, generators and `Mix` (02_number_formats.md R23 to R49).
Exact values are a sign, a whole magnitude and a power of two; where a quotient or root does not end, a sticky bit says that the
value lies strictly between the magnitude and the next.
-/
namespace Sys2Proof.Machine
open Sys2Proof

/-! ### Formats (R23 to R25) -/

/-- The formats of R23 and `.mi8` of R25. -/
inductive Fm where | f32 | bf16 | f16 | e4m3 | e5m2 | e3m2 | e2m3 | e2m1 | mi8
deriving DecidableEq, Repr

def FTy.fm : FTy → Fm
  | .f32 => .f32 | .bf16 => .bf16 | .f16 => .f16 | .e4m3 => .e4m3 | .e5m2 => .e5m2 | .e3m2 => .e3m2 | .e2m3 => .e2m3 | .e2m1 => .e2m1
def NTy.fm : NTy → Fm
  | .mi8 => .mi8 | .bf16 => .bf16 | .f16 => .f16 | .e4m3 => .e4m3 | .e5m2 => .e5m2 | .e3m2 => .e3m2 | .e2m3 => .e2m3 | .e2m1 => .e2m1
def MxFmt.fm : MxFmt → Fm
  | .e4m3 => .e4m3 | .e5m2 => .e5m2 | .e3m2 => .e3m2 | .e2m3 => .e2m3 | .e2m1 => .e2m1 | .mi8 => .mi8

/-- R23: bits of the exponent field. -/
def Fm.ebits : Fm → Nat
  | .f32 => 8 | .bf16 => 8 | .f16 => 5 | .e4m3 => 4 | .e5m2 => 5 | .e3m2 => 3 | .e2m3 => 2 | .e2m1 => 2 | .mi8 => 0
/-- R23: bits of the fraction field. -/
def Fm.fbits : Fm → Nat
  | .f32 => 23 | .bf16 => 7 | .f16 => 10 | .e4m3 => 3 | .e5m2 => 2 | .e3m2 => 2 | .e2m3 => 3 | .e2m1 => 1 | .mi8 => 6
/-- R23, R25: p. -/
def Fm.p (f : Fm) : Nat := f.fbits + 1
def Fm.bias : Fm → Int
  | .f32 => 127 | .bf16 => 127 | .f16 => 15 | .e4m3 => 7 | .e5m2 => 15 | .e3m2 => 3 | .e2m3 => 1 | .e2m1 => 1 | .mi8 => 0
/-- R23, R25: emin. -/
def Fm.emin (f : Fm) : Int := match f with | .mi8 => 0 | _ => 1 - f.bias
/-- R23: emax. -/
def Fm.emax : Fm → Int
  | .f32 => 127 | .bf16 => 127 | .f16 => 15 | .e4m3 => 8 | .e5m2 => 15 | .e3m2 => 4 | .e2m3 => 2 | .e2m1 => 2 | .mi8 => 0
/-- R24: the formats with infinities. -/
def Fm.hasInf : Fm → Bool | .f32 | .bf16 | .f16 | .e5m2 => true | _ => false
/-- R23, R27: bits of a code, and the bytes it takes in memory where it has bytes of its own. -/
def Fm.bits : Fm → Nat
  | .f32 => 32 | .bf16 => 16 | .f16 => 16 | .e4m3 => 8 | .e5m2 => 8 | .e3m2 => 6 | .e2m3 => 6 | .e2m1 => 4 | .mi8 => 8
def Fm.bytes (f : Fm) : Nat := (f.bits + 7) / 8

/-! ### Values -/

/-- A value: NaN (with what R24 and R34 keep of it), an infinity, or a finite value `± mag · 2^exp`, plus, where `st`, something
less than `2^exp` more in magnitude. -/
inductive Fv where
  | nan (neg sig : Bool)
  | inf (neg : Bool)
  | fin (neg : Bool) (mag : Nat) (exp : Int) (st : Bool)
deriving DecidableEq, Repr

def Fv.zero (neg : Bool) : Fv := .fin neg 0 0 false
def Fv.isNan : Fv → Bool | .nan _ _ => true | _ => false
def Fv.isSig : Fv → Bool | .nan _ s => s | _ => false
def Fv.isZero : Fv → Bool | .fin _ m _ st => m == 0 && !st | _ => false
def Fv.neg : Fv → Bool | .nan n _ => n | .inf n => n | .fin n _ _ _ => n
def Fv.negate : Fv → Fv | .nan n s => .nan (!n) s | .inf n => .inf (!n) | .fin n m e st => .fin (!n) m e st

def pow2 (n : Nat) : Nat := 2 ^ n
/-- `m · 2^k` for k not negative; for k negative, rounded down. -/
def shiftI (m : Nat) (k : Int) : Nat := if k ≥ 0 then m * pow2 k.toNat else m / pow2 (-k).toNat

/-- R23, R24: the value of a code. -/
def Fm.decode (f : Fm) (c : Nat) : Fv :=
  match f with
  | .mi8 =>
    let k := c % 256
    if k ≥ 128 then .fin true (256 - k) (-6) false else .fin false k (-6) false
  | _ =>
    let s := c / pow2 (f.bits - 1) % 2 == 1
    let ex := c / pow2 f.fbits % pow2 f.ebits
    let fr := c % pow2 f.fbits
    if f.hasInf && ex == pow2 f.ebits - 1 then
      (if fr == 0 then .inf s else .nan s (fr < pow2 (f.fbits - 1)))
    else if f == .e4m3 && ex == 15 && fr == 7 then .nan s false
    else if ex == 0 then .fin s fr (1 - f.bias - f.fbits) false
    else .fin s (pow2 f.fbits + fr) (ex - f.bias - f.fbits) false

/-- R20: the value of a carrier. -/
def valueOf (w : W32) : Fv := Fm.f32.decode w.toNat

/-- R24: the canonical NaN of a format that has one. -/
def Fm.nanCode (f : Fm) (neg : Bool) : Nat :=
  (if neg then pow2 (f.bits - 1) else 0) +
    match f with
    | .e4m3 => 0x7F
    | _ => (pow2 f.ebits - 1) * pow2 f.fbits + pow2 (f.fbits - 1)
def Fm.infCode (f : Fm) (neg : Bool) : Nat := (if neg then pow2 (f.bits - 1) else 0) + (pow2 f.ebits - 1) * pow2 f.fbits
/-- R23, R25: the code of the largest finite magnitude of a sign. -/
def Fm.maxCode (f : Fm) (neg : Bool) : Nat :=
  match f with
  | .mi8 => if neg then 0x80 else 0x7F
  | .e4m3 => (if neg then 0x80 else 0) + 0x7E
  | _ => (if neg then pow2 (f.bits - 1) else 0) + (if f.hasInf then (pow2 f.ebits - 1) * pow2 f.fbits - 1 else pow2 (f.bits - 1) - 1)

/-- floor(log2 of mag · 2^exp), for mag not 0. -/
def floorLog2 (mag : Nat) (exp : Int) : Int := (Nat.log2 mag : Int) + exp

/-- R23: the code of a value on the grid of `f`, given as units of `2^qe`; exact. -/
def Fm.encode (f : Fm) (neg : Bool) (t : Nat) (qe : Int) : Nat :=
  match f with
  | .mi8 => let k := shiftI t (qe + 6); if neg then (256 - k) % 256 else k % 256
  | _ =>
    let sign := if neg then pow2 (f.bits - 1) else 0
    if t = 0 then sign
    else
      let e := max (floorLog2 t qe) f.emin
      let sig := shiftI t (qe - (e - f.fbits))
      if sig ≥ pow2 f.fbits then sign + (e + f.bias).toNat * pow2 f.fbits + (sig - pow2 f.fbits) else sign + sig

def nanW : W32 := 0x7FC00000
/-- The carrier of a value that is a binary32 value; a NaN is the canonical one with its sign. -/
def carrier (v : Fv) : W32 :=
  match v with
  | .nan n _ => BitVec.ofNat 32 (Fm.f32.nanCode n)
  | .inf n => BitVec.ofNat 32 (Fm.f32.infCode n)
  | .fin n m e _ => BitVec.ofNat 32 (Fm.f32.encode n m e)

/-- R30: widening is exact. -/
def Fm.widen (f : Fm) (c : Nat) : W32 := carrier (f.decode c)

/-! ### Rounding to a grid (R31, R35) -/

/-- What truncation leaves: nothing, less than half a unit, half, more. -/
inductive Rem where | exact | lo | half | hi
deriving DecidableEq, Repr

/-- The grid of precision `p` and least exponent `emin` at a value: units `2^qe`, the truncated count and what is left. -/
def onGrid (mag : Nat) (exp : Int) (st : Bool) (p : Nat) (emin : Int) : Nat × Int × Rem :=
  let qe := max (floorLog2 mag exp) emin - p + 1
  if exp ≥ qe then (shiftI mag (exp - qe), qe, if st then .lo else .exact)
  else
    let u := pow2 (qe - exp).toNat
    let r := mag % u
    (mag / u, qe,
      if r = 0 ∧ !st then .exact
      else if 2 * r < u then .lo
      else if 2 * r = u then (if st then .hi else .half)
      else .hi)

/-- R35: the count of units a mode rounds to; `.sr` is R41's own. -/
def roundUnits (m : RMode) (neg : Bool) (t : Nat) (r : Rem) : Nat :=
  if r = .exact then t
  else match m with
    | .rne => (match r with | .hi => t + 1 | .half => if t % 2 = 0 then t else t + 1 | _ => t)
    | .rz => t
    | .ru => if neg then t else t + 1
    | .rd => if neg then t + 1 else t
    | .rmm => (match r with | .lo => t | _ => t + 1)
    | .ro => if t % 2 = 0 then t + 1 else t
    | .sr => t

/-- R31: `RoundToOdd` of a finite value: the value and whether it was inexact. -/
def roundToOdd (neg : Bool) (mag : Nat) (exp : Int) (st : Bool) (p : Nat) (emin emax : Int) : Fv × Bool :=
  if mag = 0 ∧ !st then (.zero neg, false)
  else if mag ≠ 0 ∧ floorLog2 mag exp > emax then (.inf neg, true)
  else
    let (t, qe, r) := onGrid (2 * mag + bit01 st) (exp - 1) false p emin
    (.fin neg (roundUnits .ro neg t r) qe false, r != .exact)

/-! ### Flags (R39) -/

/-- R39: nx, uf, of, dz, nv from bit 0. -/
abbrev Flags := BitVec 5
def Flags.nx : Flags := 1
def Flags.uf : Flags := 2
def Flags.ofl : Flags := 4
def Flags.dz : Flags := 8
def Flags.nv : Flags := 16

/-- A register's floating-point result: `w`, S and the flags raised. -/
structure FpRes where
  w : W32
  s : Bool
  fl : Flags
deriving DecidableEq, Repr

/-- R32: the mode of `FCSR.frm`; codes 6 and 7 are never held (R231). -/
def frmMode (c : BV3) : RMode :=
  match c.toNat with | 1 => .rz | 2 => .ru | 3 => .rd | 4 => .rmm | 5 => .ro | _ => .rne

/-- R37: whether overflow of a value gives infinity under a mode (FP32, BF16, FP16, E5M2 with `ovf`). -/
def overflowsToInf (m : RMode) (neg : Bool) : Bool :=
  match m with | .rne | .rmm | .sr => true | .rz | .ro => false | .ru => !neg | .rd => neg

/-- R32: a finite value rounded once to binary32. -/
def roundF32 (m : RMode) (neg : Bool) (mag : Nat) (exp : Int) (st : Bool) : FpRes :=
  if mag = 0 ∧ !st then { w := carrier (.zero neg), s := false, fl := 0 }
  else
    let m2 := 2 * mag + bit01 st
    let (t, qe, r) := onGrid m2 (exp - 1) false 24 (-126)
    let u := roundUnits m neg t r
    let ix := r != .exact
    if u ≠ 0 ∧ floorLog2 u qe > 127 then
      { w := BitVec.ofNat 32 (if overflowsToInf m neg then Fm.f32.infCode neg else Fm.f32.maxCode neg), s := true,
        fl := Flags.ofl ||| Flags.nx }
    else
      { w := BitVec.ofNat 32 (Fm.f32.encode neg u qe), s := ix,
        fl := (if ix then Flags.nx else 0) ||| (if ix && decide (floorLog2 m2 (exp - 1) < -126) then Flags.uf else 0) }

/-- R32 to R34, R122: an exact result delivered under a type: the NaN is `0x7FC0_0000`, an infinity has S = 0. -/
def deliver (t : FTy) (m : RMode) (v : Fv) (fl : Flags) : FpRes :=
  match v with
  | .nan _ _ => { w := nanW, s := false, fl }
  | .inf n => { w := carrier (.inf n), s := false, fl }
  | .fin n mag e st =>
    if t = .f32 then let r := roundF32 m n mag e st; { r with fl := r.fl ||| fl }
    else let (y, i) := roundToOdd n mag e st ((FTy.fm t).p + 2) (FTy.fm t).emin 127; { w := carrier y, s := i, fl }

/-! ### Exact arithmetic (R122) -/

def addSigned (n1 : Bool) (m1 : Nat) (n2 : Bool) (m2 : Nat) (zneg : Bool) : Bool × Nat :=
  if n1 == n2 then (n1, m1 + m2)
  else if m1 > m2 then (n1, m1 - m2) else if m2 > m1 then (n2, m2 - m1) else (zneg, 0)

/-- The sum; `zneg` is the sign of an exact zero from opposite signs. The Bool says that it is invalid. -/
def fvAdd (a b : Fv) (zneg : Bool) : Fv × Bool :=
  match a, b with
  | .nan _ _, _ => (.nan false false, false)
  | _, .nan _ _ => (.nan false false, false)
  | .inf n, .inf k => if n == k then (.inf n, false) else (.nan false false, true)
  | .inf n, _ => (.inf n, false)
  | _, .inf n => (.inf n, false)
  | .fin n1 m1 e1 _, .fin n2 m2 e2 _ =>
    let e := min e1 e2
    let (n, m) := addSigned n1 (shiftI m1 (e1 - e)) n2 (shiftI m2 (e2 - e)) zneg
    (.fin n m e false, false)

def fvMul (a b : Fv) : Fv × Bool :=
  match a, b with
  | .nan _ _, _ => (.nan false false, false)
  | _, .nan _ _ => (.nan false false, false)
  | .inf n, .inf k => (.inf (n != k), false)
  | .inf n, .fin k m _ _ => if m = 0 then (.nan false false, true) else (.inf (n != k), false)
  | .fin k m _ _, .inf n => if m = 0 then (.nan false false, true) else (.inf (n != k), false)
  | .fin n1 m1 e1 _, .fin n2 m2 e2 _ => (.fin (n1 != n2) (m1 * m2) (e1 + e2) false, false)

/-- The quotient, whether it is invalid, and whether it divides by zero. -/
def fvDiv (a b : Fv) : Fv × Bool × Bool :=
  match a, b with
  | .nan _ _, _ => (.nan false false, false, false)
  | _, .nan _ _ => (.nan false false, false, false)
  | .inf _, .inf _ => (.nan false false, true, false)
  | .inf n, .fin k _ _ _ => (.inf (n != k), false, false)
  | .fin k _ _ _, .inf n => (.zero (n != k), false, false)
  | .fin n1 m1 e1 _, .fin n2 m2 e2 _ =>
    if m2 = 0 then (if m1 = 0 then (.nan false false, true, false) else (.inf (n1 != n2), false, true))
    else if m1 = 0 then (.zero (n1 != n2), false, false)
    else
      let k := 80 + Nat.log2 m2
      (.fin (n1 != n2) (m1 * pow2 k / m2) (e1 - e2 - k) (m1 * pow2 k % m2 != 0), false, false)

/-- The whole square root, bit by bit from bit `i`. -/
def isqrtGo (n : Nat) : Nat → Nat → Nat
  | 0, r => if (r + 1) * (r + 1) ≤ n then r + 1 else r
  | i + 1, r => let c := r + pow2 (i + 1); isqrtGo n i (if c * c ≤ n then c else r)
def isqrt (n : Nat) : Nat := isqrtGo n (Nat.log2 n / 2 + 1) 0

/-- A finite value with an even power of two and a long magnitude. -/
def evenScale (m : Nat) (e : Int) : Nat × Int :=
  let k : Nat := 160
  if (e - k) % 2 = 0 then (m * pow2 k, e - k) else (m * pow2 (k + 1), e - k - 1)

def fvSqrt (a : Fv) : Fv × Bool :=
  match a with
  | .nan _ _ => (.nan false false, false)
  | .inf n => if n then (.nan false false, true) else (.inf false, false)
  | .fin n m e _ =>
    if m = 0 then (.zero n, false)
    else if n then (.nan false false, true)
    else
      let (m2, e2) := evenScale m e
      let r := isqrt m2
      (.fin false r (e2 / 2) (r * r != m2), false)

/-- R122: a signalling NaN operand raises nv. -/
def sigFlag (l : List Fv) : Flags := if l.any Fv.isSig then Flags.nv else 0
def nvIf (b : Bool) : Flags := if b then Flags.nv else 0

inductive FpOp where | add | sub | mul | div | sqrt
deriving DecidableEq, Repr

/-- R122: the two-operand operations (`sqrt` reads a). -/
def fpArith (o : FpOp) (t : FTy) (frm : RMode) (a b : W32) : FpRes :=
  let x := valueOf a
  let y := valueOf b
  let zneg := t = .f32 && frm = .rd
  match o with
  | .add => let (v, iv) := fvAdd x y zneg; deliver t frm v (sigFlag [x, y] ||| nvIf iv)
  | .sub => let (v, iv) := fvAdd x y.negate zneg; deliver t frm v (sigFlag [x, y] ||| nvIf iv)
  | .mul => let (v, iv) := fvMul x y; deliver t frm v (sigFlag [x, y] ||| nvIf iv)
  | .div => let (v, iv, dz) := fvDiv x y; deliver t frm v (sigFlag [x, y] ||| nvIf iv ||| (if dz then Flags.dz else 0))
  | .sqrt => let (v, iv) := fvSqrt x; deliver t frm v (sigFlag [x] ||| nvIf iv)

/-- R122: a · b + c, one rounding. -/
def fpFma (t : FTy) (frm : RMode) (a b c : W32) : FpRes :=
  let x := valueOf a
  let y := valueOf b
  let z := valueOf c
  let (p, iv1) := fvMul x y
  let (v, iv2) := fvAdd p z (t = .f32 && frm = .rd)
  deliver t frm (if iv1 then .nan false false else v) (sigFlag [x, y, z] ||| nvIf (iv1 || iv2))

/-! ### Compare, choose, classify (R44, R45, R124 to R127) -/

/-- Of two finite or infinite values: less than. -/
def fvLt (a b : Fv) : Bool :=
  match a, b with
  | .inf n, .inf k => n && !k
  | .inf n, _ => n
  | _, .inf n => !n
  | .fin n1 m1 e1 _, .fin n2 m2 e2 _ =>
    let e := min e1 e2
    let x : Int := (if n1 then -1 else 1) * (shiftI m1 (e1 - e) : Int)
    let y : Int := (if n2 then -1 else 1) * (shiftI m2 (e2 - e) : Int)
    decide (x < y)
  | _, _ => false
def unordered (a b : Fv) : Bool := a.isNan || b.isNan
def fvEq (a b : Fv) : Bool := !unordered a b && !fvLt a b && !fvLt b a

inductive FpCmp where | eq | lt | le | un
deriving DecidableEq, Repr

/-- R126: a compare and its flags. -/
def fpCompare (o : FpCmp) (a b : W32) : Bool × Flags :=
  let x := valueOf a
  let y := valueOf b
  let sig := sigFlag [x, y]
  match o with
  | .eq => (fvEq x y, sig)
  | .lt => (!unordered x y && fvLt x y, nvIf (unordered x y))
  | .le => (!unordered x y && (fvLt x y || fvEq x y), nvIf (unordered x y))
  | .un => (unordered x y, sig)

/-- R45, R124: the lesser (or greater) operand, −0 below +0. -/
def fpMinMax (mx : Bool) (a : W32) (sa : Bool) (b : W32) (sb : Bool) : FpRes :=
  let x := valueOf a
  let y := valueOf b
  let fl := sigFlag [x, y]
  if x.isNan && y.isNan then { w := nanW, s := false, fl }
  else if x.isNan then { w := b, s := sb, fl }
  else if y.isNan then { w := a, s := sa, fl }
  else if a = b then { w := a, s := sa && sb, fl }
  else
    let less := fvLt x y || (fvEq x y && x.neg && !y.neg)
    if less != mx then { w := a, s := sa, fl } else { w := b, s := sb, fl }

/-- R125. -/
def fpSign (flip : Bool) (w : W32) : W32 :=
  let n := if flip then !w.getLsbD 31 else false
  if (valueOf w).isNan then carrier (.nan n false) else (w &&& 0x7FFFFFFF) ||| (if n then 0x80000000 else 0)

/-- R127: the bit of the class. -/
def fpClass (w : W32) : Nat :=
  match valueOf w with
  | .inf n => if n then 0 else 7
  | .nan _ sig => if sig then 8 else 9
  | .fin n m _ _ =>
    if m = 0 then (if n then 3 else 4)
    else if m ≥ pow2 23 then (if n then 1 else 6) else (if n then 2 else 5)

/-! ### Conversions (R128 to R130) -/

/-- R128: `FCVT` to a type that is not `.f32`. -/
def fpNarrow (t : FTy) (w : W32) : FpRes :=
  match valueOf w with
  | .nan n sig => { w := carrier (.nan n false), s := false, fl := nvIf sig }
  | v => deliver t .rne v 0
def fpCvt (t : FTy) (w : W32) (sb : Bool) : FpRes := if t = .f32 then { w, s := sb, fl := 0 } else fpNarrow t w

/-- R129. -/
def fpFromInt (t : FTy) (frm : RMode) (i : Int) : FpRes := deliver t frm (.fin (i < 0) i.natAbs 0 false) 0

/-- R130 at width W: the integer and the flags. -/
def fpToInt (wd : Nat) (frm : RMode) (w : W32) (sb : Bool) : Int × Flags :=
  let top : Int := 2 ^ (wd - 1) - 1
  let bot : Int := -(2 ^ (wd - 1))
  match valueOf w with
  | .nan _ _ => (0, Flags.nv)
  | .inf n => (if n then bot else top, Flags.nv)
  | .fin n m e _ =>
    let (t, r) : Nat × Rem :=
      if e ≥ 0 then (shiftI m e, .exact)
      else
        let u := pow2 (-e).toNat
        let x := m % u
        (m / u, if x = 0 then .exact else if 2 * x < u then .lo else if 2 * x = u then .half else .hi)
    let k := roundUnits frm n t r
    let i : Int := if n then -(k : Int) else k
    if i > top then (top, Flags.nv) else if i < bot then (bot, Flags.nv)
    else (i, if r != .exact || sb then Flags.nx else 0)

/-! ### Approximations (R174) -/

/-- R174: the precision the result keeps. -/
def approxP (t : FTy) : Nat := min ((FTy.fm t).p + 2) 14
def approxDeliver (t : FTy) (v : Fv) (fl : Flags) : FpRes :=
  match v with
  | .fin n m e st => let (y, i) := roundToOdd n m e st (approxP t) (FTy.fm t).emin 127; { w := carrier y, s := i, fl }
  | .inf n => { w := carrier (.inf n), s := false, fl }
  | .nan _ _ => { w := nanW, s := false, fl }

def fpRcp (t : FTy) (w : W32) : FpRes :=
  let x := valueOf w
  let (v, _, dz) := fvDiv (.fin false 1 0 false) x
  approxDeliver t v (sigFlag [x] ||| (if dz then Flags.dz else 0))

/-- R174: 1/√x: the magnitude is the whole root of `2^(2k)/m`. -/
def fpRsqrt (t : FTy) (w : W32) : FpRes :=
  match valueOf w with
  | .nan _ sig => { w := nanW, s := false, fl := nvIf sig }
  | .inf n => if n then { w := nanW, s := false, fl := Flags.nv } else { w := 0, s := false, fl := 0 }
  | .fin n m e _ =>
    if m = 0 then { w := carrier (.inf n), s := false, fl := Flags.dz }
    else if n then { w := nanW, s := false, fl := Flags.nv }
    else
      let (m2, e2) := if e % 2 = 0 then (m, e) else (2 * m, e - 1)
      let k := 100
      let r := isqrt (pow2 (2 * k) / m2)
      approxDeliver t (.fin false r (-(e2 / 2) - k) (r * r * m2 != pow2 (2 * k))) 0

/-- The fraction bits the two functions below carry (log 11). -/
def approxBits : Nat := 160

/-- 2^(2^-i) with `approxBits` fraction bits, by repeated square roots, times the product so far where the bit is set. -/
def exp2Go (f : Nat) : Nat → Nat → Nat → Nat
  | 0, _, acc => acc
  | n + 1, c, acc =>
    let c' := isqrt (c * pow2 approxBits)
    exp2Go f n c' (if f / pow2 n % 2 = 1 then acc * c' / pow2 approxBits else acc)
/-- 2^(f/2^100) for f below 2^100, with `approxBits` fraction bits. -/
def exp2Frac (f : Nat) : Nat := exp2Go f 100 (2 * pow2 approxBits) (pow2 approxBits)

/-- R174: 2^x. -/
def fpExp2 (t : FTy) (w : W32) : FpRes :=
  match valueOf w with
  | .nan _ sig => { w := nanW, s := false, fl := nvIf sig }
  | .inf n => if n then { w := 0, s := false, fl := 0 } else { w := carrier (.inf false), s := false, fl := 0 }
  | .fin n m e _ =>
    if m = 0 then { w := carrier (.fin false 1 0 false), s := false, fl := 0 }
    else if floorLog2 m e > 9 then
      approxDeliver t (if n then .fin false 1 (-400) true else .fin false 1 400 true) 0
    else
      -- |x| as whole and fraction over 2^160; then x = i + f with 0 ≤ f < 1
      let x := shiftI m (e + approxBits)
      let one := pow2 approxBits
      let frac := x % one
      let i : Int := if n then (if frac = 0 then -((x / one : Nat) : Int) else -((x / one : Nat) : Int) - 1) else (x / one : Nat)
      if frac = 0 then approxDeliver t (.fin false 1 i false) 0
      else
        let f := if n then one - frac else frac
        let y := min (max (exp2Frac (f / pow2 (approxBits - 100))) one) (2 * one - 1)
        approxDeliver t (.fin false y (i - approxBits) true) 0

/-- The fraction bits of log2 of a number in [1, 2), by repeated squaring. -/
def log2Go : Nat → Nat → Nat → Nat
  | 0, _, acc => acc
  | n + 1, y, acc =>
    let y2 := y * y / pow2 approxBits
    if y2 ≥ 2 * pow2 approxBits then log2Go n (y2 / 2) (2 * acc + 1) else log2Go n y2 (2 * acc)

/-- R174: log2 x. -/
def fpLog2 (t : FTy) (w : W32) : FpRes :=
  match valueOf w with
  | .nan _ sig => { w := nanW, s := false, fl := nvIf sig }
  | .inf n => if n then { w := nanW, s := false, fl := Flags.nv } else { w := carrier (.inf false), s := false, fl := 0 }
  | .fin n m e _ =>
    if m = 0 then { w := carrier (.inf true), s := false, fl := Flags.dz }
    else if n then { w := nanW, s := false, fl := Flags.nv }
    else
      let i := floorLog2 m e
      if m = pow2 (Nat.log2 m) then approxDeliver t (.fin (i < 0) i.natAbs 0 false) 0
      else
        let f := log2Go 100 (m * pow2 (approxBits - Nat.log2 m)) 0
        -- i + f / 2^100, not whole
        let v : Int := i * (pow2 100 : Int) + f
        approxDeliver t (.fin (v < 0) (if v < 0 then v.natAbs - 1 else v.natAbs) (-100) true) 0

/-! ### Generators (R42, R43) -/

def xorshift32 (s : W32) : W32 :=
  let a := s ^^^ (s <<< 13)
  let b := a ^^^ (a >>> 17)
  b ^^^ (b <<< 5)
/-- R42: a write of zero stores 1. -/
def seedOf (w : W32) : W32 := if w = 0 then 1 else w

def mixKey : W64 := 0xD6E8FEB86659FD93
def mix (key c : W64) : W64 :=
  let x := (c ^^^ key) * mixKey
  let y := (x ^^^ (x >>> 32)) * mixKey
  y ^^^ (y >>> 32)

/-! ### The final rounding (R36 to R38, R41) -/

/-- R37. -/
def Fm.overflow (f : Fm) (neg : Bool) (m : RMode) (ovf : Bool) : Nat :=
  match f with
  | .f32 | .bf16 | .f16 => if overflowsToInf m neg then f.infCode neg else f.maxCode neg
  | .e5m2 => if ovf && overflowsToInf m neg then f.infCode neg else f.maxCode neg
  | .e4m3 => if ovf && overflowsToInf m neg then f.nanCode neg else f.maxCode neg
  | _ => f.maxCode neg

/-- R38: a NaN input: the canonical NaN without a flag, or M with nv where the format has none. -/
def Fm.nanResult (f : Fm) (neg : Bool) : Nat × Flags :=
  match f with
  | .f32 | .bf16 | .f16 | .e5m2 | .e4m3 => (f.nanCode neg, 0)
  | _ => (f.maxCode neg, Flags.nv)
/-- R38: an infinity input with S = 0; `E4M3` gives 448 or, with ovf, NaN, and raises nv. -/
def Fm.infResult (f : Fm) (neg ovf : Bool) : Nat × Flags :=
  match f with
  | .f32 | .bf16 | .f16 | .e5m2 => (f.infCode neg, 0)
  | .e4m3 => (if ovf then f.nanCode neg else f.maxCode neg, Flags.nv)
  | _ => (f.maxCode neg, Flags.nv)

/-- R41: the units stochastic rounding gives: `mag · 2^exp` with the carrier's last bit weighing `2^exp`, `g` the output of the
generator. -/
def srUnits (mag : Nat) (exp : Int) (t : Nat) (qe : Int) (g : W32) : Nat :=
  let n := (qe - exp).toNat
  let k := min n 32
  let left := mag % pow2 n
  let d := if n ≤ 32 then left else left * pow2 32 / pow2 n
  if d + g.toNat / pow2 (32 - k) ≥ pow2 k then t + 1 else t

/-- R36: whether `t · 2^qe` exceeds the largest finite magnitude. -/
def Fm.exceeds (f : Fm) (neg : Bool) (t : Nat) (qe : Int) : Bool :=
  match f.decode (f.maxCode neg) with
  | .fin _ mm me _ => let e := min qe me; decide (shiftI t (qe - e) > shiftI mm (me - e))
  | _ => false

/-- R36, R38: the final rounding of `w · 2^scale` with S; `g` is the generator's output for `.sr`. -/
def finalRound (w : W32) (s : Bool) (scale : Int) (f : Fm) (m : RMode) (ovf : Bool) (g : W32) : Nat × Flags :=
  match valueOf w with
  | .nan n _ => f.nanResult n
  | .inf n => if s then (f.overflow n m ovf, Flags.ofl ||| Flags.nx) else f.infResult n ovf
  | .fin n mag e0 _ =>
    if f = .f32 then (w.toNat, if s then Flags.nx else 0)
    else
      let e := e0 + scale
      if mag = 0 then (f.encode n 0 0, if s then Flags.nx else 0)
      else
        let (t, qe, r) := onGrid mag e false f.p f.emin
        let u := if m = .sr then srUnits mag e t qe g else roundUnits m n t r
        let nx := r != .exact || s
        let fl : Flags := if nx then Flags.nx else 0
        if f.exceeds n u qe then (f.overflow n m ovf, fl ||| Flags.ofl ||| Flags.nx)
        else (f.encode n u qe, if f != .mi8 && decide (floorLog2 mag e < f.emin) && nx then fl ||| Flags.uf else fl)

end Sys2Proof.Machine
end

