-- ==== Sys2Proof/Machine/Operands.lean ====
section
/-!
DEFINITION. Operand forms: which registers each instruction names (the fields of 05 to 08, by R62), its guard (R69, R98), the
checks of the decode and operand stages, made whatever the guard selects (R7, R56, R101), and the wrapper every meaning of an
instruction uses.
-/
namespace Sys2Proof.Machine
open Sys2Proof

/-- The registers an instruction names. -/
structure Uses where
  /-- scalar sources -/
  src : List GR := []
  dst : List GR := []
  /-- bases of CM and major `0x14` accesses (R64, R162) -/
  base : List GR := []
  /-- first registers of pairs (R66) -/
  pairs : List GR := []
  /-- first of four argument registers (R211) -/
  args4 : List GR := []
  vsrc : List VR := []
  vdst : List VR := []
  /-- 64-bit-element groups (R67) -/
  gsrc : List VR := []
  gdst : List VR := []
  pdst : List PR := []
  mdst : List MR := []
  /-- loop registers written: 0, 1 the loops, 2 `REPC` (R55) -/
  loops : List Nat := []
deriving DecidableEq, Repr

def both (r : GR) : List GR := [r, r + 1]
def four (r : GR) : List GR := [r, r + 1, r + 2, r + 3]

/-- R106: with `.q` every operand is a pair. -/
def aluUses (t : IntTy) (d a b : GR) : Uses :=
  if t = .q then { src := both a ++ both b, dst := both d, pairs := [d, a, b] } else { src := [a, b], dst := [d] }
/-- R106: a `.q` shift takes its amount from the single register b. -/
def shiftUses (t : IntTy) (d a b : GR) : Uses :=
  if t = .q then { src := both a ++ [b], dst := both d, pairs := [d, a] } else { src := [a, b], dst := [d] }
/-- R112. -/
def cmpUses (t : IntTy) (d : PR) (a b : GR) : Uses :=
  if t = .q then { src := both a ++ both b, pdst := [d], pairs := [a, b] } else { src := [a, b], pdst := [d] }
/-- R163: with `.i64` every vector operand is a group. -/
def vUses (t : VTy) (d a : List VR) : Uses :=
  if t = .i64 then { gdst := d, gsrc := a } else { vdst := d, vsrc := a }
/-- R87: the index register of the indexed modes, and the base that post-increment writes. -/
def xAddr (m : XMode) (b c : GR) : List GR := match m with | .indexed => [b, c] | .scaled => [b, c] | _ => [b]
def xWrites (m : XMode) (b : GR) : List GR := match m with | .postInc => [b] | _ => []
def xLoadUses (m : XMode) (a b c : GR) : Uses := { src := xAddr m b c, base := [b], dst := a :: xWrites m b }
def xLoadQUses (m : XMode) (a b c : GR) : Uses :=
  { src := xAddr m b c, base := [b], dst := both a ++ xWrites m b, pairs := [a] }
def xStoreUses (m : XMode) (a : List GR) (b c : GR) : Uses := { src := a ++ xAddr m b c, base := [b], dst := xWrites m b }
/-- R88. -/
def waitUses (w : Wait) : Uses :=
  match w with | .unbounded => { } | .bounded g => { src := [g] } | .attempt p => { pdst := [p] }
/-- R230: the loop registers a control register number names. -/
def crLoops (n : CRNum) : List Nat :=
  if 0x010 ≤ n.toNat ∧ n.toNat ≤ 0x012 then [0] else if 0x013 ≤ n.toNat ∧ n.toNat ≤ 0x015 then [1]
  else if n.toNat = 0x016 then [2] else []

/-- The registers of each instruction, from its description. -/
def Instr.uses : Instr → Uses
  | .movpc d _ _ => { dst := [d] }
  | .bz a _ _ => { src := [a] }
  | .bnz a _ _ => { src := [a] }
  | .jal _ _ _ => { dst := [1] }
  | .jalr d a _ _ => { src := [a], dst := [d] }
  | .ret a _ _ => { src := [a] }
  | .loopi k _ _ _ => { loops := [if k then 1 else 0] }
  | .loopr k a _ _ => { src := [a], loops := [if k then 1 else 0] }
  | .repi _ _ => { loops := [2] }
  | .repr a _ => { src := [a], loops := [2] }
  | .ldb x b _ _ _ => { src := [b], base := [b], dst := [x] }
  | .ldbu x b _ _ _ => { src := [b], base := [b], dst := [x] }
  | .ldh x b _ _ _ => { src := [b], base := [b], dst := [x] }
  | .ldhu x b _ _ _ => { src := [b], base := [b], dst := [x] }
  | .ldw x b _ _ _ => { src := [b], base := [b], dst := [x] }
  | .ldwu x b _ _ _ => { src := [b], base := [b], dst := [x] }
  | .ldd x b _ _ _ => { src := [b], base := [b], dst := [x] }
  | .stb x b _ _ _ => { src := [x, b], base := [b] }
  | .sth x b _ _ _ => { src := [x, b], base := [b] }
  | .stw x b _ _ _ => { src := [x, b], base := [b] }
  | .std x b _ _ _ => { src := [x, b], base := [b] }
  | .ldbX a b c _ mode _ => xLoadUses mode a b c
  | .ldbuX a b c _ mode _ => xLoadUses mode a b c
  | .ldhX a b c _ mode _ => xLoadUses mode a b c
  | .ldhuX a b c _ mode _ => xLoadUses mode a b c
  | .ldwX a b c _ mode _ => xLoadUses mode a b c
  | .ldwuX a b c _ mode _ => xLoadUses mode a b c
  | .lddX a b c _ mode _ => xLoadUses mode a b c
  | .ldq a b c _ mode _ => xLoadQUses mode a b c
  | .stbX a b c _ mode _ => xStoreUses mode [a] b c
  | .sthX a b c _ mode _ => xStoreUses mode [a] b c
  | .stwX a b c _ mode _ => xStoreUses mode [a] b c
  | .stdX a b c _ mode _ => xStoreUses mode [a] b c
  | .stq a b c _ mode _ => { xStoreUses mode (both a) b c with pairs := [a] }
  | .ldff a b _ _ w => { waitUses w with src := b :: (waitUses w).src, dst := [a] }
  | .ldfe a b _ _ w => { waitUses w with src := b :: (waitUses w).src, dst := [a] }
  | .stef a b _ _ w => { waitUses w with src := a :: b :: (waitUses w).src }
  | .stsf a b _ _ w => { waitUses w with src := a :: b :: (waitUses w).src }
  | .ferd a b _ _ => { src := [b], dst := [a] }
  | .feset b _ _ => { src := [b] }
  | .feclr b _ _ => { src := [b] }
  | .aadd _ a b c _ _ => { src := [b, c], dst := [a] }
  | .aand _ a b c _ _ => { src := [b, c], dst := [a] }
  | .aor _ a b c _ _ => { src := [b, c], dst := [a] }
  | .axor _ a b c _ _ => { src := [b, c], dst := [a] }
  | .amin _ a b c _ _ => { src := [b, c], dst := [a] }
  | .amax _ a b c _ _ => { src := [b, c], dst := [a] }
  | .aminu _ a b c _ _ => { src := [b, c], dst := [a] }
  | .amaxu _ a b c _ _ => { src := [b, c], dst := [a] }
  | .aswap _ a b c _ _ => { src := [b, c], dst := [a] }
  | .acas _ a b c _ _ => { src := b :: both c, dst := [a], pairs := [c] }
  | .afadd a b c _ _ => { src := [b, c], dst := [a] }
  | .fencer a b _ _ _ => { src := [a, b] }
  | .agf a _ => { src := [a] }
  | .vld v b _ _ _ => { src := [b], base := [b], vdst := [v] }
  | .vst v b _ _ _ => { src := [b], base := [b], vsrc := [v] }
  | .vlds v b c _ _ => { src := [b, c], vdst := [v] }
  | .vldx v b c _ _ => { src := [b], vsrc := [c], vdst := [v] }
  | .vldb v b _ _ => { src := [b], vdst := [v] }
  | .vsts v b c _ => { src := [b, c], vsrc := [v] }
  | .vstx v b c _ => { src := [b], vsrc := [v, c] }
  | .vstn v b _ _ _ => { src := [b], vsrc := [v] }
  | .vspill v b => { src := [b], vsrc := [v] }
  | .vfill v b => { src := [b], vdst := [v] }
  | .fstn a b _ _ _ => { src := [a, b] }
  | .tcopy a b c _ _ => { src := a :: b :: both c, pairs := [c] }
  | .tcopy2d a b c _ _ => { src := a :: b :: both c, pairs := [c] }
  | .tgather a b c _ _ => { src := a :: b :: both c, pairs := [c] }
  | .tscatter a b c _ _ => { src := a :: b :: both c, pairs := [c] }
  | .tfill a b c _ _ => { src := a :: b :: both c, pairs := [c] }
  | .qenq a b c _ _ => { src := [a, b, c] }
  | .qdeq a b c _ _ => { src := [b, c], dst := [a] }
  | .qtry a b c _ _ => { src := [a, b], pdst := [c] }
  | .qpoll a b c _ _ => { src := [b], dst := [a], pdst := [c] }
  | .callat d b c _ => { src := both b ++ four c, dst := [d], pairs := [b], args4 := [c] }
  | .retv a _ => { src := [a] }
  | .amsg b c _ => { src := both b ++ four c, pairs := [b], args4 := [c] }
  | .amsgRet d b c _ => { src := both b ++ four c, dst := [d], pairs := [b], args4 := [c] }
  | .frame a b c _ => { src := b :: both c, dst := [a], pairs := [c] }
  | .spawn a b _ => { src := [a, b] }
  | .sync a _ => { src := [a] }
  | .tend a _ => { src := [a] }
  | .publish a b _ => { src := [a, b] }
  | .launch a c _ => { src := [a], pdst := [c] }
  | .shrd a _ _ => { dst := [a] }
  | .shwr a _ _ => { src := [a] }
  | .xborrow b c _ => { src := [b], pdst := [c] }
  | .xmov a _ _ vec toBorrowed => if vec then (if toBorrowed then { vsrc := [a] } else { vdst := [a] }) else (if toBorrowed then { src := [a] } else { dst := [a] })
  | .migrate a b _ => { src := [a, b] }
  | .waitt a _ => { src := [a] }
  | .tlbinv a _ _ => { src := [a] }
  | .cctlWb a b _ => { src := [a, b] }
  | .cctlInv a b _ => { src := [a, b] }
  | .cctlWbinv a b _ => { src := [a, b] }
  | .cctlPrefetch a b _ => { src := [a, b] }
  | .cctlSetCc a _ => { src := [a] }
  | .crrd d _ _ => { dst := [d] }
  | .crwr a _ n => { src := [a], loops := crLoops n }
  | .crswp d a _ n => { src := [a], dst := [d], loops := crLoops n }
  | .add t d a b _ => aluUses t d a b
  | .sub t d a b _ => aluUses t d a b
  | .and t d a b _ => aluUses t d a b
  | .or t d a b _ => aluUses t d a b
  | .xor t d a b _ => aluUses t d a b
  | .andn t d a b _ => aluUses t d a b
  | .shl t d a b _ => shiftUses t d a b
  | .shr t d a b _ => shiftUses t d a b
  | .sra t d a b _ => shiftUses t d a b
  | .ror t d a b _ => shiftUses t d a b
  | .min t d a b _ => aluUses t d a b
  | .max t d a b _ => aluUses t d a b
  | .minu t d a b _ => aluUses t d a b
  | .maxu t d a b _ => aluUses t d a b
  | .mul t d a b _ => aluUses t d a b
  | .mulh t d a b _ => aluUses t d a b
  | .mulhu t d a b _ => aluUses t d a b
  | .div t d a b _ => aluUses t d a b
  | .divu t d a b _ => aluUses t d a b
  | .rem t d a b _ => aluUses t d a b
  | .remu t d a b _ => aluUses t d a b
  | .clz _ d a _ => { src := [a], dst := [d] }
  | .ctz _ d a _ => { src := [a], dst := [d] }
  | .popc _ d a _ => { src := [a], dst := [d] }
  | .sext _ d a _ => { src := [a], dst := [d] }
  | .zext _ d a _ => { src := [a], dst := [d] }
  | .bfx d a b _ => { src := [a, b], dst := [d] }
  | .bfxu d a b _ => { src := [a, b], dst := [d] }
  | .bfi d a b _ => { src := [a, b, d], dst := [d] }
  | .cmpeq t d a b _ => cmpUses t d a b
  | .cmpne t d a b _ => cmpUses t d a b
  | .cmplt t d a b _ => cmpUses t d a b
  | .cmple t d a b _ => cmpUses t d a b
  | .cmpltu t d a b _ => cmpUses t d a b
  | .cmpleu t d a b _ => cmpUses t d a b
  | .pand d _ _ _ => { pdst := [d] }
  | .por d _ _ _ => { pdst := [d] }
  | .pxor d _ _ _ => { pdst := [d] }
  | .pandn d _ _ _ => { pdst := [d] }
  | .pnot d _ _ => { pdst := [d] }
  | .prd d _ => { dst := [d] }
  | .pwr a _ => { src := [a], pdst := [1, 2, 3, 4, 5, 6, 7] }
  | .addi d a _ _ => { src := [a], dst := [d] }
  | .andi d a _ _ => { src := [a], dst := [d] }
  | .ori d a _ _ => { src := [a], dst := [d] }
  | .xori d a _ _ => { src := [a], dst := [d] }
  | .shli d a _ _ => { src := [a], dst := [d] }
  | .shri d a _ _ => { src := [a], dst := [d] }
  | .srai d a _ _ => { src := [a], dst := [d] }
  | .rori d a _ _ => { src := [a], dst := [d] }
  | .movi d _ _ => { dst := [d] }
  | .movh d _ _ _ => { src := [d], dst := [d] }
  | .lea d a b _ _ => { src := [a, b], dst := [d] }
  | .cvta d a _ => { src := [a], dst := [d] }
  | .sel d _ a b _ => { src := [a, b], dst := [d] }
  | .mov d a _ => { src := [a], dst := [d] }
  | .fadd _ d a b _ => { src := [a, b], dst := [d] }
  | .fsub _ d a b _ => { src := [a, b], dst := [d] }
  | .fmul _ d a b _ => { src := [a, b], dst := [d] }
  | .fdiv _ d a b _ => { src := [a, b], dst := [d] }
  | .fsqrt _ d a _ => { src := [a], dst := [d] }
  | .ffma _ d a b c _ => { src := [a, b, c], dst := [d] }
  | .fmin _ d a b _ => { src := [a, b], dst := [d] }
  | .fmax _ d a b _ => { src := [a, b], dst := [d] }
  | .fneg d a _ => { src := [a], dst := [d] }
  | .fabs d a _ => { src := [a], dst := [d] }
  | .fcmpeq d a b _ => { src := [a, b], pdst := [d] }
  | .fcmplt d a b _ => { src := [a, b], pdst := [d] }
  | .fcmple d a b _ => { src := [a, b], pdst := [d] }
  | .fcmpun d a b _ => { src := [a, b], pdst := [d] }
  | .fclass d a _ => { src := [a], dst := [d] }
  | .fcvt _ d a _ => { src := [a], dst := [d] }
  | .fcvtif _ d a _ => { src := [a], dst := [d] }
  | .fcvtfi d a _ => { src := [a], dst := [d] }
  | .fstk d a b _ => { src := [a, b], dst := [d] }
  | .fstkr d a _ => { src := [a], dst := [d] }
  | .vadd t d a b _ => vUses t [d] [a, b]
  | .vsub t d a b _ => vUses t [d] [a, b]
  | .vand t d a b _ => vUses t [d] [a, b]
  | .vor t d a b _ => vUses t [d] [a, b]
  | .vxor t d a b _ => vUses t [d] [a, b]
  | .vandn t d a b _ => vUses t [d] [a, b]
  | .vshl t d a b _ => vUses t [d] [a, b]
  | .vshr t d a b _ => vUses t [d] [a, b]
  | .vsra t d a b _ => vUses t [d] [a, b]
  | .vmin t d a b _ => vUses t [d] [a, b]
  | .vmax t d a b _ => vUses t [d] [a, b]
  | .vmul t d a b _ => vUses t [d] [a, b]
  | .vmulh t d a b _ => vUses t [d] [a, b]
  | .vcmpeq t d a b _ => { vUses t [] [a, b] with mdst := [d] }
  | .vcmpne t d a b _ => { vUses t [] [a, b] with mdst := [d] }
  | .vcmplt t d a b _ => { vUses t [] [a, b] with mdst := [d] }
  | .vcmple t d a b _ => { vUses t [] [a, b] with mdst := [d] }
  | .mand d _ _ _ => { mdst := [d] }
  | .mor d _ _ _ => { mdst := [d] }
  | .mxor d _ _ _ => { mdst := [d] }
  | .mandn d _ _ _ => { mdst := [d] }
  | .mnot d _ _ => { mdst := [d] }
  | .mpopc d _ _ => { dst := [d] }
  | .mfromg d a _ => { src := [a], mdst := [d] }
  | .mtog d _ _ => { dst := [d] }
  | .vfadd _ d a b _ => { vsrc := [a, b], vdst := [d] }
  | .vfsub _ d a b _ => { vsrc := [a, b], vdst := [d] }
  | .vfmul _ d a b _ => { vsrc := [a, b], vdst := [d] }
  | .vfdiv _ d a b _ => { vsrc := [a, b], vdst := [d] }
  | .vfsqrt _ d a _ => { vsrc := [a], vdst := [d] }
  | .vfmin _ d a b _ => { vsrc := [a, b], vdst := [d] }
  | .vfmax _ d a b _ => { vsrc := [a, b], vdst := [d] }
  | .vfneg d a _ => { vsrc := [a], vdst := [d] }
  | .vfabs d a _ => { vsrc := [a], vdst := [d] }
  | .vffma _ d a b c _ => { vsrc := [a, b, c], vdst := [d] }
  | .vfcmpeq d a b _ => { vsrc := [a, b], mdst := [d] }
  | .vfcmplt d a b _ => { vsrc := [a, b], mdst := [d] }
  | .vfcmple d a b _ => { vsrc := [a, b], mdst := [d] }
  | .vfcmpun d a b _ => { vsrc := [a, b], mdst := [d] }
  | .vfred _ d a _ => { vsrc := [a], dst := [d] }
  | .vfrmin _ d a _ => { vsrc := [a], dst := [d] }
  | .vfrmax _ d a _ => { vsrc := [a], dst := [d] }
  | .vfcvt _ d a _ => { vsrc := [a], vdst := [d] }
  | .vfcvtif _ d a _ => { vsrc := [a], vdst := [d] }
  | .vfcvtfi d a _ => { vsrc := [a], vdst := [d] }
  | .vfrcp _ d a _ => { vsrc := [a], vdst := [d] }
  | .vfrsqrt _ d a _ => { vsrc := [a], vdst := [d] }
  | .vfexp2 _ d a _ => { vsrc := [a], vdst := [d] }
  | .vflog2 _ d a _ => { vsrc := [a], vdst := [d] }
  | .vperm d a b _ => { vsrc := [a, b], vdst := [d] }
  | .vslide d a b _ => { vsrc := [a], src := [b], vdst := [d] }
  | .vzip d a b _ => { vsrc := [a, b], gdst := [d] }
  | .vunzip d a _ => { gsrc := [a], gdst := [d] }
  | .vbcast d a _ => { src := [a], vdst := [d] }
  | .vcompress d a _ => { vsrc := [a], vdst := [d] }
  | .vexpand d a _ => { vsrc := [a], vdst := [d] }
  | .vmov d a _ => { vsrc := [a], vdst := [d] }
  | .vins d a b _ => { src := [a, b], vdst := [d] }
  | .vext d a b _ => { vsrc := [a], src := [b], dst := [d] }
  | .rngh d a b _ => { src := [a, b], dst := [d] }
  | .vrngh d a b _ => { src := [a, b], vdst := [d] }
  | .vqmx _ _ d b a _ => { vsrc := [a], dst := [b], vdst := [d] }
  | .vdqmx _ d a b _ => { vsrc := [a], src := [b], vdst := [d] }
  | .vpack _ _ d a _ => { vsrc := [a], vdst := [d] }
  | .mset _ a _ => { src := [a] }
  | .mzero _ a _ => { src := [a] }
  | .mlda _ _ a b _ => { src := [a, b] }
  | .msta _ _ _ _ a b _ => { src := [a, b] }
  | .mseed a _ => { src := [a] }
  | .mring a b _ => { src := [a, b] }
  | .mma _ _ _ _ _ ga gs _ => { src := [ga, gs] }
  | .mmaBf16 _ _ _ ga _ => { src := [ga] }
  | _ => { }

/-- R69, R70, R191: the guard of a scalar instruction or matrix command; a vector instruction whose mask is all zero does nothing. -/
def Instr.guard (s : State) : Instr → Bool
  | .movpc _ pg _ => s.pr pg
  | .bp pg pn _ => s.pr pg != pn
  | .bz _ pg _ => s.pr pg
  | .bnz _ pg _ => s.pr pg
  | .jal pg pn _ => s.pr pg != pn
  | .jalr _ _ pg _ => s.pr pg
  | .ret _ pg pn => s.pr pg != pn
  | .loopi _ _ pg _ => s.pr pg
  | .loopr _ _ pg _ => s.pr pg
  | .repi pg _ => s.pr pg
  | .repr _ pg => s.pr pg
  | .ldb _ _ pg _ _ => s.pr pg
  | .ldbu _ _ pg _ _ => s.pr pg
  | .ldh _ _ pg _ _ => s.pr pg
  | .ldhu _ _ pg _ _ => s.pr pg
  | .ldw _ _ pg _ _ => s.pr pg
  | .ldwu _ _ pg _ _ => s.pr pg
  | .ldd _ _ pg _ _ => s.pr pg
  | .stb _ _ pg _ _ => s.pr pg
  | .sth _ _ pg _ _ => s.pr pg
  | .stw _ _ pg _ _ => s.pr pg
  | .std _ _ pg _ _ => s.pr pg
  | .ldbX _ _ _ pg _ _ => s.pr pg
  | .ldbuX _ _ _ pg _ _ => s.pr pg
  | .ldhX _ _ _ pg _ _ => s.pr pg
  | .ldhuX _ _ _ pg _ _ => s.pr pg
  | .ldwX _ _ _ pg _ _ => s.pr pg
  | .ldwuX _ _ _ pg _ _ => s.pr pg
  | .lddX _ _ _ pg _ _ => s.pr pg
  | .ldq _ _ _ pg _ _ => s.pr pg
  | .stbX _ _ _ pg _ _ => s.pr pg
  | .sthX _ _ _ pg _ _ => s.pr pg
  | .stwX _ _ _ pg _ _ => s.pr pg
  | .stdX _ _ _ pg _ _ => s.pr pg
  | .stq _ _ _ pg _ _ => s.pr pg
  | .ldff _ _ pg _ _ => s.pr pg
  | .ldfe _ _ pg _ _ => s.pr pg
  | .stef _ _ pg _ _ => s.pr pg
  | .stsf _ _ pg _ _ => s.pr pg
  | .ferd _ _ pg _ => s.pr pg
  | .feset _ pg _ => s.pr pg
  | .feclr _ pg _ => s.pr pg
  | .aadd _ _ _ _ pg _ => s.pr pg
  | .aand _ _ _ _ pg _ => s.pr pg
  | .aor _ _ _ _ pg _ => s.pr pg
  | .axor _ _ _ _ pg _ => s.pr pg
  | .amin _ _ _ _ pg _ => s.pr pg
  | .amax _ _ _ _ pg _ => s.pr pg
  | .aminu _ _ _ _ pg _ => s.pr pg
  | .amaxu _ _ _ _ pg _ => s.pr pg
  | .aswap _ _ _ _ pg _ => s.pr pg
  | .acas _ _ _ _ pg _ => s.pr pg
  | .afadd _ _ _ pg _ => s.pr pg
  | .fence _ pg _ => s.pr pg
  | .fencer _ _ _ pg _ => s.pr pg
  | .ifence pg => s.pr pg
  | .fenceTl pg _ => s.pr pg
  | .agf _ pg => s.pr pg
  | .agw pg => s.pr pg
  | .vld _ _ mg _ _ => s.mr mg != 0
  | .vst _ _ mg _ _ => s.mr mg != 0
  | .vlds _ _ _ mg _ => s.mr mg != 0
  | .vldx _ _ _ mg _ => s.mr mg != 0
  | .vldb _ _ mg _ => s.mr mg != 0
  | .vsts _ _ _ mg => s.mr mg != 0
  | .vstx _ _ _ mg => s.mr mg != 0
  | .vstn _ _ _ mg _ => s.mr mg != 0
  | .fstn _ _ _ pg _ => s.pr pg
  | .tcopy _ _ _ pg _ => s.pr pg
  | .tcopy2d _ _ _ pg _ => s.pr pg
  | .tgather _ _ _ pg _ => s.pr pg
  | .tscatter _ _ _ pg _ => s.pr pg
  | .tfill _ _ _ pg _ => s.pr pg
  | .twait _ pg => s.pr pg
  | .qenq _ _ _ pg _ => s.pr pg
  | .qdeq _ _ _ pg _ => s.pr pg
  | .qtry _ _ _ pg _ => s.pr pg
  | .qpoll _ _ _ pg _ => s.pr pg
  | .callat _ _ _ pg => s.pr pg
  | .retv _ pg => s.pr pg
  | .amsg _ _ pg => s.pr pg
  | .amsgRet _ _ _ pg => s.pr pg
  | .frame _ _ _ pg => s.pr pg
  | .spawn _ _ pg => s.pr pg
  | .sync _ pg => s.pr pg
  | .tend _ pg => s.pr pg
  | .publish _ _ pg => s.pr pg
  | .launch _ _ pg => s.pr pg
  | .shrd _ _ pg => s.pr pg
  | .shwr _ _ pg => s.pr pg
  | .semp _ pg => s.pr pg
  | .semv _ pg => s.pr pg
  | .bar _ pg _ => s.pr pg
  | .xborrow _ _ pg => s.pr pg
  | .xmov _ _ pg _ _ => s.pr pg
  | .xreturn pg => s.pr pg
  | .migrate _ _ pg => s.pr pg
  | .hbeat pg => s.pr pg
  | .waitt _ pg => s.pr pg
  | .yield pg => s.pr pg
  | .xret pg => s.pr pg
  | .tlbinv _ pg _ => s.pr pg
  | .cctlWb _ _ pg => s.pr pg
  | .cctlInv _ _ pg => s.pr pg
  | .cctlWbinv _ _ pg => s.pr pg
  | .cctlPrefetch _ _ pg => s.pr pg
  | .cctlWbL1d pg => s.pr pg
  | .cctlInvCc pg => s.pr pg
  | .cctlSetCc _ pg => s.pr pg
  | .crrd _ pg _ => s.pr pg
  | .crwr _ pg _ => s.pr pg
  | .crswp _ _ pg _ => s.pr pg
  | .add _ _ _ _ pg => s.pr pg
  | .sub _ _ _ _ pg => s.pr pg
  | .and _ _ _ _ pg => s.pr pg
  | .or _ _ _ _ pg => s.pr pg
  | .xor _ _ _ _ pg => s.pr pg
  | .andn _ _ _ _ pg => s.pr pg
  | .shl _ _ _ _ pg => s.pr pg
  | .shr _ _ _ _ pg => s.pr pg
  | .sra _ _ _ _ pg => s.pr pg
  | .ror _ _ _ _ pg => s.pr pg
  | .min _ _ _ _ pg => s.pr pg
  | .max _ _ _ _ pg => s.pr pg
  | .minu _ _ _ _ pg => s.pr pg
  | .maxu _ _ _ _ pg => s.pr pg
  | .mul _ _ _ _ pg => s.pr pg
  | .mulh _ _ _ _ pg => s.pr pg
  | .mulhu _ _ _ _ pg => s.pr pg
  | .div _ _ _ _ pg => s.pr pg
  | .divu _ _ _ _ pg => s.pr pg
  | .rem _ _ _ _ pg => s.pr pg
  | .remu _ _ _ _ pg => s.pr pg
  | .clz _ _ _ pg => s.pr pg
  | .ctz _ _ _ pg => s.pr pg
  | .popc _ _ _ pg => s.pr pg
  | .sext _ _ _ pg => s.pr pg
  | .zext _ _ _ pg => s.pr pg
  | .bfx _ _ _ pg => s.pr pg
  | .bfxu _ _ _ pg => s.pr pg
  | .bfi _ _ _ pg => s.pr pg
  | .cmpeq _ _ _ _ pg => s.pr pg
  | .cmpne _ _ _ _ pg => s.pr pg
  | .cmplt _ _ _ _ pg => s.pr pg
  | .cmple _ _ _ _ pg => s.pr pg
  | .cmpltu _ _ _ _ pg => s.pr pg
  | .cmpleu _ _ _ _ pg => s.pr pg
  | .pand _ _ _ pg => s.pr pg
  | .por _ _ _ pg => s.pr pg
  | .pxor _ _ _ pg => s.pr pg
  | .pandn _ _ _ pg => s.pr pg
  | .pnot _ _ pg => s.pr pg
  | .prd _ pg => s.pr pg
  | .pwr _ pg => s.pr pg
  | .addi _ _ _ pg => s.pr pg
  | .andi _ _ _ pg => s.pr pg
  | .ori _ _ _ pg => s.pr pg
  | .xori _ _ _ pg => s.pr pg
  | .shli _ _ _ pg => s.pr pg
  | .shri _ _ _ pg => s.pr pg
  | .srai _ _ _ pg => s.pr pg
  | .rori _ _ _ pg => s.pr pg
  | .movi _ _ pg => s.pr pg
  | .movh _ _ _ pg => s.pr pg
  | .lea _ _ _ _ pg => s.pr pg
  | .cvta _ _ pg => s.pr pg
  | .sel _ _ _ _ pg => s.pr pg
  | .mov _ _ pg => s.pr pg
  | .fadd _ _ _ _ pg => s.pr pg
  | .fsub _ _ _ _ pg => s.pr pg
  | .fmul _ _ _ _ pg => s.pr pg
  | .fdiv _ _ _ _ pg => s.pr pg
  | .fsqrt _ _ _ pg => s.pr pg
  | .ffma _ _ _ _ _ pg => s.pr pg
  | .fmin _ _ _ _ pg => s.pr pg
  | .fmax _ _ _ _ pg => s.pr pg
  | .fneg _ _ pg => s.pr pg
  | .fabs _ _ pg => s.pr pg
  | .fcmpeq _ _ _ pg => s.pr pg
  | .fcmplt _ _ _ pg => s.pr pg
  | .fcmple _ _ _ pg => s.pr pg
  | .fcmpun _ _ _ pg => s.pr pg
  | .fclass _ _ pg => s.pr pg
  | .fcvt _ _ _ pg => s.pr pg
  | .fcvtif _ _ _ pg => s.pr pg
  | .fcvtfi _ _ pg => s.pr pg
  | .fstk _ _ _ pg => s.pr pg
  | .fstkr _ _ pg => s.pr pg
  | .vadd _ _ _ _ mg => s.mr mg != 0
  | .vsub _ _ _ _ mg => s.mr mg != 0
  | .vand _ _ _ _ mg => s.mr mg != 0
  | .vor _ _ _ _ mg => s.mr mg != 0
  | .vxor _ _ _ _ mg => s.mr mg != 0
  | .vandn _ _ _ _ mg => s.mr mg != 0
  | .vshl _ _ _ _ mg => s.mr mg != 0
  | .vshr _ _ _ _ mg => s.mr mg != 0
  | .vsra _ _ _ _ mg => s.mr mg != 0
  | .vmin _ _ _ _ mg => s.mr mg != 0
  | .vmax _ _ _ _ mg => s.mr mg != 0
  | .vmul _ _ _ _ mg => s.mr mg != 0
  | .vmulh _ _ _ _ mg => s.mr mg != 0
  | .vcmpeq _ _ _ _ mg => s.mr mg != 0
  | .vcmpne _ _ _ _ mg => s.mr mg != 0
  | .vcmplt _ _ _ _ mg => s.mr mg != 0
  | .vcmple _ _ _ _ mg => s.mr mg != 0
  | .mand _ _ _ mg => s.mr mg != 0
  | .mor _ _ _ mg => s.mr mg != 0
  | .mxor _ _ _ mg => s.mr mg != 0
  | .mandn _ _ _ mg => s.mr mg != 0
  | .mnot _ _ mg => s.mr mg != 0
  | .mpopc _ _ mg => s.mr mg != 0
  | .mfromg _ _ mg => s.mr mg != 0
  | .mtog _ _ mg => s.mr mg != 0
  | .vfadd _ _ _ _ mg => s.mr mg != 0
  | .vfsub _ _ _ _ mg => s.mr mg != 0
  | .vfmul _ _ _ _ mg => s.mr mg != 0
  | .vfdiv _ _ _ _ mg => s.mr mg != 0
  | .vfsqrt _ _ _ mg => s.mr mg != 0
  | .vfmin _ _ _ _ mg => s.mr mg != 0
  | .vfmax _ _ _ _ mg => s.mr mg != 0
  | .vfneg _ _ mg => s.mr mg != 0
  | .vfabs _ _ mg => s.mr mg != 0
  | .vffma _ _ _ _ _ mg => s.mr mg != 0
  | .vfcmpeq _ _ _ mg => s.mr mg != 0
  | .vfcmplt _ _ _ mg => s.mr mg != 0
  | .vfcmple _ _ _ mg => s.mr mg != 0
  | .vfcmpun _ _ _ mg => s.mr mg != 0
  | .vfred _ _ _ mg => s.mr mg != 0
  | .vfrmin _ _ _ mg => s.mr mg != 0
  | .vfrmax _ _ _ mg => s.mr mg != 0
  | .vfcvt _ _ _ mg => s.mr mg != 0
  | .vfcvtif _ _ _ mg => s.mr mg != 0
  | .vfcvtfi _ _ mg => s.mr mg != 0
  | .vfrcp _ _ _ mg => s.mr mg != 0
  | .vfrsqrt _ _ _ mg => s.mr mg != 0
  | .vfexp2 _ _ _ mg => s.mr mg != 0
  | .vflog2 _ _ _ mg => s.mr mg != 0
  | .vperm _ _ _ mg => s.mr mg != 0
  | .vslide _ _ _ mg => s.mr mg != 0
  | .vzip _ _ _ mg => s.mr mg != 0
  | .vunzip _ _ mg => s.mr mg != 0
  | .vbcast _ _ mg => s.mr mg != 0
  | .vcompress _ _ mg => s.mr mg != 0
  | .vexpand _ _ mg => s.mr mg != 0
  | .vmov _ _ mg => s.mr mg != 0
  | .vins _ _ _ mg => s.mr mg != 0
  | .vext _ _ _ mg => s.mr mg != 0
  | .rngh _ _ _ mg => s.mr mg != 0
  | .vrngh _ _ _ mg => s.mr mg != 0
  | .vqmx _ _ _ _ _ mg => s.mr mg != 0
  | .vdqmx _ _ _ _ mg => s.mr mg != 0
  | .vpack _ _ _ _ mg => s.mr mg != 0
  | .mset _ _ pg => s.pr pg
  | .mzero _ _ pg => s.pr pg
  | .mlda _ _ _ _ pg => s.pr pg
  | .msta _ _ _ _ _ _ pg => s.pr pg
  | .mseed _ pg => s.pr pg
  | .mring _ _ pg => s.pr pg
  | .mwait pg => s.pr pg
  | _ => true

/-- R67: the registers of a group. -/
def grp (v : VR) : List VR := [v, v + 1]
/-- Every vector register named, and every one written. -/
def Uses.vregs (u : Uses) : List VR := u.vsrc ++ u.vdst ++ (u.gsrc ++ u.gdst).flatMap grp
def Uses.vwrites (u : Uses) : List VR := u.vdst ++ u.gdst.flatMap grp

/-- R66: a pair that breaks its rules. -/
def badPair (r : GR) : Bool := r.getLsbD 0 || r == 0 || r == 28 || r == 30
/-- R211: the first of four argument registers lies in 1 to 25. -/
def badArgs (r : GR) : Bool := r == 0 || r.toNat > 25

/-- R64, R66, R67, R211: an operand limit that the encoding or the strand's kind and allocation break. -/
def Uses.illegal (u : Uses) (x : Strand) : Bool :=
  u.src.contains 29 || u.dst.contains 30 || u.base.contains 29 || u.base.contains 30 || u.pairs.any badPair ||
  u.args4.any badArgs || decide (u.src.count 30 > 1) || decide (u.dst.count 29 > 1) ||
  ((u.src.contains 30 || u.dst.contains 29) && x.gid.isNone) ||
  (u.vsrc ++ u.vdst).any (fun v => v.toNat ≥ x.valloc.toNat) ||
  (u.gsrc ++ u.gdst).any (fun v => v.getLsbD 0 || v.toNat + 1 ≥ x.valloc.toNat)

/-- R85, R92: the privileged cells. -/
def Instr.privileged : Instr → Bool
  | .xret _ | .tlbinv _ _ _ | .cctlWbL1d _ | .cctlInvCc _ | .cctlSetCc _ _ => true
  | _ => false

/-- R100, R193: the checks of an `MMA` on its fields and registers. -/
def mmaIllegal (n : BV6) (m : BV2) (regs : List GR) : Bool :=
  m == 3 || n == 0 || decide (n.toNat * 16 * (16 * 2 ^ m.toNat) > 16384) || regs.contains 29 || regs.contains 30

/-- R247: a task strand. -/
def Role.isTask : Role → Bool | .root | .thief => true | _ => false
/-- R100, R223, R247, R257: the further operand checks of single instructions: cause and value. -/
def Instr.special (s : State) : Instr → Option (Nat × W64)
  | .mma _ _ _ n m ga gs _ => if mmaIllegal n m [ga, gs] then some (0x02, 0) else none
  | .mmaBf16 _ n m ga _ => if mmaIllegal n m [ga] then some (0x02, 0) else none
  | .xborrow _ _ _ => if s.cur.pre.borrow.isSome then some (0x13, s.word) else none
  | .xreturn _ => if s.cur.pre.borrow.isNone then some (0x13, s.word) else none
  | .xmov _ b _ vec _ =>
    match s.cur.pre.borrow with
    | none => some (0x13, s.word)
    | some w => if vec && decide (b.toNat ≥ w.vcount) then some (0x13, s.word) else none
  | .migrate _ _ _ => if s.cur.pre.borrow.isSome then some (0x13, s.word) else none
  | .ldbX _ _ _ _ _ mig | .ldbuX _ _ _ _ _ mig | .ldhX _ _ _ _ _ mig | .ldhuX _ _ _ _ _ mig | .ldwX _ _ _ _ _ mig
  | .ldwuX _ _ _ _ _ mig | .lddX _ _ _ _ _ mig | .ldq _ _ _ _ _ mig | .stbX _ _ _ _ _ mig | .sthX _ _ _ _ _ mig
  | .stwX _ _ _ _ _ mig | .stdX _ _ _ _ _ mig | .stq _ _ _ _ _ mig =>
    if mig && s.cur.pre.borrow.isSome then some (0x13, s.word) else none
  | .spawn _ _ _ | .sync _ _ | .publish _ _ _ => if s.cur.pre.role.isTask then none else some (0x02, 0)
  | .tend a _ => if a = 0 ∨ s.cur.pre.role.isTask then none else some (0x02, 0)
  | .retv _ _ => match s.cur.pre.role with | .callee _ => none | _ => some (0x02, 0)
  | .bar n _ _ =>
    match s.cur.pre.gid with
    | none => some (0x02, 0)
    | some g => if n.toNat ≥ (s.gang g).barriers then some (0x02, 0) else none
  | _ => none

/-- R56, R101: the checks of the decode and operand stages of one word, in order: cause and `XVALUE`. -/
def partsFault (wf priv : Bool) (u : Uses) (sp : Option (Nat × W64)) (s : State) : Option (Nat × W64) :=
  if !wf then some (0x01, s.word)
  else if priv && !s.cur.pre.priv then some (0x03, s.word)
  else if u.illegal s.cur.pre then some (0x02, 0)
  else sp

/-- The checks of an instruction. -/
def operandFault (i : Instr) (s : State) : Option (Nat × W64) :=
  partsFault i.wellFormed (Instr.privileged i) (Instr.uses i) (Instr.special s i) s

/-- R7, R101: an instruction: its checks, then its guard, then its effect. -/
def checked (f : Option (Nat × W64)) (g : Bool) (s : State) (eff : State → Res) : Res :=
  match f with
  | some (c, v) => .next (s.trap c v)
  | none => if g then eff s else .next s

def strandOp (i : Instr) (s : State) (eff : State → Res) : Res := checked (operandFault i s) (Instr.guard s i) s eff

/-- The same for an instruction given by its parts; Laws/Forms.lean shows that they are those of the instruction. -/
def formOp (wf : Bool) (u : Uses) (sp : Option (Nat × W64)) (g : Bool) (s : State) (eff : State → Res) : Res :=
  checked (partsFault wf false u sp s) g s eff

/-- R73: the effect of an instruction that traps. -/
def trapNow (s : State) (cause : Nat) (value : W64) : Res := .next (s.trap cause value)

end Sys2Proof.Machine
end

