-- ==== Sys2Proof/Machine/Access.lean ====
section
/-!
DEFINITION. Accesses of strands: translation with its holds, aggregation buffers, requests and their replies, what an access does
at its home, release and acquire actions, the fault log (03_encoding.md R75; 06 R141 to R148, R151 to R155; 12 R280 to R282;
17 R328; 20 R373 to R377).
-/
namespace Sys2Proof.Machine
open Sys2Proof

/-! ### The fault log (R280 to R282) -/

/-- R281: the second doubleword of a record. -/
def recordWord (index source sub cause tag : Nat) : W64 :=
  BitVec.ofNat 64 (index % 2 ^ 32 * 2 ^ 32 + tag * 2 ^ 24 + source * 2 ^ 16 + sub * 2 ^ 8 + cause)
/-- R282: a record in the log of a strand, which lies in its private area. -/
def State.logFault (s : State) (x : Strand) (addr word : W64) : State :=
  let l := Loc.lm x.priva.core x.priva.off
  let h := s.readW l
  let n := (h.extractLsb' 0 4).toNat
  if n < 8 then
    (((s.writeW (l.add (16 + 16 * n)) addr).writeW (l.add (24 + 16 * n)) word).writeW l (h + 1))
  else s.writeW l (h ||| 0x100)

/-- R282: a fault of the strand in a slot: its record, then its flag; that of a strand which the supervisor or the dispatch unit has
removed is reported to the supervisor too (R245; log 45). -/
def State.faultIn (s : State) (c k : Nat) (addr word : W64) (f : Strand → Strand) : State :=
  let x := s.strandOf c k
  let t := s.logFault x addr word
  let t := t.setStrandOf c k (f (t.strandOf c k))
  if (t.slotOf c k).st = .parked .removed then
    t.setPartn x.part { t.partn x.part with strandFaults := (t.partn x.part).strandFaults ++ [{ w0 := addr, w1 := word }] }
  else t

/-! ### Translation with its holds (R328) -/

/-- The issuer of the bundle. -/
def State.actor (s : State) : Actor := s.cur.pre.actor s.cur.core
/-- R328: a miss of the L1 TLB: the cluster TLB answers after 12 cycles, else the access waits for a walk, or joins one. -/
def State.missTlb (s : State) (va : W64) : State :=
  let cl := clusterOf s.cur.core
  let part := s.cur.pre.part
  match tlbFind (s.cluster cl).tlb part va.toNat with
  | some e =>
    let t := s.setCore s.cur.core { s.core s.cur.core with l1tlb := tlbAdd (s.core s.cur.core).l1tlb 1024 e }
    t.park (.tlbFill (t.cycle s.cur.core + 12))
  | none =>
    let w : WalkWaiter := { core := s.cur.core, slot := s.cur.slot, sid := s.cur.pre.sid }
    let page := va.toNat / 4096 * 4096
    let c := s.cluster cl
    let t := s.setCluster cl { c with
      walks := if c.walks.any (fun x => x.part == part && x.va == page)
        then c.walks.map fun x => if x.part == part && x.va == page then { x with waiters := x.waiters ++ [w] } else x
        else c.walks ++ [{ part, va := page, waiters := [w] }] }
    t.park .walk
/-- R328: a translation with what a walk for this bundle has found. -/
def State.lookup (s : State) (k : Kind) (va : W64) : TRes :=
  match s.translate s.actor k va with
  | .miss => if (s.slotOf s.cur.core s.cur.slot).walkFault = some (va.toNat / 4096) then .fault k.tcause else .miss
  | r => r
/-- R56, R74, R141: alignment, then translation; a fault traps, a miss holds the bundle. -/
def located (k : Kind) (va : W64) (align : Nat) (f : Loc → PageAttr → State → Res) (s : State) : Res :=
  if va.toNat % align ≠ 0 then trapNow s 0x09 va
  else match s.lookup k va with
    | .ok l a => f l a s
    | .fault c => trapNow s c va
    | .miss => .next (s.missTlb va)

/-! ### Aggregation buffers (R75, R145, R146, R373 to R375) -/

/-- R145: the destination at which a plain store or a non-returning atomic is aggregated. -/
def State.aggDest (s : State) (core : Nat) (l : Loc) (a : PageAttr) (atomic : Bool) : Option Node :=
  match l with
  | .lm c _ => if clusterOf c = clusterOf core then none else some (.core c)
  | .csm cl _ => if cl = clusterOf core then none else some (.csm cl)
  | .hbm p o => if a.cached && !atomic then none else some (.slice (s.homeSlice p o))
  | .dev pa => some (.dev (pa / 2 ^ 43))
  | _ => none
/-- R373: the address an element carries. -/
def elemAddr (l : Loc) (va : W64) : W64 := match l with | .dev pa => BitVec.ofNat 64 pa | _ => va

def AggBuf.bound (b : AggBuf) (d : Node) : Bool := b.dest == some d && b.sending.isNone
/-- The number of a core's buffer that takes elements for a destination. -/
def Core.bufOf (c : Core) (d : Node) : Option Nat := (List.range 16).find? fun i => (vget c.aggs i {}).bound d
/-- R75: an unbound buffer, else the bound one that takes elements and whose first element is oldest. -/
def Core.freeBuf (c : Core) : Option Nat := (List.range 16).find? fun i => (vget c.aggs i {}).dest.isNone
def Core.oldestBuf (c : Core) : Option Nat :=
  (List.range 16).foldl (fun m i =>
    let b := vget c.aggs i {}
    if b.dest.isNone || b.sending.isSome then m
    else match m with
      | none => some i
      | some j => if b.first < (vget c.aggs j {}).first then some i else some j) none

/-- R375: a buffer leaves as one packet, where a place is free; the buffer is then unbound. It does not pass an older buffer of its
destination that waits for a place (R147, R351). -/
def State.aggSend (s : State) (c b : Nat) (trig : Trigger) : Option State :=
  let co := s.core c
  let x := vget co.aggs b {}
  match x.dest with
  | none => some s
  | some d =>
    if co.sent.length ≥ 64 || co.aggs.toList.zipIdx.any (fun y => y.1.dest == some d && y.1.sending.isSome && y.2 != b && (y.1.first < x.first ||
        (y.1.first == x.first && y.2 < b))) then none
    else
      let q := seqOf s.sendSeq (.core c) d
      let part := (s.strandOf c (((x.elems.head?).map fun e => e.1.slot).getD 0)).part
      let t := s.setCore c { co with aggs := vset co.aggs b {}, sent := co.sent ++ [{ dest := d, seq := q, elems := x.elems }] }
      some (t.send (.core c) d part .aggregated (.agg x.elems trig))
/-- R375: every other trigger: the buffer is sent, or is as soon as a place frees. -/
def State.aggPush (s : State) (c b : Nat) (trig : Trigger) : State :=
  let x := vget (s.core c).aggs b {}
  if x.dest.isNone || x.sending.isSome then s
  else match s.aggSend c b trig with
    | some t => t
    | none => s.setCore c { s.core c with aggs := vset (s.core c).aggs b { x with sending := some trig } }
def State.aggPushAll (s : State) (c : Nat) (trig : Trigger) (sel : AggBuf → Bool) : State :=
  (List.range 16).foldl (fun t b => if sel (vget (t.core c).aggs b {}) then t.aggPush c b trig else t) s
/-- R144: every buffer that holds elements of a slot's strand. -/
def State.flushStrand (s : State) (c k : Nat) : State := s.aggPushAll c .release fun b => b.strands.getLsbD k
/-- R146: the buffer of a destination, ahead of a direct access. -/
def State.flushDest (s : State) (c : Nat) (d : Option Node) : State :=
  match d with | some d => s.aggPushAll c .direct fun b => b.bound d | none => s

/-- R146: the buffers of some destinations are sent. -/
def State.flushDests (s : State) (ds : List Node) : State := ds.foldl (fun u d => u.flushDest s.cur.core (some d)) s
/-- R375: no buffer of these destinations waits for a place. -/
def State.destsClear (s : State) (ds : List Node) : Bool :=
  !((s.core s.cur.core).aggs.toList.any fun b => b.sending.isSome && (match b.dest with | some d => ds.contains d | none => false))
/-- R146, R351, R375: direct accesses to some destinations follow the buffers of those destinations: they go once these have all left. -/
def destsThen (ds : List Node) (k : State → Res) (s : State) : Res :=
  let t := s.flushDests ds
  if t.destsClear ds then k t else .next (t.park .send)
def directThen (d : Option Node) (k : State → Res) (s : State) : Res := destsThen d.toList k s

/-- R75: `AggInsert`; none where it needs a `Send` that has to wait (R375). -/
def State.aggInsert (s : State) (c : Nat) (d : Node) (e : AggElem) (key : Nat) : Option State :=
  let ready : Option (State × Nat) :=
    match (s.core c).bufOf d with
    | some b => some (s, b)
    | none =>
      let bind (t : State) (b : Nat) : State × Nat :=
        (t.setCore c { t.core c with aggs := vset (t.core c).aggs b { dest := some d, first := t.cycle c } }, b)
      match (s.core c).freeBuf with
      | some b => some (bind s b)
      | none =>
        match (s.core c).oldestBuf with
        | none => none
        | some b => (s.aggSend c b .eviction).map fun t => bind t b
  match ready with
  | none => none
  | some (t, b) =>
    let x := vget (t.core c).aggs b {}
    let y := { x with elems := x.elems ++ [(e, key)], strands := x.strands ||| ((1 : BitVec 16) <<< e.slot), joined := t.cycle c }
    let u := t.setCore c { t.core c with aggs := vset (t.core c).aggs b y }
    let v := u.setStrandOf c e.slot { u.strandOf c e.slot with unackElems := (u.strandOf c e.slot).unackElems + 1 }
    if y.elems.length ≥ 32 then v.aggSend c b .size else some v

/-- R146: an element held, or sent and not yet acknowledged, for a load's destination whose bytes meet the load's. -/
def State.heldOverlap (s : State) (c : Nat) (d : Node) (key n : Nat) : Bool :=
  let hit (l : List (AggElem × Nat)) : Bool := l.any fun e => meets e.2 e.1.size key n
  ((s.core c).aggs.toList.any fun b => b.dest == some d && hit b.elems) ||
  ((s.core c).sent.any fun p => p.dest == d && hit p.elems)

/-! ### Release and acquire (R144, R148) -/

/-- R144: nothing of the strand is left unacknowledged. -/
def Strand.quiet (x : Strand) : Bool := x.unackElems == 0 && x.unackWrites == 0
/-- R380: the bundle waits for accesses at the home of a line, and is tried again in the next cycle. -/
def State.tryAgain (s : State) : State := s.park (.homeBusy (s.cycle s.cur.core + 1))
/-- R144: the release actions at a scope: buffers sent and awaited, then the caches' part, with the lines written back performed at their
homes (R380); the bundle is held meanwhile. -/
def releaseThen (sc : Scope) (k : State → Res) (s : State) : Res :=
  if sc = .core then k s
  else
    let t := s.flushStrand s.cur.core s.cur.slot
    if !t.strand.quiet then .next (t.park .acks)
    else
      let u := t.cacheRelease s.cur.core sc
      if Scope.wide sc && u.writesWait s.cur.pre.part then .next u.tryAgain else k u
/-- R161: the strand's elements sent and awaited. -/
def aggWaitThen (k : State → Res) (s : State) : Res :=
  let t := s.flushStrand s.cur.core s.cur.slot
  if t.strand.unackElems = 0 then k t else .next (t.park .acks)
/-- R148, R278: the deferred-fault check. -/
def deferred (k : State → Res) (s : State) : Res :=
  if s.strand.x.pf && !s.cur.pre.priv then trapNow s 0x0C logAddr else k s

/-! ### Requests (R142, R290) -/

/-- R142: the bundle has issued and its strand is held for a reply; what a late fault restores is kept. -/
def State.holdForReply (s : State) (id : Nat) (h : Hold) : State :=
  let x := s.slotOf s.cur.core s.cur.slot
  let f : InFlight := match x.inflight with
    | some f => { f with pending := f.pending ++ [id] }
    | none => { pc := s.cur.pc, pre := s.cur.pre, pending := [id], tag := id, from_ := s.cur.tok }
  s.setSlot s.cur.core s.cur.slot { x with st := .parked h, inflight := some f }
/-- A request of the bundle, recorded at its core. -/
def State.addReq (s : State) (r : Req) : State :=
  s.setCore s.cur.core { s.core s.cur.core with reqs := (s.core s.cur.core).reqs ++ [r] }
/-- R253: a load of `g29` takes its place in the chain queue when it issues. -/
def State.awaitChain (s : State) (r : GR) (id : Nat) : State :=
  if r = 29 then
    match s.downstream s.cur.core s.strand with
    | some n => s.setCore n { s.core n with chain := (s.core n).chain ++ [{ w := 0, gid := s.strand.gid.getD 0, wait := some id }] }
    | none => s
  else s
/-- The destination of a request marked empty, or pending (R65, R184). -/
def State.markDest (s : State) (id : Nat) : Dest → State
  | .none_ | .held => s
  | .g r _ _ => (s.markEmpty r).awaitChain r id
  | .pair r => (s.markEmpty r).markEmpty (r + 1)
  | .gS r => (s.markEmpty r).awaitChain r id
  | .lane v _ _ | .bcast v _ _ | .image v _ => s.modStrand fun x => { x with vpend := x.vpend ||| ((1 : BitVec 32) <<< v.toNat) }
/-- An access of the bundle, blank but for who asks. -/
def State.accessOf (s : State) (id : Nat) (k : AccKind) (l : Loc) (size : Nat) (va : W64) (kslot : Nat) : Access :=
  { req := id, kind := k, loc := l, size, va, kslot, core := s.cur.core, slot := s.cur.slot, part := s.cur.pre.part,
    priv := s.cur.pre.priv }
/-- A request for the bundle; its fields that are not given are the plain ones. -/
def State.reqOf (s : State) (id : Nat) (d : Dest) (a : Access) : Req :=
  { id, slot := s.cur.slot, sid := s.cur.pre.sid, dest := d, acc := some a }
/-- R334, R337, R344: the unit that a read goes to: the home, or a replica on the core's die, where the core has nothing unacknowledged
(log 36). -/
def State.readUnit (s : State) (a : Access) : Node :=
  let c := s.core a.core
  match a.kind, a.loc with
  | .load, .hbm p o | .line, .hbm p o =>
    if !c.sent.isEmpty || c.reqs.any (fun r => r.isWrite) then s.home a.loc
    else match s.replicaOn (dieOf (clusterOf a.core)) p o with | some (_, m) => .slice m | none => s.home a.loc
  | _, _ => s.home a.loc
/-- The access leaves for its home. -/
def State.toHome (s : State) (a : Access) : State :=
  s.send (.core a.core) (s.readUnit a) a.part .request (.access a)
/-- R344, R368: an access that a unit of a core makes for no strand: an engine's command, whose number `eng` is, or a prefetch. -/
def State.askHome (s : State) (who : Actor) (eng : Nat) (k : AccKind) (l : Loc) (n : Nat) (va : W64) (kslot : Nat) : Nat × State :=
  let (r, t) := s.fresh
  let x : Access := { req := r, kind := k, loc := l, size := n, va, kslot, core := who.core, slot := 16, part := who.part, priv := who.priv }
  let q : Req := { id := r, slot := 16, sid := 0, dest := .none_, acc := some x, eng := some eng }
  (r, (t.setCore who.core { t.core who.core with reqs := (t.core who.core).reqs ++ [q] }).toHome x)
/-- A request that its strand waits for; `a` and `f` complete the access and the request, `h` names the hold. -/
def State.request (s : State) (d : Dest) (k : AccKind) (l : Loc) (size : Nat) (va : W64) (a : Access → Access) (f : Req → Req)
    (h : Nat → Hold) : State :=
  let (id, t) := s.fresh
  let a := a (t.accessOf id k l size va 0)
  (((t.markDest id d).addReq (f (t.reqOf id d a))).toHome a).holdForReply id (h id)
/-- R144: a direct write that the strand does not wait for; it counts until it is acknowledged. -/
def State.directWrite (s : State) (k : AccKind) (l : Loc) (size : Nat) (va : W64) : State :=
  let (id, t) := s.fresh
  let a := t.accessOf id k l size va 0
  let u := (t.addReq { t.reqOf id .none_ a with isWrite := true }).toHome a
  u.modStrand fun x => { x with unackWrites := x.unackWrites + 1 }
/-- R242: data that arrives at a cycle without a packet. -/
def State.arriveAt (s : State) (d : Dest) (k : AccKind) (l : Loc) (size : Nat) (va : W64) (cycle : Nat) (bs : List Byte)
    (hold : Bool) : State :=
  let (id, t) := s.fresh
  let a := t.accessOf id k l size va 0
  let u := (t.markDest id d).addReq { t.reqOf id d a with due := some (cycle, bs) }
  if hold then u.holdForReply id .replies else u

/-! ### Filling a destination (R140, R155, R184, R186) -/

/-- R140: bytes as a register holds them. -/
def loadValue (bs : List Byte) (size : Nat) (sext : Bool) : W64 :=
  let v := BitVec.ofNat 64 (leNat bs)
  if !sext then v
  else match size with
    | 1 => (v.setWidth 8 : BitVec 8).signExtend 64
    | 2 => (v.setWidth 16 : BitVec 16).signExtend 64
    | 4 => (v.setWidth 32 : W32).signExtend 64
    | _ => v
/-- R186: the bytes of an element. -/
def MTy.bytes : MTy → Nat | .w => 4 | .bf16 => 2 | .f16 => 2 | .h => 2 | _ => 1
/-- R186: a loaded element as a lane holds it. -/
def MTy.widen (t : MTy) (bs : List Byte) : W32 :=
  let c := leNat bs
  match t with
  | .w => BitVec.ofNat 32 c
  | .bf16 => Fm.bf16.widen c
  | .f16 => Fm.f16.widen c
  | .e4m3 => Fm.e4m3.widen c
  | .e5m2 => Fm.e5m2.widen c
  | .mi8 => Fm.mi8.widen c
  | .b => (BitVec.ofNat 8 c).signExtend 32
  | .h => (BitVec.ofNat 16 c).signExtend 32
/-- A lane of a register set, with S = 0. -/
def VReg.setLane (x : VReg) (i : Nat) (w : W32) : VReg := { w := vset x.w i w, s := x.s &&& ~~~((1 : BitVec 32) <<< i) }
/-- R22, R189: bytes of the 132-byte image of a register put in. -/
def VReg.putImage (x : VReg) (off : Nat) (bs : List Byte) : VReg :=
  bs.zipIdx.foldl (fun y e =>
    let k := off + e.2
    if k < 128 then
      { y with w := vset y.w (k / 4) (BitVec.ofNat 32 (leNat (overwrite (leBytes 4 (vget y.w (k / 4) 0).toNat) (k % 4) [e.1]))) }
    else { y with s := BitVec.ofNat 32 (leNat (overwrite (leBytes 4 y.s.toNat) (k - 128) [e.1])) }) x
/-- A register of a strand set full. -/
def Strand.fill (x : Strand) (r : GR) (d : W64) (b : Bool) : Strand :=
  if r = 0 ∨ r = 29 then x else { x with g := rset x.g r { data := d, s := b, full := true } }
def Strand.deliver (x : Strand) (d : Dest) (bs : List Byte) (b : Bool) : Strand :=
  match d with
  | .none_ | .held => x
  | .g r size sext => x.fill r (loadValue bs size sext) false
  | .pair r => (x.fill r (loadValue (bs.take 8) 8 false) false).fill (r + 1) (loadValue (bs.drop 8) 8 false) false
  | .gS r => x.fill r (loadValue bs 4 false) b
  | .lane v i mt => { x with v := rset x.v v ((rget x.v v).setLane i (MTy.widen mt bs)) }
  | .bcast v act mt =>
    { x with v := rset x.v v ((List.range 32).foldl (fun y i => if act.getLsbD i then y.setLane i (MTy.widen mt bs) else y) (rget x.v v)) }
  | .image v off => { x with v := rset x.v v ((rget x.v v).putImage off bs) }
/-- R253: the word that a load brings to its place in a chain queue. -/
def State.fillChain (s : State) (id : Nat) (v : W64) : State :=
  s.mapChains fun e => some (if e.wait = some id then { e with w := v, wait := none } else e)
/-- R253: a value loaded into `g29` comes to its place. -/
def State.pushLoaded (s : State) (id : Nat) (d : Dest) (bs : List Byte) : State :=
  match d with
  | .g r size sext => if r = 29 then s.fillChain id (loadValue bs size sext) else s
  | .gS r => if r = 29 then s.fillChain id (loadValue bs 4 false) else s
  | _ => s
/-- R56: what a bundle pushed and queued counts once nothing of it can trap. -/
def State.commitTag (s : State) (c tag : Nat) : State :=
  let t := s.mapChains fun e => some (if e.wait = some tag then { e with wait := none } else e)
  if (t.core c).meQueue.isEmpty then t
  else t.setCore c { t.core c with meQueue := (t.core c).meQueue.map fun q => if q.wait = some tag then { q with wait := none } else q }
/-- R56: what a bundle pushed, loads included, and queued is gone. -/
def State.dropTags (s : State) (c : Nat) (tags : List Nat) : State :=
  let gone (w : Option Nat) : Bool := match w with | some n => tags.contains n | none => false
  let t := s.mapChains fun e => if gone e.wait then none else some e
  if (t.core c).meQueue.isEmpty then t
  else t.setCore c { t.core c with meQueue := (t.core c).meQueue.filter fun q => !gone q.wait }
/-- The value of a load performed at once; one of `g29` is pushed (R253). -/
def State.fillNow (s : State) (d : Dest) (bs : List Byte) (b : Bool) : State :=
  let t := s.modStrand fun x => x.deliver d bs b
  match d with
  | .g r size sext => if r = 29 then t.setGS 29 (loadValue bs size sext) false else t
  | .gS r => if r = 29 then t.setGS 29 (loadValue bs 4 false) b else t
  | _ => t

/-! ### At the home (R151 to R155, R380, R381) -/

/-- R153: what an atomic leaves, at its width in bits. -/
def AOp.eval (o : AOp) (m v cmp : BitVec w) : BitVec w :=
  match o with
  | .add => m + v
  | .and => m &&& v
  | .or => m ||| v
  | .xor => m ^^^ v
  | .min => if m.slt v then m else v
  | .max => if m.slt v then v else m
  | .minu => if m.ult v then m else v
  | .maxu => if m.ult v then v else m
  | .swap => v
  | .cas => if m = cmp then v else m
  | .fadd => m
/-- R153, R155: an atomic at its home: the bytes and S read. `AFADD` keeps S with a slice word (R381). -/
def State.atomicAt (s : State) (o : AOp) (l : Loc) (size : Nat) (v cmp : W64) (sv : Bool) : State × AccResult :=
  let l := l.forward s
  let bs := s.readAt l size
  let m := leNat bs
  if o = .fadd then
    let r := fpArith .add .f32 .rne (BitVec.ofNat 32 m) (v.setWidth 32)
    let held := match l with | .hbm _ _ => true | _ => false
    let s0 := held && s.wordS l
    let t := s.writeAt l (leBytes 4 r.w.toNat)
    ((if held then t.setWordS l (s0 || sv || r.s) else t).dropReplicas l 4, .data bs s0)
  else
    let x := if size = 8 then (AOp.eval o (BitVec.ofNat 64 m) v cmp).toNat
             else (AOp.eval o (BitVec.ofNat 32 m) (v.setWidth 32) (cmp.setWidth 32)).toNat
    (((s.writeAt l (leBytes size x)).clearS l size).dropReplicas l size, .data bs false)

/-- R151: a sync access at its home, where its condition holds: the word read, one of a sealed page under its slot (R341, R413). -/
def State.syncAt (s : State) (o : SyncOp) (l : Loc) (v : W64) (kslot va : Nat) : Option (State × AccResult) :=
  let full := s.isFull (l.forward s)
  let plain := s.homeRead l 8 kslot va
  let l := l.forward s
  match o with
  | .ldff => if full then some (s, .data plain false) else none
  | .ldfe => if full then some (s.setFull l false, .data (s.readAt l 8) false) else none
  | .stef => if full then none else some ((s.homeWrite l (leBytes 8 v.toNat)).setFull l true, .data [] false)
  | .stsf => some ((s.homeWrite l (leBytes 8 v.toNat)).setFull l true, .data [] false)
  | .ferd => some (s, .data (leBytes 8 (bit01 full)) false)
  | .feset => some (s.setFull l true, .data [] false)
  | .feclr => some (s.setFull l false, .data [] false)
/-- R151: the operations that change a word's F/E state or may. -/
def SyncOp.changes : SyncOp → Bool | .ldff | .ferd => false | _ => true

/-! ### Join counters (R214 to R217, R246) -/

def ringSlots : Nat := 4096
def Core.dequeSize (c : Core) : Nat := c.deque.length + c.ringCount
/-- R246: no place is left in the deque, those kept for pushes to come counted. -/
def State.dequeFull (s : State) (core slot : Nat) : Bool :=
  decide ((s.core core).dequeSize + ((List.range 16).filter fun k => k != slot && (s.slotOf core k).spawning).length ≥ 64 + ringSlots)
/-- R214: the fields of a join counter. -/
def ctrCount (w : W64) : W32 := w.extractLsb' 0 32
def ctrSuspended (w : W64) : Bool := w.getLsbD 32
def ctrWith (w : W64) (n : W32) : W64 := w.extractLsb' 32 32 ++ n
def ctrSuspend (w : W64) (core off : Nat) : W64 :=
  BitVec.ofNat 64 ((ctrCount w).toNat + 2 ^ 32 + core * 2 ^ 33 + off / 64 * 2 ^ 45)
/-- R214 to R217: a step of a core's strand at a join counter: the state, the word as it was, and whether a `TEND` that would push a
continuation finds no place for it, so that nothing is done. Header writes stand in the order of the core's own memory (R349). -/
def State.ctrAt (s : State) (o : CtrOp) (l : Loc) (core slot : Nat) : State × W64 × Bool :=
  let l := l.forward s
  let w := BitVec.ofNat 64 (leNat (s.readAt l 8))
  let put (t : State) (v : W64) : State := t.homeWrite l (leBytes 8 v.toNat)
  match o with
  | .frame off h => (put ((s.nearTime core).writeAt (.lm core off) h) 0, w, false)
  | .spawn => (put s (ctrWith w (ctrCount w + 1)), w, false)
  | .tend =>
    if ctrCount w = 1 ∧ ctrSuspended w then if s.dequeFull core slot then (s, w, true) else (put s 0, w, false)
    else (put s (ctrWith w (ctrCount w - 1)), w, false)
  | .sync off pc =>
    if ctrCount w = 0 then (s, w, false)
    else (put ((s.nearTime core).writeW (.lm core (off + 8)) pc) (ctrSuspend w core off), w, false)
/-- The bytes that answer such a step, and what they say. -/
def ctrBytes (w : W64) (full : Bool) : List Byte := leBytes 8 w.toNat ++ [if full then 1 else 0]
def ctrAnswer (bs : List Byte) : W64 × Bool := (BitVec.ofNat 64 (leNat (bs.take 8)), bs.getD 8 0 != 0)

/-- A reply from a home to the unit that asked; a cluster's cache that wrote a line back takes none. -/
def State.answer (s : State) (src dst : Node) (a : Access) (r : AccResult) : State :=
  match dst with
  | .csm _ => s
  | _ => s.send src dst a.part .reply (.accReply a.req a.slot r)

/-- R152: the first waiter of a word whose condition now holds. -/
def State.nextWaiter (s : State) (key : Nat) : Option ((Node × Waiter) × State × AccResult) :=
  s.retry.findSome? fun e =>
    if (e.2.acc.loc.forward s).key / 8 = key / 8 then
      match e.2.acc.kind with
      | .sync o v _ =>
        if s.slotBad e.2.acc.kslot e.2.acc.part then some (e, s, .fault 0x08)
        else (s.syncAt o e.2.acc.loc v e.2.acc.kslot e.2.acc.va.toNat).map fun r => (e, r.1, r.2)
      | _ => none
    else none
/-- R242, R322: an access to a bank of a cluster's CSM takes the first cycle from `now` on in which the bank is free: the cycles
it waits. -/
def State.takeBank (s : State) (cl off now : Nat) : Nat × State :=
  let c := s.cluster cl
  let b := field off 3 5
  let at_ := max now ((c.bankFree.lookup b).getD 0)
  (at_ - now, s.setCluster cl { c with bankFree := (c.bankFree.filter fun e => e.1 != b && decide (now < e.2)) ++ [(b, at_ + 1)] })
/-- R242, R322: the banks of an access of `n` bytes, one for each 8 bytes: the cycles until the last of them is done. -/
def State.takeBanks (s : State) (cl off n now : Nat) : Nat × State :=
  let (a, t) := s.takeBank cl off now
  if n ≤ 8 then (a, t) else let (b, u) := t.takeBank cl (off + 8) now; (max a b, u)
/-- R242, R322: an access that a CSM serves takes its banks, in the cycles of that cluster. -/
def State.bankAt (s : State) (l : Loc) (n : Nat) : State :=
  match l with | .csm cl o => (s.takeBanks cl o n (s.cycle (cl * 16))).2 | _ => s
/-- R333, R349: an access to the LM or CSM of the own cluster is made, and takes its place in the cluster's order; it takes its banks. -/
def State.nearAt (s : State) (a : Access) : State :=
  let t := s.bankAt a.loc a.size
  if a.loc.near a.core then t.nearTime a.core else t
/-- R152: the word's waiters are tested in arrival order; each satisfied one is answered, and its change applied before the next. -/
def State.retest (s : State) (key : Nat) : Nat → State
  | 0 => s
  | n + 1 =>
    match s.nextWaiter key with
    | none => s
    | some (e, t, r) => ((({ t with retry := t.retry.erase e }).nearAt e.2.acc).answer e.1 e.2.src e.2.acc r).retest key n
/-- R152: the places taken in a bank's retry list. -/
def State.retryTaken (s : State) (home : Node) (bank : Nat) : Nat :=
  (s.retry.filter fun e => e.1 == home && s.bankOf e.2.acc.loc == bank).length

/-- R27, R188: a byte with one nibble replaced. -/
def putNibble (hi : Bool) (c old : Byte) : Byte := if hi then (old &&& 0x0F) ||| (c <<< 4) else (old &&& 0xF0) ||| (c &&& 0x0F)
/-- What an access does at its home; none where it waits in the retry list. -/
def State.performAt (s : State) (home src : Node) (a : Access) : State × Option AccResult :=
  let s := s.nearAt a
  match a.kind with
  | .load => (s, some (.data (s.homeRead a.loc a.size a.kslot a.va.toNat) false))
  | .store bs => (s.homeWrite a.loc bs, some (.data [] false))
  | .nibble hi c => (s.homeWrite a.loc [putNibble hi c ((s.homeRead a.loc 1 0 0).getD 0 0)], some (.data [] false))
  | .atomic o v cmp sv => let (t, r) := s.atomicAt o a.loc a.size v cmp sv; (t, some r)
  | .ctr o => let (t, w, full) := s.ctrAt o a.loc a.core a.slot; (t, some (.data (ctrBytes w full) false))
  | .line =>
    match a.loc with
    | .hbm p o => (s, some (.data (s.homeLine p (o / 64 * 64) a.kslot a.va.toNat) false))
    | _ => (s, some (.data [] false))
  | .hostLine bytes =>
    (bytes.zipIdx.foldl (fun t e =>
      match e.1 with | some b => t.homeWrite (a.loc.add e.2) [b] | none => t) s, some (.data [] false))
  | .sync o v attempt =>
    match s.syncAt o a.loc v a.kslot a.va.toNat with
    | some (t, r) => (if SyncOp.changes o then t.retest (a.loc.forward t).key (t.retry.length + 1) else t, some r)
    | none =>
      if attempt then (s, some .failed)
      else if s.retryTaken home (s.bankOf a.loc) ≥ retryPlaces a.loc then (s, some .busy)
      else
        let b := { a with loc := a.loc.forward s }
        ({ s with retry := s.retry ++ [(match b.loc with | .hbm _ _ => s.home b.loc | _ => home, { acc := b, src })] }, none)

/-! ### Replies at the core (R142, R152, R153, R335, R376) -/

/-- A request of a core by its number. -/
def Core.req (c : Core) (id : Nat) : Option Req := c.reqs.find? fun r => r.id == id
def State.dropReq (s : State) (c id : Nat) : State := s.setCore c { s.core c with reqs := (s.core c).reqs.filter fun r => r.id != id }
/-- R240: the strands of a core that wait for acknowledgements look again. -/
def State.wakeAcks (s : State) (c : Nat) : State :=
  (List.range 16).foldl (fun t k => if (t.slotOf c k).st == .parked .acks then t.wake c k else t) s
/-- R240: a strand whose last reply has come is Ready. -/
def State.settled (s : State) (c k id : Nat) : State :=
  let x := s.slotOf c k
  match x.inflight with
  | none => s
  | some f =>
    let p := f.pending.filter (· != id)
    if p.isEmpty then
      ((s.setSlot c k { x with inflight := none, st := (match x.st with | .parked _ => .ready | y => y) }).commitTag c f.tag).cacheAcquire c
        f.acquire
    else s.setSlot c k { x with inflight := some { f with pending := p } }
/-- R56: the strand as it stood before its bundle, with what others have changed since. -/
def Strand.restore (pre now : Strand) : Strand :=
  { pre with
    unackElems := now.unackElems, unackWrites := now.unackWrites, hbc := now.hbc, hbNew := now.hbNew, meFault := now.meFault
    teFaulted := now.teFaulted, x := { pre.x with pf := now.x.pf }, tlbWait := now.tlbWait, tlbInvs := now.tlbInvs }
/-- R56: a fault that comes with a reply: the bundle has no effect, and the strand traps. -/
def State.lateTrap (s : State) (c k cause : Nat) (value : W64) : State :=
  match (s.slotOf c k).inflight with
  | none => s
  | some f =>
    let t := (f.pending.foldl (fun u id => u.dropReq c id) s).dropTags c (f.tag :: f.pending)
    let t := t.setCore c { t.core c with reqs := (t.core c).reqs.filter fun r => !(r.slot == k && r.due.isSome && decide (f.from_ ≤ r.id)) }
    let t := match f.popped with
      | some w => t.setCore c { t.core c with chain := w :: (t.core c).chain }
      | none => t
    (t.setStrandOf c k (f.pre.restore (t.strandOf c k))).trapAt c k cause value f.pc
/-- R65: a destination that a failed attempt leaves unchanged is full again. -/
def Strand.refill (x : Strand) : Dest → Strand
  | .g r _ _ => if r = 0 ∨ r = 29 then x else { x with g := rset x.g r { rget x.g r with full := true } }
  | _ => x
def Strand.setPred (x : Strand) (p : PR) (b : Bool) : Strand := if p = 0 then x else { x with p := setBit8 x.p p.toNat b }

/-- R184: the vector register a destination names. -/
def Dest.vec : Dest → Option VR | .lane v _ _ => some v | .bcast v _ _ => some v | .image v _ => some v | _ => none
/-- R184: bytes of a vector register of a slot's strand are still to come. -/
def State.lanesDue (s : State) (c k : Nat) (v : VR) : Bool := (s.core c).reqs.any fun r => r.slot == k && r.sid == (s.strandOf c k).sid && r.dest.vec == some v
/-- R184: a vector register none of whose bytes is still to come. -/
def State.clearPending (s : State) (c k : Nat) (d : Dest) : State :=
  match d.vec with
  | none => s
  | some v =>
    if s.lanesDue c k v then s
    else s.setStrandOf c k { s.strandOf c k with vpend := (s.strandOf c k).vpend &&& ~~~((1 : BitVec 32) <<< v.toNat) }

/-- R56: data of an earlier bundle also reach what a late fault of a later one restores. -/
def State.fillPre (s : State) (c : Nat) (r : Req) (bs : List Byte) (b : Bool) : State :=
  let x := s.slotOf c r.slot
  match x.inflight with
  | none => s
  | some f =>
    if f.pending.contains r.id || decide (f.from_ ≤ r.id) then s
    else
      let pre := f.pre.deliver r.dest bs b
      s.setSlot c r.slot { x with inflight := some { f with pre := { pre with vpend := (match r.dest.vec with
        | some v => if s.lanesDue c r.slot v then pre.vpend else pre.vpend &&& ~~~((1 : BitVec 32) <<< v.toNat)
        | none => pre.vpend) } } }
/-- R346: an access performed at its home that wrote, or was atomic: the caches of the cluster hold no older copy of its line. -/
def State.storeDone (s : State) (c : Nat) (r : Req) : State :=
  match r.acc with
  | some a => (match a.kind with
    | .store _ | .nibble _ _ | .atomic _ _ _ _ | .sync _ _ _ | .ctr _ => s.homeDone c a.loc
    | _ => s)
  | none => s
/-- The data of an access arrive: the destination is filled, an acquire takes its actions, the strand goes on. -/
def State.replyData (s : State) (c : Nat) (r : Req) (bs : List Byte) (b : Bool) : State :=
  let t := s.dropReq c r.id
  if r.isWrite then
    if (t.strandOf c r.slot).sid ≠ r.sid then t
    else ((t.setStrandOf c r.slot { t.strandOf c r.slot with unackWrites := (t.strandOf c r.slot).unackWrites - 1 }).storeDone c r).wakeAcks c
  else if (t.strandOf c r.slot).sid ≠ r.sid then t
  else if r.dest = .held then
    let x := t.slotOf c r.slot
    ((t.setSlot c r.slot { x with reads := x.reads ++ [((match r.acc with | some a => a.va | none => 0), bs)] }).storeDone c r).wake c r.slot
  else
    let x := (t.strandOf c r.slot).deliver r.dest bs b
    let x := match r.pred with | some p => x.setPred p true | none => x
    let t := (((t.setStrandOf c r.slot x).fillPre c r bs b).pushLoaded r.id r.dest bs).clearPending c r.slot r.dest
    let t := (t.cacheAcquire c r.acquire |>.storeDone c r).settled c r.slot r.id
    if r.marker.isSome then t.wakeAcks c else t
/-- R332, R335: the line of a fill arrives: it serves its access from the cluster cache as it then stands. -/
def State.replyLine (s : State) (c : Nat) (r : Req) (a : Access) (line : List Byte) : State :=
  match a.loc with
  | .hbm p o =>
    let pa := o / 64 * 64
    let cl := clusterOf c
    let t := if s.ccOn cl then (s.ccFill cl p pa a.kslot line).lease c p pa a.kslot else s
    let data := match l1Find (t.core c).l1d p pa a.kslot with | some e => e.data | none => line
    let u := t.replyData c r ((data.drop (o % 64)).take a.size) false
    if r.drop then
      match ccFind (u.cluster cl).cc p pa a.kslot with
      | some e => (u.ccEvict cl e).setCore c { (u.ccEvict cl e).core c with l1d := l1Drop ((u.ccEvict cl e).core c).l1d p pa }
      | none => u
    else u
  | _ => s
/-- The answer to a request of an engine's command. A line that an access waited for lets the access be made; where the line is not kept, a
read has its bytes from it (R412). -/
def EngIo.answered (io : EngIo) (req : Nat) (line : Bool) (r : Option AccResult) : EngIo :=
  if io.req = some req then
    match r with
    | some x => if line && !io.read then {} else { io with res := some x }
    | none => {}
  else io
/-- R344, R412: an access of an engine is answered; a line it asked for comes to the cluster cache, unless it is to be dropped: it then serves
its access alone. -/
def State.engReply (s : State) (c : Nat) (r : Req) (res : AccResult) : State :=
  let t := s.dropReq c r.id
  let (t, line, out) : State × Bool × Option AccResult := match r.acc, res with
    | some { kind := .line, loc := .hbm p o, kslot := k, size := n, .. }, .data bs _ =>
      if r.drop || !t.ccOn (clusterOf c) then (t, true, some (.data ((bs.drop (o % 64)).take n) false))
      else (t.ccFill (clusterOf c) p (o / 64 * 64) k bs, true, none)
    | _, _ => (t.storeDone c r, false, some res)
  let co := t.core c
  t.setCore c { co with
    meQueue := co.meQueue.map fun q => { q with io := q.io.answered r.id line out }
    meLate := co.meLate.map fun q => { q with io := q.io.answered r.id line out }
    teQueue := co.teQueue.map fun q => { q with io := q.io.answered r.id line out } }
/-- What a core does with the answer to an access. -/
def State.replyAccess (s : State) (c id : Nat) (res : AccResult) : State :=
  match (s.core c).req id with
  | none => s
  | some r =>
    if r.eng.isSome then s.engReply c r res else
    let va := match r.acc with | some a => a.va | none => 0
    match res with
    | .data bs b =>
      (match r.acc with
        | some a => (match a.kind with | .line => s.replyLine c r a bs | _ => s.replyData c r bs b)
        | none => s.replyData c r bs b)
    | .fault cause =>
      if r.isWrite && (s.strandOf c r.slot).sid != r.sid then s.dropReq c id
      else if r.isWrite then
        let t := s.faultIn c r.slot va (recordWord 0 1 0 cause 0) fun x => { x with unackWrites := x.unackWrites - 1, x := { x.x with pf := true } }
        (t.dropReq c id).wakeAcks c
      else if r.dest = .held then
        if (s.strandOf c r.slot).sid = r.sid then (s.dropReq c id).trapAt c r.slot cause va (s.strandOf c r.slot).pc else s.dropReq c id
      else s.lateTrap c r.slot cause va
    | .failed =>
      if r.again then
        (s.setCore c { s.core c with reqs := (s.core c).reqs.map fun x => if x.id = id then { x with withdrawn := false, again := false } else x }).setSlot
          c r.slot { s.slotOf c r.slot with st := .parked (.syncBusy id (s.cycle c)) }
      else (match r.pred with
        | some p =>
          let t := s.dropReq c id
          (t.setStrandOf c r.slot (((t.strandOf c r.slot).refill r.dest).setPred p false)).settled c r.slot id
        | none => s.lateTrap c r.slot 0x0B va)
    | .busy =>
      (match r.pred, r.limit with
        | some p, _ =>
          let t := s.dropReq c id
          (t.setStrandOf c r.slot (((t.strandOf c r.slot).refill r.dest).setPred p false)).settled c r.slot id
        | none, some _ => s.lateTrap c r.slot 0x0B va
        | none, none =>
          s.setSlot c r.slot { s.slotOf c r.slot with st := .parked (.syncBusy id (s.cycle c + 64)) })

end Sys2Proof.Machine
end

