-- ==== Sys2Proof/Machine/Scalar.lean ====
section
/-!
DEFINITION. Scalar integer, bit, compare, predicate, immediate, address and move instructions (05_isa_scalar.md R106 to R120,
R131).
-/
namespace Sys2Proof.Machine
open Sys2Proof

/-! ### Operations at a width (R106 to R109) -/

/-- R106: the width of a type. -/
def IntTy.width : IntTy → Nat | .i64 => 64 | .i32 => 32 | .z32 => 32 | .q => 128

/-- R106: the result of a 64- or 32-bit operation as a register holds it. -/
def extendTo (t : IntTy) (x : W32) : W64 := if t = .i32 then x.signExtend 64 else x.setWidth 64

inductive AluOp where
  | add | sub | and | or | xor | andn | shl | shr | sra | ror | min | max | minu | maxu
  | mul | mulh | mulhu | div | divu | rem | remu
deriving DecidableEq, Repr

def AluOp.isShift : AluOp → Bool | .shl | .shr | .sra | .ror => true | _ => false

/-- R107: bits 2W − 1 to W of the product. -/
def mulHigh (x y : BitVec w) : BitVec w := BitVec.ofInt w (x.toInt * y.toInt / 2 ^ w)
def mulHighU (x y : BitVec w) : BitVec w := BitVec.ofNat w (x.toNat * y.toNat / 2 ^ w)
/-- R107, R108: the quotients and remainders, with the cases of a zero divisor and of m / −1 (where the quotient wraps). -/
def divS (x y : BitVec w) : BitVec w := if y = 0 then BitVec.allOnes w else BitVec.ofInt w (x.toInt.tdiv y.toInt)
def divU (x y : BitVec w) : BitVec w := if y = 0 then BitVec.allOnes w else BitVec.ofNat w (x.toNat / y.toNat)
def remS (x y : BitVec w) : BitVec w := if y = 0 then x else BitVec.ofInt w (x.toInt.tmod y.toInt)
def remU (x y : BitVec w) : BitVec w := if y = 0 then x else BitVec.ofNat w (x.toNat % y.toNat)

/-- R106, R107: the operation at the width of its operands; `sh` is the shift amount. -/
def AluOp.eval (o : AluOp) (x y : BitVec w) (sh : Nat) : BitVec w :=
  match o with
  | .add => x + y
  | .sub => x - y
  | .and => x &&& y
  | .or => x ||| y
  | .xor => x ^^^ y
  | .andn => x &&& ~~~y
  | .shl => x <<< sh
  | .shr => x >>> sh
  | .sra => x.sshiftRight sh
  | .ror => x.rotateRight sh
  | .min => if x.slt y then x else y
  | .max => if x.slt y then y else x
  | .minu => if x.ult y then x else y
  | .maxu => if x.ult y then y else x
  | .mul => x * y
  | .mulh => mulHigh x y
  | .mulhu => mulHighU x y
  | .div => divS x y
  | .divu => divU x y
  | .rem => remS x y
  | .remu => remU x y

/-- R106: the result of a type other than `.q`, as the register holds it. -/
def aluResult (o : AluOp) (t : IntTy) (x y : W64) : W64 :=
  match t with
  | .i32 | .z32 => extendTo t (o.eval (x.setWidth 32) (y.setWidth 32) (y.extractLsb' 0 5).toNat)
  | _ => o.eval x y (y.extractLsb' 0 6).toNat

/-- R106, R107: an instruction of major `0x01`. -/
def aluOp (o : AluOp) (t : IntTy) (d a b : GR) (s : State) : Res :=
  if t = .q then
    .next (s.setQ d (o.eval (s.gq a) (if o.isShift then 0 else s.gq b) ((s.g b).extractLsb' 0 7).toNat))
  else .next (s.setG d (aluResult o t (s.g a) (s.g b)))

def execAdd (t : IntTy) (d a b : GR) (pg : PR) (s : State) : Res := strandOp (.add t d a b pg) s (aluOp .add t d a b)
def execSub (t : IntTy) (d a b : GR) (pg : PR) (s : State) : Res := strandOp (.sub t d a b pg) s (aluOp .sub t d a b)
def execAnd (t : IntTy) (d a b : GR) (pg : PR) (s : State) : Res := strandOp (.and t d a b pg) s (aluOp .and t d a b)
def execOr (t : IntTy) (d a b : GR) (pg : PR) (s : State) : Res := strandOp (.or t d a b pg) s (aluOp .or t d a b)
def execXor (t : IntTy) (d a b : GR) (pg : PR) (s : State) : Res := strandOp (.xor t d a b pg) s (aluOp .xor t d a b)
def execAndn (t : IntTy) (d a b : GR) (pg : PR) (s : State) : Res := strandOp (.andn t d a b pg) s (aluOp .andn t d a b)
def execShl (t : IntTy) (d a b : GR) (pg : PR) (s : State) : Res := strandOp (.shl t d a b pg) s (aluOp .shl t d a b)
def execShr (t : IntTy) (d a b : GR) (pg : PR) (s : State) : Res := strandOp (.shr t d a b pg) s (aluOp .shr t d a b)
def execSra (t : IntTy) (d a b : GR) (pg : PR) (s : State) : Res := strandOp (.sra t d a b pg) s (aluOp .sra t d a b)
def execRor (t : IntTy) (d a b : GR) (pg : PR) (s : State) : Res := strandOp (.ror t d a b pg) s (aluOp .ror t d a b)
def execMin (t : IntTy) (d a b : GR) (pg : PR) (s : State) : Res := strandOp (.min t d a b pg) s (aluOp .min t d a b)
def execMax (t : IntTy) (d a b : GR) (pg : PR) (s : State) : Res := strandOp (.max t d a b pg) s (aluOp .max t d a b)
def execMinu (t : IntTy) (d a b : GR) (pg : PR) (s : State) : Res := strandOp (.minu t d a b pg) s (aluOp .minu t d a b)
def execMaxu (t : IntTy) (d a b : GR) (pg : PR) (s : State) : Res := strandOp (.maxu t d a b pg) s (aluOp .maxu t d a b)
def execMul (t : IntTy) (d a b : GR) (pg : PR) (s : State) : Res := strandOp (.mul t d a b pg) s (aluOp .mul t d a b)
def execMulh (t : IntTy) (d a b : GR) (pg : PR) (s : State) : Res := strandOp (.mulh t d a b pg) s (aluOp .mulh t d a b)
def execMulhu (t : IntTy) (d a b : GR) (pg : PR) (s : State) : Res := strandOp (.mulhu t d a b pg) s (aluOp .mulhu t d a b)
def execDiv (t : IntTy) (d a b : GR) (pg : PR) (s : State) : Res := strandOp (.div t d a b pg) s (aluOp .div t d a b)
def execDivu (t : IntTy) (d a b : GR) (pg : PR) (s : State) : Res := strandOp (.divu t d a b pg) s (aluOp .divu t d a b)
def execRem (t : IntTy) (d a b : GR) (pg : PR) (s : State) : Res := strandOp (.rem t d a b pg) s (aluOp .rem t d a b)
def execRemu (t : IntTy) (d a b : GR) (pg : PR) (s : State) : Res := strandOp (.remu t d a b pg) s (aluOp .remu t d a b)

/-! ### Bit operations (R109 to R111) -/

/-- The bits of a value, the lowest first. -/
def bitsOf (x : BitVec w) : List Bool := (List.range w).map x.getLsbD
/-- R109. -/
def countTrailing (x : BitVec w) : Nat := ((bitsOf x).takeWhile (!·)).length
def countLeading (x : BitVec w) : Nat := ((bitsOf x).reverse.takeWhile (!·)).length
def countOnes (x : BitVec w) : Nat := (bitsOf x).count true

/-- R109: a count over 64 or 32 bits. -/
def countOp (f64 : W64 → Nat) (f32 : W32 → Nat) (t : IntTy) (d a : GR) (s : State) : Res :=
  .next (s.setG d (BitVec.ofNat 64 (if t = .i64 then f64 (s.g a) else f32 ((s.g a).setWidth 32))))

def execClz (t : IntTy) (d a : GR) (pg : PR) (s : State) : Res :=
  strandOp (.clz t d a pg) s (countOp countLeading countLeading t d a)
def execCtz (t : IntTy) (d a : GR) (pg : PR) (s : State) : Res :=
  strandOp (.ctz t d a pg) s (countOp countTrailing countTrailing t d a)
def execPopc (t : IntTy) (d a : GR) (pg : PR) (s : State) : Res :=
  strandOp (.popc t d a pg) s (countOp countOnes countOnes t d a)

def BHW.bits : BHW → Nat | .b => 8 | .h => 16 | .w => 32

def execSext (sz : BHW) (d a : GR) (pg : PR) (s : State) : Res :=
  strandOp (.sext sz d a pg) s fun s => .next (s.setG d (((s.g a).setWidth (BHW.bits sz)).signExtend 64))
def execZext (sz : BHW) (d a : GR) (pg : PR) (s : State) : Res :=
  strandOp (.zext sz d a pg) s fun s => .next (s.setG d (((s.g a).setWidth (BHW.bits sz)).setWidth 64))

/-- R111: the position and length the field register gives. -/
def fieldPos (b : W64) : Nat := (b.extractLsb' 0 6).toNat
def fieldLen (b : W64) : Nat :=
  let l := (b.extractLsb' 8 6).toNat
  let len := if l = 0 then 64 else l
  if fieldPos b + len > 64 then 64 - fieldPos b else len

def execBfx (d a b : GR) (pg : PR) (s : State) : Res :=
  strandOp (.bfx d a b pg) s fun s =>
    .next (s.setG d (((s.g a).extractLsb' (fieldPos (s.g b)) (fieldLen (s.g b))).signExtend 64))
def execBfxu (d a b : GR) (pg : PR) (s : State) : Res :=
  strandOp (.bfxu d a b pg) s fun s =>
    .next (s.setG d (((s.g a).extractLsb' (fieldPos (s.g b)) (fieldLen (s.g b))).setWidth 64))
/-- R111: `old` with the field replaced by the low bits of `x`. -/
def insertField (old x b : W64) : W64 :=
  let m : W64 := BitVec.ofNat 64 ((2 ^ fieldLen b - 1) * 2 ^ fieldPos b)
  (old &&& ~~~m) ||| ((x <<< fieldPos b) &&& m)
def execBfi (d a b : GR) (pg : PR) (s : State) : Res :=
  strandOp (.bfi d a b pg) s fun s => .next (s.setG d (insertField (s.g d) (s.g a) (s.g b)))

/-! ### Compares and predicates (R112, R113) -/

inductive CmpOp where | eq | ne | lt | le | ltu | leu
deriving DecidableEq, Repr

/-- R112. -/
def CmpOp.eval (o : CmpOp) (x y : BitVec w) : Bool :=
  match o with
  | .eq => x == y | .ne => x != y | .lt => x.slt y | .le => x.sle y | .ltu => x.ult y | .leu => x.ule y

def cmpOp (o : CmpOp) (t : IntTy) (d : PR) (a b : GR) (s : State) : Res :=
  .next (s.setP d (match t with
    | .q => o.eval (s.gq a) (s.gq b)
    | .i64 => o.eval (s.g a) (s.g b)
    | _ => o.eval ((s.g a).setWidth 32) ((s.g b).setWidth 32)))

def execCmpeq (t : IntTy) (d : PR) (a b : GR) (pg : PR) (s : State) : Res := strandOp (.cmpeq t d a b pg) s (cmpOp .eq t d a b)
def execCmpne (t : IntTy) (d : PR) (a b : GR) (pg : PR) (s : State) : Res := strandOp (.cmpne t d a b pg) s (cmpOp .ne t d a b)
def execCmplt (t : IntTy) (d : PR) (a b : GR) (pg : PR) (s : State) : Res := strandOp (.cmplt t d a b pg) s (cmpOp .lt t d a b)
def execCmple (t : IntTy) (d : PR) (a b : GR) (pg : PR) (s : State) : Res := strandOp (.cmple t d a b pg) s (cmpOp .le t d a b)
def execCmpltu (t : IntTy) (d : PR) (a b : GR) (pg : PR) (s : State) : Res := strandOp (.cmpltu t d a b pg) s (cmpOp .ltu t d a b)
def execCmpleu (t : IntTy) (d : PR) (a b : GR) (pg : PR) (s : State) : Res := strandOp (.cmpleu t d a b pg) s (cmpOp .leu t d a b)

def execPand (d a b pg : PR) (s : State) : Res := strandOp (.pand d a b pg) s fun s => .next (s.setP d (s.pr a && s.pr b))
def execPor (d a b pg : PR) (s : State) : Res := strandOp (.por d a b pg) s fun s => .next (s.setP d (s.pr a || s.pr b))
def execPxor (d a b pg : PR) (s : State) : Res := strandOp (.pxor d a b pg) s fun s => .next (s.setP d (s.pr a ^^ s.pr b))
def execPandn (d a b pg : PR) (s : State) : Res := strandOp (.pandn d a b pg) s fun s => .next (s.setP d (s.pr a && !s.pr b))
def execPnot (d a pg : PR) (s : State) : Res := strandOp (.pnot d a pg) s fun s => .next (s.setP d (!s.pr a))
/-- R113: the predicates as a number, bit 0 always 1. -/
def State.preds (s : State) : BitVec 8 := s.cur.pre.p ||| 1
def execPrd (d : GR) (pg : PR) (s : State) : Res :=
  strandOp (.prd d pg) s fun s => .next (s.setG d (s.preds.setWidth 64))
def execPwr (a : GR) (pg : PR) (s : State) : Res :=
  strandOp (.pwr a pg) s fun s => .next (s.modStrand fun x => { x with p := (s.g a).setWidth 8 ||| 1 })

/-! ### Immediates (R115 to R117) -/

def immOp (o : AluOp) (d a : GR) (imm : Imm13) (s : State) : Res :=
  .next (s.setG d (o.eval (s.g a) (imm.signExtend 64) 0))
def execAddi (d a : GR) (imm : Imm13) (pg : PR) (s : State) : Res := strandOp (.addi d a imm pg) s (immOp .add d a imm)
def execAndi (d a : GR) (imm : Imm13) (pg : PR) (s : State) : Res := strandOp (.andi d a imm pg) s (immOp .and d a imm)
def execOri (d a : GR) (imm : Imm13) (pg : PR) (s : State) : Res := strandOp (.ori d a imm pg) s (immOp .or d a imm)
def execXori (d a : GR) (imm : Imm13) (pg : PR) (s : State) : Res := strandOp (.xori d a imm pg) s (immOp .xor d a imm)

def shiftImm (o : AluOp) (d a : GR) (sh : BV6) (s : State) : Res := .next (s.setG d (o.eval (s.g a) 0 sh.toNat))
def execShli (d a : GR) (sh : BV6) (pg : PR) (s : State) : Res := strandOp (.shli d a sh pg) s (shiftImm .shl d a sh)
def execShri (d a : GR) (sh : BV6) (pg : PR) (s : State) : Res := strandOp (.shri d a sh pg) s (shiftImm .shr d a sh)
def execSrai (d a : GR) (sh : BV6) (pg : PR) (s : State) : Res := strandOp (.srai d a sh pg) s (shiftImm .sra d a sh)
def execRori (d a : GR) (sh : BV6) (pg : PR) (s : State) : Res := strandOp (.rori d a sh pg) s (shiftImm .ror d a sh)

def execMovi (d : GR) (imm : Imm13) (pg : PR) (s : State) : Res :=
  strandOp (.movi d imm pg) s fun s => .next (s.setG d (imm.signExtend 64))
/-- R96: bits 13k + 12 to 13k replaced; past bit 63 nothing exists. -/
def movhValue (old : W64) (k : BV3) (imm : Imm13) : W64 :=
  let m : W64 := (0x1FFF : W64) <<< (13 * k.toNat)
  (old &&& ~~~m) ||| ((imm.setWidth 64 : W64) <<< (13 * k.toNat))
def execMovh (d : GR) (k : BV3) (imm : Imm13) (pg : PR) (s : State) : Res :=
  strandOp (.movh d k imm pg) s fun s => .next (s.setG d (movhValue (s.g d) k imm))

/-! ### Address, select and move (R118 to R120) -/

def execLea (d a b : GR) (sh : BV3) (pg : PR) (s : State) : Res :=
  strandOp (.lea d a b sh pg) s fun s => .next (s.setG d (s.g a + (s.g b <<< sh.toNat)))

def execCvta (d a : GR) (pg : PR) (s : State) : Res :=
  strandOp (.cvta d a pg) s fun s =>
    let x := s.g a
    let off := (x.extractLsb' 0 52).toNat
    .next (s.setG d (match (x.extractLsb' 52 5).toNat with
      | 0b11100 => lmAlias s.cur.pre.priva.core (s.cur.pre.priva.off + off)
      | 0b11101 => lmAlias s.cur.core off
      | _ => x))
def execSel (d : GR) (q : PR) (a b : GR) (pg : PR) (s : State) : Res :=
  strandOp (.sel d q a b pg) s fun s => .next (if s.pr q then s.setGS d (s.g a) (s.gS a) else s.setGS d (s.g b) (s.gS b))
def execMov (d a : GR) (pg : PR) (s : State) : Res := strandOp (.mov d a pg) s fun s => .next (s.setGS d (s.g a) (s.gS a))

/-! ### Reading and setting S (R131) -/

def execFstk (d a b : GR) (pg : PR) (s : State) : Res :=
  strandOp (.fstk d a b pg) s fun s => .next (s.setGS d ((s.g a).setWidth 32 |>.setWidth 64) ((s.g b).getLsbD 0))
def execFstkr (d a : GR) (pg : PR) (s : State) : Res :=
  strandOp (.fstkr d a pg) s fun s => .next (s.setG d (BitVec.ofNat 64 (bit01 (s.gS a))))

end Sys2Proof.Machine
end

