-- ==== Sys2Proof/Machine/Control.lean ====
section
/-!
DEFINITION. Control flow, hardware loops, repeat, supervisor calls and return, shared registers, semaphores, time and register
borrowing (06_isa_control_memory.md R133 to R139; 08_isa_engines_tasks.md R220 to R227; 04 R85; 15 R314).
-/
namespace Sys2Proof.Machine
open Sys2Proof

/-! ### Branches and jumps (R133, R134) -/

/-- R133: the address of the bundle that follows in sequence. -/
def State.nextPc (s : State) : W64 := s.cur.pc + BitVec.ofNat 64 s.cur.len
/-- R53, R85: a target by an offset in words. -/
def State.relative (s : State) (off : BitVec w) : W64 := s.cur.pc + 4 * off.signExtend 64
/-- R133: the transfer. -/
def jumpTo (target : W64) (s : State) : Res := .next (s.flow (.taken target))

def execCnop (s : State) : Res := strandOp .cnop s fun s => .next s
def execMovpc (d : GR) (pg : PR) (pn : Bool) (s : State) : Res := strandOp (.movpc d pg pn) s fun s => .next (s.setG d s.cur.pc)
def execBp (pg : PR) (pn : Bool) (off : Off21) (s : State) : Res := strandOp (.bp pg pn off) s fun s => jumpTo (s.relative off) s
def execBz (a : GR) (pg : PR) (imm : Imm12) (s : State) : Res :=
  strandOp (.bz a pg imm) s fun s => if s.g a = 0 then jumpTo (s.relative imm) s else .next s
def execBnz (a : GR) (pg : PR) (imm : Imm12) (s : State) : Res :=
  strandOp (.bnz a pg imm) s fun s => if s.g a = 0 then .next s else jumpTo (s.relative imm) s
def execJal (pg : PR) (pn : Bool) (off : Off21) (s : State) : Res :=
  strandOp (.jal pg pn off) s fun s => jumpTo (s.relative off) (s.setG 1 s.nextPc)
def execJalr (d a : GR) (pg : PR) (imm : Imm12) (s : State) : Res :=
  strandOp (.jalr d a pg imm) s fun s => jumpTo (s.g a + 4 * imm.signExtend 64) (s.setG d s.nextPc)
def execRet (a : GR) (pg : PR) (pn : Bool) (s : State) : Res := strandOp (.ret a pg pn) s fun s => jumpTo (s.g a) s

/-! ### Fetch (R52, R74, R332, R414) -/

/-- A fetch: a word, a fault, or a page not yet known to the core's TLB. -/
inductive Fetched where
  | word (w : W32) (s : State)
  | fault (cause : Nat)
  | miss

def wordOf (bs : List Byte) : W32 := BitVec.ofNat 32 (leNat (bs.take 4))
/-- R332, R414: a word of global code, from the L1I, which takes the whole line from its home; a copy under another slot is absent.
With the L1I full, the line taken longest ago leaves it (R15; DESIGN CHOICE, log 7). -/
def State.fetchGlobal (s : State) (l : Loc) (kslot va : Nat) : W32 × State :=
  let core := s.cur.core
  let o := l.key % 64
  let base := l.key - o
  match (s.core core).l1i.find? fun e => e.1 == base && e.2.1 == kslot with
  | some e => (wordOf (e.2.2.drop o), s)
  | none =>
    let line := match l with
      | .hbm p off => s.homeLine p (off - o) kslot va
      | _ => memReadN s.mem base 64
    let s := match l with | .hbm p off => s.noteRead (.core core) p (off - o) kslot | _ => s
    let rest := (s.core core).l1i.filter fun e => e.1 != base
    (wordOf (line.drop o),
      s.setCore core { s.core core with l1i := (if rest.length ≥ l1Lines then rest.drop 1 else rest) ++ [(base, kslot, line)] })
/-- A word at a location; LM and CSM are read there (R322), another device's words are free values (log 3). -/
def State.fetchAt (s : State) (l : Loc) (a : PageAttr) (va : Nat) : Fetched :=
  match l with
  | .lm _ _ | .csm _ _ => .word (wordOf (s.readAt l 4)) s
  | .hbm p o =>
    if s.lineKept s.cur.core p o && !((s.core s.cur.core).l1i.any fun e => e.1 == l.key - l.key % 64 && e.2.1 == a.slot) then .miss
    else let (w, t) := s.fetchGlobal l a.slot va; .word w t
  | .host _ => let (w, t) := s.fetchGlobal l a.slot va; .word w t
  | .regs _ _ => .fault 0x05
  | .dev _ => let (v, t) := s.draw; .word (v.setWidth 32) t

/-! ### Hardware loops and repeat (R135, R137, R139) -/

/-- R139: a loop or repeat instruction of a privileged strand resumes the checks. -/
def Strand.resumeChecks (x : Strand) : Strand := if x.priv then { x with checksOff := false } else x
/-- R135: loop `k` set, with a body of `len` words that starts at the next bundle. -/
def loopSet (k : Bool) (n : W32) (len : Nat) (s : State) : Res :=
  let beg : W64 := s.nextPc
  let fin : W64 := beg + BitVec.ofNat 64 (4 * len)
  let l : HwLoop := { cnt := n, beg := beg.setWidth 57, fin := fin.setWidth 57 }
  let t := s.modStrand fun x => (if k then { x with loop1 := l } else { x with loop0 := l }).resumeChecks
  .next (if n = 0 then t.flow (.fall fin) else t)
/-- R137: the bundle that follows is skipped: its first word is fetched, and its L bit says how long it is. Where that fetch fails, the repeat
instruction traps with its cause, and where it must wait, the instruction waits (DEDUCED, log 24). -/
def skipThen (s : State) : Res :=
  located .fetch s.nextPc 4 (fun l a s =>
    match s.fetchAt l a s.nextPc.toNat with
    | .word w t => .next ((t.bankAt l 4).flow (.fall (s.nextPc + if lone w then 4 else 8)))
    | .fault c => trapNow s c s.nextPc
    | .miss => .next (s.missTlb s.nextPc)) s
/-- R137: the repeat count set. -/
def repeatSet (n : W32) (s : State) : Res :=
  let t := s.modStrand fun x => { x with repc := n }.resumeChecks
  if n = 0 then skipThen t else .next t
/-- R135, R137: a count in a register; one that does not fit 32 bits is an illegal operand. -/
def counted (a : GR) (k : W32 → State → Res) (s : State) : Res :=
  if (s.g a).extractLsb' 32 32 = 0 then k ((s.g a).setWidth 32) s else trapNow s 0x02 0

def execLoopi (k : Bool) (len : Len5) (pg : PR) (cnt : Imm12) (s : State) : Res :=
  strandOp (.loopi k len pg cnt) s (loopSet k (cnt.setWidth 32) len.toNat)
def execLoopr (k : Bool) (a : GR) (pg : PR) (len : Imm12) (s : State) : Res :=
  strandOp (.loopr k a pg len) s (counted a fun n => loopSet k n len.toNat)
def execRepi (pg : PR) (cnt : Imm12) (s : State) : Res := strandOp (.repi pg cnt) s (repeatSet (cnt.setWidth 32))
def execRepr (a : GR) (pg : PR) (s : State) : Res := strandOp (.repr a pg) s (counted a repeatSet)

/-! ### Supervisor (R226, R227, R279) -/

def execSysc (n : BV15) (s : State) : Res := strandOp (.sysc n) s fun s => trapNow s 0x11 (n.setWidth 64)
def execBrk (n : BV15) (s : State) : Res := strandOp (.brk n) s fun s => trapNow s 0x10 (n.setWidth 64)
def execXret (pg : PR) (s : State) : Res :=
  strandOp (.xret pg) s fun s => jumpTo s.cur.pre.x.pc (s.modStrand Strand.leave)

/-! ### Shared registers and semaphores (R220, R221) -/

/-- The cycle of the strand's island. -/
def State.now (s : State) : Nat := s.cycle s.cur.core
/-- The cycle at which the bundle issued (R104, R241). -/
def State.issueCycle (s : State) : Nat := ((s.slotOf s.cur.core s.cur.slot).lastIssue).getD s.now
/-- R220: shared register `n` as a `SHRD` that issues at a cycle sees it: the last of the writes seen by then. -/
def Core.shared (c : Core) (n : BV4) (now : Nat) : W64 :=
  (c.shPend.filter fun e => decide (e.1 ≤ now) && e.2.1 == n).foldl (fun _ e => e.2.2) (vget c.sh n.toNat 0)
/-- R220: the writes seen by now are settled. -/
def Core.settle (c : Core) (now : Nat) : Core :=
  { c with sh := (c.shPend.filter fun e => decide (e.1 ≤ now)).foldl (fun v e => vset v e.2.1.toNat e.2.2) c.sh
           shPend := c.shPend.filter fun e => !decide (e.1 ≤ now) }
/-- R220: a write seen from a cycle on, among the others in the order of their cycles; one posted at its issue is not doubled. -/
def Core.post (c : Core) (at_ : Nat) (n : BV4) (v : W64) : Core :=
  { c with shPend := (c.shPend.filter fun e => decide (e.1 ≤ at_) && !(e.1 == at_ && e.2.1 == n)) ++ [(at_, n, v)] ++
                     (c.shPend.filter fun e => decide (at_ < e.1)) }
/-- R220: the earliest issue of the core's bundles that have issued and are still to be completed: a `SHRD` of one of them reads what was
visible then. -/
def Core.openIssue (c : Core) (now : Nat) : Nat :=
  c.slots.toList.foldl (fun m x =>
    if x.again || x.delayDone || (match x.st with | .waiting (.extended _) => true | _ => false) then min m (x.lastIssue.getD m) else m) now
def shrdOp (a : GR) (n : BV4) (s : State) : Res := .next (s.setG a ((s.core s.cur.core).shared n s.issueCycle))
def shwrOp (a : GR) (n : BV4) (s : State) : Res :=
  .next (s.setCore s.cur.core (((s.core s.cur.core).settle ((s.core s.cur.core).openIssue s.issueCycle)).post (s.issueCycle + 8) n (s.g a)))
def execShrd (a : GR) (n : BV4) (pg : PR) (s : State) : Res := strandOp (.shrd a n pg) s (shrdOp a n)
def execShwr (a : GR) (n : BV4) (pg : PR) (s : State) : Res := strandOp (.shwr a n pg) s (shwrOp a n)

/-- R221: the count, and its change. -/
def Core.sema (c : Core) (n : BV4) : BitVec 16 := vget c.sem n.toNat 0
def Core.setSema (c : Core) (n : BV4) (v : BitVec 16) : Core := { c with sem := vset c.sem n.toNat v }
/-- R221: one is taken, or was granted; else the bundle waits its turn. -/
def sempOp (n : BV4) (s : State) : Res :=
  let k := s.cur.slot
  let c := s.core s.cur.core
  if (s.slotOf s.cur.core k).sempGrant = some n then .next (s.setSlot s.cur.core k { s.slotOf s.cur.core k with sempGrant := none })
  else if c.sema n ≠ 0 then .next (s.setCore s.cur.core (c.setSema n (c.sema n - 1)))
  else
    .next ((s.setCore s.cur.core { c with semWait := if c.semWait.contains (k, n) then c.semWait else c.semWait ++ [(k, n)] }).wait
      (.semp n.toNat))
/-- R221: one is added, and granted to the strand that has waited longest. -/
def State.semGive (s : State) (core : Nat) (n : BV4) : State :=
  let c := s.core core
  match c.semWait.find? (fun e => e.2 == n) with
  | some (k, _) =>
    let t := s.setCore core { c with semWait := c.semWait.filter (· != (k, n)) }
    (t.setSlot core k { t.slotOf core k with sempGrant := some n }).wake core k
  | none => s.setCore core (c.setSema n (if c.sema n = 65535 then 65535 else c.sema n + 1))
/-- R221: a grant whose bundle does not take it goes to the next. -/
def State.semReturn (s : State) (core k : Nat) : State :=
  match (s.slotOf core k).sempGrant with
  | some n => (s.setSlot core k { s.slotOf core k with sempGrant := none }).semGive core n
  | none => s
def semvOp (n : BV4) (s : State) : Res := .next (s.semGive s.cur.core n)
def execSemp (n : BV4) (pg : PR) (s : State) : Res := strandOp (.semp n pg) s (sempOp n)
def execSemv (n : BV4) (pg : PR) (s : State) : Res := strandOp (.semv n pg) s (semvOp n)

/-! ### Heartbeat, time, yield (R225, R284) -/

def execHbeat (pg : PR) (s : State) : Res :=
  strandOp (.hbeat pg) s fun s => .next (s.modStrand fun x => { x with hbc := x.hbi, hbNew := true })
/-- R225: the strand is parked from this bundle until `GTIME` has reached a. -/
def waittOp (a : GR) (s : State) : Res := .next (if (s.gtime).ult (s.g a) then s.parkAfter (.gtime (s.g a)) else s)
def execWaitt (a : GR) (pg : PR) (s : State) : Res := strandOp (.waitt a pg) s (waittOp a)
/-- R225: the core's other strands that are Ready. -/
def State.othersReady (s : State) (c k : Nat) : List Nat :=
  (List.range 16).filter fun j => j != k && (s.slotOf c j).st == .ready && !(s.slotOf c j).stopped
def yieldOp (s : State) : Res :=
  match s.othersReady s.cur.core s.cur.slot with
  | [] => .next s
  | l => .next (s.waitAfter (.yield l (s.issueCycle + 16)))
def execYield (pg : PR) (s : State) : Res := strandOp (.yield pg) s yieldOp

/-! ### Register borrowing (R223, R259, R314) -/

/-- R229, R243: vector registers of the core's pool that no slot holds. -/
def State.vregsFree (s : State) (c : Nat) : Nat :=
  Config.vregPool - ((List.range 16).foldl (fun a k => a + (s.slotOf c k).vregs) 0)
/-- R243: the lowest-numbered Free slot. -/
def State.freeSlot (s : State) (c : Nat) : Option Nat := (List.range 16).find? fun k => (s.slotOf c k).st == .free
/-- R223: the counts `XBORROW` may ask for. -/
def borrowCount (v : W64) : Bool := v == 0 || v == 8 || v == 16 || v == 32
def xborrowOp (b : GR) (c : PR) (s : State) : Res :=
  let n := (s.g b).toNat
  if !borrowCount (s.g b) then trapNow s 0x02 0
  else match s.freeSlot s.cur.core with
    | some k =>
      if n ≤ s.vregsFree s.cur.core then
        let t := s.setSlot s.cur.core k { s.slotOf s.cur.core k with st := .borrowed s.cur.slot, vregs := n }
        .next ((t.modStrand fun x => { x with borrow := some { slot := k, vcount := n } }).setP c true)
      else .next (s.setP c false)
    | none => .next (s.setP c false)
def execXborrow (b : GR) (c pg : PR) (s : State) : Res := strandOp (.xborrow b c pg) s (xborrowOp b c)

/-- R223: a copy into an own scalar register: data, S and F/E; `g29` pushes the data (R64). -/
def State.setImage (s : State) (r : GR) (x : GReg) : State :=
  if x.full || r == 0 || r == 29 then s.setGS r x.data x.s
  else s.modStrand fun y => { y with g := rset y.g r x }
def xmovOp (a b : GR) (vec toBorrowed : Bool) (s : State) : Res :=
  match s.cur.pre.borrow with
  | none => trapNow s 0x13 s.word
  | some w =>
    .next (match vec, toBorrowed with
      | false, false => s.setImage a (rget w.g b)
      | false, true =>
        s.modStrand fun x => { x with borrow := some { w with g := rset w.g b { data := s.g a, s := s.gS a, full := true } } }
      | true, false => s.setV a (rget w.v b)
      | true, true => s.modStrand fun x => { x with borrow := some { w with v := rset w.v b (s.vr a) } })
def execXmov (a b : GR) (pg : PR) (vec toBorrowed : Bool) (s : State) : Res :=
  strandOp (.xmov a b pg vec toBorrowed) s (xmovOp a b vec toBorrowed)
/-- R223, R245: a strand's borrowed slot goes back to its core. -/
def State.returnSlot (s : State) (c k : Nat) : State :=
  match (s.strandOf c k).borrow with
  | none => s
  | some w =>
    let t := s.setStrandOf c k { s.strandOf c k with borrow := none }
    t.setSlot c w.slot { t.slotOf c w.slot with st := .free, vregs := 0 }
def execXreturn (pg : PR) (s : State) : Res := strandOp (.xreturn pg) s fun s => .next (s.returnSlot s.cur.core s.cur.slot)

end Sys2Proof.Machine
end

