-- ==== Sys2Proof/Machine/Migrate.lean ====
section
/-!
DEFINITION. The strand as it is created, and migration: accesses with `.mig`, and `MIGRATE` (06_isa_control_memory.md R149; 08 R224;
10 R243, R244, R256, R257).
-/
namespace Sys2Proof.Machine
open Sys2Proof

/-! ### Creation (R236, R243, R244) -/

/-- What a job gives its strands (R235, R261). -/
structure JobSet where
  part : Nat := 0
  job : Option Nat := none
  agage : BitVec 13 := 512
  hbi : W32 := 0
deriving DecidableEq, Repr

/-- The generic address of an offset of the private window (R321). -/
def privAddr (off : Nat) : W64 := BitVec.ofNat 64 (0x1C * 2 ^ 52 + off)
/-- R243, R236, R192: a strand at its creation. -/
def State.newStrand (s : State) (js : JobSet) (role : Role) (pc : W64) (valloc : Nat) (pa : PrivArea) : State × Strand :=
  let (id, t) := s.fresh
  (t, { sid := id, pc, valloc := BitVec.ofNat 6 valloc, hbi := js.hbi, hbc := js.hbi, agage := js.agage, priva := pa, role
        part := js.part, job := js.job, x := { vec := (s.partn js.part).entry }
        g := rset (Vector.replicate 32 { }) 2 { data := privAddr pa.size } })
/-- A general register of a strand being created. -/
def Strand.withG (x : Strand) (r : GR) (v : W64) : Strand := { x with g := rset x.g r { data := v } }
/-- R212, R236: `g4` to `g7`. -/
def Strand.withArgs (x : Strand) (a : List W64) : Strand :=
  (((x.withG 4 (a.getD 0 0)).withG 5 (a.getD 1 0)).withG 6 (a.getD 2 0)).withG 7 (a.getD 3 0)
/-- R243: a strand placed Ready in a slot. -/
def State.placeStrand (s : State) (c k : Nat) (x : Strand) : State :=
  s.setSlot c k { st := .ready, strand := x, vregs := x.valloc.toNat, lastIssue := (s.slotOf c k).lastIssue }

/-! ### Departure (R224, R256) -/

/-- R256: the strand as its packet carries it. The packet has no privilege bit, so a privileged strand arrives unprivileged
(DESIGN CHOICE, log 5). Nor does the packet or the list of what the strand keeps name `XVEC`: it keeps the origin's (DESIGN CHOICE, log 5). -/
def Strand.travel (x : Strand) (pc : W64) (live : W32) : Strand :=
  { sid := x.sid, pc, p := x.p, role := x.role, part := x.part, job := x.job, hbi := x.hbi, hbc := x.hbi, agage := x.agage
    priva := x.priva, fcsr := x.fcsr, x := { vec := x.x.vec }
    tlbWait := x.tlbWait, tlbInvs := x.tlbInvs
    g := ⟨⟨(List.range 32).map fun i => if live.getLsbD i then vget x.g i {} else {}⟩, by simp⟩ }
/-- R242: data on the way from the own cluster arrive before the strand leaves. -/
def State.fillDue (s : State) (c k : Nat) : State :=
  ((s.core c).reqs.filter fun r => r.slot == k).foldl (fun t r =>
    match r.due with | some (_, bs) => t.replyData c r bs false | none => t) s
/-- R149, R224, R240: the strand is parked for its departure, and its packet sent. What it has written leaves the caches of its core
first, since its later releases write back only those of its new core (R144, R346; log 42). -/
def State.sendStrand (s : State) (c k target : Nat) (pc : W64) (live : W32) : State :=
  let s := (s.fillDue c k).cacheRelease c .pk
  let x := s.strandOf c k
  let t := s.setSlot c k { s.slotOf c k with st := .parked .depart }
  t.send (.core c) (.core target) x.part .request
    (.migrate { origin := c, originSlot := k, live, strand := x.travel pc live, target })

/-- R149, R224: the strand's elements are sent and awaited as `AGW` does, and its direct writes are awaited too, since no later
release of the strand could wait for them on another core (R144, R346; log 42). -/
def departWaitThen (k : State → Res) (s : State) : Res :=
  let t := s.flushStrand s.cur.core s.cur.slot
  if t.strand.quiet then k t else .next (t.park .acks)
/-- R149, R257: a `.mig` access whose location lies in the LM of another core takes the strand there, where it can. -/
def migFirst (mig : Bool) (l : Loc) (f : State → Res) (s : State) : Res :=
  match l with
  | .lm c _ =>
    if mig && c != s.cur.core && s.cur.pre.valloc == 0 && !(s.slotOf s.cur.core s.cur.slot).noMig then
      departWaitThen (deferred fun s => .next ((s.sendStrand s.cur.core s.cur.slot c s.cur.pc 0xFFFFFFFF).flow .held)) s
    else f s
  | _ => f s

/-- R224, R234: the strand leaves when its bundle is done; it stays where the move cannot take place. A bad core index is found before
anything is sent or awaited (R56). R224 gives no order for a target outside the partition where `VALLOC` is not zero as well: the access fault
comes first, after the wait and the deferred fault (DESIGN CHOICE, log 42). -/
def migrateOp (a b : GR) (s : State) : Res :=
  let target := ((s.g a).extractLsb' 0 12).toNat
  if target ≥ Config.cores then trapNow s 0x02 0
  else departWaitThen (deferred fun s =>
    if !((s.partn s.cur.pre.part).clusters.contains (clusterOf target)) then trapNow s 0x08 (s.g a)
    else if s.cur.pre.valloc ≠ 0 ∨ target = s.cur.core then .next s
    else .next (s.flow (.depart target ((s.g b).setWidth 32)))) s
def execMigrate (a b : GR) (pg : PR) (s : State) : Res := strandOp (.migrate a b pg) s (migrateOp a b)

end Sys2Proof.Machine
end

