-- ==== Sys2Proof/Machine/Flags.lean ====
section
/-!
DEFINITION. The floating-point flags and the modes of `FCSR` (02_number_formats.md R32, R39, R42; 05_isa_scalar.md R104, R105,
R123).
-/
namespace Sys2Proof.Machine
open Sys2Proof

/-- R32, R54: the rounding mode of the bundle, read before it. -/
def State.frm (s : State) : RMode := frmMode s.cur.pre.fcsr.frm
/-- R37: `FCSR.ovf`. -/
def State.ovf (s : State) : Bool := s.cur.pre.fcsr.ovf

/-- R39: flags ORed into `FCSR.fflags`. -/
def State.raise (s : State) (fl : Flags) : State :=
  s.modStrand fun x => { x with fcsr := { x.fcsr with fflags := x.fcsr.fflags ||| fl } }

/-- R39: the flags an enable bit turns into a trap. -/
def State.enabled (s : State) (fl : Flags) : Flags := fl &&& s.cur.pre.fcsr.fen

/-- R39, R123: an instruction that raises `fl`: it traps before it writes anything, or has its effect `k` and raises them. -/
def State.withFlags (s : State) (fl : Flags) (k : State → State) : Res :=
  if s.enabled fl ≠ 0 then trapNow s 0x15 (fl.setWidth 64) else .next (k (s.raise fl))

/-- R42: the strand's generator advanced `n` times: its outputs, the first first, and its last state. -/
def outputs : W32 → Nat → List W32
  | _, 0 => []
  | z, n + 1 => xorshift32 z :: outputs (xorshift32 z) n
/-- R42: the strand's generator set. -/
def State.setSeed (s : State) (z : W32) : State := s.modStrand fun x => { x with fcsr := { x.fcsr with seed := z } }

end Sys2Proof.Machine
end

