-- ==== Sys2Proof/Machine/ScalarFp.lean ====
section
/-!
DEFINITION. Scalar floating-point instructions (05_isa_scalar.md R121 to R130).
-/
namespace Sys2Proof.Machine
open Sys2Proof

/-- R20, R123: a floating-point result: `w` with its S, bits 63:32 zero. -/
def fpWrite (d : GR) (r : FpRes) (s : State) : Res := s.withFlags r.fl fun t => t.setGS d (r.w.setWidth 64) r.s
/-- The `w` of a scalar source (R20). -/
def State.gw (s : State) (r : GR) : W32 := (s.g r).setWidth 32
/-- R122. -/
def fpOp (o : FpOp) (t : FTy) (d a b : GR) (s : State) : Res := fpWrite d (fpArith o t s.frm (s.gw a) (s.gw b)) s
/-- R122: one rounding of a · b + c. -/
def fmaOp (t : FTy) (d a b c : GR) (s : State) : Res := fpWrite d (fpFma t s.frm (s.gw a) (s.gw b) (s.gw c)) s
/-- R124. -/
def fpPick (mx : Bool) (d a b : GR) (s : State) : Res := fpWrite d (fpMinMax mx (s.gw a) (s.gS a) (s.gw b) (s.gS b)) s
/-- R125: S travels; no flag. -/
def fpSignOp (flip : Bool) (d a : GR) (s : State) : Res := fpWrite d { w := fpSign flip (s.gw a), s := s.gS a, fl := 0 } s
/-- R126. -/
def fpCmpOp (o : FpCmp) (d : PR) (a b : GR) (s : State) : Res :=
  s.withFlags (fpCompare o (s.gw a) (s.gw b)).2 fun t => t.setP d (fpCompare o (s.gw a) (s.gw b)).1
/-- R127. -/
def classOp (d a : GR) (s : State) : Res := .next (s.setG d (BitVec.ofNat 64 (pow2 (fpClass (s.gw a)))))
/-- R128. -/
def cvtOp (t : FTy) (d a : GR) (s : State) : Res := fpWrite d (fpCvt t (s.gw a) (s.gS a)) s
/-- R129. -/
def fromIntOp (t : FTy) (d a : GR) (s : State) : Res := fpWrite d (fpFromInt t s.frm (s.g a).toInt) s
/-- R130: the result has S = 0. -/
def toIntOp (d a : GR) (s : State) : Res :=
  s.withFlags (fpToInt 64 s.frm (s.gw a) (s.gS a)).2 fun t =>
    t.setG d (BitVec.ofInt 64 (fpToInt 64 s.frm (s.gw a) (s.gS a)).1)

def execFadd (t : FTy) (d : GR) (a : GR) (b : GR) (pg : PR) (s : State) : Res :=
  strandOp (.fadd t d a b pg) s (fpOp .add t d a b)

def execFsub (t : FTy) (d : GR) (a : GR) (b : GR) (pg : PR) (s : State) : Res :=
  strandOp (.fsub t d a b pg) s (fpOp .sub t d a b)

def execFmul (t : FTy) (d : GR) (a : GR) (b : GR) (pg : PR) (s : State) : Res :=
  strandOp (.fmul t d a b pg) s (fpOp .mul t d a b)

def execFdiv (t : FTy) (d : GR) (a : GR) (b : GR) (pg : PR) (s : State) : Res :=
  strandOp (.fdiv t d a b pg) s (fpOp .div t d a b)

def execFsqrt (t : FTy) (d : GR) (a : GR) (pg : PR) (s : State) : Res :=
  strandOp (.fsqrt t d a pg) s (fpOp .sqrt t d a a)

def execFfma (t : FTy) (d : GR) (a : GR) (b : GR) (c : GR) (pg : PR) (s : State) : Res :=
  strandOp (.ffma t d a b c pg) s (fmaOp t d a b c)

def execFmin (t : FTy) (d : GR) (a : GR) (b : GR) (pg : PR) (s : State) : Res :=
  strandOp (.fmin t d a b pg) s (fpPick false d a b)

def execFmax (t : FTy) (d : GR) (a : GR) (b : GR) (pg : PR) (s : State) : Res :=
  strandOp (.fmax t d a b pg) s (fpPick true d a b)

def execFneg (d : GR) (a : GR) (pg : PR) (s : State) : Res :=
  strandOp (.fneg d a pg) s (fpSignOp true d a)

def execFabs (d : GR) (a : GR) (pg : PR) (s : State) : Res :=
  strandOp (.fabs d a pg) s (fpSignOp false d a)

def execFcmpeq (d : PR) (a : GR) (b : GR) (pg : PR) (s : State) : Res :=
  strandOp (.fcmpeq d a b pg) s (fpCmpOp .eq d a b)

def execFcmplt (d : PR) (a : GR) (b : GR) (pg : PR) (s : State) : Res :=
  strandOp (.fcmplt d a b pg) s (fpCmpOp .lt d a b)

def execFcmple (d : PR) (a : GR) (b : GR) (pg : PR) (s : State) : Res :=
  strandOp (.fcmple d a b pg) s (fpCmpOp .le d a b)

def execFcmpun (d : PR) (a : GR) (b : GR) (pg : PR) (s : State) : Res :=
  strandOp (.fcmpun d a b pg) s (fpCmpOp .un d a b)

def execFclass (d : GR) (a : GR) (pg : PR) (s : State) : Res :=
  strandOp (.fclass d a pg) s (classOp d a)

def execFcvt (t : FTy) (d : GR) (a : GR) (pg : PR) (s : State) : Res :=
  strandOp (.fcvt t d a pg) s (cvtOp t d a)

def execFcvtif (t : FTy) (d : GR) (a : GR) (pg : PR) (s : State) : Res :=
  strandOp (.fcvtif t d a pg) s (fromIntOp t d a)

def execFcvtfi (d : GR) (a : GR) (pg : PR) (s : State) : Res :=
  strandOp (.fcvtfi d a pg) s (toIntOp d a)

end Sys2Proof.Machine
end

