-- ==== Sys2Proof/Machine/Vector.lean ====
section
/-!
DEFINITION. Vector instructions other than vector memory (07_isa_vector.md R163 to R183). Sources are those of the state before
the bundle, so a destination may equal a source (R54, R163); a lane, element or mask bit that is not active keeps its value (R70).
-/
namespace Sys2Proof.Machine
open Sys2Proof

/-! ### Lanes (R67, R70, R163) -/

/-- A vector of 32 from a function of the lane. -/
def vmk (f : Nat → α) : Vector α 32 := ⟨⟨(List.range 32).map f⟩, by simp⟩
/-- A word from its bits. -/
def bitsFrom (f : Nat → Bool) : W32 := BitVec.ofNat 32 ((List.range 32).foldl (fun a i => if f i then a + pow2 i else a) 0)
def VReg.lane (x : VReg) (i : Nat) : W32 := vget x.w i 0
def VReg.laneS (x : VReg) (i : Nat) : Bool := x.s.getLsbD i
/-- The active lanes, ascending. -/
def active (act : W32) : List Nat := (List.range 32).filter act.getLsbD

/-- A lane: `w` and S. -/
structure Lane where
  w : W32
  s : Bool
deriving DecidableEq, Repr
def VReg.get (x : VReg) (i : Nat) : Lane := { w := x.lane i, s := x.laneS i }

/-- R70: the register with the active lanes replaced. -/
def VReg.update (x : VReg) (act : W32) (f : Vector Lane 32) : VReg :=
  { w := vmk fun i => if act.getLsbD i then (vget f i ⟨0, false⟩).w else x.lane i
    s := bitsFrom fun i => if act.getLsbD i then (vget f i ⟨0, false⟩).s else x.laneS i }
/-- A vector result without flags. -/
def setLanes (d : VR) (mg : MR) (f : Nat → Lane) (s : State) : State := s.setV d ((s.vr d).update (s.mr mg) (vmk f))
/-- R166: the flags of the active lanes, together. -/
def unionFlags (act : W32) (r : Vector FpRes 32) : Flags :=
  (active act).foldl (fun fl i => fl ||| (vget r i ⟨0, false, 0⟩).fl) 0
/-- R166: a floating-point vector result. -/
def setFpLanes (d : VR) (mg : MR) (r : Vector FpRes 32) (s : State) : Res :=
  s.withFlags (unionFlags (s.mr mg) r) fun t =>
    t.setV d ((s.vr d).update (s.mr mg) (vmk fun i => let x := vget r i ⟨0, false, 0⟩; ⟨x.w, x.s⟩))
/-- R168, R169: a mask result: bits where the guard is 1. -/
def setMaskBits (d : MR) (act : W32) (f : Nat → Bool) (s : State) : State :=
  s.setM d ((s.mr d &&& ~~~act) ||| (bitsFrom f &&& act))

/-! ### Integer (R167, R168) -/

/-- R163: an element: 32 bits, or 64 from a group. -/
def State.elem (s : State) (v : VR) (i : Nat) : W64 := (s.vr (v + 1)).lane i ++ (s.vr v).lane i

inductive VOp where | add | sub | and | or | xor | andn | shl | shr | sra | min | max | mul | mulh
deriving DecidableEq, Repr

/-- R167: the scalar operation of R106 and R107; `.z32` is unsigned where it matters. -/
def VOp.alu (o : VOp) (t : VTy) : AluOp :=
  match o with
  | .add => .add | .sub => .sub | .and => .and | .or => .or | .xor => .xor | .andn => .andn
  | .shl => .shl | .shr => .shr | .sra => .sra
  | .min => if t = .z32 then .minu else .min
  | .max => if t = .z32 then .maxu else .max
  | .mul => .mul
  | .mulh => if t = .z32 then .mulhu else .mulh

def vIntOp (o : VOp) (t : VTy) (d a b : VR) (mg : MR) (s : State) : Res :=
  if t = .i64 then
    let r := vmk fun i => (o.alu t).eval (s.elem a i) (s.elem b i) ((s.elem b i).extractLsb' 0 6).toNat
    .next (setLanes (d + 1) mg (fun i => ⟨(vget r i 0).extractLsb' 32 32, false⟩)
      (setLanes d mg (fun i => ⟨(vget r i 0).setWidth 32, false⟩) s))
  else
    .next (setLanes d mg (fun i =>
      ⟨(o.alu t).eval ((s.vr a).lane i) ((s.vr b).lane i) (((s.vr b).lane i).extractLsb' 0 5).toNat, false⟩) s)

inductive VRel where | eq | ne | lt | le
deriving DecidableEq, Repr

/-- R168. -/
def VRel.holds (o : VRel) (sg : Bool) (x y : BitVec w) : Bool :=
  match o with
  | .eq => x == y
  | .ne => x != y
  | .lt => if sg then x.slt y else x.ult y
  | .le => if sg then x.sle y else x.ule y
def vCmpOp (o : VRel) (t : VTy) (d : MR) (a b : VR) (mg : MR) (s : State) : Res :=
  .next (setMaskBits d (s.mr mg) (fun i =>
    if t = .i64 then o.holds true (s.elem a i) (s.elem b i)
    else o.holds (t != .z32) ((s.vr a).lane i) ((s.vr b).lane i)) s)

/-! ### Masks (R169) -/

def maskOp (f : W32 → W32 → W32) (d a b mg : MR) (s : State) : Res :=
  .next (setMaskBits d (s.mr mg) (fun i => (f (s.mr a) (s.mr b)).getLsbD i) s)
def maskNot (d a mg : MR) (s : State) : Res := .next (setMaskBits d (s.mr mg) (fun i => (~~~(s.mr a)).getLsbD i) s)
def maskCount (d : GR) (a mg : MR) (s : State) : Res :=
  .next (s.setG d (BitVec.ofNat 64 (countOnes (s.mr a &&& s.mr mg))))
def maskFromG (d : MR) (a : GR) (mg : MR) (s : State) : Res :=
  .next (setMaskBits d (s.mr mg) (fun i => (s.g a).getLsbD i) s)
def maskToG (d : GR) (a mg : MR) (s : State) : Res := .next (s.setG d ((s.mr a &&& s.mr mg).setWidth 64))

/-! ### Floating point (R170, R171, R173, R174) -/

/-- A floating-point operation on each lane of `a`. -/
def vFp1 (f : Lane → FpRes) (d a : VR) (mg : MR) (s : State) : Res := setFpLanes d mg (vmk fun i => f ((s.vr a).get i)) s
/-- The same on the lanes of `a` and `b`. -/
def vFp2 (f : Lane → Lane → FpRes) (d a b : VR) (mg : MR) (s : State) : Res :=
  setFpLanes d mg (vmk fun i => f ((s.vr a).get i) ((s.vr b).get i)) s
def vArith (o : FpOp) (t : FTy) (d a b : VR) (mg : MR) (s : State) : Res :=
  vFp2 (fun x y => fpArith o t s.frm x.w y.w) d a b mg s
def vFma (t : FTy) (d a b c : VR) (mg : MR) (s : State) : Res :=
  setFpLanes d mg (vmk fun i => fpFma t s.frm ((s.vr a).lane i) ((s.vr b).lane i) ((s.vr c).lane i)) s
def vPick (mx : Bool) (d a b : VR) (mg : MR) (s : State) : Res := vFp2 (fun x y => fpMinMax mx x.w x.s y.w y.s) d a b mg s
def vSign (flip : Bool) (d a : VR) (mg : MR) (s : State) : Res :=
  vFp1 (fun x => { w := fpSign flip x.w, s := x.s, fl := 0 }) d a mg s
def vFpCmp (o : FpCmp) (d : MR) (a b : VR) (mg : MR) (s : State) : Res :=
  let r := vmk fun i => fpCompare o ((s.vr a).lane i) ((s.vr b).lane i)
  s.withFlags ((active (s.mr mg)).foldl (fun fl i => fl ||| (vget r i (false, 0)).2) 0) fun t =>
    setMaskBits d (s.mr mg) (fun i => (vget r i (false, 0)).1) t
def vCvt (t : FTy) (d a : VR) (mg : MR) (s : State) : Res := vFp1 (fun x => fpCvt t x.w x.s) d a mg s
def vFromInt (t : FTy) (d a : VR) (mg : MR) (s : State) : Res := vFp1 (fun x => fpFromInt t s.frm x.w.toInt) d a mg s
/-- R173: R130 at 32 bits; S of the result is 0. -/
def vToInt (d a : VR) (mg : MR) (s : State) : Res :=
  vFp1 (fun x => let (n, fl) := fpToInt 32 s.frm x.w x.s; { w := BitVec.ofInt 32 n, s := false, fl }) d a mg s
def vApprox (f : FTy → W32 → FpRes) (t : FTy) (d a : VR) (mg : MR) (s : State) : Res := vFp1 (fun x => f t x.w) d a mg s

/-! ### Reductions (R172) -/

/-- One level of the tree: pairs are combined, a node beside an absent one is passed up. -/
def treeLevel (f : FpRes → FpRes → FpRes) : List (Option FpRes) → List (Option FpRes)
  | x :: y :: r =>
    (match x, y with
      | none, q => q
      | p, none => p
      | some p, some q => some (f p q)) :: treeLevel f r
  | l => l
def treeUp (f : FpRes → FpRes → FpRes) : Nat → List (Option FpRes) → List (Option FpRes)
  | 0, l => l
  | n + 1, l => treeUp f n (treeLevel f l)
/-- R172: the root of the tree; each node carries the flags of its `Combine`s. `red` says that lanes enter with S = 0. -/
def reduce (red : Bool) (f : FpRes → FpRes → FpRes) (act : W32) (x : VReg) : FpRes :=
  match active act with
  | [i] => { w := x.lane i, s := x.laneS i, fl := 0 }
  | _ =>
    ((treeUp f 5 ((List.range 32).map fun i =>
      if act.getLsbD i then some { w := x.lane i, s := if red then false else x.laneS i, fl := 0 } else none)).headD none).getD
      { w := 0, s := false, fl := 0 }
/-- R172: `Combine` of `VFRED`. -/
def combineAdd (t : FTy) (m : RMode) (p q : FpRes) : FpRes :=
  let r := fpArith .add t m p.w q.w
  { w := r.w, s := p.s || q.s || r.s, fl := p.fl ||| q.fl ||| r.fl }
/-- R172, R45. -/
def combinePick (mx : Bool) (p q : FpRes) : FpRes :=
  let r := fpMinMax mx p.w p.s q.w q.s
  { r with fl := p.fl ||| q.fl ||| r.fl }
def vRed (t : FTy) (d : GR) (a : VR) (mg : MR) (s : State) : Res :=
  fpWrite d (reduce true (combineAdd t s.frm) (s.mr mg) (s.vr a)) s
def vRedPick (mx : Bool) (d : GR) (a : VR) (mg : MR) (s : State) : Res :=
  fpWrite d (reduce false (combinePick mx) (s.mr mg) (s.vr a)) s

/-! ### Permutes and lane moves (R175 to R177) -/

/-- The position of lane `i` among the active ones. -/
def rankOf (act : W32) (i : Nat) : Nat := ((active act).filter (· < i)).length
def permOp (d a b : VR) (mg : MR) (s : State) : Res :=
  .next (setLanes d mg (fun i => (s.vr a).get (((s.vr b).lane i).extractLsb' 0 5).toNat) s)
def slideOp (d a : VR) (b : GR) (mg : MR) (s : State) : Res :=
  .next (setLanes d mg (fun i =>
    let k := (s.g b).toInt + i
    if 0 ≤ k ∧ k ≤ 31 then (s.vr a).get k.toNat else ⟨0, false⟩) s)
def bcastOp (d : VR) (a : GR) (mg : MR) (s : State) : Res := .next (setLanes d mg (fun _ => ⟨s.gw a, s.gS a⟩) s)
def compressOp (d a : VR) (mg : MR) (s : State) : Res :=
  let l := active (s.mr mg)
  let n := l.length
  .next (s.setV d ((s.vr d).update (bitsFrom fun i => decide (i < n)) (vmk fun i => (s.vr a).get (l.getD i 0))))
def expandOp (d a : VR) (mg : MR) (s : State) : Res :=
  .next (setLanes d mg (fun i => (s.vr a).get (rankOf (s.mr mg) i)) s)
def vmovOp (d a : VR) (mg : MR) (s : State) : Res := .next (setLanes d mg (fun i => (s.vr a).get i) s)
/-- R176: lane `j` of a group, by register `j div 32` and lane `j mod 32`. -/
def State.groupLane (s : State) (v : VR) (j : Nat) : Lane :=
  if j < 32 then (s.vr v).get j else (s.vr (v + 1)).get (j - 32)
/-- R176: one half of `VZIP`: its lanes come from a and b by turns, active where the pair's mask bit is 1. -/
def zipHalf (s : State) (d a b : VR) (mg : MR) (h : Nat) : VReg :=
  (s.vr d).update (bitsFrom fun j => (s.mr mg).getLsbD ((32 * h + j) / 2))
    (vmk fun j => let k := 32 * h + j; if k % 2 = 0 then (s.vr a).get (k / 2) else (s.vr b).get (k / 2))
def zipOp (d a b : VR) (mg : MR) (s : State) : Res :=
  .next ((s.setV d (zipHalf s d a b mg 0)).setV (d + 1) (zipHalf s (d + 1) a b mg 1))
def unzipOp (d a : VR) (mg : MR) (s : State) : Res :=
  .next (setLanes (d + 1) mg (fun i => s.groupLane a (2 * i + 1)) (setLanes d mg (fun i => s.groupLane a (2 * i)) s))
/-- R177: the lane b<4:0>. -/
def State.laneNo (s : State) (b : GR) : Nat := ((s.g b).extractLsb' 0 5).toNat
def insOp (d : VR) (a b : GR) (mg : MR) (s : State) : Res :=
  .next (s.setV d ((s.vr d).update (s.mr mg &&& bitsFrom (fun i => i == s.laneNo b)) (vmk fun _ => ⟨s.gw a, s.gS a⟩)))
def extOp (d : GR) (a : VR) (b : GR) (mg : MR) (s : State) : Res :=
  if (s.mr mg).getLsbD (s.laneNo b) then
    .next (s.setGS d (((s.vr a).lane (s.laneNo b)).setWidth 64) ((s.vr a).laneS (s.laneNo b)))
  else .next s

/-! ### Generators (R178) -/

def rnghOp (d a b : GR) (s : State) : Res := .next (s.setG d (((mix (s.g a) (s.g b)).extractLsb' 32 32).setWidth 64))
def vrnghOp (d : VR) (a b : GR) (mg : MR) (s : State) : Res :=
  .next (setLanes d mg (fun i => ⟨(mix (s.g a) (s.g b + BitVec.ofNat 64 i)).extractLsb' 32 32, false⟩) s)

/-! ### MX quantise, dequantise, pack (R179 to R183) -/

/-- R41, R42: the generator's outputs for `n` elements: the strand's under `.sr`; else none is drawn. R105 names the fields of `FCSR` that
the A word takes from before its bundle, and `seed` is not among them: the A word draws from the seed as the C word leaves it, also where
the C word writes `FCSR` or draws itself (DESIGN CHOICE, log 51). -/
def State.draws (s : State) (m : RMode) (n : Nat) : List W32 := if m = .sr then outputs s.strand.fcsr.seed n else []
/-- R42: the generator after `n` elements. -/
def State.advance (s : State) (m : RMode) (n : Nat) : State :=
  if m = .sr then s.setSeed ((outputs s.strand.fcsr.seed n).getLastD s.strand.fcsr.seed) else s

/-- R180: the greatest scale exponent of a format. -/
def vqEmax (f : NTy) : Int := (NTy.fm f).emax
/-- R180: the scale code of a block whose largest magnitude is of this value; 0 for zero. -/
def scaleCode (f : NTy) : List Fv → Int
  | [] => 0
  | .fin _ m e _ :: r => if m = 0 then scaleCode f r else max (scaleCode f r) (floorLog2 m e - vqEmax f + 127)
  | _ :: r => scaleCode f r

/-- R180. -/
def vqmxOp (fmt : NTy) (mode : RMode) (d : VR) (b : GR) (a : VR) (mg : MR) (s : State) : Res :=
  let act := s.mr mg
  let l := active act
  let x := s.vr a
  let g := s.draws mode l.length
  let s1 := s.advance mode l.length
  if l.any (fun i => match valueOf (x.lane i) with | .fin _ _ _ _ => false | _ => true) then
    s1.withFlags Flags.nv fun t => (t.setV d ((s.vr d).update act (vmk fun _ => ⟨0, false⟩))).setG b 0xFF
  else
    let e := max 0 (scaleCode fmt (l.map fun i => valueOf (x.lane i)))
    let r := vmk fun i => finalRound (x.lane i) (x.laneS i) (127 - e) (NTy.fm fmt) mode s.ovf (g.getD (rankOf act i) 0)
    s1.withFlags (l.foldl (fun fl i => fl ||| (vget r i (0, 0)).2) 0) fun t =>
      (t.setV d ((s.vr d).update act (vmk fun i => ⟨(NTy.fm fmt).widen (vget r i (0, 0)).1, false⟩))).setG b (BitVec.ofInt 64 e)

/-- R179: the image of a vector register. -/
def VReg.image (x : VReg) : List Byte := (List.range 128).map fun k => ((x.lane (k / 4)) >>> (8 * (k % 4))).setWidth 8
/-- The lanes of an image. -/
def imageLane (b : List Byte) (i : Nat) : W32 := BitVec.ofNat 32 (leNat ((b.drop (4 * i)).take 4))
/-- R27, R179: the bytes at which element `i` lies, and their number. -/
def Fm.place (f : Fm) (i : Nat) : Nat × Nat := if f = .e2m1 then (i / 2, 1) else (f.bytes * i, f.bytes)
/-- R179: the code of element `i`. -/
def Fm.codeAt (f : Fm) (img : List Byte) (i : Nat) : Nat :=
  let (o, n) := f.place i
  let v := leNat ((img.drop o).take n)
  if f = .e2m1 then (if i % 2 = 0 then v % 16 else v / 16) else v % pow2 f.bits
/-- R179, R27: the bytes of element `i` with its code put in; `old` are the bytes that stand there. -/
def Fm.putCode (f : Fm) (i code : Nat) (old : List Byte) : List Byte :=
  if f = .e2m1 then
    let v := leNat old
    leBytes 1 (if i % 2 = 0 then v / 16 * 16 + code % 16 else v % 16 + code % 16 * 16)
  else leBytes f.bytes code
def Fm.putAt (f : Fm) (img : List Byte) (i code : Nat) : List Byte :=
  let (o, n) := f.place i
  overwrite img o (f.putCode i code ((img.drop o).take n))

/-- R182. -/
def vdqmxOp (fmt : NTy) (d a : VR) (b : GR) (mg : MR) (s : State) : Res :=
  let e := ((s.g b).setWidth 8 : BitVec 8).toNat
  let img := (s.vr a).image
  setFpLanes d mg (vmk fun i =>
    if e = 255 then { w := nanW, s := false, fl := 0 }
    else match (NTy.fm fmt).decode ((NTy.fm fmt).codeAt img i) with
      | .fin n m x st => roundF32 s.frm n m (x + (e : Int) - 127) st
      | v => { w := carrier v, s := false, fl := 0 }) s

/-- R183. -/
def vpackOp (fmt : NTy) (mode : RMode) (d a : VR) (mg : MR) (s : State) : Res :=
  let act := s.mr mg
  let l := active act
  let f := NTy.fm fmt
  let x := s.vr a
  let g := s.draws mode l.length
  let r := l.map fun i => (i, finalRound (x.lane i) (x.laneS i) 0 f mode s.ovf (g.getD (rankOf act i) 0))
  (s.advance mode l.length).withFlags (r.foldl (fun fl e => fl ||| e.2.2) 0) fun t =>
    let img := r.foldl (fun b e => f.putAt b e.1 e.2.1) (s.vr d).image
    t.setV d { w := vmk (imageLane img)
               s := bitsFrom fun j => (s.vr d).laneS j && !(l.any fun i => (f.place i).1 / 4 == j) }

/-! ### The instructions -/

def execVadd (t : VTy) (d : VR) (a : VR) (b : VR) (mg : MR) (s : State) : Res :=
  strandOp (.vadd t d a b mg) s (vIntOp .add t d a b mg)
def execVsub (t : VTy) (d : VR) (a : VR) (b : VR) (mg : MR) (s : State) : Res :=
  strandOp (.vsub t d a b mg) s (vIntOp .sub t d a b mg)
def execVand (t : VTy) (d : VR) (a : VR) (b : VR) (mg : MR) (s : State) : Res :=
  strandOp (.vand t d a b mg) s (vIntOp .and t d a b mg)
def execVor (t : VTy) (d : VR) (a : VR) (b : VR) (mg : MR) (s : State) : Res :=
  strandOp (.vor t d a b mg) s (vIntOp .or t d a b mg)
def execVxor (t : VTy) (d : VR) (a : VR) (b : VR) (mg : MR) (s : State) : Res :=
  strandOp (.vxor t d a b mg) s (vIntOp .xor t d a b mg)
def execVandn (t : VTy) (d : VR) (a : VR) (b : VR) (mg : MR) (s : State) : Res :=
  strandOp (.vandn t d a b mg) s (vIntOp .andn t d a b mg)
def execVshl (t : VTy) (d : VR) (a : VR) (b : VR) (mg : MR) (s : State) : Res :=
  strandOp (.vshl t d a b mg) s (vIntOp .shl t d a b mg)
def execVshr (t : VTy) (d : VR) (a : VR) (b : VR) (mg : MR) (s : State) : Res :=
  strandOp (.vshr t d a b mg) s (vIntOp .shr t d a b mg)
def execVsra (t : VTy) (d : VR) (a : VR) (b : VR) (mg : MR) (s : State) : Res :=
  strandOp (.vsra t d a b mg) s (vIntOp .sra t d a b mg)
def execVmin (t : VTy) (d : VR) (a : VR) (b : VR) (mg : MR) (s : State) : Res :=
  strandOp (.vmin t d a b mg) s (vIntOp .min t d a b mg)
def execVmax (t : VTy) (d : VR) (a : VR) (b : VR) (mg : MR) (s : State) : Res :=
  strandOp (.vmax t d a b mg) s (vIntOp .max t d a b mg)
def execVmul (t : VTy) (d : VR) (a : VR) (b : VR) (mg : MR) (s : State) : Res :=
  strandOp (.vmul t d a b mg) s (vIntOp .mul t d a b mg)
def execVmulh (t : VTy) (d : VR) (a : VR) (b : VR) (mg : MR) (s : State) : Res :=
  strandOp (.vmulh t d a b mg) s (vIntOp .mulh t d a b mg)
def execVcmpeq (t : VTy) (d : MR) (a : VR) (b : VR) (mg : MR) (s : State) : Res :=
  strandOp (.vcmpeq t d a b mg) s (vCmpOp .eq t d a b mg)
def execVcmpne (t : VTy) (d : MR) (a : VR) (b : VR) (mg : MR) (s : State) : Res :=
  strandOp (.vcmpne t d a b mg) s (vCmpOp .ne t d a b mg)
def execVcmplt (t : VTy) (d : MR) (a : VR) (b : VR) (mg : MR) (s : State) : Res :=
  strandOp (.vcmplt t d a b mg) s (vCmpOp .lt t d a b mg)
def execVcmple (t : VTy) (d : MR) (a : VR) (b : VR) (mg : MR) (s : State) : Res :=
  strandOp (.vcmple t d a b mg) s (vCmpOp .le t d a b mg)
def execMand (d : MR) (a : MR) (b : MR) (mg : MR) (s : State) : Res :=
  strandOp (.mand d a b mg) s (maskOp (fun x y => x &&& y) d a b mg)
def execMor (d : MR) (a : MR) (b : MR) (mg : MR) (s : State) : Res :=
  strandOp (.mor d a b mg) s (maskOp (fun x y => x ||| y) d a b mg)
def execMxor (d : MR) (a : MR) (b : MR) (mg : MR) (s : State) : Res :=
  strandOp (.mxor d a b mg) s (maskOp (fun x y => x ^^^ y) d a b mg)
def execMandn (d : MR) (a : MR) (b : MR) (mg : MR) (s : State) : Res :=
  strandOp (.mandn d a b mg) s (maskOp (fun x y => x &&& ~~~y) d a b mg)
def execMnot (d : MR) (a : MR) (mg : MR) (s : State) : Res :=
  strandOp (.mnot d a mg) s (maskNot d a mg)
def execMpopc (d : GR) (a : MR) (mg : MR) (s : State) : Res :=
  strandOp (.mpopc d a mg) s (maskCount d a mg)
def execMfromg (d : MR) (a : GR) (mg : MR) (s : State) : Res :=
  strandOp (.mfromg d a mg) s (maskFromG d a mg)
def execMtog (d : GR) (a : MR) (mg : MR) (s : State) : Res :=
  strandOp (.mtog d a mg) s (maskToG d a mg)
def execVfadd (t : FTy) (d : VR) (a : VR) (b : VR) (mg : MR) (s : State) : Res :=
  strandOp (.vfadd t d a b mg) s (vArith .add t d a b mg)
def execVfsub (t : FTy) (d : VR) (a : VR) (b : VR) (mg : MR) (s : State) : Res :=
  strandOp (.vfsub t d a b mg) s (vArith .sub t d a b mg)
def execVfmul (t : FTy) (d : VR) (a : VR) (b : VR) (mg : MR) (s : State) : Res :=
  strandOp (.vfmul t d a b mg) s (vArith .mul t d a b mg)
def execVfdiv (t : FTy) (d : VR) (a : VR) (b : VR) (mg : MR) (s : State) : Res :=
  strandOp (.vfdiv t d a b mg) s (vArith .div t d a b mg)
def execVfsqrt (t : FTy) (d : VR) (a : VR) (mg : MR) (s : State) : Res :=
  strandOp (.vfsqrt t d a mg) s (vArith .sqrt t d a a mg)
def execVfmin (t : FTy) (d : VR) (a : VR) (b : VR) (mg : MR) (s : State) : Res :=
  strandOp (.vfmin t d a b mg) s (vPick false d a b mg)
def execVfmax (t : FTy) (d : VR) (a : VR) (b : VR) (mg : MR) (s : State) : Res :=
  strandOp (.vfmax t d a b mg) s (vPick true d a b mg)
def execVfneg (d : VR) (a : VR) (mg : MR) (s : State) : Res :=
  strandOp (.vfneg d a mg) s (vSign true d a mg)
def execVfabs (d : VR) (a : VR) (mg : MR) (s : State) : Res :=
  strandOp (.vfabs d a mg) s (vSign false d a mg)
def execVffma (t : FTy) (d : VR) (a : VR) (b : VR) (c : VR) (mg : MR) (s : State) : Res :=
  strandOp (.vffma t d a b c mg) s (vFma t d a b c mg)
def execVfcmpeq (d : MR) (a : VR) (b : VR) (mg : MR) (s : State) : Res :=
  strandOp (.vfcmpeq d a b mg) s (vFpCmp .eq d a b mg)
def execVfcmplt (d : MR) (a : VR) (b : VR) (mg : MR) (s : State) : Res :=
  strandOp (.vfcmplt d a b mg) s (vFpCmp .lt d a b mg)
def execVfcmple (d : MR) (a : VR) (b : VR) (mg : MR) (s : State) : Res :=
  strandOp (.vfcmple d a b mg) s (vFpCmp .le d a b mg)
def execVfcmpun (d : MR) (a : VR) (b : VR) (mg : MR) (s : State) : Res :=
  strandOp (.vfcmpun d a b mg) s (vFpCmp .un d a b mg)
def execVfred (t : FTy) (d : GR) (a : VR) (mg : MR) (s : State) : Res :=
  strandOp (.vfred t d a mg) s (vRed t d a mg)
def execVfrmin (t : FTy) (d : GR) (a : VR) (mg : MR) (s : State) : Res :=
  strandOp (.vfrmin t d a mg) s (vRedPick false d a mg)
def execVfrmax (t : FTy) (d : GR) (a : VR) (mg : MR) (s : State) : Res :=
  strandOp (.vfrmax t d a mg) s (vRedPick true d a mg)
def execVfcvt (t : FTy) (d : VR) (a : VR) (mg : MR) (s : State) : Res :=
  strandOp (.vfcvt t d a mg) s (vCvt t d a mg)
def execVfcvtif (t : FTy) (d : VR) (a : VR) (mg : MR) (s : State) : Res :=
  strandOp (.vfcvtif t d a mg) s (vFromInt t d a mg)
def execVfcvtfi (d : VR) (a : VR) (mg : MR) (s : State) : Res :=
  strandOp (.vfcvtfi d a mg) s (vToInt d a mg)
def execVfrcp (t : FTy) (d : VR) (a : VR) (mg : MR) (s : State) : Res :=
  strandOp (.vfrcp t d a mg) s (vApprox fpRcp t d a mg)
def execVfrsqrt (t : FTy) (d : VR) (a : VR) (mg : MR) (s : State) : Res :=
  strandOp (.vfrsqrt t d a mg) s (vApprox fpRsqrt t d a mg)
def execVfexp2 (t : FTy) (d : VR) (a : VR) (mg : MR) (s : State) : Res :=
  strandOp (.vfexp2 t d a mg) s (vApprox fpExp2 t d a mg)
def execVflog2 (t : FTy) (d : VR) (a : VR) (mg : MR) (s : State) : Res :=
  strandOp (.vflog2 t d a mg) s (vApprox fpLog2 t d a mg)
def execVperm (d : VR) (a : VR) (b : VR) (mg : MR) (s : State) : Res :=
  strandOp (.vperm d a b mg) s (permOp d a b mg)
def execVslide (d : VR) (a : VR) (b : GR) (mg : MR) (s : State) : Res :=
  strandOp (.vslide d a b mg) s (slideOp d a b mg)
def execVzip (d : VR) (a : VR) (b : VR) (mg : MR) (s : State) : Res :=
  formOp true { vsrc := [a, b], gdst := [d] } none (s.mr mg != 0) s (zipOp d a b mg)
def execVunzip (d : VR) (a : VR) (mg : MR) (s : State) : Res :=
  formOp true { gsrc := [a], gdst := [d] } none (s.mr mg != 0) s (unzipOp d a mg)
def execVbcast (d : VR) (a : GR) (mg : MR) (s : State) : Res :=
  formOp true { src := [a], vdst := [d] } none (s.mr mg != 0) s (bcastOp d a mg)
def execVcompress (d : VR) (a : VR) (mg : MR) (s : State) : Res :=
  formOp true { vsrc := [a], vdst := [d] } none (s.mr mg != 0) s (compressOp d a mg)
def execVexpand (d : VR) (a : VR) (mg : MR) (s : State) : Res :=
  formOp true { vsrc := [a], vdst := [d] } none (s.mr mg != 0) s (expandOp d a mg)
def execVmov (d : VR) (a : VR) (mg : MR) (s : State) : Res :=
  formOp true { vsrc := [a], vdst := [d] } none (s.mr mg != 0) s (vmovOp d a mg)
def execVins (d : VR) (a : GR) (b : GR) (mg : MR) (s : State) : Res :=
  formOp true { src := [a, b], vdst := [d] } none (s.mr mg != 0) s (insOp d a b mg)
def execVext (d : GR) (a : VR) (b : GR) (mg : MR) (s : State) : Res :=
  formOp true { vsrc := [a], src := [b], dst := [d] } none (s.mr mg != 0) s (extOp d a b mg)
def execRngh (d : GR) (a : GR) (b : GR) (mg : MR) (s : State) : Res :=
  formOp true { src := [a, b], dst := [d] } none (s.mr mg != 0) s (rnghOp d a b)
def execVrngh (d : VR) (a : GR) (b : GR) (mg : MR) (s : State) : Res :=
  formOp true { src := [a, b], vdst := [d] } none (s.mr mg != 0) s (vrnghOp d a b mg)
def execVqmx (fmt : NTy) (mode : RMode) (d : VR) (b : GR) (a : VR) (mg : MR) (s : State) : Res :=
  formOp (fmt != .bf16 && fmt != .f16) { vsrc := [a], dst := [b], vdst := [d] } none (s.mr mg != 0) s (vqmxOp fmt mode d b a mg)
def execVdqmx (fmt : NTy) (d : VR) (a : VR) (b : GR) (mg : MR) (s : State) : Res :=
  formOp true { vsrc := [a], src := [b], vdst := [d] } none (s.mr mg != 0) s (vdqmxOp fmt d a b mg)
def execVpack (fmt : NTy) (mode : RMode) (d : VR) (a : VR) (mg : MR) (s : State) : Res :=
  formOp true { vsrc := [a], vdst := [d] } none (s.mr mg != 0) s (vpackOp fmt mode d a mg)

end Sys2Proof.Machine
end

