-- ==== Sys2Proof/Machine/Memory.lean ====
section
/-!
DEFINITION. Scalar loads and stores, F/E sync accesses and atomics (06_isa_control_memory.md R140 to R155; 18 R344, R346; 17 R333
to R335).
-/
namespace Sys2Proof.Machine
open Sys2Proof

/-! ### The range scoreboard of the transfer engine (R141, R205) -/

/-- The offset in the issuer's own LM of an address that names it. -/
def State.ownLm (s : State) (who : Actor) (va : W64) : Option Nat :=
  if va.extractLsb' 57 7 ≠ 0 then none
  else match s.window who .load va.toNat with
    | some (.ok (.lm c o) _) => if c = who.core then some o else none
    | _ => none
/-- R204: the rows of a rectangle. -/
def rowsOf (a : W64) (pitch w h : Nat) : List (W64 × Nat) :=
  (List.range h).map fun y => (a + BitVec.ofNat 64 (y * pitch), w)
/-- R204: the fields of a transfer-engine command. -/
def TeCmd.width (c : TeCmd) : Nat :=
  match c.kind with | .copy2d => (c.s0.extractLsb' 0 16).toNat | _ => (c.s1.extractLsb' 32 16).toNat
def TeCmd.height (c : TeCmd) : Nat :=
  match c.kind with | .copy2d => (c.s0.extractLsb' 16 16).toNat | _ => (c.s1.extractLsb' 16 16).toNat
def TeCmd.dstPitch (c : TeCmd) : Nat := (c.s0.extractLsb' 32 32).toNat
def TeCmd.srcPitch (c : TeCmd) : Nat := (c.s1.extractLsb' 32 32).toNat
def TeCmd.idxSize (c : TeCmd) : Nat := if c.s1.extractLsb' 4 2 = 0 then 4 else 8
/-- R205: a command's contiguous ranges. -/
def TeCmd.ranges (c : TeCmd) : List (W64 × Nat) :=
  match c.kind with
  | .copy => [(c.a, c.s0.toNat), (c.b, c.s0.toNat)]
  | .copy2d => rowsOf c.a c.dstPitch c.width c.height ++ rowsOf c.b c.srcPitch c.width c.height
  | .gather => [(c.b, c.height * c.idxSize), (c.a, c.height * c.width)]
  | .scatter => [(c.b, c.height * c.idxSize), (c.s0, c.height * c.width)]
  | .fill => [(c.a, c.s0.toNat)]
/-- R205: its indexed side. -/
def TeCmd.indexed (c : TeCmd) : Option W64 := match c.kind with | .gather => some c.s0 | .scatter => some c.a | _ => none
/-- R205, R321: the part of a range of addresses that lies in the issuer's own LM: offset and length. A range that begins below the own LM in
the LM windows may run on into it. -/
def State.ownPart (s : State) (who : Actor) (r : W64 × Nat) : Nat × Nat :=
  match s.ownLm who r.1 with
  | some x => (x, r.2)
  | none =>
    let base := (lmAlias who.core 0).toNat
    if field r.1.toNat 52 12 = 0x1E ∧ r.1.toNat < base then (0, r.1.toNat + r.2 - base) else (0, 0)
/-- R205: bytes of own LM that a command in flight records. -/
def State.teHolds (s : State) (core : Nat) (l : Loc) (n : Nat) : Bool :=
  match l with
  | .lm c o =>
    c == core && (s.core core).teQueue.any fun q =>
      (match q.indexed with | some a => (s.ownLm q.who a).isSome | none => false) ||
      q.ranges.any fun r => let (x, k) := s.ownPart q.who r; meets x k o n
  | _ => false

/-! ### What every access asks first -/

/-- R287, R399: a register of the partition area is read and written whole, by 8 bytes. -/
def State.regMisuse (l : Loc) (n : Nat) : Bool := match l with | .regs _ _ => n != 8 | _ => false
/-- R141, R148: alignment, translation, the range scoreboard; then the access. -/
def reach (k : Kind) (va : W64) (align n : Nat) (f : Loc → PageAttr → State → Res) (s : State) : Res :=
  located k va align (fun l a s =>
    if s.teHolds s.cur.core l n then .next (s.park .scoreboard)
    else if State.regMisuse l n then trapNow s 0x08 va
    else f l a s) s
/-- R146, R346: the destination of an element, held or not yet acknowledged, whose bytes meet those of an access. -/
def State.heldDest (s : State) (n : Nat) (x : Loc × PageAttr) : Option Node :=
  match s.aggDest s.cur.core x.1 x.2 true with
  | some d => if s.heldOverlap s.cur.core d x.1.key n then some d else none
  | none => none
/-- R346: a direct write of the strand to bytes of a cached line, not yet acknowledged. -/
def State.writeOpen (s : State) (n : Nat) (x : Loc × PageAttr) : Bool :=
  x.2.cached && (s.core s.cur.core).reqs.any fun r => r.isWrite && r.slot == s.cur.slot &&
    match r.acc with | some a => meets a.loc.key a.size x.1.key n | none => false
/-- R146, R346: such buffers are sent and awaited first, and such writes awaited. -/
def afterHeld (xs : List (Loc × PageAttr)) (n : Nat) (f : State → Res) (s : State) : Res :=
  match xs.filterMap (s.heldDest n) with
  | [] => if xs.any (s.writeOpen n) then .next (s.park .acks) else f s
  | ds => .next ((ds.foldl (fun t d => t.flushDest s.cur.core (some d)) s).park .acks)
/-- A write at a location that the own core or cluster serves. -/
def State.nearWrite (s : State) (l : Loc) (bs : List Byte) : State :=
  ((match l with | .csm cl o => (s.takeBanks cl o bs.length s.issueCycle).2 | _ => s).nearTime s.cur.core).homeWrite l bs

/-! ### Loads (R140 to R144, R242, R334) -/

def takeBytes (line : List Byte) (o n : Nat) : List Byte := (line.drop o).take n
/-- A load sent to the home of its location. -/
def loadFar (d : Dest) (size : Nat) (sc : Scope) (va : W64) (l : Loc) (a : PageAttr) (s : State) : State :=
  s.request d .load l size va (fun x => { x with kslot := a.slot }) (fun r => { r with acquire := sc }) fun _ => .replies
/-- A load of a cached line, at the cluster (R333, R334). -/
def loadCached (d : Dest) (size : Nat) (sc acq : Scope) (va : W64) (p o kslot : Nat) (s : State) : State :=
  let core := s.cur.core
  let pa := o / 64 * 64
  match (if sc = .core then s.l1Hit core p pa kslot else none) with
  | some line => s.arriveAt d .load (.hbm p o) size va (s.issueCycle + 8) (takeBytes line (o % 64) size) false
  | none =>
    match ccFind (s.cluster (clusterOf core)).cc p pa kslot with
    | some _ =>
      let t := ((if sc = .core then s else s.recall (clusterOf core) p pa none).lease core p pa kslot).cacheAcquire core acq
      let line := match l1Find (t.core core).l1d p pa kslot with | some e => e.data | none => []
      t.arriveAt d .load (.hbm p o) size va (s.issueCycle + 16) (takeBytes line (o % 64) size) true
    | none =>
      (s.dropOtherSlot (clusterOf core) p pa kslot).request d .line (.hbm p o) size va (fun x => { x with kslot })
        (fun r => { r with acquire := acq }) fun _ => .replies
/-- A load performed at a location, at a scope; `acq` is the scope of the acquire actions it takes by itself. -/
def loadAt (d : Dest) (size : Nat) (sc acq : Scope) (va : W64) (l : Loc) (a : PageAttr) (s : State) : State :=
  let core := s.cur.core
  match l with
  | .lm c _ =>
    if c = core then ((s.nearTime core).arriveAt d .load l size va (s.issueCycle + 8) (s.readAt l size) false).cacheAcquire core acq
    else loadFar d size acq va l a s
  | .csm cl o =>
    if cl = clusterOf core then
      let (lost, t) := (s.nearTime core).takeBanks cl o size s.issueCycle
      (t.arriveAt d .load l size va (s.issueCycle + 16 + lost) (s.readAt l size) false).cacheAcquire core acq
    else loadFar d size acq va l a s
  | .hbm p o =>
    if !a.cached then loadFar d size acq va l a s
    else if Scope.wide sc then loadFar d size acq va l a (s.homeFirst core l)
    else loadCached d size sc acq va p o a.slot s
  | _ => loadFar d size acq va l a s
/-- R142, R144, R146; `k` is what the bundle does beside. -/
def loadOp (d : Dest) (size : Nat) (sc : Scope) (mig : Bool) (va : W64) (k : State → State) (s : State) : Res :=
  reach .load va size size (fun l a => migFirst mig l <| afterHeld [(l, a)] size fun s => .next (loadAt d size sc sc va l a (k s))) s

/-! ### Stores (R143 to R146, R334) -/

/-- R145, R373: the element of a store. -/
def State.elemOf (s : State) (l : Loc) (op : Option AOp) (size : Nat) (va data : W64) (sv : Bool) : AggElem :=
  { op, size, addr := elemAddr l va, data, s := sv, slot := s.cur.slot, issued := va }
/-- R145: an element placed in its destination's buffer, or the strand parked for a place. -/
def aggregate (d : Node) (l : Loc) (e : AggElem) (k : State → State) (s : State) : Res :=
  match s.aggInsert s.cur.core d e l.key with
  | some t => .next (k t)
  | none => .next (s.park .send)
/-- R144, R145: the write of a store that is neither aggregated nor a release, once the buffers of its destination have left. R286's table
has no row for one to the LM of a fenced core of the same cluster: it is performed (DESIGN CHOICE, log 35). -/
def plainWrite (l : Loc) (a : PageAttr) (va : W64) (bs : List Byte) (s : State) : State :=
  let direct := s.directWrite (.store bs) l bs.length va
  match l with
  | .hbm p o => if a.cached then s.l1Store s.cur.core p o a.slot va.toNat bs else direct
  | _ => if l.near s.cur.core then s.nearWrite l bs else direct
/-- R380: stores whose lines the cluster must first fill go once no access waits for such a line at its home. -/
def fillsThen (xs : List (Loc × PageAttr)) (f : State → Res) (s : State) : Res :=
  if xs.any fun x => match x.1 with | .hbm p o => x.2.cached && s.fillBusy s.cur.core p (lineOf o) x.2.slot | _ => false
  then .next s.tryAgain else f s
/-- R144 to R146: such a store. -/
def plainStore (l : Loc) (a : PageAttr) (va : W64) (bs : List Byte) (s : State) : Res :=
  directThen (s.aggDest s.cur.core l a false) (fun t => .next (plainWrite l a va bs t)) s
/-- R144, R334: a release store once its release actions are done: performed before the strand goes on. -/
def scopedStore (sc : Scope) (l : Loc) (a : PageAttr) (va : W64) (bs : List Byte) (s : State) : State :=
  if l.near s.cur.core then s.nearWrite l bs
  else match l, a.cached && !Scope.wide sc with
    | .hbm p o, true => s.ccStore s.cur.core p o a.slot va.toNat bs
    | _, _ => (s.homeFirst s.cur.core l).request .none_ (.store bs) l bs.length va (fun x => { x with flagged := sc == .sy }) id fun _ => .replies
/-- R287: a store to a register of the partition area is a release at system scope. -/
def effScope (l : Loc) (sc : Scope) : Scope := match l with | .regs _ _ => .sy | _ => sc
/-- R141, R143 to R146: a store of `bs`; one of up to 8 bytes may be aggregated. `k` is what the bundle does beside. -/
def storeOp (sc : Scope) (mig : Bool) (va : W64) (bs : List Byte) (k : State → State) (s : State) : Res :=
  let n := bs.length
  reach .store va n n (fun l a => migFirst mig l fun s =>
    if effScope l sc = .core then
      match (if n ≤ 8 then s.aggDest s.cur.core l a false else none) with
      | some d => aggregate d l (s.elemOf l none n va (BitVec.ofNat 64 (leNat bs)) false) k s
      | none => afterHeld [(l, a)] n (fillsThen [(l, a)] fun s => plainStore l a va bs (k s)) s
    else releaseThen (effScope l sc) (deferred (fillsThen [(l, a)] fun s => .next (scopedStore (effScope l sc) l a va bs (k s)))) s) s

/-! ### Addresses and the forms (R59, R87, R140, R149) -/

/-- R59: the address of a CM access. -/
def State.cmAddr (s : State) (b : GR) (off : Off10) (size : Nat) : W64 := s.g b + off.signExtend 64 * BitVec.ofNat 64 size
/-- R87: the address of a major `0x14` access; field c is a register or a signed immediate. -/
def State.xAddr (s : State) (m : XMode) (b c : GR) (size : Nat) : W64 :=
  match m with
  | .indexed => s.g b + s.g c
  | .scaled => s.g b + s.g c * BitVec.ofNat 64 size
  | .postInc => s.g b
  | .offset => s.g b + c.signExtend 64 * BitVec.ofNat 64 size
/-- R87, R141: what post-increment leaves in the base. -/
def xBase (m : XMode) (b c : GR) (size : Nat) (s : State) : State :=
  match m with
  | .postInc => s.setG b (s.g b + c.signExtend 64 * BitVec.ofNat 64 size)
  | _ => s

/-- The bytes of a register that a store of `n` bytes writes. -/
def State.regBytes (s : State) (r : GR) (n : Nat) : List Byte := leBytes n (s.g r).toNat

def cmLoad (size : Nat) (sext : Bool) (x b : GR) (sc : Scope) (off : Off10) (s : State) : Res :=
  loadOp (.g x size sext) size sc false (s.cmAddr b off size) id s
def cmStore (size : Nat) (x b : GR) (sc : Scope) (off : Off10) (s : State) : Res :=
  storeOp sc false (s.cmAddr b off size) (s.regBytes x size) id s

def execLdb (x b : GR) (pg : PR) (sc : Scope) (off : Off10) (s : State) : Res := strandOp (.ldb x b pg sc off) s (cmLoad 1 true x b sc off)
def execLdbu (x b : GR) (pg : PR) (sc : Scope) (off : Off10) (s : State) : Res := strandOp (.ldbu x b pg sc off) s (cmLoad 1 false x b sc off)
def execLdh (x b : GR) (pg : PR) (sc : Scope) (off : Off10) (s : State) : Res := strandOp (.ldh x b pg sc off) s (cmLoad 2 true x b sc off)
def execLdhu (x b : GR) (pg : PR) (sc : Scope) (off : Off10) (s : State) : Res := strandOp (.ldhu x b pg sc off) s (cmLoad 2 false x b sc off)
def execLdw (x b : GR) (pg : PR) (sc : Scope) (off : Off10) (s : State) : Res := strandOp (.ldw x b pg sc off) s (cmLoad 4 true x b sc off)
def execLdwu (x b : GR) (pg : PR) (sc : Scope) (off : Off10) (s : State) : Res := strandOp (.ldwu x b pg sc off) s (cmLoad 4 false x b sc off)
def execLdd (x b : GR) (pg : PR) (sc : Scope) (off : Off10) (s : State) : Res := strandOp (.ldd x b pg sc off) s (cmLoad 8 false x b sc off)
def execStb (x b : GR) (pg : PR) (sc : Scope) (off : Off10) (s : State) : Res := strandOp (.stb x b pg sc off) s (cmStore 1 x b sc off)
def execSth (x b : GR) (pg : PR) (sc : Scope) (off : Off10) (s : State) : Res := strandOp (.sth x b pg sc off) s (cmStore 2 x b sc off)
def execStw (x b : GR) (pg : PR) (sc : Scope) (off : Off10) (s : State) : Res := strandOp (.stw x b pg sc off) s (cmStore 4 x b sc off)
def execStd (x b : GR) (pg : PR) (sc : Scope) (off : Off10) (s : State) : Res := strandOp (.std x b pg sc off) s (cmStore 8 x b sc off)

/-- An `LDQ` whose base is the odd register of its pair: the loaded bits stand there, not the increment (DESIGN CHOICE, log 22). -/
def xLoad (size : Nat) (d : Dest) (b c : GR) (m : XMode) (mig : Bool) (s : State) : Res :=
  loadOp d size .core mig (s.xAddr m b c size) (xBase m b c size) s
def xStore (size : Nat) (bs : State → List Byte) (b c : GR) (m : XMode) (mig : Bool) (s : State) : Res :=
  storeOp .core mig (s.xAddr m b c size) (bs s) (xBase m b c size) s

def execLdbX (a b c : GR) (pg : PR) (mode : XMode) (mig : Bool) (s : State) : Res :=
  strandOp (.ldbX a b c pg mode mig) s (xLoad 1 (.g a 1 true) b c mode mig)
def execLdbuX (a b c : GR) (pg : PR) (mode : XMode) (mig : Bool) (s : State) : Res :=
  strandOp (.ldbuX a b c pg mode mig) s (xLoad 1 (.g a 1 false) b c mode mig)
def execLdhX (a b c : GR) (pg : PR) (mode : XMode) (mig : Bool) (s : State) : Res :=
  strandOp (.ldhX a b c pg mode mig) s (xLoad 2 (.g a 2 true) b c mode mig)
def execLdhuX (a b c : GR) (pg : PR) (mode : XMode) (mig : Bool) (s : State) : Res :=
  strandOp (.ldhuX a b c pg mode mig) s (xLoad 2 (.g a 2 false) b c mode mig)
def execLdwX (a b c : GR) (pg : PR) (mode : XMode) (mig : Bool) (s : State) : Res :=
  strandOp (.ldwX a b c pg mode mig) s (xLoad 4 (.g a 4 true) b c mode mig)
def execLdwuX (a b c : GR) (pg : PR) (mode : XMode) (mig : Bool) (s : State) : Res :=
  strandOp (.ldwuX a b c pg mode mig) s (xLoad 4 (.g a 4 false) b c mode mig)
def execLddX (a b c : GR) (pg : PR) (mode : XMode) (mig : Bool) (s : State) : Res :=
  strandOp (.lddX a b c pg mode mig) s (xLoad 8 (.g a 8 false) b c mode mig)
def execLdq (a b c : GR) (pg : PR) (mode : XMode) (mig : Bool) (s : State) : Res :=
  strandOp (.ldq a b c pg mode mig) s (xLoad 16 (.pair a) b c mode mig)
def execStbX (a b c : GR) (pg : PR) (mode : XMode) (mig : Bool) (s : State) : Res :=
  strandOp (.stbX a b c pg mode mig) s (xStore 1 (fun s => s.regBytes a 1) b c mode mig)
def execSthX (a b c : GR) (pg : PR) (mode : XMode) (mig : Bool) (s : State) : Res :=
  strandOp (.sthX a b c pg mode mig) s (xStore 2 (fun s => s.regBytes a 2) b c mode mig)
def execStwX (a b c : GR) (pg : PR) (mode : XMode) (mig : Bool) (s : State) : Res :=
  strandOp (.stwX a b c pg mode mig) s (xStore 4 (fun s => s.regBytes a 4) b c mode mig)
def execStdX (a b c : GR) (pg : PR) (mode : XMode) (mig : Bool) (s : State) : Res :=
  strandOp (.stdX a b c pg mode mig) s (xStore 8 (fun s => s.regBytes a 8) b c mode mig)
def execStq (a b c : GR) (pg : PR) (mode : XMode) (mig : Bool) (s : State) : Res :=
  strandOp (.stq a b c pg mode mig) s (xStore 16 (fun s => s.regBytes a 8 ++ s.regBytes (a + 1) 8) b c mode mig)

/-! ### Sync accesses (R151, R152) -/

/-- R151: what a sync access is translated as. -/
def SyncOp.kind : SyncOp → Kind | .ldff | .ferd => .load | _ => .store
/-- R151, R154: a word that no unit keeps F/E state or an atomic unit for. -/
def Loc.plainOnly : Loc → Bool | .host _ | .regs _ _ => true | _ => false
/-- R152: the predicate of an attempt. -/
def waitPred : Wait → Option PR | .attempt p => some p | _ => none
/-- R152: the limit of a bounded wait, in cycles from issue. -/
def State.waitLimit (s : State) : Wait → Option Nat | .bounded r => some (s.g r).toNat | _ => none
/-- R152: the cycle at which the limit ends; after an earlier bundle's hold it counts from the first issue. -/
def State.limitCycle (s : State) (w : Wait) : Option Nat := (s.waitLimit w).map fun n => s.issueCycle + n
/-- R148, R388: `STEF` and `STSF` with a scope are release stores, and apply the deferred-fault check after their waits (DEDUCED, log
22). -/
def syncChecked (o : SyncOp) (sc : Scope) (k : State → Res) : State → Res :=
  match o, sc with
  | _, .core => k
  | .stef, _ | .stsf, _ => deferred k
  | _, _ => k
/-- R151, R152, R146: a sync access goes to its word's home. -/
def syncOp (o : SyncOp) (d : Dest) (v : W64) (b : GR) (sc : Scope) (w : Wait) (s : State) : Res :=
  let va := s.g b
  reach (SyncOp.kind o) va 8 8 (fun l a s =>
    if l.plainOnly then trapNow s 0x08 va
    else releaseThen sc (syncChecked o sc (directThen (s.aggDest s.cur.core l a true) fun s =>
      .next ((s.homeFirst s.cur.core l).request d (.sync o v ((waitPred w).isSome || s.waitLimit w == some 0)) l 8 va
        (fun x => { x with flagged := sc == .sy, kslot := a.slot })
        (fun r => { r with pred := waitPred w, limit := s.limitCycle w, acquire := sc })
        fun id => .syncWait id))) s) s
def execLdff (a b : GR) (pg : PR) (sc : Scope) (w : Wait) (s : State) : Res :=
  strandOp (.ldff a b pg sc w) s (syncOp .ldff (.g a 8 false) 0 b sc w)
def execLdfe (a b : GR) (pg : PR) (sc : Scope) (w : Wait) (s : State) : Res :=
  strandOp (.ldfe a b pg sc w) s (syncOp .ldfe (.g a 8 false) 0 b sc w)
def execStef (a b : GR) (pg : PR) (sc : Scope) (w : Wait) (s : State) : Res :=
  strandOp (.stef a b pg sc w) s fun s => syncOp .stef .none_ (s.g a) b sc w s
def execStsf (a b : GR) (pg : PR) (sc : Scope) (w : Wait) (s : State) : Res :=
  strandOp (.stsf a b pg sc w) s fun s => syncOp .stsf .none_ (s.g a) b sc w s
def execFerd (a b : GR) (pg : PR) (sc : Scope) (s : State) : Res :=
  strandOp (.ferd a b pg sc) s (syncOp .ferd (.g a 8 false) 0 b sc .unbounded)
def execFeset (b : GR) (pg : PR) (sc : Scope) (s : State) : Res :=
  strandOp (.feset b pg sc) s (syncOp .feset .none_ 0 b sc .unbounded)
def execFeclr (b : GR) (pg : PR) (sc : Scope) (s : State) : Res :=
  strandOp (.feclr b pg sc) s (syncOp .feclr .none_ 0 b sc .unbounded)

/-! ### Atomics (R153 to R155, R395) -/

/-- The operands of an atomic: the operand, the value compared with, and the operand's S. -/
structure AmoArgs where
  op : AOp
  size : Nat
  v : W64
  cmp : W64 := 0
  sv : Bool := false
/-- R153, R155: where the old value goes. -/
def AmoArgs.dest (x : AmoArgs) (a : GR) : Dest := if a = 0 then .none_ else if x.op = .fadd then .gS a else .g a x.size false
/-- R153, R154, R144 to R146. -/
def atomicOp (x : AmoArgs) (a b : GR) (sc : Scope) (s : State) : Res :=
  let va := s.g b
  let kind := AccKind.atomic x.op x.v x.cmp x.sv
  reach .store va x.size x.size (fun l at_ s =>
    if l.plainOnly then trapNow s 0x08 va
    else
      let core := s.cur.core
      let here (s : State) : Res :=
        let s := (match l with | .csm cl o => (s.takeBank cl o s.issueCycle).2 | _ => s).nearTime core
        let (t, r) := s.atomicAt x.op l x.size x.v x.cmp x.sv
        .next ((match r with | .data bs b => t.fillNow (x.dest a) bs b | _ => t).cacheAcquire core sc)
      let own := match l with | .lm c _ => c == core | _ => false
      let d := s.aggDest core l at_ true
      let send (f : Node → State → Res) (s : State) : Res := match d with | some d => f d s | none => here s
      if own then releaseThen sc here s
      else if sc = .core ∧ a = 0 ∧ x.op ≠ .cas then
        send (fun d => aggregate d l (s.elemOf l (some x.op) x.size va x.v x.sv) id) (s.homeFirst core l)
      else if sc = .core ∧ a = 0 then
        send (fun d => directThen (some d) fun s => .next ((s.homeFirst core l).directWrite kind l x.size va)) s
      else
        releaseThen sc (directThen (if sc = .core ∨ a ≠ 0 then d else none) fun s =>
          .next ((s.homeFirst core l).request (x.dest a) kind l x.size va
            (fun y => { y with flagged := sc == .sy
                               comb := sc == .core && x.op == .add && (match l with | .dev _ => true | _ => false) })
            (fun r => { r with acquire := sc }) fun _ => .replies)) s) s

def amoSize (dbl : Bool) : Nat := if dbl then 8 else 4
def amo (o : AOp) (dbl : Bool) (a b c : GR) (sc : Scope) (s : State) : Res :=
  atomicOp { op := o, size := amoSize dbl, v := s.g c } a b sc s
def execAadd (dbl : Bool) (a b c : GR) (pg : PR) (sc : Scope) (s : State) : Res := strandOp (.aadd dbl a b c pg sc) s (amo .add dbl a b c sc)
def execAand (dbl : Bool) (a b c : GR) (pg : PR) (sc : Scope) (s : State) : Res := strandOp (.aand dbl a b c pg sc) s (amo .and dbl a b c sc)
def execAor (dbl : Bool) (a b c : GR) (pg : PR) (sc : Scope) (s : State) : Res := strandOp (.aor dbl a b c pg sc) s (amo .or dbl a b c sc)
def execAxor (dbl : Bool) (a b c : GR) (pg : PR) (sc : Scope) (s : State) : Res := strandOp (.axor dbl a b c pg sc) s (amo .xor dbl a b c sc)
def execAmin (dbl : Bool) (a b c : GR) (pg : PR) (sc : Scope) (s : State) : Res := strandOp (.amin dbl a b c pg sc) s (amo .min dbl a b c sc)
def execAmax (dbl : Bool) (a b c : GR) (pg : PR) (sc : Scope) (s : State) : Res := strandOp (.amax dbl a b c pg sc) s (amo .max dbl a b c sc)
def execAminu (dbl : Bool) (a b c : GR) (pg : PR) (sc : Scope) (s : State) : Res := strandOp (.aminu dbl a b c pg sc) s (amo .minu dbl a b c sc)
def execAmaxu (dbl : Bool) (a b c : GR) (pg : PR) (sc : Scope) (s : State) : Res := strandOp (.amaxu dbl a b c pg sc) s (amo .maxu dbl a b c sc)
def execAswap (dbl : Bool) (a b c : GR) (pg : PR) (sc : Scope) (s : State) : Res := strandOp (.aswap dbl a b c pg sc) s (amo .swap dbl a b c sc)
def execAcas (dbl : Bool) (a b c : GR) (pg : PR) (sc : Scope) (s : State) : Res :=
  strandOp (.acas dbl a b c pg sc) s fun s =>
    atomicOp { op := .cas, size := amoSize dbl, v := s.g (c + 1), cmp := s.g c } a b sc s
def execAfadd (a b c : GR) (pg : PR) (sc : Scope) (s : State) : Res :=
  strandOp (.afadd a b c pg sc) s fun s =>
    atomicOp { op := .fadd, size := 4, v := s.g c, sv := s.gS c } a b sc s

/-! ### The narrowing store (R150) -/

/-- R150: bytes a code of a format takes in memory. -/
def NTy.size : NTy → Nat | .bf16 => 2 | .f16 => 2 | _ => 1
def fstnOp (a b : GR) (mode : RMode) (fmt : NTy) (s : State) : Res :=
  let r := finalRound (s.gw a) (s.gS a) 0 (NTy.fm fmt) mode s.ovf ((s.draws mode 1).getD 0 0)
  let t := s.advance mode 1
  if t.enabled r.2 ≠ 0 then trapNow t 0x15 (r.2.setWidth 64)
  else storeOp .core false (s.g b) (leBytes (NTy.size fmt) r.1) (fun t => t.raise r.2) t
def execFstn (a b : GR) (mode : RMode) (pg : PR) (fmt : NTy) (s : State) : Res := strandOp (.fstn a b mode pg fmt) s (fstnOp a b mode fmt)

end Sys2Proof.Machine
end

