-- ==== Sys2Proof/Machine/Strands.lean ====
section
/-!
DEFINITION. Job descriptors, where strands live, how they end, and who takes a freed slot (11_scheduling.md R263, R264; 10 R243 to
R245, R252, R254, R258; 08 R212, R222).
-/
namespace Sys2Proof.Machine
open Sys2Proof

/-! ### Descriptors (R235, R263, R264) -/

def Job.dw (j : Job) (off : Nat) : W64 := BitVec.ofNat 64 (leNat ((j.bytes.drop off).take 8))
/-- Bits of a doubleword of a descriptor. -/
def Job.fld (j : Job) (off lo n : Nat) : Nat := field (j.dw off).toNat lo n
def Job.isGang (j : Job) : Bool := j.dw 0 == 2
def Job.vcount (j : Job) : Nat := j.fld 64 0 6
def Job.privSize (j : Job) : Nat := if j.fld 64 16 16 = 0 then 65536 else j.fld 64 16 16
def Job.callSize (j : Job) : Nat := if j.fld 64 32 16 = 0 then j.privSize else j.fld 64 32 16
/-- R230: `AGAGE` as a write stores it. -/
def clampAge (n : Nat) : BitVec 13 := BitVec.ofNat 13 (if n < 64 then 64 else if n > 4096 then 4096 else n)
def State.job (s : State) (n : Nat) : Job := tget s.jobs n { part := 0, queue := 0, qslot := 0, bytes := [] }
def State.setJob (s : State) (n : Nat) (j : Job) : State := { s with jobs := tset s.jobs n j }
/-- R262: a job's state word, written to its slot: a release at system scope. No write reaches a page taken out of use (R422). -/
def State.jobState (s : State) (n st reason : Nat) : State :=
  let j := s.job n
  let t := s.setJob n { j with st, reason }
  if s.isRetired j.part (j.slotAt + 112) then t else t.homeWrite (.hbm j.part (j.slotAt + 112)) (leBytes 8 (reason * 256 + st))
def State.setGang (s : State) (n : Nat) (g : Gang) : State := { s with gangs := tset s.gangs n g }
/-- R262: a job in a final state. -/
def Job.final (j : Job) : Bool := decide (j.st ≥ 4)
/-- R235: what a job gives its strands. -/
def State.jobSet (s : State) (n : Nat) : JobSet :=
  let j := s.job n
  { part := j.part, job := some n, agage := clampAge (j.fld 80 0 13), hbi := BitVec.ofNat 32 (j.fld 80 32 32) }
/-- R263: the dies and clusters of a job's domain, as package clusters. -/
def Job.domain (j : Job) : List Nat :=
  (List.range (j.fld 48 60 2 + 1)).flatMap fun i =>
    ((List.range 48).filter fun c => (j.dw 48).getLsbD c).map fun c => (j.fld 48 62 2 + i) % 4 * 48 + c
/-- R264: strands on each core of a gang. -/
def Job.gangSize (j : Job) : Nat := j.fld 56 0 9
def Job.coreMask (j : Job) : List Nat := (List.range 16).filter fun i => (j.dw 56).getLsbD (16 + i)
def Job.gangCount (j : Job) : Nat := j.fld 56 32 8
def Job.barriers (j : Job) : Nat := j.fld 56 40 5
def Job.perCore (j : Job) : Nat := (j.gangSize + j.coreMask.length - 1) / j.coreMask.length
/-- R264: the gangs a cluster holds at once. -/
def Job.gangsHeld (j : Job) : Nat :=
  let a := 16 / j.perCore
  if j.barriers = 0 then a else min a (16 / j.barriers)

/-! ### Private areas (R244) -/

/-- R244: the area of a slot: the placed job's, else by the caller's call setting. -/
def State.slotArea (s : State) (c k callSize : Nat) : PrivArea :=
  match (s.core c).job with
  | some n =>
    let j := s.job n
    { core := c, off := (if j.isGang then 0x40000 else 0x20000) - (16 - k) * j.privSize, size := j.privSize }
  | none => { core := c, off := 0x40000 - (16 - k) * callSize, size := callSize }

/-! ### Barriers (R222, R254) -/

/-- A slot that holds a strand, in a state that `ok` names. -/
def State.findIn (s : State) (sid : Nat) (ok : SlotState → Bool) : Option (Nat × Nat) :=
  s.cores.findSome? fun e => ((List.range 16).find? fun k =>
    let x := vget e.2.slots k {}
    x.strand.sid == sid && ok x.st).map fun k => (e.1, k)
/-- The slot that holds a strand: where it has arrived, before the one it departs from. -/
def State.findStrand (s : State) (sid : Nat) : Option (Nat × Nat) :=
  (s.findIn sid fun x => match x with | .parked .depart => false | .ready => true | .waiting _ => true | .parked _ => true | _ => false).or
    (s.findIn sid fun x => x == .parked .depart)
/-- R256: the strand of a migration packet, changed. -/
def Migration.modStrand (sid : Nat) (f : Strand → Strand) (m : Migration) : Migration :=
  if m.strand.sid = sid then { m with strand := f m.strand } else m
def Packet.modStrand (sid : Nat) (f : Strand → Strand) (p : Packet) : Packet :=
  match p.body with | .migrate m => { p with body := .migrate (m.modStrand sid f) } | _ => p
/-- R256: a strand between slots, in an inbox or in a packet. -/
def State.travelling (s : State) (sid : Nat) : Option Strand :=
  let inMig (m : Migration) : Option Strand := if m.strand.sid = sid then some m.strand else none
  let inPkt (p : Packet) : Option Strand := match p.body with | .migrate m => inMig m | _ => none
  (s.cores.findSome? fun e => e.2.inbox.findSome? inMig) <|> ((s.net ++ s.reorder ++ s.arrived).findSome? inPkt) <|>
    (s.parts.findSome? fun e => e.2.parked.findSome? inPkt)
def State.modTravelling (s : State) (sid : Nat) (f : Strand → Strand) : State :=
  let g := Packet.modStrand sid f
  { s with
    cores := s.cores.map fun e => if e.2.inbox.isEmpty then e else (e.1, { e.2 with inbox := e.2.inbox.map (Migration.modStrand sid f) })
    net := s.net.map g, reorder := s.reorder.map g, arrived := s.arrived.map g
    parts := s.parts.map fun e => if e.2.parked.isEmpty then e else (e.1, { e.2 with parked := e.2.parked.map g }) }
/-- R282: a fault found by an engine for a strand: a record in its log, then its flag, wherever the strand is. -/
def State.faultOf (s : State) (sid : Nat) (addr word : W64) (f : Strand → Strand) : State :=
  match s.findStrand sid with
  | some (c, k) =>
    let t := s.faultIn c k addr word f
    if (s.slotOf c k).st = .parked .depart then t.modTravelling sid f else t
  | none =>
    match s.travelling sid with
    | some x => (s.logFault x addr word).modTravelling sid f
    | none => s
/-- R222: a barrier is complete when every strand of its gang that has not ended has arrived: each leaves, with its acquire. -/
def State.tryBarrier (s : State) (cl n : Nat) : State :=
  let b := vget (s.cluster cl).barriers n {}
  match b.gid with
  | none => s
  | some g =>
    if b.arrived.isEmpty || !((s.gang g).live.all fun i => b.arrived.any fun a => a.1 == i) then s
    else
      let t := s.setCluster cl { s.cluster cl with barriers := vset (s.cluster cl).barriers n { b with arrived := [] } }
      b.arrived.foldl (fun u a =>
        match u.findStrand a.1 with
        | some (c, k) => (if (u.slotOf c k).st == .parked (.barrier n) then u.wake c k else u).cacheAcquire c a.2
        | none => u) t
/-- R222: `BAR`: the release actions, then the arrival; the strand is parked till the last has come. -/
def barOp (n : BV4) (sc : Scope) (s : State) : Res :=
  releaseThen sc (fun s =>
    match s.cur.pre.gid with
    | none => .next s
    | some g =>
      let cl := (s.gang g).cluster
      let m := (s.gang g).bars.getD n.toNat 0
      let b := vget (s.cluster cl).barriers m {}
      let t := s.setCluster cl { s.cluster cl with
        barriers := vset (s.cluster cl).barriers m { b with arrived := b.arrived ++ [(s.cur.pre.sid, sc)] } }
      .next ((t.parkAfter (.barrier m)).tryBarrier cl m)) s
def execBar (n : BV4) (pg : PR) (sc : Scope) (s : State) : Res := strandOp (.bar n pg sc) s (barOp n sc)

/-! ### Ends (R245, R252) -/

/-- R252: a gang whose last strand has ended: its barriers are reset and its chain-queue words discarded. -/
def State.endGang (s : State) (g : Nat) : State :=
  let x := s.gang g
  let cl := s.cluster x.cluster
  let t := s.setCluster x.cluster { cl with
    barriers := cl.barriers.map fun b => if b.gid == some g then {} else b
    gangs := sremove cl.gangs g }
  let t := x.cores.foldl (fun u c => u.setCore c { u.core c with chain := (u.core c).chain.filter fun e => e.gid != g }) t
  { t with gangs := tdel t.gangs g }
/-- R252, R254: a strand leaves its gang by its end. -/
def State.leaveGang (s : State) (g sid : Nat) : State :=
  let x := s.gang g
  let t := s.setGang g { x with live := sremove x.live sid }
  if (t.gang g).live.isEmpty then t.endGang g
  else x.bars.foldl (fun u i => u.tryBarrier x.cluster i) t
/-- R285: a strand that is dropped between slots leaves its gang, if it has not yet. -/
def State.leftGang (s : State) (x : Strand) : State :=
  match x.role with
  | .gang g => if (s.gang g).live.contains x.sid then s.leaveGang g x.sid else s
  | _ => s
/-- R245: the slot and the borrowed slot are free again. -/
def State.vacate (s : State) (c k : Nat) : State :=
  let t := s.returnSlot c k
  t.setSlot c k (t.slotOf c k).freed
/-- R245: a strand ends. -/
def State.endStrand (s : State) (c k : Nat) : State :=
  let x := s.strandOf c k
  let t := s.vacate c k
  match x.role with
  | .gang g => t.leaveGang g x.sid
  | _ => t
/-- R211: a reply to a caller, or a refusal. -/
def refusal (reason : Nat) : W64 := BitVec.ofNat 64 (2 ^ 63 + reason)
def State.replyCall (s : State) (src : Node) (part : Nat) (c : Caller) (v : W64) : State :=
  s.send src (if c.dev = s.devid.toNat then .core c.core else .dev c.dev) part .reply (.callReply c.req c.slot v)

/-! ### Who takes a freed slot (R258) -/

def SlotState.isFree : SlotState → Bool | .free => true | _ => false
/-- R256: the strand of an inbox packet arrives. The caches of its new core hold nothing older than what it has seen (R346, log 42). -/
def State.arriveStrand (s : State) (c k : Nat) (m : Migration) : State :=
  (s.cacheAcquire c .pk).placeStrand c k { m.strand with hbc := m.strand.hbi, hbNew := true }
/-- R212, R243: the callee of a call. -/
def State.startCallee (s : State) (c k : Nat) (q : Call) : State :=
  let area := s.slotArea c k q.psize
  let (t, x) := s.newStrand { part := q.part, job := q.job, agage := q.agage, hbi := q.hbi } (.callee q.caller) q.entry 0
    { area with size := min area.size q.psize }
  t.placeStrand c k (x.withArgs q.args)
/-- R271, R236: the root of a task job. -/
def State.startRoot (s : State) (c k n : Nat) : State :=
  let j := s.job n
  let (t, x) := s.newStrand (s.jobSet n) .root (j.dw 8) j.vcount (s.slotArea c k j.callSize)
  (t.placeStrand c k (x.withArgs [j.dw 16, j.dw 24, j.dw 32, j.dw 40])).jobState n 3 0
/-- R272: a slot reserved for a member of a gang. -/
def State.reserveMember (s : State) (c k : Nat) (cl : Claim) : State :=
  match cl.gang with
  | none => s
  | some g =>
    let x := s.gang g
    (s.setSlot c k { s.slotOf c k with st := .reserved true, vregs := cl.vregs }).setGang g
      { x with places := x.places.set cl.member (some (c, k)) }
/-- R258: a claimant beside the inbox and the call queue could take a free slot of the core. -/
def State.claimed (s : State) (c : Nat) : Bool := (s.core c).claims.any fun x => decide (x.vregs ≤ s.vregsFree c)
/-- R258: the free slot that a claimant may take at once: none has been offered it before. -/
def State.openSlot (s : State) (c vregs : Nat) : Option Nat :=
  if (s.core c).inbox.isEmpty && (s.core c).calls.isEmpty && !s.claimed c && decide (vregs ≤ s.vregsFree c) then s.freeSlot c else none
/-- R258: one free slot offered to its claimants in order; none where nobody takes it. A call starts after the cycle in which it came, when
those that came with it are known (R364). -/
def State.offerSlot (s : State) (c : Nat) : Option State :=
  match s.freeSlot c with
  | none => none
  | some k =>
    let co := s.core c
    match co.inbox with
    | m :: r => some ((s.setCore c { co with inbox := r }).arriveStrand c k m)
    | [] =>
      match co.calls with
      | q :: r => if q.came < s.cycle c then some ((s.setCore c { co with calls := r }).startCallee c k q) else none
      | [] =>
        match co.claims.find? fun x => x.vregs ≤ s.vregsFree c with
        | none => none
        | some x =>
          let t := s.setCore c { co with claims := co.claims.erase x }
          some (match x.gang with | some _ => t.reserveMember c k x | none => t.startRoot c k x.job)
/-- R258: slots of a core are offered. -/
def execSlotOffer (core : Nat) (s : State) : Res := onCore core true s (.next ((s.offerSlot core).getD s))

end Sys2Proof.Machine
end

