-- ==== Sys2Proof/Machine/Queues.lean ====
section
/-!
DEFINITION. Hardware queues, calls and handler triggers as strands use them, and tokens at their target (08_isa_engines_tasks.md R208
to R213, R233; 20 R378, R379, R382; 10 R255).
-/
namespace Sys2Proof.Machine
open Sys2Proof

/-! ### Own-LM operands -/

/-- The LM offset of a range that lies wholly in the issuer's own LM. -/
def State.ownLmRange (s : State) (who : Actor) (va : W64) (n : Nat) : Option Nat :=
  match s.ownLm who va with
  | none => none
  | some o => if n ≤ 1 then some o
    else if va.toNat % 2 ^ 52 + n ≤ 2 ^ 52 ∧ s.ownLm who (va + BitVec.ofNat 64 (n - 1)) = some (o + (n - 1)) then some o else none
/-- R56: an own-LM address with its alignment: `0x09`, then `0x08`. -/
def ownLmAt (va : W64) (align n : Nat) (f : Nat → State → Res) (s : State) : Res :=
  if va.toNat % align ≠ 0 then trapNow s 0x09 va
  else match s.ownLmRange s.actor va n with
    | none => trapNow s 0x08 va
    | some o => f o s
/-- R205: an access to such a range, which waits for a transfer-engine copy that overlaps it. -/
def ownLmThen (va : W64) (align n : Nat) (f : Nat → State → Res) (s : State) : Res :=
  ownLmAt va align n (fun o s => if s.teHolds s.cur.core (.lm s.cur.core o) n then .next (s.park .scoreboard) else f o s) s

/-! ### Queues (R233, R378) -/

def HwQueue.slots (q : HwQueue) : Nat := 2 ^ q.logn.toNat
def HwQueue.size (q : HwQueue) : Nat := 64 * 2 ^ q.slotSz.toNat
/-- R378: indices count modulo twice the slots. -/
def HwQueue.bump (q : HwQueue) (i : BitVec 9) : BitVec 9 := BitVec.ofNat 9 ((i.toNat + 1) % (2 * q.slots))
def HwQueue.full (q : HwQueue) : Bool := decide (q.tokens.length ≥ q.slots)
def HwQueue.offset (q : HwQueue) (i : BitVec 9) : Nat := q.base.toNat * 256 + i.toNat % q.slots * q.size
/-- R378: the ring lies in LM. -/
def HwQueue.fits (q : HwQueue) : Bool := decide (q.base.toNat * 256 + q.slots * q.size ≤ Config.lmBytes)
/-- R378: enabled, with a ring in LM. -/
def HwQueue.open_ (q : HwQueue) : Bool := q.en && q.fits
def Core.queue (c : Core) (n : Nat) : HwQueue := vget c.queues n {}
def Core.setQueue (c : Core) (n : Nat) (q : HwQueue) : Core := { c with queues := vset c.queues n q }

/-- R379: an answer to the sender of a token. -/
def State.answerToken (s : State) (t : Token) (a : TokenAns) : State :=
  s.send (.core t.target) (if t.dev = s.devid.toNat then .core t.core else .dev t.dev) t.part .reply (.tokenReply t.req t.slot a)
/-- R240: strands of a core held in `QDEQ` on a queue look again. -/
def State.wakeDeq (s : State) (c q : Nat) : State :=
  (List.range 16).foldl (fun t k =>
    match (t.slotOf c k).st with | .parked (.qdeq n _) => if n = q then t.wake c k else t | _ => t) s
/-- R379: a token placed at the tail: its payload first, then the tail. -/
def State.placeToken (s : State) (c n : Nat) (t : Token) : State :=
  let q := (s.core c).queue n
  let u := s.writeAt (.lm c (q.offset q.tail)) t.bytes
  let u := u.setCore c ((u.core c).setQueue n
    { q with tail := q.bump q.tail, tokens := q.tokens ++ [(t.bytes.length, t.core, t.dev)] })
  (u.answerToken t .placed).wakeDeq c n
/-- R379: a freed slot goes to the oldest reservation. -/
def State.grantToken (s : State) (c n : Nat) : State :=
  let q := (s.core c).queue n
  match q.waiting with
  | t :: r => if q.full then s else (s.setCore c ((s.core c).setQueue n { q with waiting := r })).placeToken c n t
  | [] => s
/-- R379: the oldest token taken. -/
def State.takeToken (s : State) (c n : Nat) : State :=
  let q := (s.core c).queue n
  (s.setCore c ((s.core c).setQueue n { q with head := q.bump q.head, tokens := q.tokens.drop 1 })).grantToken c n
/-- R233, R378: a write of `QCFG`n by the privileged view. R233 says of a queue whose `EN` is cleared only that its tokens are discarded: the
model sets `HEAD` to `TAIL`, and refuses the reservations that wait on the queue at once (DESIGN CHOICE, log 32). -/
def State.writeQcfg (s : State) (c n : Nat) (v : W64) : State :=
  let q := (s.core c).queue n
  let logn := v.extractLsb' 4 4
  let sz := v.extractLsb' 2 2
  let set (q : HwQueue) : HwQueue :=
    { q with base := v.extractLsb' 8 10, cls := v.getLsbD 1
             logn := if logn = 0 ∨ logn.toNat > 8 then q.logn else logn
             slotSz := if sz = 3 then q.slotSz else sz }
  if q.en then
    if v.getLsbD 0 then s
    else
      let t := q.waiting.foldl (fun u w => u.answerToken w (.refused q.tail.toNat q.tail.toNat)) s
      (t.setCore c ((t.core c).setQueue n (set { q with en := false, head := q.tail, tokens := [], waiting := [] }))).wakeDeq c n
  else
    let p := set q
    s.setCore c ((s.core c).setQueue n
      (if v.getLsbD 0 ∧ p.logn ≠ 0 then { p with en := true, head := 0, tail := 0, tokens := [], waiting := [] } else p))
/-- R233: what a read of `QCFG`n gives. -/
def HwQueue.word (q : HwQueue) : W64 :=
  BitVec.ofNat 64 (q.tail.toNat * 2 ^ 48 + q.head.toNat * 2 ^ 32 + q.base.toNat * 256 + q.logn.toNat * 16 + q.slotSz.toNat * 4 +
    bit01 q.cls * 2 + bit01 q.en)

/-- R208: what the target NI asks of a token. -/
def State.tokenOk (s : State) (t : Token) : Bool :=
  let q := (s.core t.target).queue t.queue
  q.open_ && q.cls == t.msg && decide (t.bytes.length ≤ q.size) && (s.partn t.part).clusters.contains (clusterOf t.target) &&
    !(s.core t.target).fenced
/-- R379: a token reaches its queue. -/
def State.tokenArrive (s : State) (t : Token) : State :=
  let c := t.target
  let q := (s.core c).queue t.queue
  if !s.tokenOk t then s.answerToken t (.refused q.tail.toNat q.head.toNat)
  else if q.full || !q.waiting.isEmpty then
    if t.msg then s.answerToken t .full
    else if q.waiting.length ≥ 8 then s.answerToken t .retry
    else s.setCore c ((s.core c).setQueue t.queue { q with waiting := q.waiting ++ [t] })
  else s.placeToken c t.queue t
/-- R379: a reservation withdrawn at its limit. -/
def State.tokenWithdraw (s : State) (c n dev req : Nat) : State :=
  let q := (s.core c).queue n
  let mine (t : Token) : Bool := t.req == req && t.dev == dev
  match q.waiting.find? mine with
  | some t =>
    (s.setCore c ((s.core c).setQueue n { q with waiting := q.waiting.filter fun x => !mine x })).answerToken t
      (.expired q.tail.toNat q.head.toNat)
  | none => s
/-- R209, R379: the withdrawal of a token of this device. One that is no longer queued has been answered, or has gone with its queue's contents
(R286): the sender learns that its limit has passed, which an earlier answer makes void. -/
def State.meshWithdraw (s : State) (c n req : Nat) (p : Packet) : State :=
  let q := (s.core c).queue n
  if q.waiting.any fun t => t.req == req && t.dev == s.devid.toNat then s.tokenWithdraw c n s.devid.toNat req
  else s.send (.core c) p.src p.part .reply (.tokenReply req 0 (.expired q.tail.toNat q.head.toNat))

/-! ### The sender's side (R208 to R210, R379) -/

/-- R208: the fields of a queue handle. -/
structure Handle where
  dev : Nat
  core : Nat
  queue : Nat
deriving DecidableEq, Repr
def handleOf (v : W64) : Option Handle :=
  let n := v.toNat
  if field n 25 39 = 0 ∧ !bit n 3 ∧ field n 4 12 < Config.cores then some { dev := field n 16 9, core := field n 4 12, queue := field n 0 3 }
  else none
def Handle.bits (h : Handle) : Nat := h.dev * 2 ^ 16 + h.core * 16 + h.queue
def Token.handle (t : Token) : Handle := { dev := t.tdev, core := t.target, queue := t.queue }
/-- R209: `XVALUE` of cause `0x0A`. -/
def queueValue (refusal : Bool) (tail head handle : Nat) : W64 :=
  BitVec.ofNat 64 (bit01 refusal * 2 ^ 63 + tail % 512 * 2 ^ 48 + head % 512 * 2 ^ 32 + handle)

/-- R379: the requests of a core for one queue, oldest first. -/
def State.tokenReqs (s : State) (c : Nat) (h : Handle) : List Req :=
  (s.core c).reqs.filter fun r => match r.tok with | some t => t.handle == h | none => false
/-- The unit that holds a queue. -/
def State.queueNode (s : State) (h : Handle) : Node := if h.dev = s.devid.toNat then .core h.core else .dev h.dev
/-- R379: a held-back request of a core goes out once no earlier one for its queue is open. -/
def State.sendTokens (s : State) (c : Nat) (h : Handle) : State :=
  match s.tokenReqs c h with
  | r :: _ =>
    if r.unsent then
      match r.tok with
      | some t =>
        let u := s.setCore c { s.core c with reqs := (s.core c).reqs.map fun x => if x.id = r.id then { x with unsent := false } else x }
        u.send (.core c) (u.queueNode h) t.part .request (.token t)
      | none => s
    else s
  | [] => s
/-- R379, R397: a token leaves for its queue; its strand is parked for the answer. -/
def State.enqueue (s : State) (h : Handle) (bytes : List Byte) (pred : Option PR) (limit : Option Nat) : State :=
  let (id, t) := s.fresh
  let tok : Token := { dev := s.devid.toNat, tdev := h.dev, core := s.cur.core, part := s.cur.pre.part, target := h.core, queue := h.queue,
                       bytes, msg := pred.isSome, slot := s.cur.slot, req := id }
  let u := t.addReq { id, slot := s.cur.slot, sid := s.cur.pre.sid, dest := .none_, pred, tok := some tok, limit, unsent := true }
  (u.sendTokens s.cur.core h).holdForReply id (match limit with | some l => .qenq id l | none => .replies)
/-- R391, R397: a device the partition's tables join. -/
def State.joined (s : State) (dev : Nat) : Bool :=
  dev == s.devid.toNat || ((s.partn s.cur.pre.part).pmask != 0 && ((s.partn s.cur.pre.part).peerFor dev).isSome)
/-- R209: the bytes of a length code. -/
def lenBytes (l : BV3) : Nat := 8 * 2 ^ l.toNat
/-- R209, R146: the handle and the payload; the buffer bound to the target goes first. -/
def enqueueThen (a b : GR) (len : BV3) (f : Handle → List Byte → State → Res) (s : State) : Res :=
  match handleOf (s.g a) with
  | none => trapNow s 0x02 0
  | some h =>
    ownLmThen (s.g b) 8 (lenBytes len) (fun o s =>
      directThen (some (s.queueNode h)) (f h (s.readAt (.lm s.cur.core o) (lenBytes len))) s) s
/-- R209: the tail and head of a queue as cause `0x0A` reports them where no answer of the queue gives them; those of another device's
queue, which the spec does not say the core learns, are free values (log 3). -/
def State.queueState (s : State) (h : Handle) : Nat × Nat × State :=
  if h.dev = s.devid.toNat then
    let q := (s.core h.core).queue h.queue
    (q.tail.toNat, q.head.toNat, s)
  else
    let (v, t) := s.draw
    (field v.toNat 0 9, field v.toNat 9 9, t)
/-- R209: the queue of an unreachable device is refused at once. -/
def refuseNow (h : Handle) (s : State) : Res :=
  let (tl, hd, t) := s.queueState h
  trapNow t 0x0A (queueValue true tl hd h.bits)
def qenqOp (a b c : GR) (len : BV3) (s : State) : Res :=
  enqueueThen a b len (fun h bs s =>
    if s.joined h.dev then .next (s.enqueue h bs none (some (s.issueCycle + (s.g c).toNat))) else refuseNow h s) s
def execQenq (a b c : GR) (pg : PR) (len : BV3) (s : State) : Res := strandOp (.qenq a b c pg len) s (qenqOp a b c len)
def qtryOp (a b : GR) (c : PR) (len : BV3) (s : State) : Res :=
  enqueueThen a b len (fun h bs s =>
    if s.joined h.dev then .next (s.enqueue h bs (some c) none) else .next (s.setP c false)) s
def execQtry (a b : GR) (c pg : PR) (len : BV3) (s : State) : Res := strandOp (.qtry a b c pg len) s (qtryOp a b c len)

/-- R209: the word a dequeue leaves. -/
def tokenWord (t : Nat × Nat × Nat) : W64 := BitVec.ofNat 64 (t.1 + t.2.1 * 2 ^ 16 + t.2.2 * 2 ^ 28)
/-- R209, R210: the oldest token is copied to LM, then leaves the queue. -/
def dequeue (a b : GR) (n : Nat) (t : Nat × Nat × Nat) (k : State → State) (s : State) : Res :=
  let q := (s.core s.cur.core).queue n
  ownLmThen (s.g b) 8 t.1 (fun o s =>
    let u := s.writeAt (.lm s.cur.core o) (s.readAt (.lm s.cur.core (q.offset q.head)) t.1)
    .next (k ((u.takeToken s.cur.core n).setG a (tokenWord t)))) s
/-- R209, R234. The rule gives no order between the refusal of a queue that is disabled or of the other class and the traps of b: the
alignment and own-LM checks of b come first (DESIGN CHOICE, log 32). -/
def qdeqOp (a b c : GR) (n : BV3) (s : State) : Res :=
  let q := (s.core s.cur.core).queue n.toNat
  let own : Nat := { dev := s.devid.toNat, core := s.cur.core, queue := n.toNat : Handle }.bits
  let limit := s.issueCycle + (s.g c).toNat
  ownLmAt (s.g b) 8 8 (fun _ s =>
    if !q.open_ || q.cls then trapNow s 0x0A (queueValue true q.tail.toNat q.head.toNat own)
    else match q.tokens with
      | t :: _ => dequeue a b n.toNat t id s
      | [] =>
        if s.now ≥ limit then trapNow s 0x0A (queueValue false q.tail.toNat q.head.toNat own)
        else .next (s.park (.qdeq n.toNat limit))) s
def execQdeq (a b c : GR) (pg : PR) (q : BV3) (s : State) : Res := strandOp (.qdeq a b c pg q) s (qdeqOp a b c q)
def qpollOp (a b : GR) (c : PR) (n : BV3) (s : State) : Res :=
  let q := (s.core s.cur.core).queue n.toNat
  ownLmAt (s.g b) 8 8 (fun _ s =>
    if !q.open_ || !q.cls then .next (s.setP c false)
    else match q.tokens with
      | t :: _ => dequeue a b n.toNat t (fun u => u.setP c true) s
      | [] => .next (s.setP c false)) s
def execQpoll (a b : GR) (c pg : PR) (q : BV3) (s : State) : Res := strandOp (.qpoll a b c pg q) s (qpollOp a b c q)

/-! ### Answers to a token (R209, R210, R379) -/

def State.reqOf? (s : State) (c id : Nat) : Option Req := (s.core c).req id
/-- R152, R210: a request that answers with its predicate. -/
def State.settlePred (s : State) (c : Nat) (r : Req) (b : Bool) : State :=
  let t := s.dropReq c r.id
  let x := t.strandOf c r.slot
  (t.setStrandOf c r.slot (match r.pred with | some p => x.setPred p b | none => x)).settled c r.slot r.id
def State.tokenAnswer (s : State) (c id : Nat) (a : TokenAns) : State :=
  match (s.core c).req id with
  | none => s
  | some r =>
    match r.tok with
    | none => s
    | some tok =>
      let h := tok.handle
      let t := match a with
        | .placed => s.settlePred c r true
        | .full => s.settlePred c r false
        | .retry => s.setSlot c r.slot { s.slotOf c r.slot with
            st := .parked (.qenqRetry id (s.cycle c + 64) (r.limit.getD 0)) }
        | .refused tl hd =>
          if r.pred.isSome then s.settlePred c r false else s.lateTrap c r.slot 0x0A (queueValue true tl hd h.bits)
        | .expired tl hd => s.lateTrap c r.slot 0x0A (queueValue false tl hd h.bits)
      t.sendTokens c h

/-- R209, R379: a core's packet: the token at its queue, or the withdrawal of a reservation. -/
def execQueueTokenArrive (id : Nat) (s : State) : Res :=
  match s.takeArrived id with
  | none => .next s
  | some (p, t) =>
    match p.dst, p.body with
    | .core _, .token tok => .next (t.tokenArrive tok)
    | .core c, .tokenWithdraw q req => .next (t.meshWithdraw c q req p)
    | _, _ => .next s
/-- R379: the source NI sends a `QENQ` again. -/
def execQenqRetry (core slot : Nat) (s : State) : Res := onCore core (slot < 16) s (
  match (s.slotOf core slot).st with
  | .parked (.qenqRetry id at_ limit) =>
    if s.cycle core < at_ then .next s
    else match (s.core core).req id with
      | some { tok := some tok, .. } =>
        .next ((s.setSlot core slot { s.slotOf core slot with st := .parked (.qenq id limit) }).send (.core core)
          (s.queueNode tok.handle) tok.part .request (.token tok))
      | _ => .next s
  | _ => .next s)
/-- R209, R379: the limit of a queue wait has come. -/
def execQueueWaitExpire (core slot : Nat) (s : State) : Res := onCore core (slot < 16) s (
  match (s.slotOf core slot).st with
  | .parked (.qdeq _ limit) => .next (if s.cycle core < limit then s else s.wake core slot)
  | .parked (.qenqRetry id _ limit) =>
    if s.cycle core < limit then .next s
    else match (s.core core).req id with
      | some { tok := some tok, .. } => let (tl, hd, t) := s.queueState tok.handle; .next (t.tokenAnswer core id (.expired tl hd))
      | _ => .next s
  | .parked (.qenq id limit) =>
    if s.cycle core < limit then .next s
    else match (s.core core).req id with
      | some r =>
        (match r.tok with
          | some tok =>
            if r.unsent then
              let (tl, hd, t) := s.queueState tok.handle
              .next (t.tokenAnswer core id (.expired tl hd))
            else if r.withdrawn then .next s
            else
              let t := s.setCore core { s.core core with
                reqs := (s.core core).reqs.map fun x => if x.id = id then { x with withdrawn := true } else x }
              .next (t.send (.core core) (t.queueNode tok.handle) tok.part .request (.tokenWithdraw tok.queue id))
          | none => .next s)
      | none => .next s
  | _ => .next s)

/-! ### Writes of a queue's register (R233, R378) -/

def execQcfgEnable (core : Nat) (q : BV3) (val : W64) (s : State) : Res :=
  if core ≥ Config.cores then .fault .noSuchUnit else .next (s.writeQcfg core q.toNat (val ||| 1))
def execQcfgDisable (core : Nat) (q : BV3) (val : W64) (s : State) : Res :=
  if core ≥ Config.cores then .fault .noSuchUnit else .next (s.writeQcfg core q.toNat (val &&& ~~~1))

/-! ### Calls (R211, R212, R255) -/

/-- R211: the four arguments. -/
def State.args4 (s : State) (c : GR) : List W64 := [s.g c, s.g (c + 1), s.g (c + 2), s.g (c + 3)]
/-- R211, R213: the destination of a reply is marked empty, and a request for it recorded; `g0` discards the reply. -/
def State.expectReply (s : State) (d : GR) : Nat × State :=
  let (id, t) := s.fresh
  if d = 0 then (id, t)
  else (id, (t.markDest id (.g d 8 false)).addReq { id, slot := s.cur.slot, sid := s.cur.pre.sid, dest := .g d 8 false })
/-- R255: the call setting of a strand's job. -/
def State.callSetting (s : State) (x : Strand) : Nat := match x.job with | some n => (s.job n).callSize | none => 256
/-- R255: what a callee takes from the caller's job; a caller without a job gives its own. -/
def State.callJob (s : State) (x : Strand) : JobSet := match x.job with | some n => s.jobSet n | none => { agage := x.agage, hbi := x.hbi }
/-- R211, R255: a call of the bundle. -/
def State.callOf (s : State) (b c : GR) (id : Nat) : Call :=
  let x := s.cur.pre
  let js := s.callJob x
  { caller := { dev := s.devid.toNat, core := s.cur.core, slot := s.cur.slot, req := id }, part := x.part, job := x.job
    psize := s.callSetting x, agage := js.agage, hbi := js.hbi, entry := s.g b, args := s.args4 c }
def callatOp (d b c : GR) (s : State) : Res :=
  let target := ((s.g (b + 1)).extractLsb' 0 12).toNat
  if (s.g (b + 1)).extractLsb' 12 52 ≠ 0 ∨ target ≥ Config.cores then trapNow s 0x02 0
  else
    directThen (some (.core target)) (fun t =>
      let (id, t) := t.expectReply d
      .next (t.send (.core s.cur.core) (.core target) s.cur.pre.part .request (.call (s.callOf b c id)))) s
def execCallat (d b c : GR) (pg : PR) (s : State) : Res := strandOp (.callat d b c pg) s (callatOp d b c)
/-- R364: calls that come to an NI in one cycle are placed in ascending order of their callers' cores. -/
def Call.before (q x : Call) : Bool := decide (q.came = x.came) && decide (q.caller.core < x.caller.core)
def putCall (q : Call) (l : List Call) : List Call := (l.takeWhile fun x => !q.before x) ++ q :: l.dropWhile fun x => !q.before x
/-- R211, R255, R286, R364: a call at its target; one that finds 64 entries is refused, or the last of those that came with it is. A call of
a job in a final state has been stopped with it (R285). For a target that is both fenced and in another partition R211 gives no order of
reasons: the model answers 6 (DESIGN CHOICE, log 32). -/
def State.callArrive (s : State) (c : Nat) (r : Call) : State :=
  let q := { r with came := s.cycle c }
  let refuse (x : Call) (n : Nat) (t : State) : State := t.replyCall (.core c) x.part x.caller (refusal n)
  let calls := (s.core c).calls
  if (s.core c).fenced then refuse q 6 s
  else if (match q.job with | some n => (s.job n).final | none => false) then s
  else if !((s.partn q.part).clusters.contains (clusterOf c)) then refuse q 2 s
  else if calls.length < 64 then s.setCore c { s.core c with calls := putCall q calls }
  else match calls.getLast? with
    | some x => if q.before x then refuse x 1 (s.setCore c { s.core c with calls := (putCall q calls).dropLast }) else refuse q 1 s
    | none => refuse q 1 s
def execCallArrive (id : Nat) (s : State) : Res :=
  match s.takeArrived id with
  | some ({ dst := .core c, body := .call q, .. }, t) => .next (t.callArrive c q)
  | _ => .next s
/-- R212: `RETV`. -/
def retvOp (a : GR) (s : State) : Res :=
  releaseThen .pk (deferred fun s =>
    match s.cur.pre.role with
    | .callee c => .next ((s.replyCall (.core s.cur.core) s.cur.pre.part c ((s.g a) &&& ~~~((1 : W64) <<< 63))).flow .endStrand)
    | _ => trapNow s 0x02 0) s
def execRetv (a : GR) (pg : PR) (s : State) : Res := strandOp (.retv a pg) s (retvOp a)
/-- R211, R213: the reply of a call or handler fills its destination, wherever the strand now is. R256 does not say what becomes of one that
comes while the strand departs, or is in a migration packet or an inbox: the model fills the register of the travelling strand (DESIGN
CHOICE, log 5). -/
def State.callReply (s : State) (c id : Nat) (v : W64) : State :=
  match (s.core c).req id with
  | none => s
  | some r =>
    let bs := leBytes 8 v.toNat
    let t := (s.dropReq c id).pushLoaded id r.dest bs
    let fill (x : Strand) : Strand := x.deliver r.dest bs false
    match t.findStrand r.sid with
    | none => t.modTravelling r.sid fill
    | some (n, k) =>
      let u := (t.setStrandOf n k (fill (t.strandOf n k))).fillPre n { r with slot := k } bs false
      if (t.slotOf n k).st = .parked .depart then u.modTravelling r.sid fill else u
def execCallReply (id : Nat) (s : State) : Res :=
  match s.takeArrived id with
  | some ({ dst := .core c, body := .callReply req _ v, .. }, t) => .next (t.callReply c req v)
  | _ => .next s

/-! ### Triggers of Phlox handlers (R213, R382) -/

/-- R324: the physical address of a location of this device, or of another. -/
def State.paOf (s : State) : Loc → Option Nat
  | .hbm _ o => some (s.devid.toNat * 2 ^ 43 + o)
  | .dev pa => some pa
  | _ => none
/-- R213: an address whose location has no home slice is an access the device does not allow: `0x08` (DESIGN CHOICE, log 31). -/
def amsgOp (d : Option GR) (b c : GR) (s : State) : Res :=
  let idx := s.g (b + 1)
  if idx.extractLsb' 6 58 ≠ 0 then trapNow s 0x02 0
  else located .load (s.g b) 1 (fun l _ s =>
    match s.paOf l with
    | none => trapNow s 0x08 (s.g b)
    | some pa =>
      directThen (some (s.home l)) (fun t =>
        let (id, t) := match d with | some r => t.expectReply r | none => (0, t)
        let trig : PhloxTrig :=
          { dev := s.devid.toNat, core := s.cur.core, slot := s.cur.slot, part := s.cur.pre.part, req := d.map fun _ => id, pa
            index := field idx.toNat 0 6, args := s.args4 c }
        .next (t.send (.core s.cur.core) (s.home l) s.cur.pre.part .request (.amsg trig))) s) s
def execAmsg (b c : GR) (pg : PR) (s : State) : Res := strandOp (.amsg b c pg) s (amsgOp none b c)
def execAmsgRet (d b c : GR) (pg : PR) (s : State) : Res := strandOp (.amsgRet d b c pg) s (amsgOp (some d) b c)

end Sys2Proof.Machine
end

