-- ==== Sys2Proof/Machine/ControlRegs.lean ====
section
/-!
DEFINITION. The control registers: reads, writes and exchanges by strands, and the writes that act (04_opcode_map.md R93; 08 R230 to
R233; 00 R4; 05 R105; 12 R284).
-/
namespace Sys2Proof.Machine
open Sys2Proof

/-! ### Reads (R230 to R233) -/

/-- R231. -/
def Fcsr.word (f : Fcsr) : W64 :=
  BitVec.ofNat 64 (f.seed.toNat * 2 ^ 32 + bit01 f.ovf * 2 ^ 13 + f.fen.toNat * 2 ^ 8 + f.frm.toNat * 2 ^ 5 + f.fflags.toNat)
/-- R232. -/
def Strand.xstat (x : Strand) : W64 :=
  BitVec.ofNat 64 ((match x.borrow with | some b => b.slot % 16 * 2 ^ 12 + 2 ^ 11 | none => 0) + bit01 x.x.lv * 4 + bit01 x.x.pf * 2 +
    bit01 x.x.pp)
/-- R230: the value of control register `n` for a strand in a slot, by its view. -/
def State.crRead (s : State) (core slot : Nat) (x : Strand) (n : CRNum) : W64 :=
  let cl := clusterOf core
  match n.toNat with
  | 0x000 => x.fcsr.word
  | 0x010 => x.loop0.cnt.setWidth 64
  | 0x011 => x.loop0.beg.setWidth 64
  | 0x012 => x.loop0.fin.setWidth 64
  | 0x013 => x.loop1.cnt.setWidth 64
  | 0x014 => x.loop1.beg.setWidth 64
  | 0x015 => x.loop1.fin.setWidth 64
  | 0x016 => x.repc.setWidth 64
  | 0x020 => x.valloc.setWidth 64
  | 0x030 => BitVec.ofNat 64 slot
  | 0x031 => BitVec.ofNat 64 (core % 16)
  | 0x032 => BitVec.ofNat 64 (cl % 48)
  | 0x033 => BitVec.ofNat 64 (dieOf cl)
  | 0x034 => s.devid.setWidth 64
  | 0x035 => BitVec.ofNat 64 x.part
  | 0x040 => s.gtime
  | 0x041 => x.hbi.setWidth 64
  | 0x042 => x.agage.setWidth 64
  | 0x100 => if x.priv then x.x.cause else 0
  | 0x101 => if x.priv then x.x.value else 0
  | 0x102 => if x.priv then x.x.pc else 0
  | 0x103 => if x.priv then x.xstat else 0
  | 0x104 => if x.priv then x.x.vec else 0
  | 0x105 => if x.priv then x.x.scratch else 0
  | m => if 0x050 ≤ m ∧ m ≤ 0x057 then ((s.core core).queue (m - 0x050)).word else 0

/-! ### Writes -/

/-- R231: what a write of `FCSR` leaves. -/
def Fcsr.write (f : Fcsr) (v : W64) : Fcsr :=
  let frm := v.extractLsb' 5 3
  { seed := seedOf (v.extractLsb' 32 32), ovf := v.getLsbD 13, fen := v.extractLsb' 8 5
    frm := if frm = 6 ∨ frm = 7 then f.frm else frm, fflags := v.extractLsb' 0 5 }
/-- R284: a write of `HBI` starts the interval anew. -/
def Strand.setHbi (x : Strand) (v : W64) : Strand := { x with hbi := v.setWidth 32, hbc := v.setWidth 32, hbNew := true }
/-- R230, R75: a write of `AGAGE`; the age trigger of this cycle has looked at the old one. -/
def Strand.setAgage (x : Strand) (v : W64) : Strand :=
  { x with agage := clampAge (field v.toNat 0 13), agageOld := some (x.agageOld.getD x.agage) }
/-- R230, R232: a register of the strand written by its view; a field the view makes read-only keeps its value. -/
def Strand.crWrite (x : Strand) (priv : Bool) (n : CRNum) (v : W64) : Strand :=
  match n.toNat with
  | 0x000 => { x with fcsr := x.fcsr.write v }
  | 0x010 => { x with loop0 := { x.loop0 with cnt := v.setWidth 32 } }
  | 0x011 => { x with loop0 := { x.loop0 with beg := v.setWidth 57 } }
  | 0x012 => { x with loop0 := { x.loop0 with fin := v.setWidth 57 } }
  | 0x013 => { x with loop1 := { x.loop1 with cnt := v.setWidth 32 } }
  | 0x014 => { x with loop1 := { x.loop1 with beg := v.setWidth 57 } }
  | 0x015 => { x with loop1 := { x.loop1 with fin := v.setWidth 57 } }
  | 0x016 => { x with repc := v.setWidth 32 }
  | 0x041 => if priv then x.setHbi v else x
  | 0x042 => if priv then x.setAgage v else x
  | 0x100 => if priv then { x with x := { x.x with cause := v } } else x
  | 0x101 => if priv then { x with x := { x.x with value := v } } else x
  | 0x102 => if priv then { x with x := { x.x with pc := v } } else x
  | 0x103 => if priv then { x with x := { x.x with lv := v.getLsbD 2, pf := v.getLsbD 1, pp := v.getLsbD 0 } } else x
  | 0x104 => if priv then { x with x := { x.x with vec := v } } else x
  | 0x105 => if priv then { x with x := { x.x with scratch := v } } else x
  | _ => x
/-- R230: a write by the strand that issues. -/
def State.crWrite (s : State) (n : CRNum) (v : W64) : State :=
  let m := n.toNat
  if 0x050 ≤ m ∧ m ≤ 0x057 then (if s.cur.pre.priv then s.writeQcfg s.cur.core (m - 0x050) v else s)
  else s.modStrand fun x => x.crWrite s.cur.pre.priv n v
/-- R54, R105: the value from before the bundle. -/
def State.crOld (s : State) (n : CRNum) : W64 := s.crRead s.cur.core s.cur.slot s.cur.pre n

def execCrrd (d : GR) (pg : PR) (n : CRNum) (s : State) : Res := strandOp (.crrd d pg n) s fun s => .next (s.setG d (s.crOld n))
def execCrwr (a : GR) (pg : PR) (n : CRNum) (s : State) : Res := strandOp (.crwr a pg n) s fun s => .next (s.crWrite n (s.g a))
def execCrswp (d a : GR) (pg : PR) (n : CRNum) (s : State) : Res :=
  strandOp (.crswp d a pg n) s fun s => .next ((s.setG d (s.crOld n)).crWrite n (s.g a))

/-! ### The same writes as steps of the device -/

/-- A strand in a slot, where there is one. -/
def State.onStrand (s : State) (core slot : Nat) (f : Strand → Strand) : Res :=
  if core ≥ Config.cores ∨ slot ≥ Config.slots then .fault .noSuchUnit
  else match (s.slotOf core slot).st with
    | .ready | .waiting _ | .parked _ => .next (s.setStrandOf core slot (f (s.strandOf core slot)))
    | _ => .next s
def execFcsrWrite (core slot : Nat) (val : W64) (s : State) : Res := s.onStrand core slot fun x => x.crWrite x.priv 0x000 val
def execHbiWrite (core slot : Nat) (val : W64) (s : State) : Res := s.onStrand core slot fun x => x.crWrite true 0x041 val
def execAgageWrite (core slot : Nat) (val : W64) (s : State) : Res := s.onStrand core slot fun x => x.crWrite true 0x042 val

end Sys2Proof.Machine
end

