-- ==== Sys2Proof/Machine/Fences.lean ====
section
/-!
DEFINITION. Fences, flushing of aggregation buffers, TLB invalidation and cache control (06_isa_control_memory.md R156 to R161; 08
R228, R229; 17 R323, R329; 22 R393).
-/
namespace Sys2Proof.Machine
open Sys2Proof

/-! ### Byte ranges of the global space -/

/-- R157, R229: the location of an address under a translation that allows any access. -/
def State.anyLoc (s : State) (who : Actor) (va : W64) : Option Loc :=
  [Kind.load, .store, .fetch].findSome? fun k => match s.translateNow who k va with | .ok l _ => some l | _ => none
/-- The parts of a range of generic addresses that lie in HBM or slice memory: partition, first offset, end. -/
def State.globalParts (s : State) (who : Actor) (a n : Nat) : List (Nat × Nat × Nat) :=
  (List.range ((a + n + 4095) / 4096 - a / 4096)).filterMap fun i =>
    let page := (a / 4096 + i) * 4096
    let lo := max a page
    let hi := min (a + n) (page + 4096)
    match s.anyLoc who (BitVec.ofNat 64 lo) with
    | some (.hbm p o) => if lo < hi ∧ hi ≤ 2 ^ 64 then some (p, o, o + (hi - lo)) else none
    | _ => none
/-- The cache lines that overlap such parts. -/
def inParts (l : List (Nat × Nat × Nat)) : Nat → Nat → Bool :=
  fun part pa => l.any fun r => r.1 == part && decide (r.2.1 < pa + 64) && decide (pa < r.2.2)

/-! ### Fences (R156, R157) -/

/-- R156: bits of the mask: ll, ls, sl, ss. -/
def releases (mask : BV4) : Bool := mask.getLsbD 2 || mask.getLsbD 3
def acquires (mask : BV4) : Bool := mask.getLsbD 0 || mask.getLsbD 2
/-- R393: the other devices that hold unacknowledged accesses of the strand. -/
def State.openDevs (s : State) : List Nat :=
  let c := s.core s.cur.core
  ((c.reqs.filterMap fun r => match r.isWrite && r.slot == s.cur.slot, r.acc with
      | true, some a => (match a.loc with | .dev pa => some (pa / 2 ^ 43) | _ => none)
      | _, _ => none) ++
    (c.sent.filterMap fun p => match p.dest with
      | .dev d => if p.elems.any fun e => e.1.slot == s.cur.slot then some d else none
      | _ => none)).eraseDups
/-- R393: a fence marker to each of them that has none on the way. -/
def State.markers (s : State) : State :=
  s.openDevs.foldl (fun t d =>
    if (t.core t.cur.core).reqs.any fun r => r.slot == t.cur.slot && r.marker == some d then t
    else
      let (id, u) := t.fresh
      (u.addReq { id, slot := u.cur.slot, sid := u.cur.pre.sid, dest := .none_, marker := some d }).send
        (.core u.cur.core) (.dev d) u.cur.pre.part .request (.marker id)) s
/-- R393: the strand's markers that are still out. -/
def State.markersOut (s : State) : Bool :=
  (s.core s.cur.core).reqs.any fun r => r.slot == s.cur.slot && r.marker.isSome
/-- R156, R153: atomics that give no value back, which count as loads too, are sent and awaited: those of the strand that `sel` takes. -/
def State.atomicsOpen (s : State) (elem : AggElem × Nat → Bool) (req : Access → Bool) : Bool :=
  let c := s.core s.cur.core
  let mine (e : AggElem × Nat) : Bool := e.1.slot == s.cur.slot && e.1.op.isSome && elem e
  (c.aggs.toList.any fun b => b.elems.any mine) || (c.sent.any fun p => p.elems.any mine) ||
  c.reqs.any fun r => r.isWrite && r.slot == s.cur.slot &&
    (match r.acc with | some a => (match a.kind with | .atomic _ _ _ _ => req a | _ => false) | none => false)
def atomicsThen (sc : Scope) (elem : AggElem × Nat → Bool) (req : Access → Bool) (k : State → Res) (s : State) : Res :=
  let t := s.aggPushAll s.cur.core .release fun b => b.elems.any fun e => e.1.slot == s.cur.slot && e.1.op.isSome && elem e
  if sc != .core && t.atomicsOpen elem req then .next (t.park .acks) else k (if sc = .core then s else t)
/-- R156, R393: the release part of a fence. -/
def fenceRelease (sc : Scope) (k : State → Res) (s : State) : Res :=
  if sc = .sy then
    let t := (s.flushStrand s.cur.core s.cur.slot).markers
    if t.markersOut then .next (t.park .acks) else releaseThen sc k t
  else releaseThen sc k s
/-- R156. -/
def fenceOp (mask : BV4) (sc : Scope) (s : State) : Res :=
  let finish : State → Res := deferred fun s => .next (if acquires mask then s.cacheAcquire s.cur.core sc else s)
  if releases mask then fenceRelease sc finish s
  else if mask = 0 then finish s
  else atomicsThen sc (fun _ => true) (fun _ => true) finish s
def execFence (mask : BV4) (pg : PR) (sc : Scope) (s : State) : Res := strandOp (.fence mask pg sc) s (fenceOp mask sc)

/-- R157: an element of the strand in the range. -/
def elemIn (slot a n : Nat) (e : AggElem × Nat) : Bool := e.1.slot == slot && meets e.1.issued.toNat e.1.size a n
/-- R157: accesses of the strand in the range that are still to be acknowledged. -/
def State.rangeOpen (s : State) (a n : Nat) : Bool :=
  let c := s.core s.cur.core
  (c.aggs.toList.any fun b => b.elems.any (elemIn s.cur.slot a n)) ||
  (c.sent.any fun p => p.elems.any (elemIn s.cur.slot a n)) ||
  (c.reqs.any fun r => r.isWrite && r.slot == s.cur.slot &&
    match r.acc with | some x => meets x.va.toNat x.size a n | none => false)
/-- R157: the lines of the range are those of its pages whatever privilege they ask for: other strands' accesses have brought some of them
into the caches (DEDUCED, log 30). -/
def fencerOp (ra rb : GR) (mask : BV4) (sc : Scope) (s : State) : Res :=
  let a := (s.g ra).toNat
  let n := (s.g rb).toNat
  let last := a + n - 1
  if n = 0 then deferred (fun s => .next s) s
  else if last ≥ 2 ^ 57 ∨ last / 2 ^ 52 ≠ a / 2 ^ 52 then trapNow s 0x02 0
  else
    let sel (s : State) : Nat → Nat → Bool := inParts (s.globalParts { s.actor with priv := true } a n)
    let finish : State → Res := deferred fun s =>
      .next (match acquires mask, sc with
        | false, _ | _, .core => s
        | true, .cl => s.cacheAcquire s.cur.core .cl
        | true, _ => (s.invCore s.cur.core (sel s)).pastLeases s.cur.core)
    if releases mask && sc != .core then
      let t := s.aggPushAll s.cur.core .release fun b => b.elems.any (elemIn s.cur.slot a n)
      let t := if sc = .sy then t.markers else t
      if t.rangeOpen a n || (sc == .sy && t.markersOut) then .next (t.park .acks)
      else
        let u := if Scope.wide sc then (t.wbCore t.cur.core (sel t)).markRelease t.cur.core true else t.markRelease t.cur.core false
        if Scope.wide sc && u.writesWait u.cur.pre.part then .next u.tryAgain else finish u
    else if mask = 0 then finish s
    else atomicsThen sc (elemIn s.cur.slot a n) (fun x => meets x.va.toNat x.size a n) finish s
def execFencer (a b : GR) (mask : BV4) (pg : PR) (sc : Scope) (s : State) : Res :=
  strandOp (.fencer a b mask pg sc) s (fencerOp a b mask sc)

/-- R158: the core's code lines are discarded. -/
def execIfence (pg : PR) (s : State) : Res :=
  strandOp (.ifence pg) s fun s => .next (s.setCore s.cur.core { s.core s.cur.core with l1i := [] })

/-! ### TLB invalidation (R159, R228, R329) -/

/-- The cores of a scope around a core, in a partition. -/
def State.scopeCores (s : State) (core part : Nat) (sc : Scope) : List Nat :=
  match sc with
  | .core => [core]
  | .cl => coresOf (clusterOf core)
  | _ => (s.partn part).clusters.flatMap coresOf
/-- R228: the translations an invalidation drops: those of the page at an address, or all of the partition. -/
def dropTlb (part : Nat) (va : Option Nat) (t : List TlbEntry) : List TlbEntry :=
  t.filter fun e => !(match va with | some a => e.covers part a | none => e.part == part)
/-- R329: an access that used a translation, as it is found again until it is performed. -/
def Packet.uses (p : Packet) : List TlbUse :=
  match p.src, p.body with
  | .core c, .access a => [{ id := p.id, core := c }, { id := a.req, core := c, key := some (.req a.req) }]
  | .slice _, .access a => [{ id := p.id, core := a.core }, { id := a.req, core := a.core }]
  | .core c, .agg _ _ => [{ id := p.id, core := c, key := some (.agg c p.seq) }]
  | _, _ => []
/-- R228, R329: the translations of a page, or all, go from the TLBs of a scope; the accesses under way that used them are noted. -/
def State.invalidate (s : State) (va : Option Nat) (sc : Scope) : State :=
  let part := s.cur.pre.part
  let cores := s.scopeCores s.cur.core part sc
  let t := cores.foldl (fun u c =>
    if (u.core c).l1tlb.isEmpty then u else u.setCore c { u.core c with l1tlb := dropTlb part va (u.core c).l1tlb }) s
  let cls := match sc with
    | .core => []
    | .cl => [clusterOf s.cur.core]
    | _ => (s.partn part).clusters
  let t := cls.foldl (fun u c =>
    if (u.cluster c).tlb.isEmpty then u else u.setCluster c { u.cluster c with tlb := dropTlb part va (u.cluster c).tlb }) t
  let t := if Scope.wide sc then (s.partn part).slices.foldl (fun u c =>
      if (u.slice c).tlb.isEmpty then u else u.setSlice c { u.slice c with tlb := dropTlb part va (u.slice c).tlb }) t
    else t
  let waiting := (t.slices.flatMap fun e => e.2.fills.map fun f => { id := f.1.req, core := f.1.core : TlbUse }) ++
    (t.retry.map fun w => { id := w.2.acc.req, core := w.2.acc.core }) ++
    cores.flatMap fun c => (t.core c).reqs.filterMap fun r => match r.acc with
      | some { kind := .line, .. } => some { id := r.id, core := c }
      | _ => none
  let out := t.fabOpen.filterMap fun e => match e.2 with
    | .req id => (t.cores.find? fun c => (c.2.req id).isSome).map fun c => { id, core := c.1, key := some e.2 : TlbUse }
    | .agg c _ => some { id := 0, core := c, key := some e.2 }
  let uses := ((t.onTheWay ++ t.fabOut.map (·.pkt)).flatMap Packet.uses ++ waiting ++ out).filter fun u => cores.contains u.core
  t.modStrand fun x => { x with tlbWait := x.tlbWait ++ uses }
/-- R159: how far a scope of an invalidation reaches. -/
def Scope.reach : Scope → Nat | .core => 0 | .cl => 1 | _ => 2
/-- R228. -/
def tlbinvOp (a : GR) (sc : Scope) (s : State) : Res :=
  let va := if a = 0 then none else some (s.g a).toNat
  .next ((s.invalidate va sc).modStrand fun x =>
    { x with tlbInvs := (x.tlbInvs.filter fun e => e.1 != va) ++ if Scope.wide sc then [] else [(va, sc)] })
def execTlbinv (a : GR) (pg : PR) (sc : Scope) (s : State) : Res := strandOp (.tlbinv a pg sc) s (tlbinvOp a sc)

/-- R329: an access is still to be performed: its packet is on the way, it waits for a fill or for the line of a load, which is performed at
the cluster cache (R344), or another device has not answered it. -/
def State.inUse (s : State) (u : TlbUse) : Bool :=
  (match (s.core u.core).req u.id with | some { acc := some { kind := .line, .. }, .. } => true | _ => false) ||
  (s.onTheWay.any fun p => p.id == u.id || (match p.src, p.body with
    | .core _, .access a | .slice _, .access a => a.req == u.id
    | _, _ => false)) || (s.retry.any fun w => w.2.acc.req == u.id) || (s.slices.any fun e => e.2.fills.any fun f => f.1.req == u.id) ||
  (s.fabOut.any fun f => f.pkt.id == u.id) || (match u.key with | some k => s.fabOpen.any fun e => e.2 == k | none => false)
/-- R159: the accesses of a scope's cores that used dropped translations are done. -/
def State.drained (s : State) (core : Nat) (sc : Scope) (x : Strand) : Bool :=
  let cores := s.scopeCores core x.part sc
  !(x.tlbWait.any fun u => cores.contains u.core && s.inUse u)
/-- R159: the strand's earlier `TLBINV`s that have not reached a scope are performed at it. -/
def State.widenInvs (s : State) (sc : Scope) : State :=
  let l := s.strand.tlbInvs.filter fun e => decide (Scope.reach e.2 < Scope.reach sc)
  if l.isEmpty then s
  else (l.foldl (fun t e => t.invalidate e.1 sc) s).modStrand fun x =>
    { x with tlbInvs := if Scope.wide sc then [] else x.tlbInvs.map fun e => if Scope.reach e.2 < Scope.reach sc then (e.1, sc) else e }
def fenceTlOp (sc : Scope) (s : State) : Res :=
  let s := s.widenInvs sc
  if s.drained s.cur.core sc s.strand then
    deferred (fun s => .next (s.modStrand fun x => { x with tlbWait := x.tlbWait.filter s.inUse })) s
  else .next (s.park (.tlb sc))
def execFenceTl (pg : PR) (sc : Scope) (s : State) : Res := strandOp (.fenceTl pg sc) s (fenceTlOp sc)

/-! ### Flushing and waiting on aggregation (R160, R161) -/

/-- R160: the address is translated as a store's, since it names what a store there would be aggregated for (DESIGN CHOICE, log 22). -/
def agfOp (a : GR) (s : State) : Res :=
  let t :=
    if a = 0 then s.aggPushAll s.cur.core .agf fun _ => true
    else match s.translateNow s.actor .store (s.g a) with
      | .ok l at_ =>
        (match s.aggDest s.cur.core l at_ true with
          | some d => s.aggPushAll s.cur.core .agf fun b => b.bound d
          | none => s)
      | _ => s
  deferred (fun s => .next s) t
def execAgf (a : GR) (pg : PR) (s : State) : Res := strandOp (.agf a pg) s (agfOp a)
def execAgw (pg : PR) (s : State) : Res := strandOp (.agw pg) s (aggWaitThen (deferred fun s => .next s))

/-! ### Cache control (R229, R323) -/

/-- R229: the dirty bytes of a range go from the own L1D and the cluster cache to their homes. -/
def State.cacheWb (s : State) (core : Nat) (sel : Nat → Nat → Bool) : State :=
  let cl := clusterOf core
  let t := ((s.core core).l1d.filter fun e => sel e.part e.pa).foldl (fun u e =>
    let v := u.l1Flush core e
    v.setCore core { v.core core with l1d := l1Put (v.core core).l1d { e with dirty := 0 } }) s
  ((t.cluster cl).cc.filter fun e => sel e.part e.pa).foldl (fun u e =>
    let v := u.writeBack cl e.part e.pa e.dirty e.data
    v.setCluster cl { v.cluster cl with cc := ccPut (v.cluster cl).cc { e with dirty := 0, owners := 0 } }) t
/-- R229: lines of the cluster cache, and of the own L1D where `own`, go without a write back; another core's Exclusive line
writes its own dirty bytes home. A fill in flight serves its access and is not kept (R342). -/
def State.cacheDrop (s : State) (core : Nat) (own : Bool) (sel : Nat → Nat → Bool) : State :=
  let cl := clusterOf core
  let t := if own then s.setCore core { s.core core with l1d := (s.core core).l1d.filter fun e => !sel e.part e.pa } else s
  let gone := (t.cluster cl).cc.filter fun e => sel e.part e.pa
  let t := t.setCluster cl { t.cluster cl with
    cc := (t.cluster cl).cc.filter fun e => !sel e.part e.pa
    mts := gone.foldl (fun m e => max m e.rts) (t.cluster cl).mts }
  (gone.foldl (fun u e => u.recall cl e.part e.pa none) t).dropFills cl fun _ => sel
/-- R229: the line at an address is asked for, for the cluster cache; one that is held, or whose walk cannot be made, is not. -/
def State.prefetchLine (s : State) (va : Nat) : State :=
  let who := s.actor
  let cl := clusterOf who.core
  match s.translateNow who .load (BitVec.ofNat 64 va) with
  | .ok (.hbm p o) a =>
    if !a.cached || s.walkHeld who .load (BitVec.ofNat 64 va) || (ccFind (s.cluster cl).cc p (lineOf o) a.slot).isSome then s
    else
      let t := (s.walkNow who .load (BitVec.ofNat 64 va)).dropOtherSlot cl p (lineOf o) a.slot
      (t.askHome who t.token .line (.hbm p o) 64 (BitVec.ofNat 64 va) a.slot).2
  | _ => s
/-- R229: the lines of a range are asked for, and come to the cluster cache as a load's line does, with no strand waiting. -/
def State.prefetch (s : State) (a n : Nat) : State :=
  (List.range ((a + n + 63) / 64 - a / 64)).foldl (fun t i => t.prefetchLine ((a / 64 + i) * 64)) s
inductive RangeOp where | wb | inv | wbinv | pf
deriving DecidableEq, Repr
def cctlRange (o : RangeOp) (ra rb : GR) (s : State) : Res :=
  let a := (s.g ra).toNat
  let n := (s.g rb).toNat
  let sel := inParts (s.globalParts s.actor a n)
  let c := s.cur.core
  .next (match o with
    | .wb => s.cacheWb c sel
    | .inv => s.cacheDrop c true sel
    | .wbinv => (s.cacheWb c sel).cacheDrop c true sel
    | .pf => s.prefetch a n)
def execCctlWb (a b : GR) (pg : PR) (s : State) : Res := strandOp (.cctlWb a b pg) s (cctlRange .wb a b)
def execCctlInv (a b : GR) (pg : PR) (s : State) : Res := strandOp (.cctlInv a b pg) s (cctlRange .inv a b)
def execCctlWbinv (a b : GR) (pg : PR) (s : State) : Res := strandOp (.cctlWbinv a b pg) s (cctlRange .wbinv a b)
def execCctlPrefetch (a b : GR) (pg : PR) (s : State) : Res := strandOp (.cctlPrefetch a b pg) s (cctlRange .pf a b)
/-- R92: the whole L1D. -/
def State.l1WbAll (s : State) (core : Nat) : State :=
  (s.core core).l1d.foldl (fun u e =>
    let v := u.l1Flush core e
    v.setCore core { v.core core with l1d := l1Put (v.core core).l1d { e with dirty := 0 } }) s
def execCctlWbL1d (pg : PR) (s : State) : Res := strandOp (.cctlWbL1d pg) s fun s => .next (s.l1WbAll s.cur.core)
def execCctlInvCc (pg : PR) (s : State) : Res :=
  strandOp (.cctlInvCc pg) s fun s => .next (s.cacheDrop s.cur.core false everyLine)

/-- R339, R323: a range of keys set to zero and full. -/
def State.scrub (s : State) (lo hi : Nat) : State :=
  { s with
    mem := s.mem.filter fun e => !(decide (lo ≤ e.1) && decide (e.1 < hi))
    fe := s.fe.filter fun w => !(decide (lo / 8 ≤ w) && decide (w < hi / 8)) }
/-- R323: a cluster's cache gets another size. -/
def State.resizeCc (s : State) (cl : Nat) (code : BV2) : State :=
  let t := s.flushCluster cl
  let old := Config.csmBytes - ccBytes (t.cluster cl).ccCode
  let new := Config.csmBytes - ccBytes code
  let lost (w : Node × Waiter) : Bool :=
    match w.2.acc.loc with | .csm c o => c == cl && decide (new ≤ o) | _ => false
  let t := (t.retry.filter lost).foldl (fun u w => u.answer w.1 w.2.src w.2.acc .busy) t
  let t := { t with retry := t.retry.filter fun w => !lost w }
  let t := t.scrub (Loc.csm cl (min old new)).key (Loc.csm cl (max old new)).key
  t.setCluster cl { t.cluster cl with ccCode := code }
def cctlSetOp (a : GR) (s : State) : Res :=
  if (s.g a).toNat > 3 then trapNow s 0x02 0
  else .next (s.resizeCc (clusterOf s.cur.core) ((s.g a).setWidth 2))
def execCctlSetCc (a : GR) (pg : PR) (s : State) : Res := strandOp (.cctlSetCc a pg) s (cctlSetOp a)

end Sys2Proof.Machine
end

