-- ==== Sys2Proof/Machine/Tasks.lean ====
section
/-!
DEFINITION. Tasks: frames, the deque, fork, join and end of a task, and the waits on the engines (08_isa_engines_tasks.md R191, R202,
R207, R214 to R218; 10 R246, R247, R251).
-/
namespace Sys2Proof.Machine
open Sys2Proof

/-! ### Waits on the engines (R202, R207) -/

/-- R207: transfer-engine commands of a strand with a tag that `sel` takes. -/
def State.teOpen (s : State) (core sid : Nat) (sel : BV3 → Bool) : Bool := (s.core core).teQueue.any fun c => c.sid == sid && sel c.tag
/-- R202: matrix-engine commands of a strand that are not complete. -/
def State.meOpen (s : State) (core sid : Nat) : Bool := ((s.core core).meQueue ++ (s.core core).meLate).any fun c => c.sid == sid
def teWaitThen (sel : BV3 → Bool) (k : State → Res) (s : State) : Res :=
  if s.teOpen s.cur.core s.cur.pre.sid sel then .next (s.park .teDone) else k s
def meWaitThen (k : State → Res) (s : State) : Res :=
  if s.meOpen s.cur.core s.cur.pre.sid then .next (s.park .meDone) else k s
/-- R207, R278: the faulted commands waited for are reported, and their state cleared. -/
def teReport (sel : BV3 → Bool) (k : State → Res) (s : State) : Res :=
  let f := s.strand.teFaulted
  let hit := (List.range 8).filter fun i => f.getLsbD i && sel (BitVec.ofNat 3 i)
  if hit.isEmpty || s.cur.pre.priv then k s
  else trapNow (s.modStrand fun x => { x with teFaulted := hit.foldl (fun w i => setBit8 w i false) x.teFaulted }) 0x0E logAddr
/-- R191, R278. -/
def meReport (k : State → Res) (s : State) : Res := if s.strand.meFault && !s.cur.pre.priv then trapNow s 0x0D logAddr else k s
def TSel.takes : TSel → BV3 → Bool | .tag t, u => t == u | .all, _ => true
def execTwait (sel : TSel) (pg : PR) (s : State) : Res :=
  strandOp (.twait sel pg) s (teWaitThen (TSel.takes sel) (teReport (TSel.takes sel) fun s => .next s))

/-! ### Memory as tasks read it -/

/-- R344: a doubleword that the own core or cluster has at once, as a load of the core reads it. -/
def State.nearDw (s : State) (l : Loc) (a : PageAttr) : Option (List Byte × State) :=
  let core := s.cur.core
  match l with
  | .hbm p o =>
    let pa := o / 64 * 64
    if !a.cached then none
    else match s.l1Hit core p pa a.slot with
      | some line => some (takeBytes line (o % 64) 8, s)
      | none =>
        match ccFind (s.cluster (clusterOf core)).cc p pa a.slot with
        | none => none
        | some _ =>
          let t := s.lease core p pa a.slot
          some (takeBytes (((l1Find (t.core core).l1d p pa a.slot).map fun e => e.data).getD []) (o % 64) 8, t)
  | _ => if l.near core then some (s.readAt l 8, (s.bankAt l 8).nearTime core) else none
/-- An access that a held bundle makes, and whose answer is kept with the slot (R142). -/
def holdAccess (k : AccKind) (l : Loc) (n : Nat) (va : W64) (kslot : Nat) (s : State) : Res :=
  let (id, t) := s.fresh
  let x := t.accessOf id k l n va kslot
  .next (((t.addReq (t.reqOf id .held x)).toHome x).park .replies)
/-- R273, R142: a doubleword read as a load: one that comes with a reply is kept with the slot, and the bundle is issued again. -/
def readDw (va : W64) (k : List Byte → State → Res) (s : State) : Res :=
  match (s.slotOf s.cur.core s.cur.slot).reads.lookup va with
  | some bs => k bs s
  | none => reach .load va 8 8 (fun l a => afterHeld [(l, a)] 8 fun s =>
      match s.nearDw l a with
      | some (bs, t) => k bs t
      | none =>
        holdAccess (match l with | .hbm _ _ => if a.cached then .line else .load | _ => .load) l 8 va a.slot (match l with
          | .hbm p o => if a.cached then s.dropOtherSlot (clusterOf s.cur.core) p (o / 64 * 64) a.slot else s
          | _ => s)) s
/-- R273: doublewords read as loads, in ascending order; the first that fails traps with its address. -/
def readDws (va : W64) : Nat → (List Byte → State → Res) → State → Res
  | 0, k, s => k [] s
  | n + 1, k, s => readDw va (fun b s => readDws (va + 8) n (fun bs s => k (b ++ bs) s) s) s

/-! ### The deque (R246) -/

def ringBase : Nat := 0x20000
def State.ringLoc (core i : Nat) : Loc := .lm core (ringBase + i % ringSlots * 32)
/-- The entry in a ring slot, as its bytes stand. -/
def State.ringEntry (s : State) (core i : Nat) : DequeEntry :=
  let l := State.ringLoc core i
  { pc := s.readW l, frame := s.readW (l.add 8), counter := s.readW (l.add 16), tiles := s.readW (l.add 24) }
def State.writeEntry (s : State) (core i : Nat) (e : DequeEntry) : State :=
  let l := State.ringLoc core i
  (((s.writeW l e.pc).writeW (l.add 8) e.frame).writeW (l.add 16) e.counter).writeW (l.add 24) e.tiles
/-- R246: the oldest NI entry moved to the ring's tail. -/
def State.spillOldest (s : State) (core : Nat) : State :=
  match (s.core core).deque with
  | [] => s
  | e :: r =>
    let t := s.writeEntry core ((s.core core).ringHead + (s.core core).ringCount) e
    t.setCore core { t.core core with deque := r, ringCount := (t.core core).ringCount + 1 }
/-- R246: a push at the tail; true where it spilled. R247 does not say whose the deque of a core is on which no job of the pusher is placed, as
where a task strand has migrated outside its job's clusters: the pusher's job owns it from then on (DESIGN CHOICE, log 32). -/
def State.pushDeque (s : State) (core : Nat) (job : Option Nat) (e : DequeEntry) : State × Bool :=
  let spill := decide ((s.core core).deque.length ≥ 64)
  let t := if spill then s.spillOldest core else s
  (t.setCore core { t.core core with deque := (t.core core).deque ++ [e], dequeJob := job }, spill)
/-- R246: a pop at the tail. -/
def State.popDeque (s : State) (core : Nat) : Option (DequeEntry × State) :=
  let c := s.core core
  match c.deque.getLast? with
  | some e => some (e, s.setCore core { c with deque := c.deque.dropLast })
  | none =>
    if c.ringCount = 0 then none
    else some (s.ringEntry core (c.ringHead + c.ringCount - 1), s.setCore core { c with ringCount := c.ringCount - 1 })
/-- R246: a steal at the head. -/
def State.stealDeque (s : State) (core : Nat) : Option (DequeEntry × State) :=
  let c := s.core core
  if c.ringCount ≠ 0 then
    some (s.ringEntry core c.ringHead, s.setCore core { c with ringHead := (c.ringHead + 1) % ringSlots, ringCount := c.ringCount - 1 })
  else match c.deque with
    | e :: r => some (e, s.setCore core { c with deque := r })
    | [] => none

/-! ### Frames and join counters (R214) -/

/-- R214: the space of an address that must name own LM or the private window. -/
def lmSpace (va : W64) : Bool := va.extractLsb' 52 12 == 0x01C || va.extractLsb' 52 12 == 0x01D
/-- R214, R217: the header's address: `0x02`, `0x09`, `0x08`. -/
def headerThen (va : W64) (f : Nat → State → Res) (s : State) : Res :=
  if !lmSpace va then trapNow s 0x02 0 else ownLmThen va 64 64 f s
def ownLmAddr (off : Nat) : W64 := BitVec.ofNat 64 (0x1D * 2 ^ 52 + off)
/-- R214: a tile of a header or tile list. -/
structure TileRef where
  off : Nat
  size : Nat
def tileOf (w : W64) : TileRef := { off := (w.extractLsb' 0 32).toNat, size := (w.extractLsb' 32 32).toNat }
def TileRef.bad (t : TileRef) : Bool := t.off % 64 != 0 || t.size % 64 != 0 || decide (t.off + t.size > Config.lmBytes)
def State.tilesAt (s : State) (core off : Nat) : List TileRef := (List.range 4).map fun i => tileOf (s.readW (.lm core (off + 8 * i)))
/-- R214: the tile list of `FRAME`, whose address must name own LM or the private window. The spec gives no cause for one that does not:
`0x02` for another space, `0x08` for an address outside the LM, as for the header (DESIGN CHOICE, log 32). -/
def tilesThen (va : W64) (f : List Byte → State → Res) (s : State) : Res :=
  if va = 0 then f (List.replicate 32 0) s
  else if !lmSpace va then trapNow s 0x02 0
  else ownLmThen va 8 32 (fun o s =>
    if (s.tilesAt s.cur.core o).any TileRef.bad then trapNow s 0x02 0 else f (s.readAt (.lm s.cur.core o) 32) s) s
/-- R214: the space of a counter's address. -/
def csmSpace (va : W64) : Bool := va.extractLsb' 52 12 == 0x01F
/-- R214: the counter's address. -/
def counterThen (va : W64) (f : Loc → PageAttr → State → Res) (s : State) : Res :=
  if !csmSpace va then trapNow s 0x02 0
  else if va.toNat % 8 ≠ 0 then trapNow s 0x09 va
  else match s.translate s.actor .store va with
    | .ok l a => f l a s
    | _ => trapNow s 0x08 va
/-- R214 to R217: the step at a located counter. It follows the accesses of the strand to its bytes and the buffers of its destination (R146,
R346, R351). A counter of the own LM or cluster is reached at once, another by a request; the answer says what the step found. -/
def ctrStep (o : CtrOp) (va : W64) (f : W64 → Bool → State → Res) (l : Loc) (a : PageAttr) (s : State) : Res :=
  afterHeld [(l, a)] 8 (directThen (s.aggDest s.cur.core l a true) fun s =>
    let s := s.homeFirst s.cur.core l
    if l.near s.cur.core then
      let t := match l with | .csm cl off => (s.takeBank cl off s.issueCycle).2 | _ => s
      let (u, w, full) := (t.nearTime s.cur.core).ctrAt o l s.cur.core s.cur.slot
      f w full u
    else holdAccess (.ctr o) l 8 va a.slot (s.setSlot s.cur.core s.cur.slot { s.slotOf s.cur.core s.cur.slot with spawning := o == .spawn })) s
/-- R214 to R217: such a step, or what its answer said. -/
def ctrKept (o : CtrOp) (va : W64) (f : W64 → Bool → State → Res) (l : Loc) (a : PageAttr) (s : State) : Res :=
  match (s.slotOf s.cur.core s.cur.slot).reads.lookup va with
  | some bs => f (ctrAnswer bs).1 (ctrAnswer bs).2 s
  | none => ctrStep o va f l a s

/-- R214: a tile list that can be read and holds an entry that breaks a limit. -/
def State.badTiles (s : State) (va : W64) : Bool :=
  va != 0 && va.toNat % 8 == 0 && (match s.ownLmRange s.actor va 32 with | some o => (s.tilesAt s.cur.core o).any TileRef.bad | none => false)
/-- R56, R214: the operand stage of `FRAME`, before its alignments and its translations. -/
def State.frameBad (s : State) (b c : GR) : Bool :=
  !lmSpace (s.g b) || !csmSpace (s.g c) || (s.g (c + 1) != 0 && !lmSpace (s.g (c + 1)))
/-- R205: a transfer-engine command holds the tile list. -/
def State.tilesHeld (s : State) (va : W64) : Bool :=
  match s.ownLmRange s.actor va 32 with | some o => va != 0 && s.teHolds s.cur.core (.lm s.cur.core o) 32 | none => false
def frameOp (a b c : GR) (s : State) : Res :=
  if s.frameBad b c then trapNow s 0x02 0
  else if s.tilesHeld (s.g (c + 1)) then .next (s.park .scoreboard)
  else if s.badTiles (s.g (c + 1)) then trapNow s 0x02 0
  else
  headerThen (s.g b) (fun o => counterThen (s.g c) fun l at_ => tilesThen (s.g (c + 1)) fun tiles s =>
    ctrKept (.frame o (leBytes 8 (s.g c).toNat ++ List.replicate 24 0 ++ tiles)) (s.g c)
      (fun _ _ s => .next (s.setG a (ownLmAddr o))) l at_ s) s
def execFrame (a b c : GR) (pg : PR) (s : State) : Res := strandOp (.frame a b c pg) s (frameOp a b c)

/-- R215 to R217: a step at a counter at the unit that keeps it: CSM, or another memory of the device. One on another device, in host
memory or in a register takes the access fault: the spec gives `FRAME` only CSM counters and no cause for these (DESIGN CHOICE, log 29). -/
def ctrThen (o : CtrOp) (va : W64) (f : W64 → Bool → State → Res) (s : State) : Res :=
  match (s.slotOf s.cur.core s.cur.slot).reads.lookup va with
  | some bs => f (ctrAnswer bs).1 (ctrAnswer bs).2 s
  | none => located .store va 8 (fun l a s =>
    match l with
    | .host _ | .regs _ _ | .dev _ => trapNow s 0x08 va
    | _ => ctrStep o va f l a s) s
/-! ### Fork, join and end (R215 to R217, R251) -/

/-- R215: `SPAWN`. -/
def spawnOp (a b : GR) (s : State) : Res :=
  headerThen (s.g a) (fun o s =>
    if !(s.slotOf s.cur.core s.cur.slot).spawning && s.dequeFull s.cur.core s.cur.slot then trapNow s 0x12 (s.g a)
    else
      let ctr := s.readW (.lm s.cur.core o)
      ctrThen .spawn ctr (fun _ _ s =>
        let (u, spilled) := s.pushDeque s.cur.core s.cur.pre.job { pc := s.nextPc, frame := s.g a, counter := ctr, tiles := s.g a + 32, at_ := some o }
        jumpTo (s.g b) (if spilled then u.parkAfter (.spill (u.now + 16)) else u)) (s.nearTime s.cur.core)) s
def execSpawn (a b : GR) (pg : PR) (s : State) : Res := strandOp (.spawn a b pg) s (spawnOp a b)

/-- R216: a continuation runs on the strand, after the spill that its push made, if any (R246). -/
def runEntry (e : DequeEntry) (spilled : Bool) (s : State) : Res :=
  let t := (s.cacheAcquire s.cur.core .pk).setG 3 e.frame
  jumpTo e.pc (if spilled then t.parkAfter (.spill (t.now + 16)) else t)
/-- R216: `Resume`, with a continuation just moved here, if any: it is pushed at the tail and popped in one step (R246), which leaves a deque
that has filled since its `TEND` found a place as it was. -/
def resume (moved : Option DequeEntry) (s : State) : Res :=
  match moved with
  | some e =>
    if (s.core s.cur.core).dequeSize ≥ 64 + ringSlots then runEntry e false s else
    let (t, spilled) := s.pushDeque s.cur.core s.cur.pre.job e
    (match t.popDeque s.cur.core with
    | some (x, u) => runEntry x spilled u
    | none => .next t)
  | none =>
    if s.cur.pre.role.isTask && (s.core s.cur.core).dequeJob == s.cur.pre.job then
      match s.popDeque s.cur.core with
      | some (e, t) => runEntry e false t
      | none => .next (s.flow .endStrand)
    else match s.cur.pre.role with
      | .callee c => .next ((s.replyCall (.core s.cur.core) s.cur.pre.part c (refusal 5)).flow .endStrand)
      | _ => .next (s.flow .endStrand)
/-- R216, R286: bytes of another core's LM, read as a load: at once in the own cluster, else by a request. -/
def lmBytesThen (core off n : Nat) (k : List Byte → State → Res) (s : State) : Res :=
  if clusterOf core = clusterOf s.cur.core then
    if (s.core core).fenced then trapNow s 0x08 (lmAlias core off) else k (s.readAt (.lm core off) n) (s.nearTime s.cur.core)
  else match (s.slotOf s.cur.core s.cur.slot).reads.find? fun e => e.1 == lmAlias core off && e.2.length == n with
    | some e => k e.2 s
    | none => holdAccess .load (.lm core off) n (lmAlias core off) 0 s
/-- R216: a header and its tiles, one after the other, as bytes by LM offset. -/
def frameBytesThen (core : Nat) : List (Nat × Nat) → (List (Nat × List Byte) → State → Res) → State → Res
  | [], k, s => k [] s
  | (off, n) :: l, k, s =>
    if n = 0 then frameBytesThen core l k s
    else lmBytesThen core off n (fun bs s => frameBytesThen core l (fun img s => k ((off, bs) :: img) s) s) s
/-- R216: a tile as its header names it, within LM. -/
def TileRef.part (t : TileRef) : Nat × Nat := (t.off, min t.size (Config.lmBytes - t.off))
/-- R216: the suspended frame that a counter names: its header and tiles are copied to the same offsets of the own LM first, where they lie on
another core. -/
def movedEntry (w : W64) (k : DequeEntry → State → Res) (s : State) : Res :=
  let off := (w.extractLsb' 45 12).toNat * 64
  let src := (w.extractLsb' 33 12).toNat
  let entry (s : State) : DequeEntry :=
    let l := Loc.lm s.cur.core off
    { pc := s.readW (l.add 8), frame := ownLmAddr off, counter := s.readW l, tiles := ownLmAddr (off + 32), at_ := some off }
  if src = s.cur.core then k (entry s) s
  else lmBytesThen src off 64 (fun h s =>
    let tiles := (List.range 4).map fun i => (tileOf (BitVec.ofNat 64 (leNat ((h.drop (32 + 8 * i)).take 8)))).part
    frameBytesThen src tiles (fun img s =>
      let t := ((off, h) :: img).foldl (fun u e => u.writeAt (.lm u.cur.core e.1) e.2) (s.nearTime s.cur.core)
      k (entry t) t) s) s
/-- R216: what a counter held is kept with the slot while the frame that it names is read. -/
def State.keepAnswer (s : State) (va w : W64) : State :=
  let x := s.slotOf s.cur.core s.cur.slot
  s.setSlot s.cur.core s.cur.slot { x with reads := x.reads ++ [(va, ctrBytes w false)] }
/-- R216: `TEND`. -/
def tendOp (a : GR) (s : State) : Res :=
  teWaitThen (fun _ => true) (meWaitThen (releaseThen .pk
    (teReport (fun _ => true) (meReport (deferred fun s =>
      if a = 0 then resume none s
      else ctrThen .tend (s.g a) (fun w full s =>
        if full then trapNow s 0x12 (ownLmAddr ((w.extractLsb' 45 12).toNat * 64))
        else if ctrCount w = 1 ∧ ctrSuspended w then movedEntry w (fun e s => resume (some e) s) (s.keepAnswer (s.g a) w)
        else resume none s) s))))) s
def execTend (a : GR) (pg : PR) (s : State) : Res := strandOp (.tend a pg) s (tendOp a)

/-- R217: `SYNC`. -/
def syncTaskOp (a : GR) (s : State) : Res :=
  headerThen (s.g a) (fun o s =>
    ctrThen (.sync o s.nextPc) (s.readW (.lm s.cur.core o)) (fun w _ s =>
      if ctrCount w = 0 then .next (s.cacheAcquire s.cur.core .pk) else resume none s) (s.nearTime s.cur.core)) s
def execSync (a : GR) (pg : PR) (s : State) : Res := strandOp (.sync a pg) s (syncTaskOp a)

/-- R218: the regions of a list of pairs, up to the first of length 0. -/
def regionsOf : List Byte → Nat → List (Nat × Nat)
  | _, 0 => []
  | bs, n + 1 =>
    let len := leNat ((bs.drop 8).take 8)
    if len = 0 then [] else (leNat (bs.take 8), len) :: regionsOf (bs.drop 16) n
/-- R218: a list of up to 16 pairs at an address, read as loads up to the pair that ends it. -/
def readList (va : W64) : Nat → (List Byte → State → Res) → State → Res
  | 0, k, s => k [] s
  | n + 1, k, s =>
    readDws va 2 (fun bs s =>
      if leNat (bs.drop 8) = 0 then k [] s else readList (va + 16) n (fun r s => k (bs ++ r) s) s) s
/-- R218: the dirty lines of the listed regions are written back; a tile is a range of LM, so none of its lines is cached. -/
def publishOp (b : GR) (s : State) : Res :=
  if b = 0 then .next s
  else if (s.g b).toNat % 8 ≠ 0 then trapNow s 0x09 (s.g b)
  else readList (s.g b) 16 (fun bs s =>
    .next ((regionsOf bs 16).foldl (fun t r => t.cacheWb t.cur.core (inParts (t.globalParts t.actor r.1 r.2))) s)) s
def execPublish (a b : GR) (pg : PR) (s : State) : Res := strandOp (.publish a b pg) s (publishOp b)
/-- R246: the spill of an entry is written. -/
def execDequeSpillDone (core slot : Nat) (s : State) : Res := onCore core (slot < 16) s (
  match (s.slotOf core slot).st with
  | .parked (.spill t) => .next (if s.cycle core < t then s else s.wake core slot)
  | _ => .next s)

end Sys2Proof.Machine
end

