-- ==== Sys2Proof/Machine/Engine.lean ====
section
/-!
DEFINITION. What the matrix and the transfer engine share: accesses of an engine, which bypass the L1D (18_memory_model.md R344),
releases and acquires of a command (R353), and faults recorded for the strand that issued it (08 R191, R207; 12 R280 to R282).
-/
namespace Sys2Proof.Machine
open Sys2Proof

/-! ### Accesses of a command (R344, R368) -/

/-- What an access of a command comes to: performed, with the bytes read; under way; or a cause. -/
inductive EngStep where
  | done (s : State) (bs : List Byte)
  | wait (s : State) (io : EngIo)
  | fault (cause : Nat)

/-- The request of a command's access, sent to its home; `fill` for the line it needs, `read` where it is to read there. -/
def State.engAsk (s : State) (who : Actor) (id : Nat) (k : AccKind) (l : Loc) (n : Nat) (va : W64) (kslot : Nat) (fill read : Bool) : EngStep :=
  let (r, t) := s.askHome who id k l n va kslot
  .wait t { req := some r, fill, read }
/-- R286: a read or a sync access of an engine that the router of a fenced core answers with a fault. -/
def State.engRefused (s : State) (who : Actor) (k : AccKind) (l : Loc) : Bool :=
  match l, k with
  | _, .store _ | _, .nibble _ _ => false
  | .lm c _, _ => c != who.core && (s.core c).fenced
  | _, _ => false
/-- An access that the own core or cluster performs, at its bank (R242, R322). -/
def State.engNear (s : State) (who : Actor) (k : AccKind) (l : Loc) (n : Nat) : EngStep :=
  if s.engRefused who k l then .fault 0x08
  else match k with
  | .load => .done ((s.bankAt l n).nearTime who.core) (s.homeRead l n 0 0)
  | .sync o v _ => match s.syncAt o l v 0 0 with
    | some (t, _) => .done (((t.bankAt l n).nearTime who.core).retest (l.forward t).key (t.retry.length + 1)) []
    | none => .done (s.bankAt l n) []
  | k =>
    let u : Node := .core who.core
    .done (s.performAt u u { req := 0, kind := k, loc := l, size := n, va := 0, core := who.core, slot := 16, part := who.part }).1 []
/-- R344: an access to a line that the own cluster cache holds. -/
def State.engLine (s : State) (who : Actor) (k : AccKind) (p o : Nat) (kslot : Nat) (va : W64) (n : Nat) : EngStep :=
  let (t, line) := s.ccLine who.core p (o / 64 * 64) kslot va.toNat
  match k with
  | .store bs => .done (s.ccStore who.core p o kslot va.toNat bs) []
  | .nibble hi c => .done (t.ccStore who.core p o kslot va.toNat [putNibble hi c (line.getD (o % 64) 0)]) []
  | _ => .done t (takeBytes line (o % 64) n)
/-- R344: an access of an engine at its point of performance. A register is no memory that an engine reads or writes (log 29). -/
def State.engAt (s : State) (who : Actor) (id : Nat) (k : AccKind) (l : Loc) (a : PageAttr) (va : W64) (n : Nat) : EngStep :=
  if l.near who.core then s.engNear who k l n
  else match l with
    | .regs _ _ => .fault 0x08
    | .hbm p o =>
      if !a.cached || (match k with | .sync _ _ _ => true | _ => false) then s.engAsk who id k l n va a.slot false false
      else if (ccFind (s.cluster (clusterOf who.core)).cc p (o / 64 * 64) a.slot).isSome then s.engLine who k p o a.slot va n
      else (s.dropOtherSlot (clusterOf who.core) p (lineOf o) a.slot).engAsk who id .line l n va a.slot true (k == .load)
    | _ => s.engAsk who id k l n va a.slot false false
/-- R203, R353: an access of a command: answered, under way, or made now, its page translated as it is reached. -/
def State.engAccess (s : State) (who : Actor) (id : Nat) (io : EngIo) (kd : Kind) (k : AccKind) (va : W64) (n : Nat) : EngStep :=
  match io.req, io.res with
  | some _, none => .wait s io
  | some _, some (.data bs _) => .done s bs
  | some _, some (.fault c) => .fault c
  | some _, some _ => .done s []
  | none, _ =>
    match s.translateNow who kd va with
    | .fault c => .fault c
    | .miss => .fault kd.tcause
    | .ok l a => if s.walkHeld who kd va then .wait s io else (s.walkNow who kd va).engAt who id k l a va n

/-! ### Releases, acquires, waits (R144, R353) -/

/-- R144: the accesses of a strand are sent; true once nothing of it is unacknowledged. -/
def State.engQuiet (s : State) (sid : Nat) : State × Bool :=
  match s.findStrand sid with
  | none => (s, true)
  | some (c, k) => let t := s.flushStrand c k; (t, (t.strandOf c k).quiet)
/-- R353: the acquire of a command, once every earlier access of its strand is performed; false while it waits. -/
def State.engAcquire (s : State) (sid core : Nat) (sc : Scope) : State × Bool :=
  if sc = .core then (s, true)
  else
    let (t, ok) := s.engQuiet sid
    if ok then (t.cacheAcquire core sc, true) else (t, false)
/-- R144, R353: the release of a command whose writes are performed; false while it waits. -/
def State.engRelease (s : State) (sid core : Nat) (sc : Scope) : State × Bool :=
  if sc = .core then (s, true)
  else
    let (t, ok) := s.engQuiet sid
    if !ok then (t, false)
    else
      let u := t.cacheRelease core sc
      (u, !(Scope.wide sc && u.writesWait (u.partOf core)))
/-- R240: the strands of a core that wait as `h` says look again. -/
def State.wakeHeld (s : State) (c : Nat) (h : Hold) : State :=
  (List.range 16).foldl (fun t k => if (t.slotOf c k).st == .parked h then t.wake c k else t) s

end Sys2Proof.Machine
end

