-- ==== Sys2Proof/Machine/Mesh.lean ====
section
/-!
DEFINITION. Packets on the mesh and into the fabric, and what cores and clusters do by themselves: replies, aggregation packets, sync
waits, walks, clocks, arriving strands, fenced cores (06_isa_control_memory.md R147, R148, R152; 10 R256; 12 R281, R282, R286; 17
R328, R333; 20 R367 to R377; 22 R391 to R395; 24 R422, R423).
-/
namespace Sys2Proof.Machine
open Sys2Proof

/-! ### The partition's fault area (R423) -/

def State.lastingFault (s : State) (part : Nat) (w0 w1 : W64) : State :=
  let p := s.partn part
  let n := field p.lfcnt.toNat 0 5
  if n < 16 then s.setPartn part { p with lfrecs := vset p.lfrecs n { w0, w1 }, lfcnt := p.lfcnt + 1 }
  else s.setPartn part { p with lfcnt := p.lfcnt ||| 0x100 }

/-- R324: the PA of an offset of this device. -/
def State.ownPa (s : State) (off : Nat) : W64 := BitVec.ofNat 64 (s.devid.toNat * 2 ^ 43 + off)
/-- R423: the kind of a read's lasting fault: a line held in slice SRAM, or a page of HBM. -/
def State.readKind (s : State) (part off : Nat) : W64 :=
  if off ≥ 2 ^ 41 ∨ (s.slice (s.homeSlice part off)).lines.any (fun l => l.1 == part && l.2.1 == lineOf off) then 2 else 1
/-- R422, R425: a transient fault counted in its island. -/
def State.transient (s : State) (i : Nat) : State :=
  { s with islands := vset s.islands i { vget s.islands i {} with ecnt := min 4095 ((vget s.islands i {}).ecnt + 1) } }

/-! ### Held packets (R372) -/

/-- R372: a packet on a failed route is held. -/
def State.routeFailed (s : State) (p : Packet) : Bool :=
  (p.src.route (p.chan == .escape) p.dst).any fun l => s.failed.contains l

/-! ### Into the fabric (R391, R392, R395) -/

def nget (l : List (Nat × Nat)) (k : Nat) : Nat := (l.lookup k).getD 0
def nset (l : List (Nat × Nat)) (k v : Nat) : List (Nat × Nat) := (l.filter fun e => e.1 != k) ++ [(k, v)]
/-- R374: bytes of a packet; one that is no aggregation packet is counted as one flit (log 16). -/
def Packet.bytes (p : Packet) : Nat := match p.body with | .agg es _ => 16 + 16 * es.length | _ => 64
/-- R392: the port in service of the partition's share with the fewest queued bytes; an answer from a partition without a share may
leave by any port. -/
def State.portFor (s : State) (part : Nat) : Option Nat :=
  let share := (s.partn part).pmask
  let up := (List.range 18).filter fun k => (share.getLsbD k || share == 0) && !s.portsDown.getLsbD k
  let load (k : Nat) : Nat := s.fabOut.foldl (fun t e => if e.port = k then t + e.pkt.bytes else t) 0
  up.foldl (fun m k => match m with | none => some k | some j => if load k < load j then some k else some j) none
/-- R393, R395: what acknowledges a packet for another device. -/
def Packet.key (p : Packet) : Option FabKey :=
  match p.body, p.src with
  | .access a, _ => some (.req a.req)
  | .token t, _ => some (.req t.req)
  | .marker r, _ => some (.req r)
  | .amsg t, _ => t.req.map .req
  | .agg _ _, .core c => some (.agg c p.seq)
  | _, _ => none
/-- R395: a request that travels in combining mode. -/
def Packet.combines (p : Packet) : Option (Access × W64) :=
  match p.body with
  | .access a => if a.comb then (match a.kind with | .atomic .add v _ _ => some (a, v) | _ => none) else none
  | _ => none
/-- The physical address an access to another device names. -/
def Loc.pa : Loc → Nat | .dev a => a | l => l.key
/-- R392: a packet that has reached the IOD leaves for another device; none while it has to wait. A combining `AADD` that is under way holds
back the device's requests (R395), and not its answers, which the other device may itself be waiting for (R388). -/
def State.egress (s : State) (p : Packet) (d : Nat) : Option State :=
  let tpart := if p.chan = .reply then none else (s.partn p.part).peerFor d
  if p.chan != .reply && s.switchBuf.any (fun x => x.dev == d && x.parts.any fun q => q.1.isSome) then none
  else
    let open_ (t : State) : State := match p.key with | some k => { t with fabOpen := t.fabOpen ++ [(d, k)] } | none => t
    match p.combines with
    | some (a, v) =>
      if s.fabOpen.any (fun e => e.1 == d) || s.fabOut.any (fun e => e.dev == d) then none
      else match s.portFor p.part with
        | none => none
        | some port =>
          let t := open_ s
          some { t with
            token := t.token + 1
            switchBuf := t.switchBuf ++
              [{ id := t.token, dev := d, pa := a.loc.pa, size := a.size, parts := [(some (a.core, a.req), v)], tpart, part := p.part, port }] }
    | none =>
      if (s.fabOut.filter fun e => e.dev == d).length ≥ 256 then none
      else match s.portFor p.part with
        | none => none
        | some port =>
          let q := nget s.fabSeq d
          let t := open_ s
          some { t with
            fabSeq := nset t.fabSeq d ((q + 1) % 65536)
            fabOut := t.fabOut ++ [{ dev := d, seq := q, port, tpart, pkt := p }] }
/-- R392, R395: the requests at the IOD for another device leave in the order in which they reached it, and so do the answers, as far as they
can. -/
def State.drainEgress (s : State) : Nat → State
  | 0 => s
  | n + 1 =>
    match s.arrived.findSome? (fun p =>
      match p.dst with
      | .dev d => if (s.arrived.find? fun q => q.dst == .dev d && (q.chan == .reply) == (p.chan == .reply)) = some p then (s.takeArrived p.id).bind fun x => x.2.egress x.1 d else none
      | _ => none) with
    | some t => t.drainEgress n
    | none => s
def State.toFabric (s : State) : State := s.drainEgress s.arrived.length

/-! ### Arrival in sequence (R370, R372) -/

/-- R370: packets of a pair that wait in the reorder buffer and whose turn has come. -/
def State.releaseHeld (s : State) (a b : Node) : Nat → State
  | 0 => s
  | n + 1 =>
    let q := seqOf s.recvSeq a b
    match s.reorder.find? fun p => p.src == a && p.dst == b && p.seq == q with
    | none => s
    | some p =>
      ({ s with reorder := s.reorder.filter (fun x => x.id != p.id), arrived := s.arrived ++ [p]
                recvSeq := seqSet s.recvSeq a b ((q + 1) % 65536) }).releaseHeld a b n
/-- R370: places of a reorder buffer: 32, of which 4 are for escape arrivals. -/
def State.reorderFull (s : State) (p : Packet) : Bool :=
  decide ((s.reorder.filter fun x => x.dst == p.dst).length ≥ if p.chan = .escape then 32 else 28)
/-- R18: the island of an end of a link: a router, a slice's port, a die's link end, the IOD. -/
def linkIsland (e : Nat) : Nat := if e < 192 then islandOf e else if e < 1000 then 16 else sliceIsland (e - 1000)
/-- R18, R424: an island that a packet's route passes is stopped. -/
def State.routeOff (s : State) (p : Packet) : Bool :=
  ((List.range 20).any s.islandOff) &&
  (p.src.router.toList ++ p.dst.router.toList ++ (p.src.route (p.chan == .escape) p.dst).flatMap fun l => [l.1, l.2]).any fun e => s.islandOff (linkIsland e)
def execMeshPacketArrive (id : Nat) (s : State) : Res :=
  match s.net.find? fun p => p.id == id with
  | none => .next s.toFabric
  | some p =>
    if s.routeFailed p || s.routeOff p then .next s
    else
      let t := { s with net := s.net.filter fun x => x.id != id }
      let q := seqOf s.recvSeq p.src p.dst
      if p.seq = q then
        .next (({ t with arrived := t.arrived ++ [p], recvSeq := seqSet t.recvSeq p.src p.dst ((q + 1) % 65536) }).releaseHeld p.src p.dst
          t.reorder.length).toFabric
      else if s.reorderFull p then .next s
      else .next { t with reorder := t.reorder ++ [p] }

/-- R369: the greatest age a packet can have: cycles since its NI sent it, in the island of a router of its route (log 16). -/
def State.packetAge (s : State) (p : Packet) : Nat :=
  let routers := (p.src.router.toList ++ (p.src.route false p.dst).map (·.2)).filter (· < 192)
  routers.foldl (fun m r => max m ((vget s.islands (islandOf r) {}).cycles - p.clocks.getD (islandOf r) 0)) 0
/-- R369, R372: a packet whose age has reached `DLT` goes on the escape channel, once the escape buffer of its router is free, which this
step stands for (log 16); one that a failed link holds stays. -/
def execEscapeDivert (id : Nat) (s : State) : Res :=
  .next { s with net := s.net.map fun p =>
    if p.id = id ∧ p.chan ≠ .escape ∧ s.packetAge p ≥ s.dlt.toNat ∧ s.routeFailed p = false then { p with chan := .escape } else p }

/-- R370: the units of a partition between which its packets travel. -/
def Partition.nodes (p : Partition) : List Node := .iod :: p.clusters.map .csm ++ p.slices.map .slice
/-- R367, R369, R372, R423: whether a partition's routes use a link, those of the escape channel among them. -/
def State.usesLink (s : State) (part : Nat) (l : Nat × Nat) : Bool :=
  let ns := (s.partn part).nodes
  [false, true].any fun esc => ns.any fun a => ns.any fun b => (a.route esc b).contains l
/-- R372, R422: a flit fails its CRC: a transient fault counts in the island of the sending end (DESIGN CHOICE, log 20, where the two ends
lie in different islands); where its resend fails too, the link is out of service, and every partition whose routes use it
gets a record. -/
def execLinkCrcFail (src dst : Nat) (again : Bool) (s : State) : Res :=
  .next (
    if !again then
      s.transient (linkIsland src)
    else if s.failed.contains (src, dst) then s
    else
      let t := { s with failed := s.failed ++ [(src, dst)] }
      t.parts.foldl (fun u e =>
        if e.2.exists_ && t.usesLink e.1 (src, dst) then
          (u.lastingFault e.1 (BitVec.ofNat 64 (src * 65536 + dst)) 3).lastingFault e.1 (BitVec.ofNat 64 (src * 65536 + dst)) 6
        else u) t)

/-! ### The layout of aggregation packets and their replies (R373, R374, R376) -/

/-- R373: the code of an operation; `ACAS` is never aggregated. -/
def aggCode : Option AOp → Nat
  | none => 0 | some .add => 1 | some .and => 2 | some .or => 3 | some .xor => 4 | some .min => 5 | some .max => 6 | some .minu => 7
  | some .maxu => 8 | some .swap => 9 | some .fadd => 10 | some .cas => 11
/-- R373: the operation of a code. -/
def aggOp (n : Nat) : Option AOp :=
  match n with
  | 1 => some .add | 2 => some .and | 3 => some .or | 4 => some .xor | 5 => some .min | 6 => some .max | 7 => some .minu
  | 8 => some .maxu | 9 => some .swap | 10 => some .fadd | _ => none
/-- R373: the two doublewords of an element. -/
def AggElem.words (e : AggElem) : Nat × Nat :=
  (aggCode e.op * 2 ^ 60 + Nat.log2 e.size * 2 ^ 58 + e.addr.toNat % 2 ^ 57,
   e.data.toNat % 2 ^ (8 * e.size) + if e.op = some .fadd then bit01 e.s * 2 ^ 32 else 0)
/-- R373: what a destination reads of an element: the operation, the size, the address, the data and the S. -/
def elemOfWords (w : Nat × Nat) : Option AOp × Nat × Nat × Nat × Bool :=
  let n := 2 ^ field w.1 58 2
  (aggOp (field w.1 60 4), n, field w.1 0 57, w.2 % 2 ^ (8 * n), field w.1 60 4 == 10 && bit w.2 32)
/-- R374: the kind and the number of a destination. -/
def Node.kindOf : Node → Nat × Nat | .core c => (0, c) | .slice n => (1, n) | .csm cl => (2, cl) | .dev d => (3, d) | .iod => (3, 0)
/-- R374: the code of a trigger. -/
def Trigger.code : Trigger → Nat | .size => 0 | .age => 1 | .agf => 2 | .release => 3 | .eviction => 4 | .direct => 5 | .switch_ => 6
/-- R374: the header of an aggregation packet of a core of device `dev`. -/
def aggHeader (dst : Node) (core dev n : Nat) (t : Trigger) (seq part : Nat) : Nat × Nat :=
  ((dst.kindOf).1 * 2 ^ 62 + (dst.kindOf).2 * 2 ^ 50 + core * 2 ^ 36 + dev * 2 ^ 27 + n * 2 ^ 21 + t.code * 2 ^ 16 + seq % 65536, part)
/-- R374: the flits of a packet of `n` elements. -/
def aggFlits (n : Nat) : Nat := (16 + 16 * n + 63) / 64
/-- R376: the reply flit: the number answered, the mask and the causes by element. -/
def aggReplyFlit (seq : Nat) (mask : W32) (causes : List Nat) : List Byte :=
  leBytes 8 (seq % 65536 * 2 ^ 48 + mask.toNat * 2 ^ 8 + if mask = 0 then 1 else 2) ++ leBytes 8 0 ++
  (List.range 48).map fun i => BitVec.ofNat 8 (causes.getD i 0)

/-! ### Aggregation packets (R147, R148, R374 to R377) -/

/-- R75: the least `AGAGE` of the strands in a buffer, as they stood at the start of the cycle. -/
def State.bufAge (s : State) (c : Nat) (b : AggBuf) : Nat :=
  (List.range 16).foldl (fun m k => if b.strands.getLsbD k then min m ((s.strandOf c k).agageOld.getD (s.strandOf c k).agage).toNat else m) 4096
/-- R75: the age trigger, evaluated at the start of a cycle: a buffer that an element of this cycle has joined is looked at in the next. -/
def State.ageDue (s : State) (c i : Nat) : Bool :=
  let b := vget (s.core c).aggs i {}
  b.dest.isSome && b.sending.isNone && decide (b.first = s.cycle c ∨ b.joined < s.cycle c) && decide (s.cycle c ≥ b.first + s.bufAge c b)
def execAggAgeSend (core buf : Nat) (s : State) : Res :=
  onCore core (buf < 16) s (.next (if s.ageDue core buf then s.aggPush core buf .age else s))
/-- R375: the buffer that has waited longest for a place. -/
def Core.sendingBuf (c : Core) : Option (Nat × Trigger) :=
  ((List.range 16).foldl (fun m i =>
    let b := vget c.aggs i {}
    match b.sending, m with
    | some t, none => some (i, t)
    | some t, some (j, u) => if b.first < (vget c.aggs j {}).first then some (i, t) else some (j, u)
    | none, m => m) none)
def execAggSendResume (core : Nat) (s : State) : Res :=
  onCore core true s (.next (
    if (s.core core).sent.length ≥ 64 then s
    else match (s.core core).sendingBuf with
      | some (b, t) => ((s.aggSend core b t).getD s).wakeHeld core .send
      | none => s.wakeHeld core .send))

/-- The location of a key. -/
def locOfKey (k : Nat) : Loc :=
  if k < 2 ^ 51 then .hbm (k / 2 ^ 44) (k % 2 ^ 44)
  else if k < 2 ^ 52 then .host (k - 2 ^ 51)
  else if k < 2 ^ 53 then .lm ((k - 2 ^ 52) / 2 ^ 18) (k % 2 ^ 18)
  else if k < 2 ^ 54 then .csm ((k - 2 ^ 53) / 2 ^ 21) (k % 2 ^ 21)
  else if k < 2 ^ 55 then .regs ((k - 2 ^ 54) / 2 ^ 44) (k % 2 ^ 44)
  else .dev (k - 2 ^ 55)
/-- R329: the translation a slice uses: held by it, or walked and then held. The spec gives that cache no size: 1,024 entries (DESIGN
CHOICE, log 7). -/
def State.sliceEntry (s : State) (n part va : Nat) : Option TlbEntry × State :=
  match tlbFind (s.slice n).tlb part va with
  | some e => (some e, s)
  | none =>
    let s := s.noteWalk (.slice n) part va
    match s.walk part va with
    | some e => (some e, s.setSlice n { s.slice n with tlb := tlbAdd (s.slice n).tlb 1024 e })
    | none => (none, s)
/-- R148, R377: an element validated at its destination: its location, or a cause. A private window lies where its key says (log 17). -/
def State.elemLoc (s : State) (dst : Node) (part : Nat) (e : AggElem) (key : Nat) : State × Except Nat Loc :=
  let va := e.addr.toNat
  if va % e.size ≠ 0 then (s, .error 0x09)
  else match dst with
    | .slice n =>
      let (r, t) := s.sliceEntry n part va
      (t, match r with
        | none => .error 0x07
        | some x =>
          match s.paLoc part (x.pa + va % 2 ^ x.lg) with
          | none => .error 0x08
          | some l => if x.denies s .store true then .error 0x08 else if s.home l = dst then .ok l else .error 0x07)
    | .iod =>
      (s, match s.offLoc part (va % 2 ^ 43) with
        | some (.hbm p o) => if s.isRetired p o || (s.partn p).isMarked o then .error 0x08 else .ok (.hbm p o)
        | some (.host a) => if e.op.isSome then .error 0x08 else .ok (.host a)
        | _ => .error 0x08)
    | _ =>
      if field va 52 5 = 0x1C then (s, .ok (locOfKey key))
      else (s, match s.window { part } .store va with
        | some (.ok l _) => .ok l
        | some (.fault c) => .error c
        | _ => .error 0x08)
/-- R377: a good element is performed. -/
def State.applyElem (s : State) (e : AggElem) (l : Loc) : State :=
  let s := s.bankAt l e.size
  match e.op with
  | none => s.homeWrite l (leBytes e.size e.data.toNat)
  | some o => (s.atomicAt o l e.size e.data 0 e.s).1
/-- R376: the elements of a packet in insertion order, from element `i`: those that failed, with their causes. -/
def State.applyElems (s : State) (dst : Node) (part : Nat) : List (AggElem × Nat) → State × List Nat
  | [] => (s, [])
  | (e, k) :: r =>
    match s.elemLoc dst part e k with
    | (t, .ok l) => let (u, cs) := (t.applyElem e l).applyElems dst part r; (u, 0 :: cs)
    | (t, .error c) => let (u, cs) := t.applyElems dst part r; (u, c :: cs)
/-- The line of HBM or slice memory that an element reaches. -/
def State.elemLine (s : State) (dst : Node) (part : Nat) (e : AggElem × Nat) : Option (Nat × Nat) :=
  match (s.elemLoc dst part e.1 e.2).2 with | .ok (.hbm p o) => some (p, o) | _ => none
/-- R380: the line of HBM that an element's atomic needs and its home has not. -/
def State.lineWanted (s : State) (dst : Node) (part : Nat) (e : AggElem × Nat) : Option (Nat × Nat) :=
  match s.elemLine dst part e with
  | some (p, o) => if e.1.op.isSome && decide (o < 2 ^ 41) && !(s.slice (s.homeSlice p o)).has p o 0 then some (p, lineOf o) else none
  | none => none
/-- R372, R380, R351: a packet of elements waits at their homes: for a walk that a failed link holds, for a fill that one of its atomics
needs or that stands before one of its elements, or behind an earlier packet of its NI that waits so. -/
def State.elemsWait (s : State) (dst : Node) (part : Nat) (src : Node) (es : List (AggElem × Nat)) : Bool :=
  (match dst with
    | .slice n => ((s.slice n).fills.any fun f => f.2 == src) ||
        es.any fun e => (tlbFind (s.slice n).tlb part e.1.addr.toNat).isNone && s.walkCut dst part e.1.addr.toNat
    | _ => false) ||
  es.any fun e => (s.lineWanted dst part e).isSome || (match s.elemLine dst part e with | some (p, o) => s.lineBusy p o | none => false)
/-- R346: the source's own cluster is writing back a line of one of the elements. -/
def State.elemsBehind (s : State) (dst : Node) (part : Nat) (src : Node) (es : List (AggElem × Nat)) : Bool :=
  match src with
  | .core c => es.any fun e => match s.elemLine dst part e with | some (p, o) => s.wbOut (clusterOf c) p o | none => false
  | _ => false
/-- R380: the lines that the atomics of a waiting packet need from HBM. -/
def State.linesWanted (s : State) (p : Packet) : List (Nat × Nat) :=
  match p.dst, p.body with
  | .slice _, .agg es _ => es.filterMap (s.lineWanted p.dst p.part)
  | .iod, .fabAgg _ _ es => es.filterMap fun e => s.lineWanted p.dst p.part (e, 0)
  | _, _ => []

/-! ### Writes and their replicas (R338) -/

def AccKind.isAtomic : AccKind → Bool | .atomic _ _ _ _ => true | .sync _ _ _ => true | .ctr _ => true | _ => false
def AccKind.writes : AccKind → Bool | .load => false | .line => false | .sync .ldff _ _ => false | .sync .ferd _ _ => false | _ => true
/-- A packet that is to write a line. -/
def State.writesLine (s : State) (p : Packet) (part off : Nat) : Bool :=
  let hit (e : AggElem × Nat) : Bool := match s.elemLine p.dst p.part e with | some (q, o) => q == part && lineOf o == lineOf off | none => false
  match p.dst, p.body with
  | .slice _, .access a => a.kind.writes && a.loc.onLine part off
  | .slice _, .agg es _ => es.any hit
  | .iod, .fabAgg _ _ es => es.any fun e => hit (e, 0)
  | _, _ => false
/-- R338: a packet that arrived before packet `id` is to write a replicated line: the later write does not pass it. -/
def State.writerBefore (s : State) (id n part off : Nat) : Bool :=
  ((s.partn part).replica n (off / 65536)).isSome && (s.arrived.takeWhile fun p => p.id != id).any fun p => s.writesLine p part off
/-- R338: a write of a line has been performed: its replicas may fill it again, unless another that has arrived still waits. -/
def State.reopenIdle (s : State) (n part off : Nat) : State :=
  if ((s.partn part).replica n (off / 65536)).isNone || s.arrived.any (fun p => s.writesLine p part off) then s else s.reopen n part off
/-- R338: the elements of packet `id` wait for the replicas of their lines, and behind earlier writes of them; the state with the
invalidations asked for. -/
def State.elemGates (s : State) (id : Nat) (dst : Node) (part : Nat) (es : List (AggElem × Nat)) : State × Bool :=
  es.foldl (fun u e =>
    match u.1.elemLine dst part e with
    | some (p, o) =>
      let n := u.1.homeSlice p o
      let (t, go) := u.1.writeGate n p o
      (t, u.2 && go && !t.writerBefore id n p o)
    | none => u) (s, true)
/-- R338, R376: the elements of a packet performed, and their lines open again. -/
def State.performElems (s : State) (dst : Node) (part : Nat) (es : List (AggElem × Nat)) : State × List Nat :=
  let lines := es.filterMap (s.elemLine dst part)
  let (u, cs) := s.applyElems dst part es
  (lines.foldl (fun v l => v.reopenIdle (v.homeSlice l.1 l.2) l.1 l.2) u, cs)
/-- R376: the mask of a reply. -/
def maskOf (cs : List Nat) : W32 := cs.zipIdx.foldl (fun m c => if c.1 = 0 then m else m ||| ((1 : W32) <<< c.2)) 0
def Node.fencedBy (s : State) : Node → Bool | .core c => (s.core c).fenced | _ => false
def execAggPacketApply (id : Nat) (s : State) : Res :=
  match s.takeArrived id with
  | some ({ body := .agg es _, src, dst, part, seq, .. }, t) =>
    if dst.fencedBy s || (match dst with | .dev _ => true | .slice _ => s.elemsWait dst part src es || s.elemsBehind dst part src es | _ => false)
    then .next s
    else
      let (g, go) := s.elemGates id dst part es
      if !go then .next g
      else
        let (u, cs) := State.performElems { g with arrived := t.arrived } dst part es
        .next (u.send dst src part .reply (.aggReply seq (maskOf cs) cs))
  | some ({ body := .fabAgg core q es, src, dst, part, .. }, t) =>
    let es := es.map fun e => (e, 0)
    if s.elemsWait dst part src es then .next s
    else
      let (g, go) := s.elemGates id dst part es
      if !go then .next g
      else
        let (u, cs) := State.performElems { g with arrived := t.arrived } dst part es
        .next (u.sendInside dst src part .reply (.fabAggReply core q (maskOf cs) cs))
  | _ => .next s

/-- R148, R282: the record of an element that failed; its strand's `PF` is set. -/
def State.elemFault (s : State) (c : Nat) (e : AggElem) (i cause : Nat) : State :=
  s.faultIn c e.slot e.issued (recordWord (e.lane.getD i) 1 0 cause 0) fun x => { x with x := { x.x with pf := true } }
/-- R346, R350: an atomic on a line the cluster may cache has been performed at its home. -/
def State.elemDone (s : State) (c : Nat) (e : AggElem × Nat) : State :=
  match e.1.op, locOfKey e.2 with
  | some _, .hbm p o => s.homeDone c (.hbm p o)
  | _, _ => s
/-- R376: a reply to an aggregation packet: the records first, then the count of the elements. -/
def State.aggAnswered (s : State) (c : Nat) (from_ : Node) (seq : Nat) (mask : W32) (cs : List Nat) : State :=
  match (s.core c).sent.find? fun p => p.dest == from_ && p.seq == seq with
  | none => s
  | some p =>
    let t := s.setCore c { s.core c with sent := (s.core c).sent.filter fun q => !(q.dest == from_ && q.seq == seq) }
    let t := p.elems.zipIdx.foldl (fun u e => if mask.getLsbD e.2 then u.elemFault c e.1.1 e.2 (cs.getD e.2 0) else u) t
    let t := p.elems.foldl (fun u e =>
      (u.setStrandOf c e.1.slot { u.strandOf c e.1.slot with unackElems := (u.strandOf c e.1.slot).unackElems - 1 }).elemDone c e) t
    t.wakeAcks c
def execAggReply (id : Nat) (s : State) : Res :=
  match s.takeArrived id with
  | some ({ body := .aggReply seq mask cs, src, dst := .core c, .. }, t) =>
    .next (if (s.core c).fenced then s else t.aggAnswered c src seq mask cs)
  | _ => .next s

/-! ### Replies to a core (R142, R153) -/

def Req.isAtomic (r : Req) : Bool := match r.acc with | some a => a.kind.isAtomic | none => false
/-- R149, R224: whether the target has taken the strand. -/
def State.migrateAnswer (s : State) (c k : Nat) (ok : Bool) : State :=
  match (s.slotOf c k).st with
  | .parked .depart => if ok then s.vacate c k else s.setSlot c k { s.slotOf c k with st := .ready, noMig := (s.slotOf c k).again }
  | _ => s
/-- R242: data whose cycle has come. -/
def State.dueReply (s : State) (id : Nat) : Option State :=
  s.cores.findSome? fun e => (e.2.req id).bind fun r =>
    match r.due with
    | some (t, bs) => if s.cycle e.1 ≥ t then some (s.replyData e.1 r bs false) else none
    | none => none
/-- R142: load data arrive; so do the answers to stores, tokens, fence markers and migrations. -/
def execLoadReply (id : Nat) (s : State) : Res :=
  match s.takeArrived id with
  | some ({ body := b, dst := .core c, .. }, t) =>
    if (s.core c).fenced then .next s
    else match b with
      | .accReply req _ r =>
        (match (s.core c).req req with
        | some q => .next (if q.isAtomic then s else t.replyAccess c req r)
        | none => .next t)
      | .tokenReply req _ a => .next (t.tokenAnswer c req a)
      | .migrateAns k ok => .next (t.migrateAnswer c k ok)
      | _ => .next s
  | some _ => .next s
  | none => .next ((s.dueReply id).getD s)
def execAtomicReply (id : Nat) (s : State) : Res :=
  match s.takeArrived id with
  | some ({ body := .accReply req _ r, dst := .core c, .. }, t) =>
    if (s.core c).fenced then .next s
    else match (s.core c).req req with
      | some q => .next (if q.isAtomic then t.replyAccess c req r else s)
      | none => .next t
  | _ => .next s

/-! ### Sync waits (R152, R396) -/

/-- R152, R330: the home at which a waiter stands: that of its word, or where a page migration has moved it. -/
def State.waiterHome (s : State) (a : Access) (req : Nat) : Node :=
  match s.retry.find? fun w => w.2.acc.req == req && w.2.acc.core == a.core with | some w => w.1 | none => s.home a.loc
/-- R152: the limit of a wait has come: the waiter is withdrawn from its home. -/
def execSyncWaitExpire (core slot : Nat) (s : State) : Res :=
  onCore core (slot < 16) s (.next (
    match (s.slotOf core slot).st with
    | .parked (.syncWait id) =>
      (match (s.core core).req id with
      | some { acc := some a, limit := some l, withdrawn := false, .. } =>
        if s.cycle core < l then s
        else
          let t := s.setCore core { s.core core with
            reqs := (s.core core).reqs.map fun x => if x.id = id then { x with withdrawn := true } else x }
          t.send (.core core) (t.waiterHome a id) a.part .request (.withdraw id slot a.loc)
      | _ => s)
    | _ => s))
/-- R152: the access is made again, and its address translated again (DEDUCED, log 22). -/
def State.sendAgain (s : State) (c k id : Nat) (a : Access) : State :=
  let kd := match a.kind with | .sync o _ _ => SyncOp.kind o | _ => .store
  match s.translateNow ((s.strandOf c k).actor c) kd a.va with
  | .ok l p =>
    let b := { a with loc := l, kslot := p.slot }
    let t := s.setCore c { s.core c with reqs := (s.core c).reqs.map fun r => if r.id = id then { r with acc := some b } else r }
    (t.setSlot c k { t.slotOf c k with st := .parked (.syncWait id) }).toHome b
  | .fault cause => s.lateTrap c k cause a.va
  | .miss => s
/-- R152: 64 cycles after "busy" the access is sent again. -/
def execSyncBusyRetry (core slot : Nat) (s : State) : Res :=
  onCore core (slot < 16) s (.next (
    match (s.slotOf core slot).st with
    | .parked (.syncBusy id t) =>
      (match (s.core core).req id with
      | some { acc := some a, .. } =>
        if s.cycle core < t then s
        else s.sendAgain core slot id a
      | _ => s)
    | _ => s))

/-! ### Walks and clocks (R104, R328, R333, R422) -/

/-- R14, R328: the walkers of a cluster; the misses beyond them wait in arrival order. -/
def walkers : Nat := 8
/-- R328, R427: which of the walks under way ends is a free value. -/
def State.someWalk (s : State) (cl : Nat) : Option Walk × State :=
  match ((s.cluster cl).walks.take walkers) with
  | [] => (none, s)
  | [w] => (some w, s)
  | l => let (v, t) := s.draw; (l[v.toNat % l.length]?, t)
/-- R328: the waiters of a walk, each told by `f` and awake again. -/
def State.endWalk (s : State) (cl : Nat) (w : Walk) (f : WalkWaiter → State → State) : State :=
    let t := s.setCluster cl { s.cluster cl with walks := (s.cluster cl).walks.erase w }
    w.waiters.foldl (fun u x =>
      if (u.strandOf x.core x.slot).sid = x.sid ∧ (u.slotOf x.core x.slot).st = .parked .walk then (f x u).wake x.core x.slot else u) t
def State.failWalk (s : State) (cl : Nat) (w : Walk) : State :=
  s.endWalk cl w fun x u => u.setSlot x.core x.slot { u.slotOf x.core x.slot with walkFault := some (w.va / 4096) }
/-- R328: one of a cluster's walks ends; its reads count at their homes (R337). -/
def execPageWalkDone (cl : Nat) (s : State) : Res :=
  onCluster cl s (.next (
    match s.someWalk cl with
    | (none, _) => s
    | (some w, s) =>
      if s.walkCut (.csm cl) w.part w.va || (s.walkReads w.part w.va).any fun o => s.lineBusy w.part o then s else
      let s := s.noteWalk (.csm cl) w.part w.va
      match s.walk w.part w.va with
      | none => s.failWalk cl w
      | some e =>
        let t := s.setCluster cl { s.cluster cl with tlb := tlbAdd (s.cluster cl).tlb 16384 e }
        t.endWalk cl w fun x u => u.setCore x.core { u.core x.core with l1tlb := tlbAdd (u.core x.core).l1tlb 1024 e }))
/-- R422, R423: the read of an entry fails: the walk is made again, or fails, and the lasting fault is recorded with the address of the
last entry that the walk reads (DESIGN CHOICE, log 3). -/
def execWalkerReadError (cl : Nat) (retryOk : Bool) (s : State) : Res :=
  onCluster cl s (.next (
    match s.someWalk cl with
    | (none, _) => s
    | (some w, t) =>
      match (s.walkReads w.part w.va).getLast? with
      | none => s
      | some o => if retryOk then s.transient (islandOf cl) else (t.failWalk cl w).lastingFault w.part (s.ownPa o) (s.readKind w.part o)))
/-- R333: pts advances every 128 cycles. -/
def execPtsTick (core : Nat) (s : State) : Res :=
  onCore core true s (.next (
    if s.cycle core < (s.core core).ptsDue then s
    else s.setCore core { s.core core with pts := (s.core core).pts + 1, ptsDue := (s.core core).ptsDue + 128 }))
/-- R104, R165: the extended time of a bundle has passed. -/
def execDelayedCompletion (core slot : Nat) (s : State) : Res :=
  onUnit (core < Config.cores && slot < 16) (.next (
    match (s.slotOf core slot).st with
    | .waiting (.extended t) =>
      if s.cycle core < t then s else s.setSlot core slot { s.slotOf core slot with st := .ready, delayDone := true }
    | _ => s))

/-! ### Strands that arrive, and fenced cores (R256, R286) -/

/-- R149, R256, R258, R285: a strand arrives: one of a job in a final state has been stopped, and ends; another takes a free slot, behind
none in the inbox, or waits in the inbox of 4; else it is sent back. -/
def execMigrationArrive (id : Nat) (s : State) : Res :=
  match s.takeArrived id with
  | some ({ body := .migrate m, dst := .core c, part, .. }, t) =>
    if (s.core c).fenced then .next s
    else
      let ans (u : State) (ok : Bool) : State := u.send (.core c) (.core m.origin) part .reply (.migrateAns m.originSlot ok)
      if (match m.strand.job with | some n => decide ((t.job n).st ≥ 4) | none => false) then .next (ans (t.leftGang m.strand) true)
      else match (if (t.core c).inbox.isEmpty then t.freeSlot c else none) with
      | some k => .next (ans (t.arriveStrand c k m) true)
      | none =>
        if (t.core c).inbox.length ≥ 4 then .next (ans t false)
        else .next (ans (t.setCore c { t.core c with inbox := (t.core c).inbox ++ [m] }) true)
  | _ => .next s
/-- R152, R286: a waiter told to give up is answered at a fenced core too; an answer sent earlier makes this one void. -/
def State.withdrawFenced (s : State) (c : Nat) (p : Packet) (req k : Nat) : State :=
  match s.retry.find? fun w => w.2.src == p.src && w.2.acc.req == req with
  | some w => ({ s with retry := s.retry.erase w }).answer w.1 p.src w.2.acc .failed
  | none => s.send (.core c) p.src p.part .reply (.accReply req k .failed)
/-- R286: the router of a fenced core answers a packet. The table has no row for a withdrawal: it ends its wait as at another home (DEDUCED,
log 22). -/
def State.fencedAnswer (s : State) (c : Nat) (p : Packet) : State :=
  let back (b : Body) : State := s.send (.core c) p.src p.part .reply b
  match p.body with
  | .access a => back (.accReply a.req a.slot (.fault 0x08))
  | .agg es _ => back (.aggReply p.seq (maskOf (es.map fun _ => 8)) (es.map fun _ => 8))
  | .token t => s.answerToken t (.refused ((s.core c).queue t.queue).tail.toNat ((s.core c).queue t.queue).head.toNat)
  | .call q => s.replyCall (.core c) q.part q.caller (refusal 6)
  | .migrate m => back (.migrateAns m.originSlot false)
  | .probe _ _ => back .noEntry
  | .withdraw req k _ => s.withdrawFenced c p req k
  | .tokenWithdraw q req => s.meshWithdraw c q req p
  | _ => s
def execFencedPacket (id : Nat) (s : State) : Res :=
  match s.takeArrived id with
  | some (p, t) =>
    (match p.dst with
    | .core c => .next (if (s.core c).fenced then t.fencedAnswer c p else s)
    | _ => .next s)
  | none => .next s

end Sys2Proof.Machine
end

