-- ==== Sys2Proof/Machine/Jobs.lean ====
section
/-!
DEFINITION. Submission queues, jobs, their edges, choice, placement and completion; gangs; `LAUNCH`; faulted jobs, heartbeats and
fences (08 R219; 09 R235, R236; 10 R243, R252, R254, R258; 11_scheduling.md R261 to R273; 12 R284 to R286; 22 R401 to R403).
-/
namespace Sys2Proof.Machine
open Sys2Proof

/-! ### Submission queues (R261, R262, R401 to R403) -/

def State.squeue (s : State) (part q : Nat) : SubQueue := vget (s.partn part).squeues q {}
def State.setSqueue (s : State) (part q : Nat) (x : SubQueue) : State :=
  s.setPartn part { s.partn part with squeues := vset (s.partn part).squeues q x }
/-- R401: the slots of the ring of the last enabling. -/
def SubQueue.slots (q : SubQueue) : Nat := 2 ^ q.ring.toNat
/-- The offset of the base in the partition's HBM. -/
def SubQueue.off (q : SubQueue) : Nat := q.base.toNat % 2 ^ 43
def SubQueue.full (q : SubQueue) : Bool := (q.tail + 1) % q.slots == q.head
/-- R403: a vector's entry in the MSI-X table; after reset it is masked. -/
def Msix.entry (x : Msix) (v : Nat) : W64 × W64 := tget x.table v (0, 0x100000000)
def Msix.masked (x : Msix) (v : Nat) : Bool := !x.enable || x.fmask || (x.entry v).2.getLsbD 32
/-- R403: a message is sent, or is pending while its vector is masked. -/
def State.sendMsi (s : State) (v : Nat) : State :=
  if s.msix.masked v then { s with msix := { s.msix with pending := sinsert s.msix.pending v } }
  else { s with msi := s.msi ++ [v], msix := { s.msix with pending := sremove s.msix.pending v } }
/-- R403: a vector of a partition is raised. -/
def State.raiseMsi (s : State) (part vec : Nat) : State := s.sendMsi (32 * part + vec % 32)
/-- R403: the masks have changed: the pending messages that may be sent are. -/
def State.unmaskMsi (s : State) (x : Msix) : State := x.pending.foldl State.sendMsi { s with msix := x }
/-- The job read last from a slot of a queue. -/
def State.jobAt (s : State) (part q slot : Nat) : Option (Nat × Job) :=
  (s.jobs.filter fun e => e.2.part == part && e.2.queue == q && e.2.qslot == slot).getLast?
/-- R261: the head passes the slots whose jobs are final. -/
def State.advanceHead (s : State) (part q : Nat) : Nat → State
  | 0 => s
  | n + 1 =>
    let x := s.squeue part q
    if x.head = x.next then s
    else match s.jobAt part q x.head with
      | some (_, j) => if j.final then (s.setSqueue part q { x with head := (x.head + 1) % x.slots }).advanceHead part q n else s
      | none => s
/-- R262, R403: a final state: the state word, then the interrupt, then the head. -/
def State.finishJob (s : State) (n st reason : Nat) : State :=
  let t := s.jobState n st reason
  let j := t.job n
  let q := t.squeue j.part j.queue
  let t := if q.ie then t.raiseMsi j.part q.ivec.toNat else t
  t.advanceHead j.part j.queue q.slots

/-! ### Reading an entry (R263 to R265) -/

/-- A global address that translates into the partition: its HBM, its slice memory, or host memory (R324), with its key slot. A page whose
leaf denies the access, or names a key slot of another partition, does not (R413). -/
def State.globalLoc (s : State) (part : Nat) (k : Kind) (va : W64) : Option (Loc × Nat) :=
  let space := field va.toNat 52 5
  if va.extractLsb' 57 7 ≠ 0 ∨ (0x1C ≤ space ∧ space ≤ 0x1F) then none
  else (s.walk part va.toNat).bind fun e =>
    if e.denies s k true then none
    else match s.paLoc part (e.pa + va.toNat % 2 ^ e.lg) with
    | some (.hbm p o) => some (.hbm p o, e.slot)
    | some (.host a) => some (.host a, 0)
    | _ => none
/-- R266: a doubleword read at its home. -/
def State.globalDw (s : State) (part : Nat) (va : W64) : Option W64 :=
  (s.globalLoc part .load va).map fun l => BitVec.ofNat 64 (leNat (s.homeRead l.1 8 l.2 va.toNat))
/-- R266: an edge. -/
structure Edge where
  ctr : W64
  target : W64
  addr : W64
  len : W64
/-- R266: the edges of a list from an address; none where a doubleword does not translate. -/
def State.edgesFrom (s : State) (part : Nat) (va : W64) : Nat → Option (List Edge)
  | 0 => some []
  | n + 1 =>
    (s.globalDw part va).bind fun c =>
      if c = 0 then some []
      else (s.globalDw part (va + 8)).bind fun t => (s.globalDw part (va + 16)).bind fun a => (s.globalDw part (va + 24)).bind fun l =>
        (s.edgesFrom part (va + 32) n).map fun r => { ctr := c, target := t, addr := a, len := l } :: r
/-- R235: the edges of a job, 17 at most. R266 has the descriptor read once and does not say so of the list: it is read at each test and at
the placement (DESIGN CHOICE, log 35). -/
def State.edgesOf (s : State) (j : Job) : Option (List Edge) := if j.dw 104 = 0 then some [] else s.edgesFrom j.part (j.dw 104) 17
/-- R265, R266: whether a counter address is valid: a counter has a home slice (log 35). -/
def State.ctrOk (s : State) (part : Nat) (va : W64) : Bool :=
  decide (va.toNat % 8 = 0) && (match s.globalLoc part .load va with | some (.hbm _ _, _) => true | _ => false)
def Job.vallocOk (n : Nat) : Bool := n == 0 || n == 8 || n == 16 || n == 32
/-- R265, reason 6: two ranges of LM meet. -/
def rangesMeet (a n b m : Nat) : Bool := n != 0 && m != 0 && meets a n b m
/-- R265: the first reason to reject a job, 0 for none. -/
def State.rejectReason (s : State) (j : Job) : Nat :=
  let top := if j.isGang then 0x40000 else 0x20000
  let areas := 16 * j.privSize
  let fo := j.fld 72 0 32
  let fn := j.fld 72 32 32
  if j.dw 0 ≠ 1 ∧ j.dw 0 ≠ 2 then 1
  else if j.fld 48 48 12 ≠ 0 ∨ j.fld 64 6 10 ≠ 0 ∨ j.fld 64 48 16 ≠ 0 ∨ j.fld 88 2 6 ≠ 0 ∨ j.fld 88 10 6 ≠ 0 ∨ j.fld 88 22 42 ≠ 0 ∨
      j.dw 112 ≠ 0 ∨ j.dw 120 ≠ 0 ∨ (j.isGang ∧ (j.dw 40 ≠ 0 ∨ j.fld 56 9 7 ≠ 0 ∨ j.fld 56 45 19 ≠ 0)) then 2
  else if j.fld 48 0 48 = 0 ∨ j.domain.any (fun c => !(s.partn j.part).clusters.contains c) then 3
  else if !j.isGang ∧ (!j.domain.contains (clusterOf (j.dw 56).toNat)) then 4
  else if !Job.vallocOk j.vcount ∨ j.fld 64 16 16 % 256 ≠ 0 ∨ j.fld 64 32 16 % 256 ≠ 0 ∨ j.callSize > j.privSize then 5
  else if areas > top ∨ rangesMeet (top - areas) areas fo fn ∨ (!j.isGang ∧ rangesMeet 0x20000 0x20000 fo fn) then 6
  else if j.isGang ∧ (j.gangSize = 0 ∨ j.gangSize > 256 ∨ j.coreMask.isEmpty ∨ j.gangCount = 0 ∨ j.gangCount > 192 ∨ j.barriers > 16 ∨
      j.perCore > 16 ∨ j.perCore * j.vcount > 256 ∨ j.gangCount > j.domain.length * j.gangsHeld) then 7
  else if (j.dw 96 ≠ 0 ∧ !s.ctrOk j.part (j.dw 96)) ∨ (j.dw 104).toNat % 8 ≠ 0 then 8
  else match s.edgesOf j with
    | none => 8
    | some es => if es.length > 16 ∨ es.any (fun e => !s.ctrOk j.part e.ctr) then 8 else 0

/-- R266: whether every edge of a job is met. -/
def State.edgesMet (s : State) (j : Job) : Bool :=
  match s.edgesOf j with
  | some es => es.all fun e => match s.globalDw j.part e.ctr with | some v => decide (v.toNat ≥ e.target.toNat) | none => false
  | none => false
/-- R266: a job is tested. -/
def State.testJob (s : State) (n : Nat) : State := if (s.job n).st = 1 ∧ s.edgesMet (s.job n) then s.jobState n 2 0 else s
/-- R266: the doublewords that a test of a job reads: those of its list, and its counters. -/
def State.edgeVas (s : State) (j : Job) : List W64 :=
  let at_ (n : Nat) : W64 := j.dw 104 + BitVec.ofNat 64 n
  if j.dw 104 = 0 then []
  else match s.edgesOf j with
    | none => [at_ 0]
    | some es => (List.range (4 * es.length + 1)).map (fun i => at_ (8 * i)) ++ es.map fun e => e.ctr
/-- R372, R380: a line that the dispatch unit cannot read now: it cannot reach the home, or accesses wait there for the line. -/
def State.frontBusy (s : State) (part off : Nat) : Bool := s.lineBusy part off || s.cutOff .iod (.slice (s.homeSlice part off))
/-- R372, R380: a doubleword that the dispatch unit cannot read now. -/
def State.frontHeld (s : State) (part : Nat) (va : W64) : Bool :=
  s.walkCut .iod part va.toNat || (match s.globalLoc part .load va with | some (.hbm p o, _) => s.frontBusy p o | _ => false)
/-- R337: its reads of a doubleword and of the walk to it count at their homes (log 36). -/
def State.frontNote (s : State) (part : Nat) (va : W64) : State :=
  let t := s.noteWalk .iod part va.toNat
  match s.globalLoc part .load va with | some (.hbm p o, k) => t.noteRead .iod p o k | _ => t
def State.waitingJobs (s : State) (part : Nat) : List (Nat × Job) := s.jobs.filter fun e => e.2.part == part && e.2.st == 1
/-- A doubleword that a test of the waiting jobs needs cannot be read now. -/
def State.testHeld (s : State) (part : Nat) : Bool := (s.waitingJobs part).any fun e => (s.edgeVas e.2).any (s.frontHeld part)
/-- R266: the waiting jobs of a partition are tested. -/
def State.testEdges (s : State) (part : Nat) : State :=
  (s.waitingJobs part).foldl (fun t e => ((t.edgeVas e.2).foldl (fun u v => u.frontNote part v) t).testJob e.1) s
/-- R266: they are tested at a job's completion, or as soon as what they need can be read. -/
def State.testSoon (s : State) (part : Nat) : State :=
  if s.testHeld part then s.setPartn part { s.partn part with edgeDue := s.gtime.toNat } else s.testEdges part
/-- R261 to R266: the front end reads the next slot of an enabled queue and tests its job. It waits for a slot whose page is taken out of use
(R422; DESIGN CHOICE, log 41), and where it cannot read now. -/
def State.readEntry (s : State) (part q : Nat) : State :=
  let x := s.squeue part q
  let at_ := x.off + 128 * x.next
  if !x.en ∨ x.next = x.tail ∨ s.isRetired part at_ ∨ s.frontBusy part at_ ∨ s.frontBusy part (at_ + 64) then s
  else
    let (n, t) := s.fresh
    let bs := t.homeRead (.hbm part at_) 128 0 0
    let j : Job := { part, queue := q, qslot := x.next, slotAt := at_, bytes := bs, read := t.gtime.toNat }
    let j := { j with level := j.fld 88 8 2 }
    let vas := t.edgeVas j
    if vas.any (t.frontHeld part) then s
    else
      let t := vas.foldl (fun u v => u.frontNote part v) ((t.noteRead .iod part at_ 0).noteRead .iod part (at_ + 64) 0)
      let t := (t.setJob n j).setSqueue part q { x with next := (x.next + 1) % x.slots }
      let r := t.rejectReason j
      if r ≠ 0 then t.finishJob n 4 r else (t.jobState n 1 0).testJob n
def execJobEntryRead (part queue : Nat) (s : State) : Res := onPart part (queue < 64) s (.next (s.readEntry part queue))
/-- R266: every 10 µs. -/
def execEdgeTest (part : Nat) (s : State) : Res :=
  onPart part true s (.next (
    let p := s.partn part
    if s.gtime.toNat < p.edgeDue ∨ s.testHeld part then s
    else (s.setPartn part { p with edgeDue := s.gtime.toNat / 10000 * 10000 + 10000 }).testEdges part))
/-- R268: a job that has waited a further 10 ms rises one level. -/
def State.agingDue (s : State) (n : Nat) : Bool :=
  let j := s.job n
  (j.st == 1 || j.st == 2) && decide (j.level > 0) && decide (s.gtime.toNat ≥ j.read + 10000000 * (j.rises + 1))
def execJobAging (part job : Nat) (s : State) : Res :=
  onUnit (part < 64) (.next (
    let j := s.job job
    if j.part = part ∧ s.agingDue job then s.setJob job { j with level := j.level - 1, rises := j.rises + 1 } else s))

/-- R402: a doorbell. A value whose upper bits, which the rule calls zero, are not: the whole value is taken as the tail, so that it is past
the ring (DESIGN CHOICE, log 48). -/
def State.doorbell (s : State) (part q : Nat) (v : W64) : State :=
  let x := s.squeue part q
  let t := v.toNat
  let n := x.slots
  if !x.en || x.mode then s.setSqueue part q { x with err := 2 }
  else if t ≥ n then s.setSqueue part q { x with err := 1 }
  else if (t + n - x.head) % n < (x.tail + n - x.head) % n then s.setSqueue part q { x with err := 3 }
  else s.setSqueue part q { x with tail := t }
def execDoorbell (part queue : Nat) (val : W64) (s : State) : Res :=
  onUnit (part < 64 && queue < 64) (.next (s.doorbell part queue val))

/-! ### The choice (R269, R270) -/

abbrev Cand := Nat × Job
/-- R270: the clusters a job needs. -/
def Job.needs (j : Job) : List Nat :=
  let d := j.domain.mergeSort (· ≤ ·)
  if j.isGang then d.take ((j.gangCount + j.gangsHeld - 1) / j.gangsHeld) else d
/-- R270: no other job holds them. -/
def State.clustersFree (s : State) (cls : List Nat) : Bool := s.jobs.all fun e => !(e.2.placed && e.2.clusters.any fun c => cls.contains c)
/-- R269: the place of a job in its queue. -/
def State.ringPos (s : State) (c : Cand) : Nat :=
  let x := s.squeue c.2.part c.2.queue
  (c.2.qslot + x.slots - x.head) % x.slots
def State.oldest (s : State) : List Cand → Option Cand
  | [] => none
  | c :: r => match s.oldest r with | none => some c | some d => if s.ringPos d < s.ringPos c then some d else some c
/-- The next queue with a candidate, from `q` on, wrapping from 63 to 0. -/
def nextQueue (cs : List Cand) (q : Nat) : Option Nat :=
  (List.range 64).findSome? fun i => let k := (q + i) % 64; if cs.any fun c => c.2.queue == k then some k else none
/-- R269, R270: the chosen job of the ready jobs `cs` that a choice may take, and the turn it leaves at its level, where the ready jobs `all`,
those passed over among them, keep their places. -/
def State.choose (s : State) (part : Nat) (all cs : List Cand) : Option (Cand × State) :=
  match (List.range 4).find? fun l => cs.any fun c => c.2.level == l with
  | none => none
  | some l =>
    let here := cs.filter fun c => c.2.level == l
    let p := s.partn part
    let (q, n) := vget p.turns l (0, 0)
    let holds := here.any fun c => c.2.queue == q
    let turn : Option (Nat × Nat) :=
      if holds && decide (n < (s.squeue part q).weight.toNat + 1) then some (q, n) else (nextQueue here (q + 1)).map fun k => (k, 0)
    turn.bind fun t => (s.oldest (here.filter fun c => c.2.queue == t.1)).map fun c =>
      let rest := all.filter fun d => d.2.level == l && d.1 != c.1
      let m := t.2 + 1
      let w := (s.squeue part t.1).weight.toNat + 1
      let after := if m ≥ w ∨ !(rest.any fun d => d.2.queue == t.1) then
          (match nextQueue rest (t.1 + 1) with | some k => (k, 0) | none => (t.1, w))
        else (t.1, m)
      (c, s.setPartn part { p with turns := vset p.turns l after })

/-! ### Gangs (R272, R11, R254) -/

def Claim.gangOf (c : Claim) : Option Nat := c.gang
/-- R272: the core of a member. -/
def Job.memberCore (j : Job) (cl m : Nat) : Nat := cl * 16 + j.coreMask.getD (m % j.coreMask.length) 0
/-- R272: a cluster's reservation under way. -/
def State.openGang (s : State) (cl : Nat) : Option Nat := (s.cluster cl).gangs.find? fun g => !(s.gang g).started
/-- R272: slots reserved for members of a gang, from member `m`; a core that lacks them takes the claim. -/
def State.reserveFrom (s : State) (g : Nat) : Nat → Nat → State
  | _, 0 => s
  | m, n + 1 =>
    let x := s.gang g
    let j := s.job x.job
    let c := j.memberCore x.cluster m
    let claim : Claim := { job := x.job, gang := some g, member := m, vregs := j.vcount }
    let t :=
      if (x.places.getD m none).isSome || (s.core c).claims.contains claim then s
      else match s.openSlot c j.vcount with
        | some k => s.reserveMember c k claim
        | none => s.setCore c { s.core c with claims := (s.core c).claims ++ [claim] }
    t.reserveFrom g (m + 1) n
def State.reserve (s : State) (cl : Nat) : State :=
  match s.openGang cl with
  | some g => s.reserveFrom g 0 (s.gang g).size
  | none => s
/-- R264, R272: the cluster of a gang: the first with room for one more of its job. -/
def State.gangCluster (s : State) (n : Nat) (cls : List Nat) : Option Nat :=
  cls.find? fun c => decide (((s.cluster c).gangs.filter fun g => (s.gang g).job == n).length < (s.job n).gangsHeld)
/-- R272: the gangs of a job, each assigned to its cluster, from index `i`; R265 has seen to it that there is room. -/
def State.assignGangs (s : State) (n : Nat) : Nat → Nat → State
  | _, 0 => s
  | i, k + 1 =>
    let j := s.job n
    match s.gangCluster n j.clusters with
    | none => s
    | some cl =>
      let (g, t) := s.fresh
      let t := t.setGang g { job := n, cluster := cl, index := i, size := j.gangSize, places := List.replicate j.gangSize none
                             barriers := j.barriers }
      let t := t.setCluster cl { t.cluster cl with gangs := (t.cluster cl).gangs ++ [g] }
      t.assignGangs n (i + 1) k
/-- R272: the lowest-numbered free barriers of a cluster, `n` at most. -/
def State.freeBarriers (s : State) (cl n : Nat) : List Nat :=
  ((List.range 16).filter fun i => (vget (s.cluster cl).barriers i {}).gid.isNone).take n
/-- R272, R243: a member of a gang. -/
def State.startMember (s : State) (g m : Nat) : State :=
  let x := s.gang g
  let j := s.job x.job
  match x.places.getD m none with
  | none => s
  | some (c, k) =>
    let (t, y) := s.newStrand (s.jobSet x.job) (.gang g) (j.dw 8) j.vcount (s.slotArea c k j.callSize)
    let y := y.withArgs [j.dw 16, j.dw 24, j.dw 32, BitVec.ofNat 64 (m + x.index * 2 ^ 16 + x.cluster * 2 ^ 32)]
    let t := t.placeStrand c k y
    t.setGang g { t.gang g with live := (t.gang g).live ++ [y.sid] }
/-- R272, R254, R252: all strands of a gang are created in one cycle. -/
def State.startGang (s : State) (g : Nat) : State :=
  let x := s.gang g
  let cl := s.cluster x.cluster
  let bars := s.freeBarriers x.cluster x.barriers
  let cores := ((x.places.filterMap id).map (·.1)).eraseDups.mergeSort (· ≤ ·)
  let bs := Vector.ofFn fun i : Fin 16 => if bars.contains i.val then { gid := some g } else vget cl.barriers i.val {}
  let t := (s.setCluster x.cluster { cl with barriers := bs }).setGang g { x with started := true, bars, cores }
  let t := (List.range x.size).foldl (fun u m => u.startMember g m) t
  let t := if (t.job x.job).st = 3 then t else t.jobState x.job 3 0
  t.reserve x.cluster
/-- R272: every slot of the gang is Reserved, and its barriers are free. -/
def State.gangReady (s : State) (cl : Nat) : Option Nat :=
  (s.openGang cl).bind fun g =>
    let x := s.gang g
    if (x.places.all fun p => p.isSome) && decide ((s.freeBarriers cl x.barriers).length = x.barriers) then some g else none
def execGangStart (cl : Nat) (s : State) : Res :=
  onCluster cl s (.next (match s.gangReady cl with
    | some g => if s.heldPart (s.job (s.gang g).job).part then s else s.startGang g
    | none => s))

/-! ### Placement (R266, R270, R271, R309, R340) -/

/-- R270, R309, R340: what placement clears on a core, and the job it then holds. -/
def Core.placed (c : Core) (n core : Nat) (task : Bool) : Core :=
  { c with
    acc := [], latch := [], handOn := [], tileIn := [], rotOut := [], gens := Vector.replicate 16 1, l1i := [], job := some n
    deque := [], ringHead := 0, ringCount := 0, dequeJob := none
    steal := if task then { k := (core + 1) % 16, slot := c.steal.slot } else c.steal }
/-- R266: the listed regions leave the caches of a cluster. -/
def State.edgeInval (s : State) (cl part : Nat) (es : List Edge) : State :=
  es.foldl (fun t e =>
    if e.len = 0 then t
    else t.invCore (cl * 16) (inParts (t.globalParts { core := cl * 16, part } e.addr.toNat e.len.toNat))) s
/-- The L1Ds of the other cores of a cluster lose the regions too. -/
def State.edgeInvalAll (s : State) (cl part : Nat) (es : List Edge) : State :=
  if es.all fun e => e.len == 0 then s
  else (coresOf cl).foldl (fun t c =>
    if (t.core c).l1d.isEmpty then t
    else es.foldl (fun u e =>
      let sel := inParts (u.globalParts { core := c, part } e.addr.toNat e.len.toNat)
      let v := ((u.core c).l1d.filter fun x => sel x.part x.pa).foldl (fun w x => w.l1Flush c x) u
      v.setCore c { v.core c with l1d := (v.core c).l1d.filter fun x => !sel x.part x.pa }) t) (s.edgeInval cl part es)
/-- R270: a job takes its clusters. -/
def State.takeClusters (s : State) (n : Nat) : State :=
  let j := s.job n
  let es := (s.edgesOf j).getD []
  let t := s.setJob n { j with placed := true, clusters := j.needs }
  j.needs.foldl (fun u cl =>
    let v := (u.resizeCc cl (BitVec.ofNat 2 (j.fld 88 0 2))).edgeInvalAll cl j.part es
    (coresOf cl).foldl (fun w c => w.setCore c ((w.core c).placed n c (!j.isGang))) v) t
/-- R271: the root strand, or its claim. -/
def State.placeRoot (s : State) (n : Nat) : State :=
  let j := s.job n
  let c := (j.dw 56).toNat
  let claim : State := s.setCore c { s.core c with claims := (s.core c).claims ++ [{ job := n, gang := none, member := 0, vregs := j.vcount }] }
  match s.openSlot c j.vcount with
  | some k => s.startRoot c k n
  | none => claim
def State.placeJob (s : State) (n : Nat) : State :=
  let t := s.takeClusters n
  let j := t.job n
  if j.isGang then j.clusters.foldl (fun u cl => u.reserve cl) (t.assignGangs n 0 j.gangCount) else t.placeRoot n
/-- R269, R270: the jobs a choice may take. -/
def State.readyJobs (s : State) (part : Nat) : List Cand := s.jobs.filter fun e => e.2.part == part && e.2.st == 2 && !e.2.placed
/-- A chosen job is placed, or becomes the waiting job. R270 counts the waiting job once, when it is chosen, and does not speak of one that a
higher-level job has replaced: it counts again when it is chosen anew (DESIGN CHOICE, log 35). -/
def State.offerJob (s : State) (part n : Nat) : State :=
  let p := s.partn part
  if s.clustersFree (s.job n).needs then (s.setPartn part { p with waitJob := none }).placeJob n
  else s.setPartn part { p with waitJob := some n }
def State.placeNext (s : State) (part : Nat) : State :=
  let ready := s.readyJobs part
  match (s.partn part).waitJob with
  | none => match s.choose part ready ready with | some (c, t) => t.offerJob part c.1 | none => s
  | some w =>
    let l := (s.job w).level
    let others := ready.filter fun c => c.1 != w
    match s.choose part others (others.filter fun c => c.2.level < l) with
    | some (c, t) => t.offerJob part c.1
    | none =>
      if s.clustersFree (s.job w).needs then (s.setPartn part { s.partn part with waitJob := none }).placeJob w
      else
        let need := (s.job w).needs
        match s.choose part others (others.filter fun c => !(c.2.needs.any fun k => need.contains k)) with
        | some (c, t) => if s.clustersFree c.2.needs then t.placeJob c.1 else s
        | none => s
/-- R266: the edge list of a job that may be placed cannot be read now. -/
def State.placeHeld (s : State) (part : Nat) : Bool := (s.readyJobs part).any fun c => (s.edgeVas c.2).any (s.frontHeld part)
def execJobPlace (part : Nat) (s : State) : Res := onPart part true s (.next (if s.placeHeld part then s else s.placeNext part))

/-! ### Completion (R267) -/

def SlotState.live : SlotState → Bool | .ready | .waiting _ | .parked _ => true | _ => false
/-- R267: a strand of the job exists on a core, or waits in its inbox, or is on its way, a thief's too (log 35). -/
def Core.hasStrand (c : Core) (n : Nat) : Bool :=
  (c.slots.toList.any fun x => x.st.live && x.strand.job == some n) || c.inbox.any (fun m => m.strand.job == some n) ||
  c.claims.any (fun x => x.job == n)
/-- R267: a packet that carries a strand of the job, or a call of it: the rule names queued calls, and a call on its way holds the
completion back too (DESIGN CHOICE, log 35). -/
def Body.carries (n : Nat) : Body → Bool
  | .migrate m => m.strand.job == some n
  | .call q => q.job == some n
  | _ => false
/-- R250: an entry of the job is on its way to a thief. -/
def State.stealOpen (s : State) (n : Nat) : Bool :=
  (s.cores.any fun e => e.2.giving.any fun g => (s.core g.thief).job == some n) ||
  s.onTheWay.any fun p => match p.body, p.dst with | .stealCopy _ _, .core c => (s.core c).job == some n | _, _ => false
def State.jobDone (s : State) (n : Nat) : Bool :=
  let j := s.job n
  j.placed && j.st == 3 &&
  (if j.isGang then !(s.gangs.any fun g => g.2.job == n)
   else !(s.cores.any fun e => (j.clusters.contains (clusterOf e.1) && e.2.hasStrand n) || e.2.calls.any (fun q => q.job == some n) ||
        (e.2.job == some n && decide (e.2.dequeSize > 0))) && !s.stealOpen n && !(s.onTheWay.any fun p => p.body.carries n))
/-- R267: dirty lines of a cluster go to their homes. -/
def State.wbCluster (s : State) (cl : Nat) : State :=
  let t := (coresOf cl).foldl (fun u c => if (u.core c).l1d.isEmpty then u else u.l1WbAll c) s
  t.cacheWb (cl * 16) everyLine
/-- R267: the clusters of a job are released. -/
def State.release (s : State) (n : Nat) : State :=
  let j := s.job n
  let t := j.clusters.foldl (fun u cl => (coresOf cl).foldl (fun w c =>
    if (w.core c).job = some n then w.setCore c { w.core c with job := none, dequeJob := none } else w) u) s
  t.setJob n { j with placed := false, clusters := [] }
/-- R266, R267: where the completion counter of a job lies. The spec is silent on one whose address no longer translates to a home slice:
nothing is added, and the job is complete (DESIGN CHOICE, log 35). -/
def State.counterLoc (s : State) (j : Job) : Option Loc :=
  if j.dw 96 = 0 then none
  else match s.globalLoc j.part .store (j.dw 96) with | some (.hbm p o, _) => some (.hbm p o) | _ => none
/-- R267, R266: a job whose counter has been raised is complete; waiting jobs are tested. -/
def State.jobCompleted (s : State) (n : Nat) : State :=
  let j := s.job n
  ((s.setJob n { j with adding := none }).finishJob n 6 0).testSoon j.part
/-- R267, R355, R380: the addition to the counter goes to its home slice. -/
def State.addOne (s : State) (n : Nat) (l : Loc) : State :=
  let j := s.job n
  let (id, t) := (s.noteWalk .iod j.part (j.dw 96).toNat).fresh
  (t.setJob n { j with adding := some id }).send .iod (t.home l) j.part .request
    (.access { req := id, kind := .atomic .add 1 0 false, loc := l, size := 8, va := j.dw 96, core := 0, slot := 0, part := j.part })
/-- R267, R355: the dirty lines of the job's clusters are written back; once they are home, the clusters are released, and 1 is added to the
counter. -/
def State.completeJob (s : State) (n : Nat) : State :=
  let j := s.job n
  let t := j.clusters.foldl (fun u cl => u.wbCluster cl) s
  if t.writesWait j.part || (j.dw 96 != 0 && t.walkCut .iod j.part (j.dw 96).toNat) then t
  else
    let u := t.release n
    match u.counterLoc j with
    | some l => u.addOne n l
    | none => u.jobCompleted n
/-- R267: the answer to that addition. -/
def State.added (s : State) (id : Nat) : Option Packet :=
  s.arrived.find? fun p => p.dst == .iod && (match p.body with | .accReply r _ _ => r == id | _ => false)
def execJobComplete (part job : Nat) (s : State) : Res :=
  onPart part true s (.next (
    let j := s.job job
    if j.part ≠ part ∨ j.final then s
    else match j.adding with
      | some id => (match (s.added id).bind fun p => s.takeArrived p.id with | some (_, t) => t.jobCompleted job | none => s)
      | none => if s.jobDone job then s.completeJob job else s))

/-! ### Faulted jobs, heartbeats, fences (R245, R284 to R286) -/

/-- R245: a removed strand ends once nothing of it is left. -/
def State.sweep (s : State) (c k : Nat) : State :=
  let x := s.slotOf c k
  if x.st = .parked .removed ∧ x.strand.quiet ∧ !s.meOpen c x.strand.sid ∧ !s.teOpen c x.strand.sid (fun _ => true) then s.endStrand c k else s
/-- R245, R285: the supervisor or the dispatch unit removes a strand; its elements and engine commands run to completion. -/
def State.removeStrand (s : State) (c k : Nat) : State :=
  let x := s.slotOf c k
  let t := s.setCore c { s.core c with semWait := (s.core c).semWait.filter fun e => e.1 != k }
  let t := ((t.semReturn c k).dropPlace c k).setSlot c k
    { x with st := .parked .removed, inflight := none, sempGrant := none, meGrant := false, teGrant := false, reads := [], spawning := false
             meWaited := false, early := none, place := none }
  let gone := (t.core c).reqs.filter fun r => !r.isWrite && r.eng.isNone && r.sid == x.strand.sid
  let t := (t.setCore c { t.core c with reqs := (t.core c).reqs.filter fun r => !gone.contains r }).dropTags c
    ((match x.inflight with | some f => [f.tag] | none => []) ++ gone.map (·.id))
  let t := { t with retry := t.retry.filter fun w => !(w.2.src == Node.core c && w.2.acc.slot == k) }
  let t := if (t.core c).fenced then
      t.setStrandOf c k { t.strandOf c k with unackElems := 0, unackWrites := 0 }
    else t.flushStrand c k
  t.sweep c k
/-- R285: a job is faulted. -/
def State.faultJob (s : State) (n : Nat) : State :=
  let t := s.cores.foldl (fun u e =>
    (List.range 16).foldl (fun v k =>
      if (v.slotOf e.1 k).st.live && (v.strandOf e.1 k).job == some n && (v.slotOf e.1 k).st != .parked .removed then v.removeStrand e.1 k else v) u) s
  let t : State := t.cores.foldl (fun u e => (e.2.inbox.filter fun m => m.strand.job == some n).foldl (fun v m => v.leftGang m.strand) u) t
  let t : State := t.cores.foldl (fun u e =>
    let c := u.core e.1
    let own := c.job == some n
    let c := { c with
      calls := c.calls.filter fun q => q.job != some n
      inbox := c.inbox.filter fun m => m.strand.job != some n
      claims := c.claims.filter fun x => x.job != n
      deque := if own then [] else c.deque, giving := if own then [] else c.giving, ringCount := if own then 0 else c.ringCount, steal := if own then {} else c.steal
      slots := c.slots.map fun x => if own && (match x.st with | .reserved _ => true | _ => false) then x.freed else x }
    u.setCore e.1 c) t
  let t := (t.job n).clusters.foldl (fun u cl => u.setCluster cl { u.cluster cl with
    gangs := (u.cluster cl).gangs.filter fun g => (u.gang g).started || (u.gang g).job != n }) t
  let t : State := { t with gangs := t.gangs.filter fun g => g.2.started || g.2.job != n }
  let j : Job := t.job n
  let t : State := if (t.partn j.part).waitJob = some n then t.setPartn j.part { t.partn j.part with waitJob := none } else t
  if j.final then t else (t.release n).finishJob n 5 0
/-- R285, R311: a core is fenced: it stops, and its buffers are discarded unsent, with the tiles and copies its port has not started to
hand on; callees of other jobs end with refusal 6. -/
def State.fenceCore (s : State) (c : Nat) (job : Option Nat) : State :=
  let t := s.setCore c { s.core c with fenced := true, aggs := Vector.replicate 16 {}, sent := [], handOn := (s.core c).handOn.filter (·.going), rotOut := [], giving := [] }
  (List.range 16).foldl (fun u k =>
    let x := u.slotOf c k
    if x.st.live && x.strand.job != job then
      match x.strand.role with
      | .callee q => ((u.replyCall (.core c) x.strand.part q (refusal 6)).vacate c k)
      | _ => u
    else u) t
/-- R284, R424, R425: the strand in a slot has missed its heartbeat; a stopped island finds no miss. -/
def State.heartMissed (s : State) (c k : Nat) : Bool :=
  let x := s.slotOf c k
  !s.islandOff (islandOf (clusterOf c)) && x.st.live && x.st != .parked .removed && !x.stopped && !(s.core c).fenced && x.strand.hbi != 0 && x.strand.hbc == 0 && !x.strand.hbNew
def execHeartbeatMiss (core slot : Nat) (s : State) : Res :=
  onUnit (core < Config.cores && slot < 16) (.next (
    if !s.heartMissed core slot then s
    else
      let job := (s.strandOf core slot).job
      let t := s.fenceCore core job
      match job with | some n => t.faultJob n | none => t))
/-- R252, R287: the strands of a core that belong to gangs leave them, as `UNFENCE` frees their slots. -/
def State.gangsLose (s : State) (core : Nat) : State :=
  (s.core core).slots.toList.foldl (fun u x =>
    match x.strand.role with | .gang g => if x.st.live && (u.gang g).live.contains x.strand.sid then u.leaveGang g x.strand.sid else u | _ => u) s
/-- R286, R287: the fence of a core of the partition ends: slots free; queues, engines and deque empty; LM is kept. R286 says that the queues are
reset to empty and is silent on their `QCFG`: the model clears all its fields too (DESIGN CHOICE, log 35). -/
def State.unfence (s : State) (part core : Nat) : State :=
  if !(s.core core).fenced || !((s.partn part).clusters.contains (clusterOf core)) then s
  else
    let s := s.gangsLose core
    let c := s.core core
    s.setCore core { c with
      fenced := false, slots := c.slots.map Slot.freed, queues := Vector.replicate 8 {}, chain := [], deque := [], ringHead := 0, ringCount := 0
      dequeJob := none, calls := [], inbox := [], claims := [], latch := [], meQueue := [], meBusy := false, handOn := [], rotOut := []
      tileIn := [], meLate := [], giving := [], teQueue := [], aggs := Vector.replicate 16 {}, sent := [], reqs := [], semWait := [], steal := {} }
def execUnfence (part : Nat) (val : W64) (s : State) : Res :=
  onUnit (part < 64) (.next (s.unfence part (field val.toNat 0 12)))

/-! ### `LAUNCH` (R219, R273) -/

/-- R273: where a queue would take a descriptor: the place of its tail; none where the queue does not take it. -/
def State.tailSlot (s : State) (part q : Nat) : Option Nat :=
  let x := s.squeue part q
  if !x.en || !x.mode || x.full then none else some (x.off + 128 * x.tail)
/-- The submission queue that a descriptor names. -/
def queueOf (bs : List Byte) : Nat := field (leNat ((bs.drop 88).take 8)) 16 6
/-- R273: a descriptor placed at the tail of its queue. -/
def State.placeDescriptor (s : State) (part q off : Nat) (bs : List Byte) : State :=
  let x := s.squeue part q
  let t := s.homeWrite (.hbm part off) (bs.take 112 ++ List.replicate 8 0 ++ bs.drop 120)
  t.setSqueue part q { x with tail := (x.tail + 1) % x.slots }
/-- R219, R273. A slot on a page that is taken out of use faults (R422); one that the front end cannot reach now is waited for (R372, R380). -/
def launchOp (a : GR) (c : PR) (s : State) : Res :=
  if (s.g a).toNat % 128 ≠ 0 then trapNow s 0x09 (s.g a)
  else releaseThen .pk (readDws (s.g a) 16 fun bs s =>
    let part := s.cur.pre.part
    match s.tailSlot part (queueOf bs) with
    | none => .next (s.setP c false)
    | some off =>
      if s.isRetired part off then trapNow s 0x08 (s.g a)
      else if s.frontBusy part off || s.frontBusy part (off + 64) then .next s.tryAgain
      else .next ((s.placeDescriptor part (queueOf bs) off bs).setP c true)) s
def execLaunch (a : GR) (c pg : PR) (s : State) : Res := strandOp (.launch a c pg) s (launchOp a c)

end Sys2Proof.Machine
end

