-- ==== Sys2Proof/Machine/Steal.lean ====
section
/-!
DEFINITION. Steal engines, and the ends of `YIELD` and `WAITT` (08_isa_engines_tasks.md R225; 10_execution_model.md R248 to R250).
-/
namespace Sys2Proof.Machine
open Sys2Proof

/-! ### The engine and its probes (R248, R249) -/

/-- R248: the job for which a core's steal engine is active. -/
def State.stealJob (s : State) (c : Nat) : Option Nat :=
  let co := s.core c
  match co.job with
  | none => none
  | some n =>
    let j := s.job n
    let busy := co.slots.toList.any fun x => x.st.live && x.strand.job == some n
    if j.isGang || !j.placed || j.final || co.fenced || busy || co.dequeSize != 0 || !co.calls.isEmpty || (s.freeSlot c).isNone ||
      decide (j.vcount > s.vregsFree c) then none else some n
/-- A list in ascending order of a key, equal keys in the order given. -/
def sortBy (key : Nat → Nat) (l : List Nat) : List Nat := l.mergeSort fun a b => decide (key a ≤ key b)
/-- R249: the victims of a round, in order. -/
def State.victims (s : State) (c n : Nat) : List Node :=
  let cl := clusterOf c
  let dom := (s.job n).domain
  let k := (s.core c).steal.k
  let own := ((List.range 16).map fun i => cl * 16 + (k + i) % 16).filter (· != c)
  let near := sortBy (fun d => meshDist cl d * 48 + d % 48) (dom.filter fun d => dieOf d == dieOf cl && d != cl)
  let far := sortBy (fun d => (dieOf d + 4 - dieOf cl) % 4 * 48 + d % 48) (dom.filter fun d => dieOf d != dieOf cl)
  own.map Node.core ++ (near ++ far).map Node.csm
/-- R249: the round has ended without an entry. -/
def StealEng.endRound (e : StealEng) (now : Nat) : StealEng := { e with k := (e.k + 1) % 16, pos := 0, pause := some (now + 64), slot := none }
def State.setSteal (s : State) (c : Nat) (e : StealEng) : State := s.setCore c { s.core c with steal := e }
/-- R249, R250: a probe, with the slot reserved for its thief. The spec does not say where a round goes on that the engine's stop has broken
off (R248): it resumes at `StealEng.pos` (DESIGN CHOICE, log 35). -/
def State.stealProbe (s : State) (c : Nat) : State :=
  let e := (s.core c).steal
  if e.slot.isSome || e.pause.isSome || !(s.core c).inbox.isEmpty || s.claimed c then s
  else match s.stealJob c, s.freeSlot c with
    | some n, some k =>
      (match (s.victims c n)[e.pos]? with
      | none => s.setSteal c (e.endRound (s.cycle c))
      | some v =>
        let j := s.job n
        let t := s.setSlot c k { s.slotOf c k with st := .reserved false, vregs := j.vcount }
        (t.setSteal c { e with slot := some k }).send (.core c) v j.part .request (.probe n c))
    | _, _ => s
def execStealProbe (core : Nat) (s : State) : Res := onCore core true s (.next (s.stealProbe core))
def execStealPauseEnd (core : Nat) (s : State) : Res :=
  onCore core true s (.next (
    match (s.core core).steal.pause with
    | some t => if s.cycle core < t then s else s.setSteal core { (s.core core).steal with pause := none }
    | none => s))

/-! ### Answers (R249, R250) -/

/-- R249: the core of a probed unit that gives its entry. -/
def State.victimOf (s : State) (v : Node) (job thief : Nat) : Option Nat :=
  let has (c : Nat) : Bool := decide ((s.core c).dequeSize > 0) && (s.core c).dequeJob == some job && !(s.core c).fenced
  match v with
  | .core c => if has c then some c else none
  | .csm cl => ((List.range 16).map fun i => cl * 16 + (thief % 16 + i) % 16).find? has
  | _ => none
/-- R250, steps 1 and 2: the head is removed; the buffers of the core are sent, and the acknowledgement of every element and direct write
is awaited. None while a buffer waits for a place (R375). -/
def State.giveEntry (s : State) (v : Node) (c thief part : Nat) : Option State :=
  let t := s.aggPushAll c .release fun b => b.dest.isSome
  if (t.core c).aggs.toList.any fun b => b.sending.isSome then none
  else match t.stealDeque c with
    | none => none
    | some (e, u) =>
      let (id, w) := u.fresh
      let co := w.core c
      some (w.setCore c { co with giving := co.giving ++ [
        { id, src := v, part, thief, entry := e, acks := co.sent.map fun p => (p.dest, p.seq), writes := (co.reqs.filter (·.isWrite)).map (·.id) }] })
/-- R250: every element and direct write before the steal is acknowledged. -/
def State.ackedAll (s : State) (c : Nat) (g : StealGive) : Bool :=
  (g.acks.all fun a => !((s.core c).sent.any fun p => p.dest == a.1 && p.seq == a.2)) &&
  g.writes.all fun i => !((s.core c).reqs.any fun r => r.id == i)
/-- R250, R372: the route of the copy has failed. -/
def State.copyFails (s : State) (victim thief : Nat) : Bool :=
  ((Node.core victim).route false (.core thief)).any fun l => s.failed.contains l
/-- R214, R250: the LM offset of an entry's header; none for a private-window address whose strand is no longer known (log 47). -/
def DequeEntry.off (e : DequeEntry) : Option Nat :=
  match e.at_ with
  | some o => some o
  | none => if e.frame.extractLsb' 52 12 = 0x01D ∧ e.frame.toNat % 2 ^ 52 + 64 ≤ Config.lmBytes then some (e.frame.toNat % 2 ^ 52) else none
/-- R250, step 3: the bytes of the copy: the header, and each tile of nonzero size; none where they do not lie in LM. -/
def State.copyImage (s : State) (c : Nat) (e : DequeEntry) : Option (List (Nat × List Byte)) :=
  e.off.bind fun o =>
    let tiles := (s.tilesAt c (o + 32)).filter fun t => t.size ≠ 0
    if tiles.any fun t => decide (t.off + t.size > Config.lmBytes) then none
    else some ((o, s.readAt (.lm c o) 64) :: tiles.map fun t => (t.off, s.readAt (.lm c t.off) t.size))
/-- R250: a fault of the copy goes to the supervisor (kind 6, R423; log 47), and the job is faulted. -/
def State.copyFaults (s : State) (c : Nat) (g : StealGive) : State :=
  let t := s.lastingFault g.part (BitVec.ofNat 64 c) 6
  match (t.core g.thief).job with | some n => t.faultJob n | none => t
/-- R250, steps 2 and 3, R368, R372: the core's lines are written back; once none of them waits the release is complete, and the copy leaves for
the thief. -/
def State.sendCopy (s : State) (c : Nat) (g : StealGive) : State :=
  let gone (t : State) : State := t.setCore c { t.core c with giving := (t.core c).giving.filter fun x => x.id != g.id }
  if s.copyFails c g.thief then (gone s).copyFaults c g
  else
    let t := s.cacheRelease c .pk
    if t.writesWait g.part then t
    else match t.copyImage c g.entry with
      | none => (gone t).copyFaults c g
      | some img => (gone t).send (.core c) (.core g.thief) g.part .request (.stealCopy g.entry img)
/-- R250: the core that gives an entry under a number. -/
def State.giver (s : State) (id : Nat) : Option (Nat × StealGive) :=
  s.cores.findSome? fun e => (e.2.giving.find? fun g => g.id == id).map fun g => (e.1, g)
/-- R250: a probe that takes no entry releases its slot. -/
def State.stealNothing (s : State) (c : Nat) : State :=
  let e := (s.core c).steal
  match e.slot with
  | none => s
  | some k =>
    let t := s.setSlot c k { s.slotOf c k with st := .free, vregs := 0 }
    let n := (t.core c).job.getD 0
    t.setSteal c (if e.pos + 1 ≥ (s.victims c n).length then e.endRound (s.cycle c) else { e with pos := e.pos + 1, slot := none })
def execStealProbeAnswer (id : Nat) (s : State) : Res :=
  match s.takeArrived id with
  | some (p, t) =>
    (match p.body, p.dst with
    | .probe job thief, v =>
      if v.fencedBy s then .next s
      else match t.victimOf v job thief with
        | some c => .next ((t.giveEntry v c thief p.part).getD (s.aggPushAll c .release fun b => b.dest.isSome))
        | none => .next (t.send v (.core thief) p.part .reply .noEntry)
    | .noEntry, .core c => .next (t.stealNothing c)
    | _, _ => .next s)
  | none =>
    match s.giver id with
    | some (c, g) => .next (if !s.coreStopped c && s.ackedAll c g then s.sendCopy c g else s)
    | none => .next s
/-- R250, steps 3 to 5: the copy is written, the thief's core takes its acquire, and the thief is created. -/
def State.finishSteal (s : State) (c : Nat) (e : DequeEntry) (img : List (Nat × List Byte)) : State :=
  match (s.core c).steal.slot, (s.core c).job with
  | some k, some n =>
    let t := (img.foldl (fun u x => u.writeAt (.lm c x.1) x.2) s).cacheAcquire c .pk
    let j := t.job n
    let (t, x) := t.newStrand (t.jobSet n) .thief e.pc j.vcount (t.slotArea c k j.callSize)
    let st := (t.core c).steal
    (t.placeStrand c k (x.withG 3 e.frame)).setSteal c { st with k := (st.k + 1) % 16, pos := 0, slot := none }
  | _, _ => s
def execStealCopyDone (id : Nat) (s : State) : Res :=
  match s.takeArrived id with
  | some ({ body := .stealCopy e img, dst := .core c, .. }, t) => .next (if (s.core c).fenced then s else t.finishSteal c e img)
  | _ => .next s

/-! ### Time (R225) -/

/-- R225: the strands that a `YIELD` issued at cycle `from_` still awaits: those that are Ready and have not issued since. -/
def State.yieldLeft (s : State) (c : Nat) (others : List Nat) (from_ : Nat) : List Nat :=
  others.filter fun k =>
    let x := s.slotOf c k
    x.st == .ready && !x.stopped && (match x.lastIssue with | some t => decide (t ≤ from_) | none => true)
/-- R225: a member that has issued, or is no longer Ready, is dropped; the wait ends with no member left, or at its limit of 16 cycles. -/
def execYieldEnd (core slot : Nat) (s : State) : Res :=
  onCore core (slot < 16) s (.next (
    match (s.slotOf core slot).st with
    | .waiting (.yield others limit) =>
      let left := s.yieldLeft core others (limit - 16)
      if left.isEmpty ∨ s.cycle core ≥ limit then s.wake core slot
      else s.setSlot core slot { s.slotOf core slot with st := .waiting (.yield left limit) }
    | _ => s))
def execWaittRelease (core slot : Nat) (s : State) : Res :=
  onCore core (slot < 16) s (.next (
    match (s.slotOf core slot).st with
    | .parked (.gtime t) => if s.gtime.ult t then s else s.wake core slot
    | _ => s))

end Sys2Proof.Machine
end

