-- ==== Sys2Proof/Machine/Phlox.lean ====
section
/-!
DEFINITION. Phlox handlers: RV32IMC, their address space, triggers and bindings (20_network_slices.md R382 to R386). The instructions
are those of the RISC-V unprivileged architecture, which the spec names (log 18).
-/
namespace Sys2Proof.Machine
open Sys2Proof

/-! ### RV32IMC (R383, log 18) -/

inductive RvAlu where | add | sub | sll | slt | sltu | xor | srl | sra | or | and | mul | mulh | mulhsu | mulhu | div | divu | rem | remu
deriving DecidableEq, Repr

inductive RvOp where
  | lui (rd : BitVec 5) (imm : W32)
  | auipc (rd : BitVec 5) (imm : W32)
  | jal (rd : BitVec 5) (off : W32)
  | jalr (rd rs : BitVec 5) (off : W32)
  | branch (f : BV3) (a b : BitVec 5) (off : W32)
  | load (f : BV3) (rd rs : BitVec 5) (off : W32)
  | store (size : Nat) (rs src : BitVec 5) (off : W32)
  | imm (o : RvAlu) (rd rs : BitVec 5) (v : W32)
  | reg (o : RvAlu) (rd a b : BitVec 5)
  | nop
  | ecall
deriving DecidableEq, Repr

def RvAlu.eval (o : RvAlu) (a b : W32) : W32 :=
  let sh := b.toNat % 32
  match o with
  | .add => a + b
  | .sub => a - b
  | .sll => a <<< sh
  | .slt => if a.slt b then 1 else 0
  | .sltu => if a.ult b then 1 else 0
  | .xor => a ^^^ b
  | .srl => a >>> sh
  | .sra => a.sshiftRight sh
  | .or => a ||| b
  | .and => a &&& b
  | .mul => a * b
  | .mulh => BitVec.ofInt 32 (a.toInt * b.toInt / 2 ^ 32)
  | .mulhsu => BitVec.ofInt 32 (a.toInt * b.toNat / 2 ^ 32)
  | .mulhu => BitVec.ofNat 32 (a.toNat * b.toNat / 2 ^ 32)
  | .div => if b = 0 then BitVec.allOnes 32 else a.sdiv b
  | .divu => if b = 0 then BitVec.allOnes 32 else a.udiv b
  | .rem => if b = 0 then a else a.srem b
  | .remu => if b = 0 then a else a.umod b

/-- Bits `hi` to `lo` of an instruction. -/
def rb (w : W32) (hi lo : Nat) : Nat := field w.toNat lo (hi + 1 - lo)
def rr (w : W32) (lo : Nat) : BitVec 5 := w.extractLsb' lo 5
/-- A number of `n` bits, extended with its sign. -/
def sx (n v : Nat) : W32 := if v.testBit (n - 1) then BitVec.ofNat 32 v - BitVec.ofNat 32 (2 ^ n) else BitVec.ofNat 32 v
def rvAluOf (f : Nat) : RvAlu :=
  match f with | 0 => .add | 1 => .sll | 2 => .slt | 3 => .sltu | 4 => .xor | 5 => .srl | 6 => .or | _ => .and
def rvMulOf (f : Nat) : RvAlu :=
  match f with | 0 => .mul | 1 => .mulh | 2 => .mulhsu | 3 => .mulhu | 4 => .div | 5 => .divu | 6 => .rem | _ => .remu
def rvIimm (w : W32) : W32 := sx 12 (rb w 31 20)

/-- A 32-bit instruction; none where it is illegal or `EBREAK`. -/
def rvWord (w : W32) : Option RvOp :=
  let f := rb w 14 12
  let rd := rr w 7
  let a := rr w 15
  let b := rr w 20
  match rb w 6 0 with
  | 0x37 => some (.lui rd (BitVec.ofNat 32 (rb w 31 12 * 4096)))
  | 0x17 => some (.auipc rd (BitVec.ofNat 32 (rb w 31 12 * 4096)))
  | 0x6F => some (.jal rd (sx 21 (rb w 31 31 * 2 ^ 20 + rb w 19 12 * 2 ^ 12 + rb w 20 20 * 2 ^ 11 + rb w 30 21 * 2)))
  | 0x67 => if f = 0 then some (.jalr rd a (rvIimm w)) else none
  | 0x63 =>
    if f = 2 ∨ f = 3 then none
    else some (.branch (BitVec.ofNat 3 f) a b (sx 13 (rb w 31 31 * 2 ^ 12 + rb w 7 7 * 2 ^ 11 + rb w 30 25 * 32 + rb w 11 8 * 2)))
  | 0x03 => if f = 3 ∨ f ≥ 6 then none else some (.load (BitVec.ofNat 3 f) rd a (rvIimm w))
  | 0x23 => if f ≥ 3 then none else some (.store (2 ^ f) a b (sx 12 (rb w 31 25 * 32 + rb w 11 7)))
  | 0x13 =>
    let top := rb w 31 25
    if f = 1 then (if top = 0 then some (.imm .sll rd a (BitVec.ofNat 32 (rb w 24 20))) else none)
    else if f = 5 then
      (if top = 0 then some (.imm .srl rd a (BitVec.ofNat 32 (rb w 24 20)))
       else if top = 32 then some (.imm .sra rd a (BitVec.ofNat 32 (rb w 24 20))) else none)
    else some (.imm (rvAluOf f) rd a (rvIimm w))
  | 0x33 =>
    let top := rb w 31 25
    if top = 0 then some (.reg (rvAluOf f) rd a b)
    else if top = 1 then some (.reg (rvMulOf f) rd a b)
    else if top = 32 ∧ f = 0 then some (.reg .sub rd a b)
    else if top = 32 ∧ f = 5 then some (.reg .sra rd a b) else none
  | 0x0F => if f ≤ 1 then some .nop else none
  | 0x73 => if w = 0x73 then some .ecall else none
  | _ => none

/-- A compressed instruction; none where it is illegal, reserved or `C.EBREAK`. -/
def rvHalf (h : W32) : Option RvOp :=
  let f := rb h 15 13
  let rd := rr h 7
  let r2 := rr h 2
  let p (lo : Nat) : BitVec 5 := BitVec.ofNat 5 (8 + field h.toNat lo 3)
  let six := rb h 12 12 * 32 + rb h 6 2
  match rb h 1 0, f with
  | 0, 0 =>
    let n := rb h 10 7 * 64 + rb h 12 11 * 16 + rb h 5 5 * 8 + rb h 6 6 * 4
    if n = 0 then none else some (.imm .add (p 2) 2 (BitVec.ofNat 32 n))
  | 0, 2 => some (.load 2 (p 2) (p 7) (BitVec.ofNat 32 (rb h 5 5 * 64 + rb h 12 10 * 8 + rb h 6 6 * 4)))
  | 0, 6 => some (.store 4 (p 7) (p 2) (BitVec.ofNat 32 (rb h 5 5 * 64 + rb h 12 10 * 8 + rb h 6 6 * 4)))
  | 1, 0 => some (.imm .add rd rd (sx 6 six))
  | 1, 2 => some (.imm .add rd 0 (sx 6 six))
  | 1, 3 =>
    if six = 0 then none
    else if rd = 2 then
      some (.imm .add 2 2 (sx 10 (rb h 12 12 * 512 + rb h 4 3 * 128 + rb h 5 5 * 64 + rb h 2 2 * 32 + rb h 6 6 * 16)))
    else some (.lui rd (sx 18 (six * 4096)))
  | 1, 4 =>
    (match rb h 11 10 with
    | 0 => if rb h 12 12 = 1 then none else some (.imm .srl (p 7) (p 7) (BitVec.ofNat 32 six))
    | 1 => if rb h 12 12 = 1 then none else some (.imm .sra (p 7) (p 7) (BitVec.ofNat 32 six))
    | 2 => some (.imm .and (p 7) (p 7) (sx 6 six))
    | _ =>
      if rb h 12 12 = 1 then none
      else match rb h 6 5 with
        | 0 => some (.reg .sub (p 7) (p 7) (p 2))
        | 1 => some (.reg .xor (p 7) (p 7) (p 2))
        | 2 => some (.reg .or (p 7) (p 7) (p 2))
        | _ => some (.reg .and (p 7) (p 7) (p 2)))
  | 1, 1 => some (.jal 1 (cjOff h))
  | 1, 5 => some (.jal 0 (cjOff h))
  | 1, 6 => some (.branch 0 (p 7) 0 (cbOff h))
  | 1, 7 => some (.branch 1 (p 7) 0 (cbOff h))
  | 2, 0 => if rb h 12 12 = 1 then none else some (.imm .sll rd rd (BitVec.ofNat 32 six))
  | 2, 2 => if rd = 0 then none else some (.load 2 rd 2 (BitVec.ofNat 32 (rb h 3 2 * 64 + rb h 12 12 * 32 + rb h 6 4 * 4)))
  | 2, 4 =>
    if rb h 12 12 = 0 then
      (if r2 = 0 then (if rd = 0 then none else some (.jalr 0 rd 0)) else some (.reg .add rd 0 r2))
    else if r2 = 0 then (if rd = 0 then none else some (.jalr 1 rd 0))
    else some (.reg .add rd rd r2)
  | 2, 6 => some (.store 4 2 r2 (BitVec.ofNat 32 (rb h 8 7 * 64 + rb h 12 9 * 4)))
  | _, _ => none
where
  /-- The offset of `C.J` and `C.JAL`. -/
  cjOff (h : W32) : W32 :=
    sx 12 (rb h 12 12 * 2048 + rb h 8 8 * 1024 + rb h 10 9 * 256 + rb h 6 6 * 128 + rb h 7 7 * 64 + rb h 2 2 * 32 + rb h 11 11 * 16 +
      rb h 5 3 * 2)
  /-- The offset of `C.BEQZ` and `C.BNEZ`. -/
  cbOff (h : W32) : W32 := sx 9 (rb h 12 12 * 256 + rb h 6 5 * 64 + rb h 2 2 * 32 + rb h 11 10 * 8 + rb h 4 3 * 2)

/-! ### The address space of a handler (R383, R384) -/

/-- R386: the 1,024 bytes of handler `n`. -/
def Slice.codeOf (c : Slice) (n : Nat) : List Byte := tget c.code n (List.replicate 1024 0)
/-- R383: the arguments, the trigger's address and its source. -/
def PhloxTrig.image (t : PhloxTrig) : List Byte :=
  ((List.range 4).flatMap fun i => leBytes 8 (t.args.getD i 0).toNat) ++ leBytes 8 (t.pa % 2 ^ 52) ++ leBytes 4 (t.dev * 2 ^ 16 + t.core)

/-- R413: a leaf with a slot maps a physical address, among the entries of a table of level `n` and those below it. -/
def State.sealedFrom (s : State) (part pa : Nat) : Nat → Nat → Bool
  | 0, _ => false
  | n + 1, table =>
    (List.range 512).any fun i =>
      match s.pte part (table + 8 * i) with
      | none => false
      | some e =>
        if !bit e 0 then false
        else if field e 1 3 = 0 then s.sealedFrom part pa n (field e 12 40 * 4096)
        else match leafOf (n + 1) e with
          | some (b, sl) => sl != 0 && decide (b ≤ pa) && decide (pa < b + 2 ^ (12 + 9 * n))
          | none => false
def State.isSealed (s : State) (part pa : Nat) : Bool :=
  (s.partn part).ten && s.sealedFrom part pa 5 ((s.partn part).ptRoot.toNat * 4096)
/-- R384: the location of the line port: a line of the partition homed on this slice, not sealed for a store. -/
def State.lineLoc (s : State) (r : Rv) (store : Bool) : Option Loc :=
  let pa := r.lpa / 64 * 64
  match s.paLoc r.trig.part pa with
  | some (.hbm p o) => if s.homeSlice p o = r.slice ∧ !(store && s.isSealed p pa) then some (.hbm p o) else none
  | _ => none
/-- R383: the slice's own slice memory; a page taken out of use is none of it (R422; log 41). -/
def State.ownScratchLoc (s : State) (r : Rv) (off : Nat) : Option Loc :=
  let p := s.partn r.trig.part
  match p.slices.findIdx? (· == r.slice) with
  | some i =>
    let o := 2 ^ 41 + i * 2 ^ 23 + off
    if off < p.scr.toNat * 2 ^ 20 ∧ !s.isRetired r.trig.part o then some (.hbm r.trig.part o) else none
  | none => none
/-- R383: `n` aligned bytes read; none where the address is not in the map. -/
def State.rvLoad (s : State) (r : Rv) (a n : Nat) : Option (List Byte) :=
  let sl := s.slice r.slice
  if a % n ≠ 0 then none
  else if a < 0x10000 then some (((sl.codeOf (a / 1024)).drop (a % 1024)).take n)
  else if a < 0x14000 then some ((List.range n).map fun i => tget sl.scratch (a - 0x10000 + i) 0)
  else if 0x20000 ≤ a ∧ a < 0x2002C then some ((r.trig.image.drop (a - 0x20000)).take n)
  else if 0x30000 ≤ a ∧ a < 0x30040 then (s.lineLoc r false).map fun l => s.homeRead (l.add (a - 0x30000)) n 0 0
  else if 0x30040 ≤ a ∧ a < 0x30048 then some (((leBytes 8 r.lpa).drop (a - 0x30040)).take n)
  else if 0x20000000 ≤ a then (s.ownScratchLoc r (a - 0x20000000)).map fun l => s.homeRead l n 0 0
  else none
/-- R383: `n` aligned bytes written. -/
def State.rvStore (s : State) (r : Rv) (a : Nat) (bs : List Byte) : Option (State × Rv) :=
  let sl := s.slice r.slice
  if a % bs.length ≠ 0 then none
  else if 0x10000 ≤ a ∧ a < 0x14000 then
    some (s.setSlice r.slice { sl with scratch := bs.zipIdx.foldl (fun t b => tset t (a - 0x10000 + b.2) b.1) sl.scratch }, r)
  else if 0x30000 ≤ a ∧ a < 0x30040 then (s.lineLoc r true).map fun l => (s.homeWrite (l.add (a - 0x30000)) bs, r)
  else if 0x30040 ≤ a ∧ a < 0x30048 then some (s, { r with lpa := leNat (overwrite (leBytes 8 r.lpa) (a - 0x30040) bs) % 2 ^ 52 })
  else if 0x20000000 ≤ a then (s.ownScratchLoc r (a - 0x20000000)).map fun l => (s.homeWrite l bs, r)
  else none

/-! ### A run (R383, R384) -/

def Rv.get (r : Rv) (i : BitVec 5) : W32 := if i = 0 then 0 else rget r.x i
def Rv.set (r : Rv) (i : BitVec 5) (v : W32) : Rv := if i = 0 then r else { r with x := rset r.x i v }
/-- The instruction at `pc` and its length; none where the fetch or the instruction is not legal. -/
def State.rvFetch (s : State) (r : Rv) : Option (RvOp × Nat) :=
  let half (a : Nat) : Option Nat :=
    if a < 0x10000 ∧ a % 2 = 0 then some (leNat ((((s.slice r.slice).codeOf (a / 1024)).drop (a % 1024)).take 2)) else none
  (half r.pc.toNat).bind fun lo =>
    if lo % 4 = 3 then (half (r.pc.toNat + 2)).bind fun hi => (rvWord (BitVec.ofNat 32 (hi * 65536 + lo))).map fun o => (o, 4)
    else (rvHalf (BitVec.ofNat 32 lo)).map fun o => (o, 2)
def rvTaken (f : BV3) (a b : W32) : Bool :=
  match f.toNat with | 0 => a == b | 1 => a != b | 4 => a.slt b | 5 => !a.slt b | 6 => a.ult b | _ => !a.ult b
/-- How a handler stands after an instruction. -/
inductive RvRes where
  | go (s : State) (r : Rv)
  | ends (s : State) (v : W64)
/-- One instruction. -/
def State.rvStep (s : State) (r : Rv) : RvRes :=
  match s.rvFetch r with
  | none => .ends s (refusal 7)
  | some (o, len) =>
    let next : W32 := r.pc + BitVec.ofNat 32 len
    let on (q : Rv) : RvRes := .go s { q with pc := next }
    match o with
    | .lui d v => on (r.set d v)
    | .auipc d v => on (r.set d (r.pc + v))
    | .jal d off => .go s { r.set d next with pc := r.pc + off }
    | .jalr d a off => .go s { r.set d next with pc := (r.get a + off) &&& ~~~1 }
    | .branch f a b off => .go s { r with pc := if rvTaken f (r.get a) (r.get b) then r.pc + off else next }
    | .load f d a off =>
      let n := 2 ^ (f.toNat % 4)
      (match s.rvLoad r (r.get a + off).toNat n with
      | some bs => on (r.set d (if f.toNat < 4 then sx (8 * n) (leNat bs) else BitVec.ofNat 32 (leNat bs)))
      | none => .ends s (refusal 7))
    | .store n a b off =>
      (match s.rvStore r (r.get a + off).toNat (leBytes n (r.get b).toNat) with
      | some (t, q) => .go t { q with pc := next }
      | none => .ends s (refusal 7))
    | .imm k d a v => on (r.set d (k.eval (r.get a) v))
    | .reg k d a b => on (r.set d (k.eval (r.get a) (r.get b)))
    | .nop => on r
    | .ecall => .ends s (BitVec.ofNat 64 (rb (r.get 11) 30 0 * 2 ^ 32 + (r.get 10).toNat))
/-- The address in its space that the next instruction of a handler loads from or stores to. -/
def State.rvReach (s : State) (r : Rv) : Option Nat :=
  match s.rvFetch r with
  | some (.load _ _ a off, _) | some (.store _ a _ off, _) => some (r.get a + off).toNat
  | _ => none
/-- R383, R380: the line of HBM that the next instruction waits for: one absent from the slice, or one with accesses before it. -/
def State.rvWaits (s : State) (r : Rv) : Option (Nat × Nat) :=
  match s.rvReach r with
  | none => none
  | some a =>
    if 0x30000 ≤ a ∧ a < 0x30040 then
      match s.lineLoc r false with
      | some (.hbm p o) =>
        let c := s.slice r.slice
        if decide (o < 2 ^ 41) && (!c.has p o 0 || c.fills.any fun f => f.1.loc.onLine p o) then some (p, lineOf o) else none
      | _ => none
    else none
/-- R383: the cycles of the next instruction: 4 at the line port and the slice memory. -/
def State.rvCycles (s : State) (r : Rv) : Nat :=
  match s.rvReach r with
  | some a => if (0x30000 ≤ a ∧ a < 0x30040) ∨ 0x20000000 ≤ a then 4 else 1
  | none => 1
/-- R384: a handler runs to its end at once, as the stop of a gang switch has it: at most so many instructions; one more is refused with
reason 3. -/
def State.rvRun (s : State) (r : Rv) : Nat → State × W64
  | 0 => (s, refusal 3)
  | n + 1 => match s.rvStep r with | .go t q => t.rvRun q n | .ends t v => (t, v)
/-- The cycles of a slice's island. -/
def State.sliceCycle (s : State) (n : Nat) : Nat := (vget s.islands (sliceIsland n) {}).cycles
/-- R383: the registers at entry. -/
def rvEntry (slice : Nat) (t : PhloxTrig) : Rv :=
  let v (i : Nat) : W32 := BitVec.ofNat 32 ((t.args.getD (i / 2) 0).toNat / 2 ^ (32 * (i % 2)))
  { slice, trig := t, lpa := t.pa % 2 ^ 52, pc := BitVec.ofNat 32 (1024 * t.index)
    x := (List.range 8).foldl (fun x i => vset x (10 + i) (v i)) (vset (Vector.replicate 32 0) 2 0x00014000) }

/-! ### Triggers (R213, R382) -/

/-- R213: the reply of a trigger that asked for one. -/
def State.phloxReply (s : State) (slice : Nat) (t : PhloxTrig) (v : W64) : State :=
  match t.req with
  | some id => s.replyCall (.slice slice) t.part { dev := t.dev, core := t.core, slot := t.slot, req := id } v
  | none => s
def State.setRun (s : State) (slice : Nat) (r : Option Rv) : State := s.setSlice slice { s.slice slice with run := r }
/-- R382: a handler starts. -/
def State.runHandler (s : State) (slice : Nat) (t : PhloxTrig) : State :=
  s.setRun slice (some { rvEntry slice t with due := s.sliceCycle slice })
/-- R384: a handler has ended, with its reply. -/
def State.endHandler (s : State) (slice : Nat) (r : Rv) (v : W64) : State :=
  (s.setSlice slice { s.slice slice with run := none, entryAt := s.sliceCycle slice + 1 }).phloxReply slice r.trig v
/-- R384: the next entry may start: a cycle has passed since a handler ended. -/
def State.entryOpen (s : State) (slice : Nat) : Bool := decide ((s.slice slice).entryAt ≤ s.sliceCycle slice)
/-- R383, R384: the handler under way runs its next instruction. -/
def State.rvNext (s : State) (slice : Nat) (r : Rv) : State :=
  if s.sliceCycle slice < r.due ∨ (s.rvWaits r).isSome then s
  else if r.left = 0 then s.endHandler slice r (refusal 3)
  else match s.rvStep r with
    | .go t q => t.setRun slice (some { q with left := r.left - 1, due := s.sliceCycle slice + s.rvCycles r })
    | .ends t v => t.endHandler slice r v
/-- R289: the handler under way is completed. -/
def State.finishHandler (s : State) (slice : Nat) : State :=
  match (s.slice slice).run with
  | some r => let (t, v) := s.rvRun r r.left; t.endHandler slice r v
  | none => s
def PhloxEntry.isTrig : PhloxEntry → Bool | .trig _ => true | _ => false
def State.triggerArrive (s : State) (slice : Nat) (t : PhloxTrig) : State :=
  let c := s.slice slice
  if !(s.partn t.part).slices.contains slice then s.phloxReply slice t (refusal 2)
  else if (c.queue.filter PhloxEntry.isTrig).length ≥ 32 then s.phloxReply slice t (refusal 1)
  else s.setSlice slice { c with queue := c.queue ++ [.trig t] }
def execAmsgTriggerArrive (id : Nat) (s : State) : Res :=
  match s.takeArrived id with
  | some ({ body := .amsg t, dst := .slice n, .. }, u) => .next (u.triggerArrive n t)
  | _ => .next s
/-- R382: the trigger at the head of the queue is taken. -/
def State.takeTrig (s : State) (slice : Nat) (t : PhloxTrig) (r : List PhloxEntry) : State :=
  let c := s.slice slice
  let u := s.setSlice slice { c with queue := r }
  if c.bound.getLsbD t.index then u.runHandler slice t
  else if c.pending.length ≥ 16 then u.phloxReply slice t (refusal 4)
  else u.setSlice slice { c with queue := r, pending := c.pending ++ [t] }
/-- R382, R383: the handler under way goes on by an instruction; else a pending trigger that a binding has released runs, before the
trigger at the head. A partition that is stopped starts none (R289). -/
def execHandlerRun (slice : Nat) (s : State) : Res :=
  onSlice slice true s (.next (
    let c := s.slice slice
    match c.run, c.ready, c.queue with
    | some r, _, _ => s.rvNext slice r
    | none, t :: l, _ => if s.heldPart t.part || !s.entryOpen slice then s else (s.setSlice slice { c with ready := l }).runHandler slice t
    | none, [], .trig t :: r => if s.heldPart t.part || !s.entryOpen slice then s else s.takeTrig slice t r
    | _, _, _ => s))
/-- R386: the bind entry at the head; one of length 0 reads no code and unbinds. Code that lies on a page taken out of use cannot be read, and nothing is bound (R422; DESIGN CHOICE,
log 41); else the code is copied, then the pending triggers of the index are to run. -/
def State.bindEntry (s : State) (slice part idx pa len : Nat) : State :=
  let c := s.slice slice
  if len ≠ 0 ∧ (s.isRetired part (pa % 2 ^ 43) ∨ s.isRetired part (pa % 2 ^ 43 + len - 1)) then s.setPartn part { s.partn part with bBusy := false, bErr := 2 } else
  let bs := s.homeRead (.hbm part (pa % 2 ^ 43)) len 0 0
  let mine := c.pending.filter fun t => t.index == idx
  let b : BitVec 64 := (1 : BitVec 64) <<< idx
  let u := s.setSlice slice { c with
    code := tset c.code idx (overwrite (c.codeOf idx) 0 bs), bound := if len = 0 then c.bound &&& ~~~b else c.bound ||| b
    pending := if len = 0 then c.pending else c.pending.filter fun t => t.index != idx
    ready := if len = 0 then c.ready else c.ready ++ mine }
  u.setPartn part { u.partn part with bBusy := false }
def execBindEntry (slice : Nat) (s : State) : Res :=
  onSlice slice true s (.next (
    let c := s.slice slice
    match c.queue with
    | .bind part idx pa len :: r =>
      if c.run.isSome || !c.ready.isEmpty || s.heldPart part || !s.entryOpen slice then s else (s.setSlice slice { c with queue := r }).bindEntry slice part idx pa len
    | _ => s))

end Sys2Proof.Machine
end

