-- ==== Sys2Proof/Machine/Registers.lean ====
section
/-!
DEFINITION. The registers of BAR 0: the area of each partition and the device registers; one read and one write of a whole register,
and the writes that act (00_scope.md R4; 12 R287, R288, R295; 17 R330, R331; 20 R369, R385, R386; 22 R391, R399 to R403; 23 R405; 24
R420, R423 to R425).
-/
namespace Sys2Proof.Machine
open Sys2Proof

def w64 (n : Nat) : W64 := BitVec.ofNat 64 n

/-! ### The gang switch's registers (R287, R288, R295) -/

/-- R287: the fenced cores of a partition. -/
def State.fencedCores (s : State) (part : Nat) : Nat := (((s.partn part).clusters.flatMap coresOf).filter fun c => (s.core c).fenced).length
/-- R292: the bytes of a save area. -/
def Partition.saveBytes (p : Partition) : Nat := 2 * 2 ^ 20 + 12 * 2 ^ 20 * p.clusters.length
/-- R287: the offset of a page-aligned PA in the partition's HBM; none where a range from it does not lie wholly there. -/
def State.hbmRange (s : State) (part pa len align : Nat) : Option Nat :=
  if pa / 2 ^ 43 = s.devid.toNat ∧ pa % align = 0 ∧ pa % 2 ^ 43 + len ≤ (s.partn part).hbm then some (pa % 2 ^ 43) else none
/-- R288, R295: the checks of a request, `ARM` at `ST` 0 and `RES` at `ST` 3: 0, or the error; their order is the model's (DEDUCED, log 37). -/
def State.swCheck (s : State) (part want : Nat) : Nat :=
  let p := s.partn part
  if p.swSt.toNat ≠ want then 4
  else if p.swtime.toNat < s.gtime.toNat + 10000 then 1
  else if (s.hbmRange part p.swbase.toNat p.saveBytes (2 * 2 ^ 20)).isNone then 2
  else if want = 3 ∧ !(p.images.any fun i => i.base == p.swbase.toNat) then 3
  else 0
/-- R288: a request that is refused sets `SWSTAT.ERR` and nothing else. -/
def State.swFail (s : State) (part err : Nat) : State := s.setPartn part { s.partn part with swErr := BitVec.ofNat 8 err }
/-- R288: `ARM`. -/
def State.swArm (s : State) (part : Nat) : State :=
  match s.swCheck part 0 with
  | 0 => s.setPartn part { s.partn part with swSt := 1, swAt := (s.partn part).swtime }
  | e => s.swFail part e
/-- R288, R295: `RES`; the restore takes place when the machine resumes (Machine/Switch.lean). -/
def State.swRes (s : State) (part : Nat) : State :=
  match s.swCheck part 3 with
  | 0 => s.setPartn part { s.partn part with swSt := 4, swAt := (s.partn part).swtime }
  | e => s.swFail part e
/-- R287: a write of `SWCTL`. -/
def State.swctlWrite (s : State) (part : Nat) (v : W64) : State :=
  if v.getLsbD 0 && v.getLsbD 1 then s.swFail part 5
  else if v.getLsbD 0 then s.swArm part
  else if v.getLsbD 1 then s.swRes part
  else s

/-! ### Page migration (R330, R331) -/

/-- R331: whether `GO` is accepted: pages aligned and in the partition's HBM. -/
def State.pmGo (s : State) (part : Nat) : State × Bool :=
  let p := s.partn part
  let n := pmBytes p.pm.sz
  match s.hbmRange part (p.pmsrc.toNat * 4096) n n, s.hbmRange part (p.pmdst.toNat * 4096) n n with
  | some a, some b =>
    (s.setPartn part { p with
      pm := { p.pm with st := 1, src := a, dst := b, len := n }
      replicas := p.replicas.filter fun r => !meets (r.region * 65536) 65536 a n }, true)
  | _, _ => (s, false)
/-- R330: every cached line of the old page goes. -/
def State.dropRange (s : State) (part a n : Nat) : State :=
  let sel (q pa : Nat) : Bool := q == part && decide (a ≤ pa) && decide (pa < a + n)
  (s.partn part).clusters.foldl (fun t cl =>
    let t := (coresOf cl).foldl (fun u c => if (u.core c).l1d.isEmpty then u else u.invCore c sel) t
    t.invCore (cl * 16) sel) s
/-- R330: `CLR`. -/
def State.pmClr (s : State) (part : Nat) : State :=
  let m := (s.partn part).pm
  let t := s.dropRange part m.src m.len
  t.setPartn part { t.partn part with pm := { (t.partn part).pm with st := 0 } }
/-- R331: `ERR` of `PMCTL`: whether the last request was refused. -/
def State.pmAnswered (s : State) (part : Nat) (refused : Bool) : State :=
  s.setPartn part { s.partn part with pm := { (s.partn part).pm with err := refused } }
/-- R331: a write of `PMCTL`. -/
def State.pmctlWrite (s : State) (part : Nat) (v : W64) : State :=
  let p := s.partn part
  let sz := v.extractLsb' 8 2
  let t := s.setPartn part { p with pm := { p.pm with
    sz := if sz = 3 then p.pm.sz else sz, err := p.pm.err && !v.getLsbD 4 } }
  let go (u : State) : State :=
    if p.pm.st ≠ 0 then u.pmAnswered part true else let (w, ok) := u.pmGo part; w.pmAnswered part !ok
  let clr (u : State) : State := if p.pm.st = 2 then (u.pmClr part).pmAnswered part false else u.pmAnswered part true
  let t := if v.getLsbD 0 then go t else t
  if v.getLsbD 1 then clr t else t

/-! ### Bindings (R385, R386) -/

def State.bctlGo (s : State) (part : Nat) : State :=
  let p := s.partn part
  let fail (n : BV2) : State := s.setPartn part { p with bErr := n }
  let n := p.blen.toNat
  let code := match s.paLoc part p.bcode.toNat, s.paLoc part (p.bcode.toNat + (n - 1)) with
    | some (.hbm _ _), some (.hbm _ _) => decide (p.bcode.toNat % 64 = 0)
    | _, _ => false
  if p.bBusy then fail 3
  else if !p.slices.contains p.bslice.toNat then fail 1
  else if n % 2 = 1 ∨ n > 1024 ∨ !code then fail 2
  else
    let c := s.slice p.bslice.toNat
    (s.setPartn part { p with bBusy := true }).setSlice p.bslice.toNat
      { c with queue := c.queue ++ [.bind part p.bidx.toNat p.bcode.toNat n] }
def State.bctlWrite (s : State) (part : Nat) (v : W64) : State :=
  let t := s.setPartn part { s.partn part with blen := v.extractLsb' 16 16, bidx := v.extractLsb' 0 6 }
  if v.getLsbD 63 then t.bctlGo part else t

/-! ### Submission queues (R401) -/

/-- R401: `EN` from 0 to 1. -/
def State.queueEnable (s : State) (part q : Nat) : State :=
  let x := s.squeue part q
  let bytes := 128 * 2 ^ x.logn.toNat
  if x.logn = 0 ∨ (s.hbmRange part x.base.toNat bytes (max 4096 bytes)).isNone then s.setSqueue part q { x with err := 4 }
  else if x.head ≠ x.tail then s.setSqueue part q { x with err := 5 }
  else s.setSqueue part q { x with en := true, ring := x.logn, head := 0, tail := 0, next := 0 }
def State.sqcfgWrite (s : State) (part q : Nat) (v : W64) : State :=
  let x := s.squeue part q
  let logn := v.extractLsb' 12 4
  let y := { x with
    err := x.err &&& ~~~(v.extractLsb' 16 8), weight := v.extractLsb' 8 4, ivec := v.extractLsb' 3 5, ie := v.getLsbD 2
    logn := if x.en ∨ logn = 0 ∨ logn.toNat > 12 then x.logn else logn, mode := if x.en then x.mode else v.getLsbD 1 }
  if x.en then s.setSqueue part q { y with en := v.getLsbD 0 }
  else if v.getLsbD 0 then (s.setSqueue part q y).queueEnable part q
  else s.setSqueue part q y
def SubQueue.cfg (x : SubQueue) : W64 :=
  w64 (x.err.toNat * 2 ^ 16 + x.logn.toNat * 2 ^ 12 + x.weight.toNat * 2 ^ 8 + x.ivec.toNat * 8 + bit01 x.ie * 4 + bit01 x.mode * 2 +
    bit01 x.en)

/-! ### The control block (R287, R331, R385, R391, R400, R405, R423) -/

/-- R391: ports that another partition holds. -/
def State.portsOfOthers (s : State) (part : Nat) : BitVec 18 :=
  s.parts.foldl (fun m e => if e.1 = part ∨ !e.2.exists_ then m else m ||| e.2.pmask) 0
/-- R331: a job of the partition is placed. -/
def State.anyPlaced (s : State) (part : Nat) : Bool := s.jobs.any fun e => e.2.part == part && e.2.placed
/-- A register of the control block, as the privileged view reads it. -/
def State.ctlRead (s : State) (part off : Nat) : W64 :=
  let p := s.partn part
  match off with
  | 0x00 => p.swtime
  | 0x08 => p.swbase.setWidth 64
  | 0x18 => w64 (p.swErr.toNat * 256 + p.swSt.toNat)
  | 0x20 => w64 (s.fencedCores part)
  | 0x40 => w64 (p.ptRoot.toNat * 4096 + bit01 p.ten)
  | 0x48 => w64 (p.hotthr.toNat * 2 ^ 32 + p.scr.toNat * 2 ^ 16 + p.slices.length * 2 ^ 8 + bit01 p.imode)
  | 0x50 => w64 (p.pmsrc.toNat * 4096)
  | 0x58 => w64 (p.pmdst.toNat * 4096)
  | 0x60 => w64 (p.pm.sz.toNat * 2 ^ 8 + bit01 p.pm.err * 16 + p.pm.st.toNat * 4)
  | 0x80 => p.bslice.setWidth 64
  | 0x88 => p.bcode.setWidth 64
  | 0x90 => w64 (p.blen.toNat * 2 ^ 16 + p.bidx.toNat)
  | 0x98 => w64 (p.bErr.toNat * 2 ^ 8 + bit01 p.bBusy)
  | 0xA0 => p.pmask.setWidth 64
  | 0xB0 => w64 (bit01 (p.waper.getLsbD 6) * 2 ^ 63 + p.waper.toNat % 64)
  | 0xB8 => p.wbase.setWidth 64
  | 0x160 => p.psl
  | 0x300 => p.lfcnt.setWidth 64
  | _ =>
    if 0xC0 ≤ off ∧ off < 0x140 then vget p.peers ((off - 0xC0) / 8) 0
    else if 0x140 ≤ off ∧ off < 0x160 then (vget p.pcl ((off - 0x140) / 8) 0).setWidth 64
    else if 0x180 ≤ off ∧ off < 0x1A0 then vget p.kown ((off - 0x180) / 8) 0
    else if 0x310 ≤ off ∧ off < 0x410 then
      (let r := vget p.lfrecs ((off - 0x310) / 16) {}
       if (off - 0x310) % 16 = 0 then r.w0 else r.w1)
    else 0
/-- R391: the fields of a `PEER`. -/
def peerFields (v : W64) : W64 := v &&& w64 (2 ^ 63 + 511 * 2 ^ 16 + 63)
/-- A register of the control block, written by the privileged view. -/
def State.ctlWrite (s : State) (part off : Nat) (v : W64) : State :=
  let p := s.partn part
  let set (q : Partition) : State := s.setPartn part q
  match off with
  | 0x00 => set { p with swtime := v }
  | 0x08 => set { p with swbase := v.setWidth 52 }
  | 0x10 => s.swctlWrite part v
  | 0x18 => set { p with swErr := p.swErr &&& ~~~(v.extractLsb' 8 8) }
  | 0x28 => s.unfence part (field v.toNat 0 12)
  | 0x40 => set { p with ptRoot := v.extractLsb' 12 40, ten := v.getLsbD 0 }
  | 0x48 =>
    let hot := v.extractLsb' 32 16
    let q := { p with hotthr := hot, replicas := if hot = 0 then [] else p.replicas }
    if s.anyPlaced part then set q
    else p.slices.foldl (fun t n => t.makeRoom n part 0) (set { q with scr := v.extractLsb' 16 3, imode := v.getLsbD 0 })
  | 0x50 => set { p with pmsrc := v.extractLsb' 12 40 }
  | 0x58 => set { p with pmdst := v.extractLsb' 12 40 }
  | 0x60 => s.pmctlWrite part v
  | 0x80 => set { p with bslice := v.setWidth 6 }
  | 0x88 => set { p with bcode := v.setWidth 52 }
  | 0x90 => s.bctlWrite part v
  | 0x98 => set { p with bErr := p.bErr &&& ~~~(v.extractLsb' 8 2) }
  | 0xA0 => set { p with pmask := v.setWidth 18 &&& ~~~(s.portsOfOthers part) }
  | 0xB8 => set { p with wbase := BitVec.ofNat 57 (field v.toNat 30 27 * 2 ^ 30) }
  | 0x300 => if v = 0 then set { p with lfcnt := 0, lfrecs := Vector.replicate 16 {} } else s
  | _ =>
    if 0xC0 ≤ off ∧ off < 0x140 then set { p with peers := vset p.peers ((off - 0xC0) / 8) (peerFields v) }
    else if 0x310 ≤ off ∧ off < 0x410 then
      (let i := (off - 0x310) / 16
       let r := vget p.lfrecs i {}
       set { p with lfrecs := vset p.lfrecs i (if (off - 0x310) % 16 = 0 then { r with w0 := v } else { r with w1 := v }) })
    else s

/-! ### A partition's area (R399) -/

/-- A register of the area, by its view: the unprivileged view reads zero. -/
def State.areaRead (s : State) (part off : Nat) (priv : Bool) : W64 :=
  if !priv then 0
  else if off < 0x1000 then s.ctlRead part off
  else if off < 0x2000 then
    let x := s.squeue part ((off - 0x1000) / 64)
    match off % 64 with
    | 0x00 => x.base.setWidth 64
    | 0x08 => x.cfg
    | 0x10 => w64 (x.head * 2 ^ 32 + x.tail)
    | _ => 0
  else 0
/-- A register of the area written, by its view: of all, only `MSIREQ` has an unprivileged one. -/
def State.areaWrite (s : State) (part off : Nat) (v : W64) (priv : Bool) : State :=
  if off = 0x10000 then s.raiseMsi part (field v.toNat 0 5)
  else if !priv then s
  else if off < 0x1000 then s.ctlWrite part off v
  else if off < 0x2000 then
    let q := (off - 0x1000) / 64
    let x := s.squeue part q
    match off % 64 with
    | 0x00 => if x.en then s else s.setSqueue part q { x with base := v.setWidth 52 }
    | 0x08 => s.sqcfgWrite part q v
    | _ => s
  else if 0x20000 ≤ off ∧ off < 0x60000 ∧ off % 0x1000 = 0 then s.doorbell part ((off - 0x20000) / 0x1000) v
  else s

/-! ### BAR 0 (R369, R399, R420, R425) -/

/-- R420. -/
def State.bootWord (s : State) : W64 :=
  let b := s.boot
  w64 (s.portsDown.toNat * 2 ^ 22 + b.cause.toNat * 2 ^ 8 + b.att.toNat * 64 + b.stage.toNat * 4 + bit01 b.min)
/-- R425. -/
def State.tmax (s : State) : Nat := s.power.sensors.foldl (fun m e => max m e.2) 0
def Island.word (i : Island) : W64 := w64 (i.ecnt % 4096 * 2 ^ 32 + i.mv % 4096 * 2 ^ 16 + i.mhz % 4096)
/-- R399, R403: MSI-X vectors of the device. -/
def msiVectors : Nat := 2048
/-- R399: a doubleword of the MSI-X table or of the pending-bit array; other device registers are reserved. -/
def State.msixRead (s : State) (off : Nat) : W64 :=
  let t := Config.msixTableAt
  let p := Config.msixPbaAt
  if t ≤ off ∧ off < t + 16 * msiVectors then
    let e := s.msix.entry ((off - t) / 16)
    if (off - t) % 16 = 0 then e.1 else e.2
  else if p ≤ off ∧ off < p + msiVectors / 8 then
    w64 ((List.range 64).foldl (fun n i => n + bit01 (s.msix.pending.contains ((off - p) * 8 + i)) * 2 ^ i) 0)
  else 0
/-- R399: a doubleword of the MSI-X table written; the pending-bit array is read only. -/
def State.msixWrite (s : State) (off : Nat) (v : W64) : State :=
  let t := Config.msixTableAt
  if t ≤ off ∧ off < t + 16 * msiVectors then
    let i := (off - t) / 16
    let e := s.msix.entry i
    s.unmaskMsi { s.msix with table := tset s.msix.table i (if (off - t) % 16 = 0 then (v, e.2) else (e.1, v)) }
  else s
def State.deviceRead (s : State) (off : Nat) : W64 :=
  match off with
  | 0x100 => s.bootWord
  | 0x180 => s.dlt.setWidth 64
  | 0x200 => w64 (bit01 s.power.ovr * 2 ^ 63 + s.power.mw.toNat)
  | 0x208 => w64 (s.tmax % 256)
  | 0x210 => s.power.plim.setWidth 64
  | _ => if 0x240 ≤ off ∧ off < 0x240 + 8 * 20 then (vget s.islands ((off - 0x240) / 8) {}).word else s.msixRead off
def clampTo (lo hi n : Nat) : Nat := if n < lo then lo else if n > hi then hi else n
def State.deviceWrite (s : State) (off : Nat) (v : W64) : State :=
  match off with
  | 0x180 => { s with dlt := BitVec.ofNat 16 (clampTo 256 1024 (field v.toNat 0 16)) }
  | 0x210 => { s with power := { s.power with plim := BitVec.ofNat 12 (clampTo 1000 3000 (field v.toNat 0 12)) } }
  | _ =>
    if 0x240 ≤ off ∧ off < 0x240 + 8 * 20 then
      let n := (off - 0x240) / 8
      let i := vget s.islands n {}
      { s with islands := vset s.islands n { i with ecnt := (BitVec.ofNat 12 i.ecnt &&& ~~~(v.extractLsb' 32 12)).toNat } }
    else s.msixWrite off v
/-- R399: the area a BAR 0 offset lies in. -/
def bar0Part (off : Nat) : Option (Nat × Nat) :=
  if 0x2000000 ≤ off ∧ off < 0x4000000 then some ((off - 0x2000000) / 0x80000, (off - 0x2000000) % 0x80000) else none
def State.bar0Read (s : State) (off : Nat) (priv : Bool) : W64 :=
  match bar0Part off with
  | some (p, o) => s.areaRead p o priv
  | none => if priv then s.deviceRead off else 0
def State.bar0Write (s : State) (off : Nat) (v : W64) (priv : Bool) : State :=
  match bar0Part off with
  | some (p, o) => s.areaWrite p o v priv
  | none => if priv then s.deviceWrite off v else s

/-! ### The same writes as steps of the device -/

def execRegisterWrite (off : Nat) (val : W64) (prv : Bool) (s : State) : Res :=
  .next (if off % 8 = 0 then s.bar0Write off val prv else s)
def execSwctlArm (part : Nat) (val : W64) (s : State) : Res := onUnit (part < 64) (.next (s.swctlWrite part (val ||| 1)))
def execSwctlRes (part : Nat) (val : W64) (s : State) : Res := onUnit (part < 64) (.next (s.swctlWrite part (val ||| 2)))
def execPmctlGo (part : Nat) (val : W64) (s : State) : Res := onUnit (part < 64) (.next (s.pmctlWrite part (val ||| 1)))
def execPmctlClr (part : Nat) (val : W64) (s : State) : Res := onUnit (part < 64) (.next (s.pmctlWrite part (val ||| 2)))
def execBctlGo (part : Nat) (val : W64) (s : State) : Res := onUnit (part < 64) (.next (s.bctlWrite part (val ||| w64 (2 ^ 63))))
def execSqcfgEnable (part queue : Nat) (val : W64) (s : State) : Res :=
  onUnit (part < 64 && queue < 64) (.next (s.sqcfgWrite part queue (val ||| 1)))
def execSqcfgDisable (part queue : Nat) (val : W64) (s : State) : Res :=
  onUnit (part < 64 && queue < 64) (.next (s.sqcfgWrite part queue (val &&& ~~~1)))
def execMsireq (part : Nat) (val : W64) (s : State) : Res := onUnit (part < 64) (.next (s.areaWrite part 0x10000 val true))
def execMeshctlWrite (val : W64) (s : State) : Res := .next (s.deviceWrite 0x180 val)
def execPlimWrite (val : W64) (s : State) : Res := .next (s.deviceWrite 0x210 val)

end Sys2Proof.Machine
end

