-- ==== Sys2Proof/Machine/Home.lean ====
section
/-!
DEFINITION. Accesses at their homes: banks of LM, CSM and slices, HBM fills and evictions, replicas, hot regions (06 R152, R154; 17 R337,
R338; 20 R380, R381; 23 R412).
-/
namespace Sys2Proof.Machine
open Sys2Proof

def AccKind.reads : AccKind → Bool | .load => true | .line => true | _ => false

/-! ### Hot regions (R337) -/

/-- R337: the end of a window: regions that reached `HOTTHR` are replicated, those below half of it leave, and the counts start anew. -/
def State.hotEnd (s : State) (n : Nat) : State :=
  let sl := s.slice n
  let t := s.parts.foldl (fun u e =>
    let thr := e.2.hotthr.toNat
    u.setPartn e.1 { u.partn e.1 with
      replicas := (u.partn e.1).replicas.filter fun r => !(r.home == n && decide (2 * hotCount sl.hot e.1 r.region < thr)) }) s
  let t := sl.hot.foldl (fun u h =>
    let thr := (u.partn h.1).hotthr.toNat
    if thr ≠ 0 ∧ h.2.2 ≥ thr then u.replicate h.1 n h.2.1 else u) t
  t.setSlice n { t.slice n with hot := [], hotDue := s.gtime.toNat / 1000000 * 1000000 + 1000000 }
def execHotWindow (slice : Nat) (s : State) : Res :=
  onSlice slice true s (.next (if s.gtime.toNat < (s.slice slice).hotDue then s else s.hotEnd slice))
/-- R338: a replica of a region drops the lines it was asked to, and acknowledges. -/
def Replica.acked (r : Replica) (slice : Nat) : Replica :=
  { r with lines := r.lines.filter fun e => !(e.1 == slice && r.asked.contains (e.1, e.2.1)), asked := r.asked.filter fun e => e.1 != slice }
def execReplicaInvalAck (part region slice : Nat) (s : State) : Res :=
  onSlice slice (part < 64) s (.next (
    let p := s.partn part
    s.setPartn part { p with replicas := p.replicas.map fun r => if r.region == region then r.acked slice else r }))

/-! ### The access (R380) -/

/-- R380: the forwarding buffer of a bank keeps its last 8 results. -/
def Slice.forward (c : Slice) (bank word : Nat) : Slice :=
  let mine := (c.forwards.filter fun e => e.1 == bank && e.2 != word) ++ [(bank, word)]
  { c with forwards := (c.forwards.filter fun e => e.1 != bank) ++ mine.drop (mine.length - 8) }
/-- R344, R287: an access that its home cannot make. -/
def State.homeRefuses (s : State) (a : Access) : Bool :=
  match a.loc with
  | .regs _ _ => a.size != 8 || (match a.kind with | .load | .store _ => false | _ => true)
  | .host _ => (match a.kind with | .load | .store _ | .nibble _ _ => false | _ => true)
  | .csm cl o => decide (o ≥ Config.csmBytes - ccBytes (s.cluster cl).ccCode)
  | .hbm p o => s.isRetired p o || (match a.loc.forward s with | .hbm q t => s.isRetired q t | _ => false) || s.slotBad a.kslot a.part
  | _ => false
/-- R287, R399: an access to a register. -/
def State.regAccess (s : State) (part off : Nat) (a : Access) : State × AccResult :=
  match a.kind with
  | .store bs => (s.areaWrite part off (w64 (leNat bs)) a.priv, .data [] false)
  | _ => (s, .data (leBytes 8 (s.areaRead part off a.priv).toNat) false)
/-- The unit that asked for an access: a replica's slice asks for a core. -/
def askedBy (src : Node) (a : Access) : Node := match src with | .slice _ => .core a.core | x => x
/-- R416: a line marked as part of a save area, which another device names: refused as R377 refuses an element (DEDUCED, log 39). So is a line
of a host write that was parked at the stop and has come to a line marked since. -/
def State.markedFor (s : State) (who : Node) (a : Access) : Bool :=
  match who, a.loc.forward s with
  | .dev _, .hbm p o => (s.partn p).isMarked o
  | .iod, .hbm p o => (match a.kind with | .hostLine _ => (s.partn p).isMarked o | _ => false)
  | _, _ => false
/-- R318: a discarded line: reported to the host, and recorded for the partition. -/
def State.discardLine (s : State) (req part va : Nat) : State :=
  ({ s with hostUr := s.hostUr + 1 }).lastingFault part (w64 (va / 64 * 64)) (w64 (req % 65536 * 65536 + 7))
/-- R318, R416, R422: a line of a host write that its home does not write is discarded. -/
def State.discardAt (s : State) (who : Node) (a : Access) : State :=
  match who, a.kind with
  | .iod, .hostLine _ => (match s.hostOpen.find? fun o => o.2 == a.req with | some o => s.discardLine o.1 a.part a.va.toNat | none => s)
  | _, _ => s
/-- R337, R338: a read that a replica sent on fills it. -/
def State.fillFrom (s : State) (src : Node) (p o kslot : Nat) : State :=
  match src with
  | .slice m => (match s.replicaOn (m / 16) p o with
    | some (r, k) => if k = m then s.fillReplica r m p o kslot else s
    | none => s)
  | _ => s
/-- An access is performed and answered; one that waits in a retry list is answered later. -/
def State.performAnswer (s : State) (home src : Node) (a : Access) : State :=
  let who := askedBy src a
  if s.homeRefuses a || s.markedFor who a then (s.discardAt who a).answer home who a (.fault 0x08)
  else match a.loc with
    | .regs p o => let (t, r) := s.regAccess p o a; t.answer home who a r
    | _ =>
      let t := match home, a.loc with
        | .slice n, .hbm p o =>
          if a.kind.isAtomic && a.kslot == 0 then s.setSlice n ((s.slice n).forward (s.homeBank p o) (a.loc.key / 4))
          else
            let t := s.holdLine n p o a.kslot
            if a.kind.reads then (t.fillFrom src p o a.kslot).countHot n src p o else t
        | _, _ => s
      match t.performAt home who a with
      | (u, some r) => u.answer home who a r
      | (u, none) => u
/-- R380: an access that waits for a fill: an atomic on an absent line of HBM, or any access behind one. -/
def State.waitsFill (s : State) (n p o : Nat) (a : Access) : Bool :=
  let c := s.slice n
  (c.fills.any fun f => f.1.loc.onLine p o) ||
  (a.kind.isAtomic && a.kslot == 0 && decide (o < 2 ^ 41) && !c.has p o 0)
/-- R338: whether an access at its home still waits for the replicas of its line, or behind an earlier write of the line. -/
def State.replicaGate (s : State) (id n p o : Nat) (a : Access) : State × Bool :=
  if a.kind.writes then
    let (t, go) := s.writeGate n p o
    (t, go && !s.writerBefore id n p o)
  else (s, true)
/-- R338: the write of a line that an access made has been performed. -/
def State.writeDone (s : State) (n p o : Nat) (a : Access) : State := if a.kind.writes then s.reopenIdle n p o else s
/-- R337, R338, R422: a read that has come to a replica's slice: answered there, or sent on to the home. -/
def State.atReplica (s : State) (n p o : Nat) (a : Access) : State :=
  match s.replicaOn (n / 16) p o with
  | some (r, m) =>
    if s.homeRefuses a then s.answer (.slice n) (.core a.core) a (.fault 0x08)
    else if m = n ∧ r.lines.contains (n, lineOf o, a.kslot) then
      match s.performAt (.slice n) (.core a.core) a with
      | (t, some x) => t.answer (.slice n) (.core a.core) a x
      | (t, none) => t
    else s.send (.slice n) (s.home a.loc) a.part .request (.access a)
  | none => s.send (.slice n) (s.home a.loc) a.part .request (.access a)
/-- R152, R330: a waiter told to give up is answered, if it still waits, from the home where it stands; the withdrawal waits for an access that a
slice keeps for a fill, the new home of a moved page among them. -/
def State.withdrawn (s : State) (src : Node) (req : Nat) : State :=
  match s.retry.find? fun w => w.2.src == src && w.2.acc.req == req with
  | some w => ({ s with retry := s.retry.erase w }).answer w.1 src w.2.acc .failed
  | none => s
/-- R346: the bytes that a core's own cluster is writing back to a line come before the core's later access to it. -/
def State.behindWb (s : State) (src : Node) (l : Loc) : Bool :=
  match src, l with | .core c, .hbm p o => s.wbOut (clusterOf c) p o | _, _ => false
def execHomeAccess (id : Nat) (s : State) : Res :=
  match s.takeArrived id with
  | none => .next s
  | some (p, t) =>
    if p.dst.fencedBy s then .next s
    else match p.dst, p.body with
      | .dev _, _ => .next s
      | d, .withdraw req _ _ =>
        if (match d with | .slice _ => s.slices.any fun e => e.2.fills.any fun f => f.2 == p.src && f.1.req == req | _ => false) then .next s
        else .next (t.withdrawn p.src req)
      | .slice n, .access b =>
        let a := { b with loc := b.loc.forward s }
        (match a.loc with
        | .hbm q o =>
          if s.behindWb p.src b.loc then .next s
          else if a.loc = b.loc ∧ s.homeSlice q o ≠ n ∧ a.kind.reads then .next (t.atReplica n q o a)
          else
          let n := if a.loc = b.loc then n else s.homeSlice q o
          if (t.slice n).fills.any (fun f => f.2 == p.src) then .next s
          else
            let (u, go) := s.replicaGate id n q o a
            if !go then .next u
            else
              let u := { u with arrived := t.arrived }
              if !s.homeRefuses a && t.waitsFill n q o a then .next (u.setSlice n { u.slice n with fills := (u.slice n).fills ++ [(a, p.src)] })
              else .next ((u.performAnswer (.slice n) p.src a).writeDone n q o a)
        | _ => .next (t.performAnswer (.slice n) p.src a))
      | d, .access a => .next (t.performAnswer d p.src a)
      | _, _ => .next s

/-! ### Fills and evictions (R380, R381) -/

/-- R380: a line arrives from HBM: the accesses that waited for it are performed in their order. -/
def State.fillLine (s : State) (n part off : Nat) : State :=
  let c := s.slice n
  let mine (f : Access × Node) : Bool := match f.1.loc with | .hbm p o => p == part && lineOf o == off | _ => false
  let t := s.holdLine n part off 0
  let t := t.setSlice n { t.slice n with fills := c.fills.filter fun f => !mine f }
  (c.fills.filter mine).foldl (fun u f => (u.performAnswer (.slice n) f.2 f.1).writeDone n part off f.1) t
/-- R18, R424: the island of a slice is stopped, or that of the HBM's PHY group which serves its die. -/
def State.hbmOff (s : State) (n : Nat) : Bool := s.islandOff (sliceIsland n) || s.islandOff (18 + n / 32)
/-- The line of a step is named by the offset of its first byte in the partition. -/
def execSliceEvict (part line : Nat) (s : State) : Res :=
  onUnit (part < 64) (.next (
    if line % 64 = 0 ∧ !s.hbmOff (s.homeSlice part line) then s.evictLine (s.homeSlice part line) part line else s))

/-! ### Page migration (R330) -/

/-- R330, R339, R381: the words of a page with their F/E and S bits, moved to the new page. -/
def moveBits (l : List Nat) (a b n : Nat) : List Nat :=
  let rest := l.filter fun k => !(decide (b ≤ k) && decide (k < b + n))
  (l.filter fun k => decide (a ≤ k) && decide (k < a + n)).foldl (fun t k => sinsert t (k - a + b)) rest
/-- Cells of a range moved to another range, whose own cells go. -/
def memMove (m : List Host.Cell) (a b n : Nat) : List Host.Cell :=
  let rest := m.filter fun c => !(decide (b ≤ c.1) && decide (c.1 < b + n))
  (m.filter fun c => decide (a ≤ c.1) && decide (c.1 < a + n)).foldl (fun t c => memWrite t (c.1 - a + b) c.2) rest
/-- R330: a range of offsets copied to another place takes its marks with it (R416). -/
def moveMarks (l : List (Nat × Nat)) (a b n : Nat) : List (Nat × Nat) :=
  (l.flatMap fun r =>
    (if r.1 < b then [(r.1, min r.2 (b - r.1))] else []) ++
    (if b + n < r.1 + r.2 then [(max r.1 (b + n), r.1 + r.2 - max r.1 (b + n))] else [])) ++
  l.filterMap fun r =>
    let lo := max r.1 a
    let hi := min (r.1 + r.2) (a + n)
    if lo < hi then some (lo - a + b, hi - lo) else none
/-- R330: the accesses that the old homes queued for lines of the page are performed before any later one. -/
def State.pageFills (s : State) (part a n : Nat) : State :=
  let mine (e : Nat × Slice) : List (Nat × Nat) := e.2.fills.filterMap fun f => match f.1.loc with
    | .hbm p o => if p = part ∧ a ≤ o ∧ o < a + n then some (e.1, lineOf o) else none
    | _ => none
  (s.slices.flatMap mine).eraseDups.foldl (fun t e => t.fillLine e.1 part e.2) s
/-- R330: the page is copied, and its waiters move; from then on the old page is forwarded. -/
def State.pageCopy (s : State) (part : Nat) : State :=
  let m := (s.partn part).pm
  let s := s.pageFills part m.src m.len
  let a := (Loc.hbm part m.src).key
  let b := (Loc.hbm part m.dst).key
  let t := { s with
    mem := memMove s.mem a b m.len, fe := moveBits s.fe (a / 8) (b / 8) (m.len / 8)
    sbits := moveBits s.sbits (a / 4) (b / 4) (m.len / 4)
    retry := s.retry.map fun (w : Node × Waiter) => match w.2.acc.loc with
      | .hbm p o => if p = part ∧ m.src ≤ o ∧ o < m.src + m.len then
          (let l : Loc := .hbm p (m.dst + (o - m.src)); (s.home l, { w.2 with acc := { w.2.acc with loc := l } }))
        else w
      | _ => w }
  let p := t.partn part
  t.setPartn part { p with
    pm := { m with st := 2 }, marked := moveMarks p.marked m.src m.dst m.len
    replicas := p.replicas.filter fun r => !meets (r.region * 65536) 65536 m.src m.len && !meets (r.region * 65536) 65536 m.dst m.len }
/-- R422: a range of a partition's HBM touches a page that is taken out of use. -/
def State.anyRetired (s : State) (part off n : Nat) : Bool := s.retired.any fun e => e.1 == part && meets (e.2 * 4096) 4096 off n
/-- R330, R422: a page with bytes that cannot be read or written is not moved, and `PMCTL.ERR` shows it (DESIGN CHOICE, log 41). -/
def State.pageFails (s : State) (part : Nat) : State :=
  let p := s.partn part
  s.setPartn part { p with pm := { p.pm with st := 0, err := true } }
def execPageCopyDone (part : Nat) (s : State) : Res :=
  onUnit (part < 64) (.next (
    let m := (s.partn part).pm
    if m.st = 1 ∧ !((s.partn part).slices.any s.hbmOff) then
      (if s.anyRetired part m.src m.len || s.anyRetired part m.dst m.len then s.pageFails part else s.pageCopy part)
    else s))

end Sys2Proof.Machine
end

