-- ==== Sys2Proof/Machine/Fabric.lean ====
section
/-!
DEFINITION. The fabric: windows and admission, credits, ports, combining in the switches (22_fabric_host.md R390 to R397; 24 R422, R423).
-/
namespace Sys2Proof.Machine
open Sys2Proof

/-! ### Answers that arrive for this device (R393, R395) -/

/-- The core that made a request. -/
def State.coreOfReq (s : State) (req : Nat) : Option (Nat × Req) := s.cores.findSome? fun e => (e.2.req req).map fun r => (e.1, r)
/-- R392, R395: an acknowledgement has come. -/
def State.closeFab (s : State) (dev : Nat) (k : FabKey) : State := { s with fabOpen := s.fabOpen.erase (dev, k) }
/-- R290: an answer for a strand of an image that is swapped out stays with the image. -/
def State.keepLate (s : State) (dev : Nat) (b : FabBody) (mine : Core → Bool) : State :=
  let keep (i : SaveImage) : SaveImage := if i.cores.any fun c => mine c.2 then { i with late := i.late ++ [(dev, b)] } else i
  { s with parts := s.parts.map fun e => (e.1, { e.2 with images := e.2.images.map keep }) }
/-- An answer of another device goes on to the core that waits for it. -/
def State.fabReply (s : State) (dev req : Nat) (a : FabAns) : State :=
  let t := s.closeFab dev (.req req)
  let t := { t with switchBuf := t.switchBuf.filter fun x => !(x.parts.any fun p => match p.1 with | some (_, q) => q == req | none => false) }
  match t.coreOfReq req with
  | none => t.keepLate dev (.reply req a) fun c => (c.req req).isSome
  | some (c, r) =>
    let part := t.partOf c
    let back (b : Body) : State := t.send (.dev dev) (.core c) part .reply b
    match a with
    | .data bs b => back (.accReply req r.slot (.data bs b))
    | .failed => back (.accReply req r.slot .failed)
    | .busy => back (.accReply req r.slot .busy)
    | .fault k =>
      (match r.tok with
      | some tok => let (tl, hd, u) := t.queueState tok.handle; u.send (.dev dev) (.core c) part .reply (.tokenReply req r.slot (.refused tl hd))
      | none => back (.accReply req r.slot (.fault k)))
    | .placed => back (.tokenReply req r.slot .placed)
    | .full => back (.tokenReply req r.slot .full)
    | .retry => back (.tokenReply req r.slot .retry)
    | .refused x y => back (.tokenReply req r.slot (.refused x y))
    | .expired x y => back (.tokenReply req r.slot (.expired x y))
    | .call v => back (.callReply req r.slot v)
/-- R376: the same for an aggregation packet. -/
def State.fabAggReply (s : State) (dev core seq mask : Nat) (cs : List Nat) : State :=
  let t := s.closeFab dev (.agg core seq)
  let mine (c : Core) : Bool := c.sent.any fun q => q.dest == .dev dev && q.seq == seq
  if mine (t.core core) then t.send (.dev dev) (.core core) (t.partOf core) .reply (.aggReply seq (BitVec.ofNat 32 mask) cs)
  else t.keepLate dev (.aggReply core seq mask cs) mine

/-! ### Requests of other devices (R391, R393, R396, R397) -/

/-- R391: the target partition's table names the packet's source. -/
def State.fabAccepts (s : State) (p : FabPkt) : Bool :=
  let q := s.partn p.dstPart
  q.exists_ && q.peers.toList.any fun w =>
    w.getLsbD 63 && (w.extractLsb' 16 9).toNat == p.srcDev && (w.extractLsb' 0 6).toNat == p.srcPart
/-- An answer of the IOD to a packet. -/
def State.fabAnswer (s : State) (p : FabPkt) (b : Body) : State := s.sendInside .iod (.dev p.srcDev) p.dstPart .reply b
/-- R391: a packet that is not accepted. -/
def State.fabReject (s : State) (p : FabPkt) : State :=
  let acc (r : Nat) : State := s.fabAnswer p (.accReply r 0 (.fault 0x08))
  match p.body with
  | .load r _ _ | .store r _ _ | .nibble r _ _ _ | .atomic r _ _ _ _ _ _ | .sync r _ _ _ _ | .marker r => acc r
  | .agg q es => s.fabAnswer p (.fabAggReply p.srcCore q (maskOf (es.map fun _ => 8)) (es.map fun _ => 8))
  | .token r _ c n _ =>
    let h := (s.core c).queue n
    s.fabAnswer p (.tokenReply r 0 (.refused h.tail.toNat h.head.toNat))
  | .amsg (some r) _ _ _ => s.fabAnswer p (.callReply r 0 (refusal 2))
  | .amsg none _ _ _ | .withdraw _ | .reply _ _ | .aggReply _ _ _ _ => s
/-- R324, R391: an access goes to its home; a location outside the partition's map is answered with `0x08`. -/
def State.fabAccess (s : State) (p : FabPkt) (req pa size : Nat) (k : AccKind) : State :=
  let bad : State := s.fabAnswer p (.accReply req 0 (.fault 0x08))
  match s.offLoc p.dstPart (pa % 2 ^ 43) with
  | some l =>
    s.send (.dev p.srcDev) (s.home l) p.dstPart .request
      (.access { req, kind := k, loc := l, size, va := BitVec.ofNat 64 pa, core := p.srcCore, slot := 0, part := p.dstPart })
  | none => bad
/-- R396, R379: a wait that is given up: the waiter or the reservation is withdrawn, if it still waits. -/
def State.fabWithdraw (s : State) (p : FabPkt) (req : Nat) : State :=
  match s.retry.find? fun w => w.2.src == .dev p.srcDev && w.2.acc.req == req with
  | some _ => s.withdrawn (.dev p.srcDev) req
  | none =>
    match s.cores.findSome? fun e => (List.range 8).findSome? fun n =>
        if (e.2.queue n).waiting.any fun t => t.req == req && t.dev == p.srcDev then some (e.1, n) else none with
    | some (c, n) => s.tokenWithdraw c n p.srcDev req
    | none => s
/-- R393: an admitted packet enters the mesh. -/
def State.fabEnter (s : State) (p : FabPkt) : State :=
  let dev := Node.dev p.srcDev
  match p.body with
  | .reply r a => s.fabReply p.srcDev r a
  | .aggReply c q m cs => s.fabAggReply p.srcDev c q m cs
  | b =>
    if !s.fabAccepts p then s.fabReject p
    else match b with
      | .load r n pa => s.fabAccess p r pa n .load
      | .store r pa bs => s.fabAccess p r pa bs.length (.store bs)
      | .nibble r pa hi c => s.fabAccess p r pa 1 (.nibble hi c)
      | .atomic r o n pa v c x => s.fabAccess p r pa n (.atomic o v c x)
      | .sync r o at_ pa v => s.fabAccess p r pa 8 (.sync o v at_)
      | .withdraw r => s.fabWithdraw p r
      | .agg q es => s.sendInside dev .iod p.dstPart .aggregated (.fabAgg p.srcCore q es)
      | .token r msg c n bs =>
        s.send dev (.core c) p.dstPart .request (.token { dev := p.srcDev, tdev := s.devid.toNat, core := p.srcCore, part := p.dstPart
                                                          target := c, queue := n, bytes := bs, msg, slot := 0, req := r })
      | .amsg r pa i args =>
        (match s.offLoc p.dstPart (pa % 2 ^ 43) with
        | some (.hbm q o) =>
          s.send dev (.slice (s.homeSlice q o)) p.dstPart .request
            (.amsg { dev := p.srcDev, core := p.srcCore, part := p.dstPart, req := r, pa, index := i, args })
        | _ => s.fabReject p)
      | .marker r => s.fabAnswer p (.accReply r 0 (.data [] false))
      | .reply _ _ | .aggReply _ _ _ _ => s

/-! ### The window of a source (R392, R393) -/

/-- R393: packets that wait for every earlier one: those flagged, and those that act at more than one home (log 19). -/
def FabPkt.waitsAll (p : FabPkt) : Bool :=
  p.flagged || (match p.body with | .agg _ _ | .withdraw _ | .marker _ => true | _ => false)
/-- Packets on their way, and those that a gang switch keeps, in the park buffers or with an image (R290). -/
def State.keptPackets (s : State) : List Packet :=
  s.onTheWay ++ s.parts.flatMap fun e => e.2.parked ++ e.2.images.flatMap fun i => i.parked
/-- R393: something of that source is still to be performed. -/
def State.fabBusy (s : State) (dev : Nat) : Bool :=
  (s.keptPackets.any fun p => p.src == .dev dev) || s.slices.any fun e => e.2.fills.any fun f => f.2 == .dev dev
/-- R351, R393: elements of the packet's core, which the IOD has admitted, are still to be performed before its later requests. -/
def State.elementsAhead (s : State) (p : FabPkt) : Bool :=
  (match p.body with | .reply _ _ | .aggReply _ _ _ _ => false | _ => true) &&
  s.keptPackets.any fun x => x.src == .dev p.srcDev && (match x.body with | .fabAgg c _ _ => c == p.srcCore | _ => false)
/-- R289: traffic for a partition that is stopped waits; so does a combining `AADD`, which has no place in the window (R395). All of it
waits while the island of the ports is stopped (R424). -/
def State.fabReady (s : State) (p : FabPkt) : Bool :=
  !s.islandOff 17 && !s.admitHeld p.dstPart && !s.elementsAhead p && (p.comb || (p.seq % 65536 == nget s.fabRecv p.srcDev && !(FabPkt.waitsAll p && s.fabBusy p.srcDev)))
/-- R392: packets are admitted in sequence, each with its credit. -/
def State.fabAdmit (s : State) : Nat → State
  | 0 => s
  | n + 1 =>
    match s.fabIn.find? s.fabReady with
    | none => s
    | some p =>
      let u := { s with fabIn := s.fabIn.erase p }
      let t := if p.comb then u else { u with
        fabRecv := nset s.fabRecv p.srcDev ((p.seq + 1) % 65536), fabCredits := nset s.fabCredits p.srcDev (nget s.fabCredits p.srcDev + 1) }
      (t.fabEnter p).fabAdmit n
/-- R392: a packet that was admitted before, or that lies outside the window, is dropped. -/
def State.inWindow (s : State) (p : FabPkt) : Bool := decide ((p.seq + 65536 - nget s.fabRecv p.srcDev) % 65536 < 256)
def execFabricPacketArrive (pkt : FabPkt) (s : State) : Res :=
  .next (
    let held := if pkt.comb then s.fabIn.contains pkt
      else s.fabIn.any fun q => !q.comb && q.srcDev == pkt.srcDev && q.seq % 65536 == pkt.seq % 65536
    let t := if (pkt.comb || s.inWindow pkt) && !held then { s with fabIn := s.fabIn ++ [pkt] } else s
    t.fabAdmit t.fabIn.length)

/-! ### Credits and ports at the source (R392) -/

/-- R392: the oldest packet to a device counts as admitted. -/
def dropFirst (p : α → Bool) : List α → List α
  | [] => []
  | a :: r => if p a then r else a :: dropFirst p r
def execAdmissionCredit (dev : Nat) (s : State) : Res :=
  .next ({ s with fabOut := dropFirst (fun e => e.dev == dev) s.fabOut }).toFabric
/-- R392: the packets of a port that is out of service go by another port of their share. -/
def State.resendPort (s : State) (port : Nat) : State :=
  let mine := s.fabOut.filter fun e => e.port == port
  let t := mine.foldl (fun t e =>
    match t.portFor e.pkt.part with
    | some k => { t with fabOut := t.fabOut.map fun x => if x == e then { x with port := k } else x }
    | none => t) s
  { t with switchBuf := t.switchBuf.map fun x => if x.port = port then { x with port := (t.portFor x.part).getD port } else x }
/-- R392, R422, R423: a port link fails its CRC; when its retry fails too, the port is out of service. -/
def execPortCrcFail (port : Nat) (again : Bool) (s : State) : Res :=
  onUnit (port < 18) (.next (
    if !again then s.transient 17
    else if s.portsDown.getLsbD port then s
    else
      let t := { s with portsDown := s.portsDown ||| ((1 : BitVec 18) <<< port) }
      let t := t.parts.foldl (fun u e =>
        if e.2.exists_ && e.2.pmask.getLsbD port then
          (let v := u.lastingFault e.1 (BitVec.ofNat 64 port) 4
           if e.2.pmask &&& ~~~v.portsDown = 0 then v.lastingFault e.1 (BitVec.ofNat 64 port) 6 else v)
        else u) t
      t.resendPort port))

/-! ### Combining (R395) -/

def SwitchAdd.sum (x : SwitchAdd) : W64 := x.parts.foldl (fun a p => a + p.2) 0
/-- R395: the entries in use in the wait buffer of a port. -/
def State.waitEntries (s : State) (port : Nat) : Nat :=
  s.switchBuf.foldl (fun n x => if x.port = port ∧ 2 ≤ x.parts.length then n + x.parts.length else n) 0
/-- R395: the parts of a held request become `l`, if the port's wait buffer, which has 64 entries, can hold them. -/
def State.setParts (s : State) (x : SwitchAdd) (l : List (Option (Nat × Nat) × W64)) : Option State :=
  let t := { s with switchBuf := s.switchBuf.map fun y => if y.id = x.id then { y with parts := l } else y }
  if t.waitEntries x.port ≤ 64 then some t else none
/-- R395: two requests of one size to one address are held as one, the first of them having come first. A number that names no request of
this device stands for another device's `AADD` to the word, whose operand is a free value (log 19). -/
def execSwitchCombine (fst snd : Nat) (s : State) : Res :=
  .next (
    let (v, t) := s.draw
    match s.switchBuf.find? fun x => x.id == fst, s.switchBuf.find? fun x => x.id == snd with
    | some a, some b =>
      if fst ≠ snd ∧ a.dev = b.dev ∧ a.tpart = b.tpart ∧ a.pa = b.pa ∧ a.size = b.size ∧ a.port = b.port then
        (({ s with switchBuf := s.switchBuf.filter fun x => x.id != snd }).setParts a (a.parts ++ b.parts)).getD s
      else s
    | some a, none => (t.setParts a (a.parts ++ [(none, v)])).getD s
    | none, some b => (t.setParts b ((none, v) :: b.parts)).getD s
    | none, none => s)
/-- R395: each part receives the reply plus the operands of the parts before it. -/
def shares (size : Nat) (r : W64) : List (Option (Nat × Nat) × W64) → List (Option (Nat × Nat) × W64)
  | [] => []
  | (o, v) :: l => (o, BitVec.ofNat 64 (r.toNat % 2 ^ (8 * size))) :: shares size (r + v) l
def State.splitReply (s : State) (x : SwitchAdd) (reply : W64) : State :=
  let t := { s with switchBuf := s.switchBuf.filter fun y => y.id != x.id }
  (shares x.size reply x.parts).foldl (fun u e =>
    match e.1 with
    | none => u
    | some (_, req) => u.fabReply x.dev req (.data (leBytes x.size e.2.toNat) false)) t
def execCombinedReply (id : Nat) (reply : W64) (s : State) : Res :=
  .next (match (if s.islandOff 17 then none else s.switchBuf.find? fun x => x.id == id) with
    | some x => (s.splitReply x reply).toFabric
    | none => s)

end Sys2Proof.Machine
end

