-- ==== Sys2Proof/Machine/Host.lean ====
section
/-!
DEFINITION. Host requests at the ordering point: the window, the control region and the management mailbox's bytes
(16_prog_host_write.md R317, R318; 12 R287, R289; 22 R399, R400; 23 R415, R416; 24 R419, R421).
-/
namespace Sys2Proof.Machine
open Sys2Proof

/-! ### The window (R318, R400, R415, R416) -/

/-- R400: the partition of an aperture, and the VA a byte of the window names. -/
def State.windowVa (s : State) (addr : Nat) : Option (Nat × Nat) :=
  let ap := 2 ^ s.winLg / 64
  let p := s.partn (addr / ap)
  if addr < 2 ^ s.winLg ∧ p.waper.getLsbD 6 ∧ !s.boot.min then some (addr / ap, (p.wbase.toNat + addr % ap) % 2 ^ 57) else none
/-- R400, R415, R416: the memory a window address names for an access; none where the host may not make it. -/
def State.hostLoc (s : State) (part va : Nat) (k : Kind) : Option Loc :=
  (s.walk part va).bind fun e =>
    if e.slot ≠ 0 ∨ e.denies s k true then none
    else match s.paLoc part (e.pa + va % 2 ^ e.lg) with
      | some (.hbm p o) => if (s.partn p).isMarked o then none else some (.hbm p o)
      | _ => none
/-- R317: the lines of a write, sent in ascending order of address: the spec fixes no order among them (DESIGN CHOICE, log 20). For each, its address in the window, and its 64 bytes with their enables. -/
def linesOf (addr : Nat) (bytes : TlpBytes) : List (Nat × TlpBytes) :=
  (List.range ((addr + bytes.length + 63) / 64 - addr / 64)).map fun i =>
    let base := (addr / 64 + i) * 64
    (base, (List.range 64).map fun j => if base + j < addr then none else (bytes[base + j - addr]?).getD none)
/-- R317, R318, R337, R400, R419: a line is translated and goes to its home, or is discarded; one whose aperture names no memory is an
Unsupported Request. -/
def State.sendLine (s : State) (req : Nat) (l : Nat × TlpBytes) : State :=
  if l.2.all fun b => b.isNone then s
  else match s.windowVa l.1 with
    | none => { s with hostUr := s.hostUr + 1 }
    | some (part, va) =>
      let s := s.noteWalk .iod part va
      match s.hostLoc part va .store with
      | none => s.discardLine req part va
      | some loc =>
        let (id, t) := s.fresh
        ({ t with hostOpen := t.hostOpen ++ [(req, id)] }).send .iod (t.home loc) part .request
          (.access { req := id, kind := .hostLine l.2, loc, size := 64, va := w64 va, core := 0, slot := 0, part })
/-- R400, R356: a read of the window, performed at the homes; none for an Unsupported Request. -/
def State.windowRead (s : State) (addr n : Nat) : Option (List Byte) :=
  (List.range n).mapM fun i =>
    match s.windowVa (addr + i) with
    | none => none
    | some (part, va) => (s.hostLoc part va .load).map fun l => (s.homeRead l 1 0 va).getD 0 0

/-- R337: the reads of a window access count at their homes; the IOD keeps no translation, so its walks do too (log 36). -/
def State.noteWindow (s : State) (addr n : Nat) : State :=
  (List.range ((addr + n + 63) / 64 - addr / 64)).foldl (fun t i =>
    match t.windowVa ((addr / 64 + i) * 64) with
    | some (part, va) => (match t.hostLoc part va .load with
      | some (.hbm p o) => (t.noteWalk .iod part va).noteRead .iod p o 0
      | _ => t)
    | none => t) s

/-! ### BAR 0 (R287, R399, R419) -/

/-- R419: minimal mode serves the device registers only. -/
def State.bar0Open (s : State) (off : Nat) : Bool := !s.boot.min || (bar0Part off).isNone
/-- R287: the whole, aligned registers that a write covers, in ascending order. -/
def wholeRegs (addr : Nat) (bytes : TlpBytes) : List (Nat × W64) :=
  (List.range ((addr + bytes.length) / 8 + 1 - addr / 8)).filterMap fun i =>
    let off := (addr / 8 + i) * 8
    if off < addr then none
    else match ((bytes.drop (off - addr)).take 8).mapM id with
      | some bs => if bs.length = 8 then some (off, w64 (leNat bs)) else none
      | none => none
def State.bar0Store (s : State) (addr : Nat) (bytes : TlpBytes) : State :=
  (wholeRegs addr bytes).foldl (fun t r => if t.bar0Open r.1 then t.bar0Write r.1 r.2 true else t) s
/-- R287: the bytes of the registers that a read covers. -/
def State.bar0Bytes (s : State) (addr n : Nat) : Option (List Byte) :=
  (List.range n).mapM fun i =>
    let a := addr + i
    if s.bar0Open a then some ((leBytes 8 (s.bar0Read (a / 8 * 8) true).toNat).getD (a % 8) 0) else none

/-! ### BAR 4 (R421) -/

/-- The place in memory of a byte of the mailbox's buffers. -/
def mbKey (off : Nat) : Nat := 2 ^ 56 + off
def State.mbBytes (s : State) (off n : Nat) : List Byte := memReadN s.mem (mbKey off) n
def State.mbPut (s : State) (off : Nat) (bs : List Byte) : State := { s with mem := memWriteN s.mem (mbKey off) bs }
def Mailbox.stat (m : Mailbox) : W64 := w64 (m.status.toNat * 256 + bit01 m.busy)
/-- R421: a write of `MBCMD`. -/
def State.mbStart (s : State) (v : W64) : State :=
  let m := s.mailbox
  if m.busy then { s with mailbox := { m with status := 1 } }
  else if v = 0 ∨ v.toNat > 5 then { s with mailbox := { m with cmd := v, status := 4 } }
  else { s with mailbox := { m with cmd := v, busy := true } }
def State.bar4Store (s : State) (addr : Nat) (bytes : TlpBytes) : State :=
  let t := bytes.zipIdx.foldl (fun u b =>
    match b.1 with | some x => if addr + b.2 ≥ 0x1000 then u.mbPut (addr + b.2) [x] else u | none => u) s
  match (wholeRegs addr bytes).lookup 0 with
  | some v => t.mbStart v
  | none => t
def State.bar4Bytes (s : State) (addr n : Nat) : List Byte :=
  (List.range n).map fun i =>
    let a := addr + i
    if a < 8 then (leBytes 8 s.mailbox.cmd.toNat).getD a 0
    else if a < 16 then (leBytes 8 s.mailbox.stat.toNat).getD (a - 8) 0
    else (s.mbBytes a 1).getD 0 0

/-! ### The configuration space (R398, R399; log 49) -/

/-- R399, R403: a doubleword of the configuration space is written: the control of the Resizable BAR capability, whose bits 13:8 give the
window's size, or the message control of MSI-X. -/
def State.cfgWrite (s : State) (addr : Nat) (v : Nat) : State :=
  if addr = Config.rebarAt then
    let lg := field v 8 6 + 20
    if 36 ≤ lg ∧ lg ≤ 39 then { s with winLg := lg } else s
  else if addr = Config.msixCtlAt then s.unmaskMsi { s.msix with enable := v.testBit 31, fmask := v.testBit 30 }
  else s
def State.cfgStore (s : State) (addr : Nat) (bytes : TlpBytes) : State :=
  match bytes.mapM id with
  | some bs => if bs.length = 4 then s.cfgWrite addr (leNat bs) else s
  | none => s
def State.cfgBytes (s : State) (addr n : Nat) : List Byte :=
  let w := if addr = Config.rebarAt then (s.winLg - 20) * 2 ^ 8
    else if addr = Config.msixCtlAt then bit01 s.msix.enable * 2 ^ 31 + bit01 s.msix.fmask * 2 ^ 30 + (msiVectors - 1) * 2 ^ 16 else 0
  (leBytes 4 w).take n

/-! ### The sequence of a Requester ID (R317, R289) -/

/-- R289: requests for a stopped partition are held: those of its memory, and its queues' registers and doorbells. The control block, by
which it is resumed, is not (log 20). -/
def State.hostHeld (s : State) (i : HostItem) : Bool :=
  match i.bar with
  | 2 => (match s.windowVa i.addr with | some (p, _) => s.admitHeld p | none => false)
  | 0 => (match bar0Part i.addr with | some (p, o) => decide (o ≥ 0x1000) && s.admitHeld p | none => false)
  | _ => false
/-- A request of a BAR, or of the configuration space, which this model numbers 7 (log 49). -/
def State.hostWrite (s : State) (i : HostItem) : State :=
  match i.bar with
  | 2 => (linesOf i.addr i.bytes).foldl (fun t l => t.sendLine i.req l) s
  | 0 => s.bar0Store i.addr i.bytes
  | 4 => s.bar4Store i.addr i.bytes
  | 7 => s.cfgStore i.addr i.bytes
  | _ => s
def State.hostRead (s : State) (bar addr n : Nat) : Option (List Byte) :=
  match bar with
  | 2 => s.windowRead addr n
  | 0 => s.bar0Bytes addr n
  | 4 => some (s.bar4Bytes addr n)
  | 7 => some (s.cfgBytes addr n)
  | _ => none
def State.hostPerform (s : State) (i : HostItem) : State :=
  match i.read with
  | some n =>
    let t := if i.bar = 2 ∧ (s.hostRead 2 i.addr n).isSome then s.noteWindow i.addr n else s
    { t with hostDone := t.hostDone ++ [{ req := i.req, bar := i.bar, addr := i.addr, data := s.hostRead i.bar i.addr n }] }
  | none => s.hostWrite i
/-- R372, R380: a line of the window that cannot be served now: its walk meets a failed link, or a read could not reach its home, or would pass
accesses that wait there for the line. -/
def State.lineWaits (s : State) (read : Bool) (addr : Nat) : Bool :=
  match s.windowVa addr with
  | none => false
  | some (part, va) =>
    s.walkCut .iod part va || (read && (match s.hostLoc part va .load with | some (.hbm p o) => s.frontBusy p o | _ => false))
/-- R372, R380: a request of the window waits for such a line. -/
def State.windowWaits (s : State) (i : HostItem) : Bool :=
  let n := match i.read with | some n => n | none => i.bytes.length
  i.bar == 2 && (List.range ((i.addr + n + 63) / 64 - i.addr / 64)).any fun k => s.lineWaits i.read.isSome ((i.addr / 64 + k) * 64)
/-- R317: a request may be admitted: it is its sequence's first, and every line before it is acknowledged. None is while the island of the
PCI Express endpoint is stopped (R424). -/
def State.hostReady (s : State) (i : HostItem) : Bool :=
  !s.islandOff 17 &&
  (s.hostQ.find? fun j => j.req == i.req) == some i && !(s.hostOpen.any fun o => o.1 == i.req) && !s.hostHeld i && !s.windowWaits i
def State.hostPump (s : State) : Nat → State
  | 0 => s
  | n + 1 =>
    match s.hostQ.find? s.hostReady with
    | none => s
    | some i => (({ s with hostQ := s.hostQ.erase i }).hostPerform i).hostPump n
def State.hostAdd (s : State) (i : HostItem) : State :=
  let t := { s with hostQ := s.hostQ ++ [i] }
  t.hostPump t.hostQ.length
def execHostWriteTlp (req bar addr : Nat) (bytes : TlpBytes) (s : State) : Res := .next (s.hostAdd { req, bar, addr, bytes })
def execHostRead (req bar addr len : Nat) (s : State) : Res := .next (s.hostAdd { req, bar, addr, read := some len })
/-- R317: the acknowledgement of a line. -/
def execHostLineAck (id : Nat) (s : State) : Res :=
  match s.takeArrived id with
  | some ({ body := .accReply req _ _, dst := .iod, .. }, t) =>
    if s.jobs.any fun e => e.2.adding == some req then .next s else
    let u := { t with hostOpen := t.hostOpen.filter fun o => o.2 != req }
    .next (u.hostPump u.hostQ.length)
  | _ => .next s

/-- R380: the line, named by the offset of its first byte in the partition, arrives from HBM; host requests that waited for it are admitted. -/
def execHbmFill (part line : Nat) (s : State) : Res :=
  onUnit (part < 64) (.next (
    if line % 64 = 0 ∧ !s.hbmOff (s.homeSlice part line) then
      (let t := s.fillLine (s.homeSlice part line) part line
       t.hostPump t.hostQ.length)
    else s))

end Sys2Proof.Machine
end

