-- ==== Sys2Proof/Machine/Matrix.lean ====
section
/-!
DEFINITION. The matrix engine: its commands at issue and in the engine, tiles, the ring and the torus (02_number_formats.md R46 to
R49; 08_isa_engines_tasks.md R191 to R202; 14_matrix_engine.md R301 to R312).
-/
namespace Sys2Proof.Machine
open Sys2Proof

/-! ### Formats and layouts of a pair (R194, R196) -/

/-- The formats of an `MMA`, none for bf16. -/
abbrev MmaPair := Option (MxFmt × MxFmt)
def MmaPair.a (p : MmaPair) : Fm := match p with | some f => MxFmt.fm f.1 | none => .bf16
def MmaPair.b (p : MmaPair) : Fm := match p with | some f => MxFmt.fm f.2 | none => .bf16
/-- R194: the number of k. -/
def MmaPair.k (p : MmaPair) : Nat :=
  match p with | none => 256 | some (.e2m1, .e2m1) => 1024 | some _ => 512
/-- R27: bits an element takes in memory. -/
def Fm.stored (f : Fm) : Nat := match f with | .e2m1 => 4 | .bf16 => 16 | _ => 8
def MmaPair.aRow (p : MmaPair) : Nat := MmaPair.k p * (MmaPair.a p).stored / 8
def MmaPair.bCol (p : MmaPair) : Nat := MmaPair.k p * (MmaPair.b p).stored / 8
/-- R194: scale bytes of a row or column. -/
def MmaPair.scales (p : MmaPair) : Nat := match p with | none => 0 | some _ => MmaPair.k p / 32
def MmaPair.tile (p : MmaPair) : Nat := 16 * (MmaPair.bCol p + MmaPair.scales p)
/-- R192: the M of a sparse pattern. -/
def EngState.group (e : EngState) : Nat := 4 * 2 ^ e.sparseM.toNat
def EngState.posBits (e : EngState) : Nat := 2 + e.sparseM.toNat
/-- R196: bytes of a row of A, and of its metadata. -/
def rowBytes (p : MmaPair) (e : EngState) (fl : MmaFl) : Nat :=
  if fl = .sparse then MmaPair.aRow p * e.sparseN.toNat / e.group else MmaPair.aRow p
def metaBytes (p : MmaPair) (e : EngState) (fl : MmaFl) : Nat :=
  if fl = .sparse then MmaPair.k p / e.group * e.sparseN.toNat * e.posBits / 8 else 0
/-- R100: M rows. -/
def mRows (m : BV2) : Nat := 16 * 2 ^ m.toNat
def accBase (e : EngState) (k : BV3) : Nat := (mget e.acc k).toNat

/-! ### Commands at issue (R191 to R201) -/

/-- R191: a command enters the queue with its snapshot; one of a strand with an unreported fault is discarded there. -/
def pushMe (op : MeOp) (s : State) : State :=
  let (id, t) := s.fresh
  let c := t.core t.cur.core
  t.setCore t.cur.core { c with
    meQueue := c.meQueue ++ [{ slot := t.cur.slot, sid := t.cur.pre.sid, op, eng := t.cur.pre.eng, who := t.actor, id, dead := t.strand.meFault }] }
/-- R56, R191: a broken operand limit, then the unreported fault, then the command's other checks and its entry. -/
def meOp (bad : Bool) (ill : Option (Nat × W64)) (op : MeOp) (k : State → State) (s : State) : Res :=
  if bad then trapNow s 0x02 0
  else meReport (fun s => match ill with
    | some (c, v) => trapNow s c v
    | none => .next (pushMe op (k s))) s
/-- The first check of a list that fails. -/
def firstBad : List (Bool × Nat × W64) → Option (Nat × W64)
  | [] => none
  | (b, c, v) :: r => if b then some (c, v) else firstBad r

/-- R192: the limits of the items of the engine state. -/
def MSel.illegal (sel : MSel) (v : W64) : Bool :=
  match sel with
  | .kvalid => decide (v.toNat > 1024)
  | .sparse =>
    let m := field v.toNat 0 2
    let n := field v.toNat 4 4
    decide (v.toNat ≥ 256) || decide (field v.toNat 2 2 ≠ 0) || m == 3 || n == 0 || decide (n > 2 * 2 ^ m)
  | .metaBase => decide (v.toNat % 16 ≠ 0)
  | .ring => decide (v.toNat ≥ 3)
  | .acc _ => decide (v.toNat > 16383)
def EngState.put (e : EngState) (sel : MSel) (v : W64) : EngState :=
  match sel with
  | .kvalid => { e with kvalid := v.setWidth 11 }
  | .sparse => { e with sparseM := v.setWidth 2, sparseN := v.extractLsb' 4 4 }
  | .metaBase => { e with metaBase := v }
  | .ring => { e with ring := v.setWidth 2 }
  | .acc k => { e with acc := mset e.acc k (v.setWidth 14) }
def execMset (sel : MSel) (a : GR) (pg : PR) (s : State) : Res :=
  formOp true { src := [a] } none (s.pr pg) s fun s =>
    meOp (MSel.illegal sel (s.g a)) none .mset
      (fun t => t.modStrand fun x => { x with eng := x.eng.put sel (s.g a) }) s

/-- R198: `MZERO`. -/
def countBad (n : W64) (base : Nat) : Bool := decide (n.toNat > 16384 - base)
def execMzero (k : BV3) (a : GR) (pg : PR) (s : State) : Res :=
  formOp true { src := [a] } none (s.pr pg) s fun s =>
    let base := accBase s.cur.pre.eng k
    meOp (countBad (s.g a) base) none (.mzero base (s.g a).toNat) id s

/-- R198: a shape. -/
def shRows (w : W64) : Nat := field w.toNat 10 7
def shCols (w : W64) : Nat := field w.toNat 0 10
def shPitch (w : W64) : Nat := field w.toNat 32 32
def shapeBad (w : W64) (bits base : Nat) : Bool :=
  decide (field w.toNat 17 15 ≠ 0) || decide (shRows w = 0) || decide (shRows w > 64) || decide (shCols w = 0) ||
  decide (shCols w > 1008) || (bits == 4 && decide (shCols w % 2 ≠ 0)) || decide (shPitch w * 8 < shCols w * bits) ||
  decide (base + shRows w * shCols w > 16384)
def execMlda (sc : Scope) (k : BV3) (a : GR) (b : GR) (pg : PR) (s : State) : Res :=
  formOp true { src := [a, b] } none (s.pr pg) s fun s =>
    let base := accBase s.cur.pre.eng k
    meOp (shapeBad (s.g b) 32 base) (if (s.g a).toNat % 4 ≠ 0 then some (0x09, s.g a) else none)
      (.mlda sc base (s.g a) (s.g b)) id s
/-- R198: the bits of an element of a format. -/
def FTy.bits (fmt : FTy) : Nat := if FTy.fm fmt = .e2m1 then 4 else 8 * (FTy.fm fmt).bytes
/-- R199: `MSTA`. -/
def execMsta (fmt : FTy) (sc : Scope) (mode : RMode) (k : BV3) (a : GR) (b : GR) (pg : PR) (s : State) : Res :=
  formOp true { src := [a, b] } none (s.pr pg) s fun s =>
    let base := accBase s.cur.pre.eng k
    meOp (shapeBad (s.g b) (FTy.bits fmt) base) (if (s.g a).toNat % (FTy.fm fmt).bytes ≠ 0 then some (0x09, s.g a) else none)
      (.msta fmt sc mode base (s.g a) (s.g b) s.ovf) id s
/-- R200: `MSEED`. -/
def execMseed (a : GR) (pg : PR) (s : State) : Res :=
  formOp true { src := [a] } none (s.pr pg) s fun s => meOp false none (.mseed (s.g a)) id s
/-- R201: `MRING`. -/
def ringBad (w : W64) : Bool :=
  decide (field w.toNat 16 16 = 0) || decide (field w.toNat 16 16 > 1024) || decide (field w.toNat 12 4 ≠ 0) ||
  decide (field w.toNat 6 2 ≠ 0) || decide (field w.toNat 0 6 = 0) || decide (w.toNat ≥ 2 ^ 32)
def execMring (a : GR) (b : GR) (pg : PR) (s : State) : Res :=
  formOp true { src := [a, b] } none (s.pr pg) s fun s =>
    let w := s.g b
    let units := field w.toNat 16 16
    let count := field w.toNat 0 6
    meOp (ringBad w) (firstBad [(decide ((s.g a).toNat % 64 ≠ 0), 0x09, s.g a),
        ((s.ownLmRange s.actor (s.g a) (units * 64 * count)).isNone, 0x08, s.g a)])
      (.mring (s.g a) units (field w.toNat 8 4) count) id s
/-- R202: `MWAIT`. -/
def MeCmd.isWait (c : MeCmd) : Bool := match c.op with | .mwait => true | _ => false
/-- R202, R301: `MWAIT` goes through the queue, where there is anything to wait for; once it has passed the engine, its bundle is issued
again and goes on. -/
def mwaitOp (s : State) : Res :=
  let c := s.core s.cur.core
  let mine (q : MeCmd) : Bool := q.sid == s.cur.pre.sid
  if (s.slotOf s.cur.core s.cur.slot).meWaited || (c.meQueue.isEmpty && !c.meLate.any mine) then meReport (fun s => .next s) s
  else .next ((if (c.meQueue ++ c.meLate).any (fun q => q.isWait && mine q) then s else pushMe .mwait s).park .meDone)
def execMwait (pg : PR) (s : State) : Res := formOp true {} none (s.pr pg) s mwaitOp

/-- R193: a gang of 16 strands on 16 cores. -/
def State.torusGang (s : State) (x : Strand) : Bool :=
  match x.gid with
  | some g => (s.gang g).size == 16 && (s.gang g).cores.length == 16
  | none => false
/-- R193: the checks of the operands, from the third on. -/
def mmaBad (k : BV3) (n : BV6) (m : BV2) (fl : MmaFl) (s : State) : Bool :=
  let e := s.cur.pre.eng
  decide (accBase e k + mRows m * (n.toNat * 16) > 16384) || (e.ring != 0 && s.cur.pre.gid.isNone) || (e.ring == 2 && !s.torusGang s.cur.pre) ||
  (fl == .rot && e.ring != 2) || (fl == .sparse && e.sparseN == 0)
/-- R193: the checks of the addresses. -/
def mmaFault (p : MmaPair) (m : BV2) (ga gs : W64) (fl : MmaFl) (s : State) : Option (Nat × W64) :=
  let e := s.cur.pre.eng
  let rows := mRows m
  let out (a : W64) (len : Nat) : Bool := len != 0 && (s.ownLmRange s.actor a len).isNone
  firstBad [
    (decide (ga.toNat % 64 ≠ 0), 0x09, ga),
    (decide (gs.toNat % 16 ≠ 0), 0x09, gs),
    (out ga (rows * rowBytes p e fl), 0x08, ga),
    (out gs (rows * MmaPair.scales p), 0x08, gs),
    (out e.metaBase (rows * metaBytes p e fl), 0x08, e.metaBase)]
def mmaOp (p : MmaPair) (k : BV3) (n : BV6) (m : BV2) (ga gs : W64) (fl : MmaFl) (s : State) : Res :=
  meOp (mmaBad k n m fl s) (mmaFault p m ga gs fl s) (.mma p (accBase s.cur.pre.eng k) (mRows m) (n.toNat * 16) ga gs fl) id s
def execMma (fa : MxFmt) (fb : MxFmt) (k : BV3) (n : BV6) (m : BV2) (ga : GR) (gs : GR) (fl : MmaFl) (s : State) : Res :=
  formOp true { src := [ga, gs] } (if mmaIllegal n m [ga, gs] then some (0x02, 0) else none) true s fun s =>
    mmaOp (some (fa, fb)) k n m (s.g ga) (s.g gs) fl s
def execMmaBf16 (k : BV3) (n : BV6) (m : BV2) (ga : GR) (fl : MmaFl) (s : State) : Res :=
  formOp true { src := [ga] } (if mmaIllegal n m [ga] then some (0x02, 0) else none) true s fun s =>
    mmaOp none k n m (s.g ga) 0 fl s
/-- R56: an A word whose register values break an operand limit, with cause `0x02` of the operand stage. -/
def Instr.valueBad (s : State) : Instr → Bool
  | .mset sel a _ => MSel.illegal sel (s.g a)
  | .mzero k a _ => countBad (s.g a) (accBase s.cur.pre.eng k)
  | .mlda _ k _ b _ => shapeBad (s.g b) 32 (accBase s.cur.pre.eng k)
  | .msta fmt _ _ k _ b _ => shapeBad (s.g b) (FTy.bits fmt) (accBase s.cur.pre.eng k)
  | .mring _ b _ => ringBad (s.g b)
  | .mma _ _ k n m _ _ fl => mmaBad k n m fl s
  | .mmaBf16 k n m _ fl => mmaBad k n m fl s
  | _ => false

/-! ### The accumulator memory (R29, R309) -/

def Core.accAt (c : Core) (i : Nat) : AccElem := tget c.acc i {}
/-- An element set; an element (+0, S = 0) is not listed. -/
def accPut (t : Tbl AccElem) (i : Nat) (e : AccElem) : Tbl AccElem := if e = {} then tdel t i else tset t i e
def State.setAcc (s : State) (c i : Nat) (e : AccElem) : State := s.setCore c { s.core c with acc := accPut (s.core c).acc i e }

/-! ### Block products and accumulation (R46 to R48) -/

/-- Every product of two elements is a whole multiple of 2^−300. -/
def fvFixed (v : Fv) : Int := match v with | .fin n m e _ => (if n then -1 else 1) * (m : Int) * (pow2 (e + 300).toNat : Int) | _ => 0
/-- R46, R47: the product of two blocks of valid elements with their scales. -/
def blockProduct (scaled : Bool) (ea eb : Nat) (as bs : List Fv) : Fv :=
  let ps := (as.zip bs).map fun x => (fvMul x.1 x.2).1
  let infs := ps.filter fun v => match v with | .inf _ => true | _ => false
  if as.isEmpty then Fv.zero false
  else if scaled && (ea == 255 || eb == 255) then .nan false false
  else if ps.any Fv.isNan || (infs.any Fv.neg && infs.any fun v => !v.neg) then .nan false false
  else match infs with
    | v :: _ => v
    | [] =>
      let sum : Int := ps.foldl (fun t v => t + fvFixed v) 0
      .fin (decide (sum < 0)) sum.natAbs ((if scaled then (ea : Int) + eb - 254 else 0) - 300) false
/-- R48: a block added into an element. -/
def AccElem.add (x : AccElem) (v : Fv) : AccElem :=
  let w := valueOf x.w
  if v.isZero then x
  else if w.isNan || v.isNan then { w := nanW, s := false }
  else match v, w with
    | .inf n, .inf m => if n != m && !x.s then { w := nanW, s := false } else { w := carrier v, s := false }
    | .inf _, _ => { w := carrier v, s := false }
    | _, .inf _ => x
    | _, _ =>
      match (fvAdd w v false).1 with
      | .fin n m e st => let (r, i) := roundToOdd n m e st 24 (-126) 127; { w := carrier r, s := x.s || i }
      | r => { w := carrier r, s := x.s }

/-! ### A tile of an `MMA` (R194 to R196, R306, R307) -/

/-- R27: the codes of a row. -/
def Fm.codes (f : Fm) : List Byte → List Nat
  | [] => []
  | b :: r =>
    match f with
    | .e2m1 => (b.toNat % 16) :: (b.toNat / 16) :: Fm.codes f r
    | .bf16 => (match r with | c :: q => (b.toNat + 256 * c.toNat) :: Fm.codes f q | [] => [])
    | _ => (b.toNat % pow2 f.bits) :: Fm.codes f r
/-- Rows of `w` bytes. -/
def chunk (w : Nat) (bs : List Byte) : Nat → List (List Byte)
  | 0 => []
  | n + 1 => bs.take w :: chunk w (bs.drop w) n
/-- R196: the position indices of a row. -/
def EngState.indices (e : EngState) (row : List Byte) (groups : Nat) : List (List Nat) :=
  let v := leNat row
  (List.range groups).map fun g => (List.range e.sparseN.toNat).map fun n => field v ((e.sparseN.toNat * g + n) * e.posBits) e.posBits
def risingList : List Nat → Bool
  | a :: b :: r => decide (a < b) && risingList (b :: r)
  | _ => true
/-- R306: a dense row from the values of a sparse one, up to `kv`. -/
def denseRow (e : EngState) (idx : List (List Nat)) (vals : List Fv) : List Fv :=
  let n := e.sparseN.toNat
  (idx.zipIdx.map fun g =>
    (List.range e.group).map fun pos =>
      match (g.1.zipIdx.find? fun x => x.1 == pos) with
      | some x => vals.getD (n * g.2 + x.2) (Fv.zero false)
      | none => Fv.zero false).flatten
/-- R302: the bytes an `MMA` reads of A for a tile: rows, scales and metadata. -/
def State.rawA (s : State) (c : MeCmd) (p : MmaPair) (m : Nat) (ga gs : W64) (fl : MmaFl) : List (List Byte) :=
  let at_ (a : W64) (n : Nat) : List Byte := match s.ownLm c.who a with | some o => s.readAt (.lm c.who.core o) n | none => []
  [at_ ga (m * rowBytes p c.eng fl), at_ gs (m * MmaPair.scales p), if fl = .sparse then at_ c.eng.metaBase (m * metaBytes p c.eng fl) else []]
/-- What these bytes say of A: rows of values up to `kv`, and scales; none where metadata is bad. -/
def MeCmd.rowsA (c : MeCmd) (p : MmaPair) (m : Nat) (fl : MmaFl) (kv : Nat) (raw : List (List Byte)) : Option (List (List Fv × List Nat)) :=
  let rows := (chunk (rowBytes p c.eng fl) (raw.getD 0 []) m).map fun r => ((MmaPair.a p).codes r).map (MmaPair.a p).decode
  let scales := (chunk (MmaPair.scales p) (raw.getD 1 []) m).map fun r => r.map (·.toNat)
  if fl = .sparse then
    let idx := (chunk (metaBytes p c.eng fl) (raw.getD 2 []) m).map fun r => c.eng.indices r ((kv + c.eng.group - 1) / c.eng.group)
    if idx.all fun r => r.all risingList then
      some ((rows.zip idx).map (fun x => (denseRow c.eng x.2 x.1).take kv) |>.zip scales)
    else none
  else some ((rows.map (·.take kv)).zip scales)
/-- R307: the steps of a tile: 4 column groups of 4 columns, and in each the blocks of 32 of k. -/
def MmaPair.steps (p : MmaPair) : Nat := 4 * (MmaPair.k p / 32)
/-- R47: block `q` of a list. -/
def blockOf (l : List α) (q : Nat) : List α := (l.drop (32 * q)).take 32
/-- R195, R307: step `st` of tile `t` of an `MMA`: one block of k added for every row of A and the four columns of a group. -/
def accStep (acc : Tbl AccElem) (p : MmaPair) (base n t kv st : Nat) (rows : List (List Fv × List Nat)) (tile : List Byte) : Tbl AccElem :=
  let q := st % (MmaPair.k p / 32)
  let group := st / (MmaPair.k p / 32)
  let cols := (chunk (MmaPair.bCol p) tile 16).map fun r => (((MmaPair.b p).codes r).map (MmaPair.b p).decode).take kv
  let scs := (chunk (MmaPair.scales p) (tile.drop (16 * MmaPair.bCol p)) 16).map fun r => r.map (·.toNat)
  rows.zipIdx.foldl (fun u row =>
    (List.range 4).foldl (fun v i =>
      let j := 4 * group + i
      let e := base + n * row.2 + 16 * t + j
      accPut v e ((tget v e {}).add
        (blockProduct p.isSome (row.1.2.getD q 0) ((scs.getD j []).getD q 0) (blockOf row.1.1 q) (blockOf (cols.getD j []) q)))) u) acc

/-! ### Ring and torus (R197) -/

/-- R197: the core that takes the tiles of a core, and the one whose tiles it takes; none with ring source local. -/
def torusAt (cores : List Nat) (row col : Nat) : Option Nat := cores[(row % 4) * 4 + col % 4]?
def posIn (cores : List Nat) (c : Nat) : Nat := cores.findIdx (· == c)
def State.meGid (s : State) (c : MeCmd) : Option Nat :=
  match s.findStrand c.sid with
  | some (n, k) => (s.strandOf n k).gid
  | none => none
def State.meGang (s : State) (c : MeCmd) : Option Gang := (s.meGid c).map s.gang
/-- R197's "north is row (s + 3) mod 4 of the same column" names the row that follows s div 4, the row of the strand, as its west does for
the column: read of s itself it would send the strands of a column to one row (DEDUCED, log 46). -/
def State.nextTileCore (s : State) (c : MeCmd) (core : Nat) : Option Nat :=
  match s.meGang c with
  | none => none
  | some g =>
    if c.eng.ring = 1 then some (nextInRing g.cores core)
    else if c.eng.ring = 2 then (let q := posIn g.cores core; torusAt g.cores (q / 4 + 3) (q % 4))
    else none
def State.prevTileCore (s : State) (c : MeCmd) (core : Nat) : Option Nat :=
  match s.meGang c with
  | none => none
  | some g =>
    if c.eng.ring = 1 then some (prevInRing g.cores core)
    else if c.eng.ring = 2 then (let q := posIn g.cores core; torusAt g.cores (q / 4 + 1) (q % 4))
    else none
def State.westCore (s : State) (c : MeCmd) (core : Nat) : Option Nat :=
  (s.meGang c).bind fun g => let q := posIn g.cores core; torusAt g.cores (q / 4) (q % 4 + 3)
def State.eastCore (s : State) (c : MeCmd) (core : Nat) : Option Nat :=
  (s.meGang c).bind fun g => let q := posIn g.cores core; torusAt g.cores (q / 4) (q % 4 + 1)
/-- R197: a neighbour is lost to a gang: fenced, or no strand of the gang is left on it. -/
def State.lostTo (s : State) (gid n : Nat) : Bool :=
  (s.core n).fenced || !((List.range 16).any fun k =>
    (s.slotOf n k).st != .free && (s.gang gid).live.contains (s.strandOf n k).sid && (s.strandOf n k).gid == some gid)
def State.lostCore (s : State) (c : MeCmd) (n : Nat) : Bool := match s.meGid c with | none => true | some g => s.lostTo g n
/-- R201, R304: a half that `MRING` is filling. -/
def Core.ringing (c : Core) : Bool := match c.meQueue with | q :: _ => (match q.op with | .mring _ _ _ _ => q.sub != 0 && !q.dead | _ => false) | [] => false
/-- R197, R304: halves of a latch that hold a tile or await one. -/
def Core.latchUsed (c : Core) : Nat := c.latch.length + c.handOn.length + c.tileIn.length + bit01 c.ringing

/-! ### The engine's steps (R301 to R311) -/

def State.setHead (s : State) (core : Nat) (c : MeCmd) : State :=
  s.setCore core { s.core core with meQueue := c :: (s.core core).meQueue.drop 1 }
/-- R191, R311: a fault: a record, the strand's flag, and its commands abandoned or discarded. -/
def State.meAbandon (s : State) (core : Nat) (c : MeCmd) (addr word : W64) : State :=
  let t := s.faultOf c.sid addr word fun x => { x with meFault := true }
  t.setCore core { t.core core with meQueue := (t.core core).meQueue.map fun q => if q.sid = c.sid then { q with dead := true } else q }
/-- R281, R282: a fault inside the engine. -/
def MeCmd.addr (c : MeCmd) : W64 :=
  match c.op with | .mlda _ _ a _ => a | .msta _ _ _ _ a _ _ => a | .mring a _ _ _ => a | .mma _ _ _ _ a _ _ => a | _ => 0
def State.meInner (s : State) (core : Nat) (c : MeCmd) (sub : Nat) : State :=
  s.meAbandon core c c.addr (recordWord c.progress 2 sub 0x0D 0)

/-- R302: bytes of own LM that belong to a transfer in flight. -/
def State.meHeld (s : State) (core : Nat) (c : MeCmd) (va : W64) (n : Nat) : Bool :=
  match s.ownLm c.who va with | some o => s.teHolds core (.lm core o) n | none => false
/-- R302: the A operand of an `MMA` belongs to one. -/
def State.meBlocked (s : State) (core : Nat) (c : MeCmd) (p : MmaPair) (m : Nat) (ga gs : W64) (fl : MmaFl) : Bool :=
  s.meHeld core c ga (m * rowBytes p c.eng fl) || s.meHeld core c gs (m * MmaPair.scales p) ||
  s.meHeld core c c.eng.metaBase (m * metaBytes p c.eng fl)

/-- R198: the address of element (i, j). -/
def elemAt (a shape : W64) (i off : Nat) : W64 := a + BitVec.ofNat 64 (i * shPitch shape + off)
/-- R191, R281: an element that fails. -/
def State.elemFails (s : State) (core : Nat) (c : MeCmd) (va : W64) (cause : Nat) : State :=
  s.meAbandon core c va (recordWord c.progress 2 0 cause 0)
/-- R198: the next element of an `MLDA`. -/
def State.mldaElem (s : State) (core : Nat) (c : MeCmd) (base : Nat) (a shape : W64) : State :=
  let n := c.progress
  let va := elemAt a shape (n / shCols shape) (4 * (n % shCols shape))
  if va.toNat % 4 ≠ 0 then s.elemFails core c va 0x09
  else if s.meHeld core c va 4 then s
  else match s.engAccess c.who c.id c.io .load .load va 4 with
    | .fault e => s.elemFails core c va e
    | .wait t io => t.setHead core { c with io }
    | .done t bs => (t.setAcc core (base + n) { w := BitVec.ofNat 32 (leNat bs), s := false }).setHead core { c with progress := n + 1, io := {} }
/-- R49: the code of an element. -/
def AccElem.store (x : AccElem) (fmt : FTy) (mode : RMode) (ovf : Bool) (g : W32) : Nat :=
  if fmt = .f32 then
    match valueOf x.w with
    | .inf n => if x.s then Fm.f32.overflow n mode ovf else x.w.toNat
    | _ => x.w.toNat
  else (finalRound x.w x.s 0 (FTy.fm fmt) mode ovf g).1
/-- R199: the next element of an `MSTA`. It waits for the answer of one element before it writes the next (DESIGN CHOICE, log 46); the column's
generator advances once for it, when it is rounded (R42, R310). -/
def State.mstaElem (s : State) (core : Nat) (c : MeCmd) (fmt : FTy) (mode : RMode) (ovf : Bool) (base : Nat) (a shape : W64) : State :=
  let n := c.progress
  let j := n % shCols shape
  let f := FTy.fm fmt
  let now := vget (s.core core).gens (j % 16) 0
  let g := if c.drew then now else xorshift32 now
  let code := ((s.core core).accAt (base + n)).store fmt mode ovf g
  let drawn (t : State) : State :=
    if mode = .sr then t.setCore core { t.core core with gens := vset (t.core core).gens (j % 16) g } else t
  let va := elemAt a shape (n / shCols shape) (f.place j).1
  let k : AccKind := if f = .e2m1 then .nibble (j % 2 == 1) (BitVec.ofNat 8 code) else .store (leBytes f.bytes code)
  if va.toNat % f.bytes ≠ 0 then (drawn s).elemFails core c va 0x09
  else if s.meHeld core c va f.bytes then s
  else match s.engAccess c.who c.id c.io .store k va f.bytes with
    | .fault e => (drawn s).elemFails core c va e
    | .wait t io => (drawn t).setHead core { c with io, drew := true }
    | .done t _ => (drawn t).setHead core { c with progress := n + 1, io := {}, drew := false }

/-- R301: the elements, tiles or steps of a command. -/
def MeCmd.total (c : MeCmd) : Nat :=
  match c.op with
  | .mzero _ n => n
  | .mlda _ _ _ sh | .msta _ _ _ _ _ sh _ => shRows sh * shCols sh
  | .mseed _ => 1
  | .mring _ _ _ n => n
  | .mma _ _ _ n _ _ _ => n / 16
  | .mset | .mwait => 0
/-- R301, R312: the next element of the head command; `MMA` and `MRING` go on by tiles. -/
def State.meElem (s : State) (core : Nat) (c : MeCmd) : State :=
  match c.op with
  | .mzero base _ => (s.setAcc core (base + c.progress) {}).setHead core { c with progress := c.progress + 1 }
  | .mseed key => (s.setCore core { s.core core with
      gens := Vector.ofFn fun i => seedOf ((mix key (BitVec.ofNat 64 i.val)).extractLsb' 32 32) }).setHead core { c with progress := 1 }
  | .mlda _ base a sh => s.mldaElem core c base a sh
  | .msta fmt _ mode base a sh ovf => s.mstaElem core c fmt mode ovf base a sh
  | _ => s
/-- R301, R353: the head command starts; `MLDA` once its acquire is done, and none that belongs to a bundle which may yet trap (R56). An
`MWAIT` that finds an `MSTA` of its strand not complete leaves the engine at once, and completes after it. -/
def execMeCommandStart (core : Nat) (s : State) : Res :=
  onCore core true s (.next (
    match (s.core core).meQueue with
    | c :: _ =>
      if (s.core core).meBusy || c.wait.isSome then s
      else if c.isWait && (s.core core).meLate.any fun q => q.sid == c.sid then
        s.setCore core { s.core core with meQueue := (s.core core).meQueue.drop 1, meLate := (s.core core).meLate ++ [c] }
      else
        let (t, ok) := match c.op with
          | .mlda sc _ _ _ => if c.dead then (s, true) else s.engAcquire c.sid core sc
          | _ => (s, true)
        if ok then t.setCore core { t.core core with meBusy := true } else t
    | [] => s))

/-- R304: an upstream neighbour's tile that could start into the latch of a core: it goes before that core's own `MRING`. -/
def State.upstreamWaits (s : State) (core : Nat) : Bool :=
  s.cores.any fun e => !s.coreStopped e.1 && (e.2.handOn.any fun h => h.dst == core && !h.going) && !(e.2.handOn.any fun h => h.dst == core && h.going)
/-- R304: the hand-on of a core's tile to another has ended, and its half is free. -/
def State.handOnEnds (s : State) (src dst : Nat) : State :=
  s.setCore src { s.core src with handOn := (s.core src).handOn.filter fun h => !(h.going && h.dst == dst) }
/-- R312: a transfer that has started ends: the tile is whole in the latch. -/
def State.tileArrives (s : State) (core : Nat) (t : TileIn) : State :=
  (s.setCore core { s.core core with tileIn := (s.core core).tileIn.erase t, latch := (s.core core).latch ++ [t.tile] }).handOnEnds t.src core
/-- R304: the next 64 bytes of a tile that comes over a link. -/
def State.linkUnit (s : State) (core : Nat) (t : TileIn) : State :=
  if t.left ≤ 1 then s.tileArrives core t
  else s.setCore core { s.core core with tileIn := (s.core core).tileIn.map fun x => if x = t then { x with left := x.left - 1 } else x }
/-- R201, R304: the next 64 bytes of the tile that `MRING` places; with its last byte the tile is in the latch. -/
def State.ringUnit (s : State) (core : Nat) (c : MeCmd) (a : W64) (units hop : Nat) : State :=
  let co := s.core core
  let va := a + BitVec.ofNat 64 ((c.progress * units + c.sub) * 64)
  if (c.sub = 0 ∧ (co.latchUsed ≥ 2 ∨ s.upstreamWaits core)) ∨ s.meHeld core c va 64 then s
  else
    let bs := (c.held.headD []) ++ s.readAt (.lm core ((s.ownLm c.who va).getD 0)) 64
    if c.sub + 1 < units then s.setHead core { c with sub := c.sub + 1, held := [bs] }
    else (s.setCore core { co with latch := co.latch ++ [{ bytes := bs, hop }] }).setHead core { c with progress := c.progress + 1, sub := 0, held := [] }
/-- R201, R304: the `MRING` at the head of a core's queue places 64 bytes. -/
def State.ringStep (s : State) (core : Nat) : State :=
  match (s.core core).meQueue with
  | c :: _ =>
    (match c.op with
    | .mring a units hop count => if !(s.core core).meBusy || c.dead || c.progress ≥ count then s else s.ringUnit core c a units hop
    | _ => s)
  | [] => s
/-- R197, R304: the port moves 64 bytes over each link, then as many of an `MRING`; a tile is in the latch, in the order of the last bytes. -/
def execLatchTileArrive (core : Nat) (s : State) : Res :=
  onCore core true s (.next (((s.core core).tileIn.foldl (fun u t => u.linkUnit core t) s).ringStep core))

/-- R197: a used tile goes on, or is discarded. -/
def State.handTile (s : State) (core : Nat) (c : MeCmd) (t : Tile) : State :=
  if t.hop = 0 then s
  else match s.nextTileCore c core with
    | some n =>
      let (id, u) := s.fresh
      u.setCore core { u.core core with
        handOn := (u.core core).handOn ++ [{ tile := { t with hop := t.hop - 1 }, dst := n, gid := (s.meGid c).getD 0, id }] }
    | none => s
/-- R308: the last tile is used: the copy of A rows, scales and metadata is to go west. -/
def State.rotateOut (s : State) (core : Nat) (c : MeCmd) (p : MmaPair) (m : Nat) (ga gs : W64) (fl : MmaFl) : State :=
  if fl ≠ .rot then s
  else match s.westCore c core with
    | none => s
    | some w =>
      let part (a : W64) (n : Nat) : List (Nat × List Byte) :=
        match s.ownLm c.who a with | some o => if n = 0 then [] else [(o, s.readAt (.lm core o) n)] | none => []
      let img := part ga (m * rowBytes p c.eng fl) ++ part gs (m * MmaPair.scales p) ++ part c.eng.metaBase (m * metaBytes p c.eng fl)
      s.setCore core { s.core core with rotOut := (s.core core).rotOut ++ [{ dst := w, gid := (s.meGid c).getD 0, img }] }
/-- R195, R311: the head command, as it now stands, is done with a tile. -/
def State.passTile (s : State) (core : Nat) (c : MeCmd) (p : MmaPair) (m n : Nat) (ga gs : W64) (fl : MmaFl) (t : Tile) : State :=
  let c2 := ((s.core core).meQueue.head?).getD c
  let u := (s.setCore core { s.core core with latch := (s.core core).latch.drop 1 }).setHead core { c2 with progress := c.progress + 1, sub := 0, held := [] }
  let u := u.handTile core c t
  if c.progress + 1 ≥ n / 16 then u.rotateOut core c p m ga gs fl else u
/-- R195, R302, R307: the next step of the command `c` at the head with the oldest tile. -/
def State.useTile (s : State) (core : Nat) (c : MeCmd) (p : MmaPair) (base m n : Nat) (ga gs : W64) (fl : MmaFl) (t : Tile) : State :=
  let kv := min c.eng.kvalid.toNat (MmaPair.k p)
  let raw := if c.held.isEmpty then s.rawA c p m ga gs fl else c.held
  if c.dead then s.passTile core c p m n ga gs fl t
  else if t.bytes.length ≠ MmaPair.tile p then (s.meInner core c 3).passTile core c p m n ga gs fl t
  else match c.rowsA p m fl kv raw with
    | none => (s.meInner core c 2).passTile core c p m n ga gs fl t
    | some rows =>
      let u := s.setCore core { s.core core with acc := accStep (s.core core).acc p base n c.progress kv c.sub rows t.bytes }
      if c.sub + 1 ≥ MmaPair.steps p then u.passTile core c p m n ga gs fl t else u.setHead core { c with sub := c.sub + 1, held := raw }
/-- R197, R311: an `MMA` that waits for a tile of a lost neighbour ends there. -/
def State.lostTile (s : State) (core : Nat) (c : MeCmd) (p : MmaPair) (m n : Nat) (ga gs : W64) (fl : MmaFl) : State :=
  match s.prevTileCore c core with
  | none => s
  | some u =>
    if s.lostCore c u && (s.core core).tileIn.isEmpty && !((s.core u).handOn.any fun x => x.dst == core) then
      let t := if c.dead then s else s.meInner core c 1
      let c2 := ((t.core core).meQueue.head?).getD c
      (t.setHead core { c2 with progress := n / 16, sub := 0, held := [] }).rotateOut core c p m ga gs fl
    else s
/-- R302: whether the `MMA` `c` reads its A operand next: for the first step of a tile, or for its copy after the last. -/
def MeCmd.readsNext (c : MeCmd) (n : Nat) (fl : MmaFl) : Bool :=
  (!c.dead && c.held.isEmpty) || (fl == .rot && decide (c.progress + 1 ≥ n / 16))
/-- R195, R307: an `MMA` takes its next step with a tile. -/
def execMmaTile (core : Nat) (s : State) : Res :=
  onCore core true s (.next (
    match (s.core core).meQueue with
    | c :: _ =>
      (match c.op with
      | .mma p base m n ga gs fl =>
        if !(s.core core).meBusy || c.progress ≥ n / 16 || (c.readsNext n fl && s.meBlocked core c p m ga gs fl) then s
        else match (s.core core).latch with
          | t :: _ => s.useTile core c p base m n ga gs fl t
          | [] => if fl = .rot ∧ s.meBlocked core c p m ga gs fl then s else s.lostTile core c p m n ga gs fl
      | _ => s)
    | [] => s))

/-- R197: the head command of a core, where it is an unfinished `MMA` of a gang that takes tiles from a neighbour, faults with sub-code 1. -/
def State.ringFaults (s : State) (core gid : Nat) : State :=
  match (s.core core).meQueue with
  | c :: _ =>
    (match c.op with
    | .mma _ _ _ n _ _ _ =>
      if !c.dead && (s.core core).meBusy && c.eng.ring != 0 && decide (c.progress < n / 16) && s.meGid c == some gid then s.meInner core c 1 else s
    | _ => s)
  | [] => s
/-- R197: the tile has no core to take it: the receiver is fenced, or its latch is full and no strand of the tile's gang is left there. -/
def State.handOnLost (s : State) (h : HandOn) : Bool := (s.core h.dst).fenced || (decide ((s.core h.dst).latchUsed ≥ 2) && s.lostTo h.gid h.dst)
/-- R304: a core's tile can start towards its receiver: the link is free and the receiving latch has a half. -/
def State.handOnFree (s : State) (core : Nat) (h : HandOn) : Bool :=
  !((s.core core).handOn.any fun x => x.going && x.dst == h.dst) && decide ((s.core h.dst).latchUsed < 2)
/-- R197, R304, R305: the port starts to hand on the oldest waiting tile that can go, or drops one that no core takes. -/
def execTileHandOn (core : Nat) (s : State) : Res :=
  onCore core true s (.next (
    let co := s.core core
    match co.handOn.find? fun h => !h.going && (s.handOnLost h || s.handOnFree core h) with
    | none => s
    | some h =>
      if s.handOnLost h then
        (s.setCore core { co with handOn := co.handOn.filter fun x => x.id != h.id }).ringFaults core h.gid
      else
        let u := s.setCore core { co with handOn := co.handOn.map fun x => if x.id = h.id then { x with going := true } else x }
        u.setCore h.dst { u.core h.dst with tileIn := (u.core h.dst).tileIn ++ [{ tile := h.tile, src := core, left := (h.tile.bytes.length + 63) / 64 }] }))

/-- R308: a rotate `MMA` at the head of a core that has used its last tile and awaits its copy. -/
def State.awaitsCopy (s : State) (core : Nat) : Option MeCmd :=
  match (s.core core).meQueue with
  | c :: _ =>
    (match c.op with
    | .mma _ _ _ n _ _ fl => if (s.core core).meBusy && fl == .rot && decide (c.progress ≥ n / 16) && !c.rotated then some c else none
    | _ => none)
  | [] => none
/-- R308: the copy of a core reaches its western neighbour; or a core learns that its copy will not come. -/
def execRotateCopy (core : Nat) (s : State) : Res :=
  onCore core true s (.next (
    let lostEast : State :=
      match s.awaitsCopy core with
      | none => s
      | some c =>
        match s.eastCore c core with
        | none => s
        | some e =>
          if s.lostCore c e && !((s.core e).rotOut.any fun x => x.dst == core) then
            let t := if c.dead then s else s.meInner core c 1
            t.setHead core { ((t.core core).meQueue.head?).getD c with rotated := true }
          else s
    match (s.core core).rotOut with
    | [] => lostEast
    | x :: r =>
      let t := s.setCore core { s.core core with rotOut := r }
      if s.lostTo x.gid x.dst then t
      else match s.awaitsCopy x.dst with
        | none => lostEast
        | some c => (x.img.foldl (fun u y => u.writeAt (.lm x.dst y.1) y.2) t).setHead x.dst { c with rotated := true }))

/-- R301: whether the head command has done its part in the engine. -/
def MeCmd.done (c : MeCmd) : Bool :=
  decide (c.progress ≥ c.total) && (match c.op with | .mma _ _ _ _ _ _ fl => fl != .rot || c.rotated | _ => true) ||
  (c.dead && (match c.op with | .mma _ _ _ _ _ _ _ => false | _ => true))
/-- R301: the last write of an `MSTA` has left the core. -/
def MeCmd.lastLeft (c : MeCmd) : Bool :=
  match c.op with | .msta _ _ _ _ _ _ _ => decide (c.progress + 1 = c.total) && c.io.req.isSome && !c.io.fill && c.io.res.isNone | _ => false
/-- R202, R225: a slot whose bundle waits at an `MWAIT`, or at a `YIELD` beside one. -/
def Slot.atMwait (x : Slot) : Bool := match x.st with | .parked .meDone => true | .waiting (.yield _ _) => x.again | _ => false
/-- R202, R301: an `MWAIT` completes: its strand may go on. -/
def State.waitPassed (s : State) (core : Nat) (c : MeCmd) : State :=
  match (if c.isWait then s.findStrand c.sid else none : Option (Nat × Nat)) with
  | some (n, k) => if n = core ∧ (s.slotOf n k).atMwait then s.setSlot n k { s.slotOf n k with meWaited := true } else s
  | none => s
/-- R301, R302: an `MSTA` past its occupancy, or an `MWAIT` behind one: an `MSTA` ends with a fault of its last write, or with its release. None where it waits. -/
def State.lateStep (s : State) (core : Nat) (c : MeCmd) : Option State :=
  let gone (t : State) : State := (t.setCore core { t.core core with meLate := (t.core core).meLate.filter fun q => q.id != c.id }).wakeHeld core .meDone
  match c.io.req, c.io.res, c.op with
  | _, _, .mwait => if ((s.core core).meLate.takeWhile fun q => q.id != c.id).any (fun q => q.sid == c.sid) then none else some (gone (s.waitPassed core c))
  | some _, some (.fault e), .msta fmt _ _ _ a sh _ =>
    let j := c.progress % shCols sh
    some (gone (s.elemFails core c (elemAt a sh (c.progress / shCols sh) ((FTy.fm fmt).place j).1) e))
  | some _, none, _ => none
  | _, _, .msta _ sc _ _ _ _ _ => let (t, ok) := s.engRelease c.sid core sc; if ok then some (gone t) else if t = s then none else some t
  | _, _, _ => some (gone s)
/-- R202, R301: the head command leaves the engine: an `MSTA` is still to complete, an `MWAIT` lets its strand go on. -/
def State.meLeaves (s : State) (core : Nat) (c : MeCmd) : State :=
  let late := match c.op with | .msta _ _ _ _ _ _ _ => !c.dead | _ => false
  let t := s.setCore core { s.core core with
    meQueue := (s.core core).meQueue.drop 1, meBusy := false, meLate := (s.core core).meLate ++ (if late then [c] else []) }
  (t.waitPassed core c).wakeHeld core .meDone
/-- R301: the head command takes its next element, or leaves the engine. -/
def State.headStep (s : State) (core : Nat) : State :=
  match (s.core core).meQueue with
  | c :: _ => if !(s.core core).meBusy then s else if c.done || c.lastLeft then s.meLeaves core c else s.meElem core c
  | [] => s
/-- R301: a command completes, or the engine goes on with it. -/
def execMeCommandDone (core : Nat) (s : State) : Res :=
  onCore core true s (.next (((s.core core).meLate.findSome? (s.lateStep core)).getD (s.headStep core)))

end Sys2Proof.Machine
end

