-- ==== Sys2Proof/Machine/Switch.lean ====
section
/-!
DEFINITION. The gang switch: stop, save area, resume (12_traps_preemption.md R289 to R296; 20 R370; 23 R416).
-/
namespace Sys2Proof.Machine
open Sys2Proof

/-! ### The stop (R289, R290, R296) -/

def Partition.cores (p : Partition) : List Nat := p.clusters.flatMap coresOf
/-- Whether a unit belongs to a partition. -/
def Partition.owns (p : Partition) : Node → Bool
  | .core c => p.clusters.contains (clusterOf c)
  | .csm cl => p.clusters.contains cl
  | .slice n => p.slices.contains n
  | _ => false
def SlotState.isParked : SlotState → Bool | .parked _ => true | _ => false
/-- R238, R289, R374: the slots of a core stop, a bundle that R238 names being one parked now, and its NI sends every bound buffer. -/
def State.stopCore (s : State) (c : Nat) : State :=
  let t := s.setCore c { s.core c with slots := (s.core c).slots.map fun x =>
    { x with stopped := true, named := x.named && x.st.isParked } }
  t.aggPushAll c .switch_ fun b => b.dest.isSome
/-- R289, R290: a waiter of a retry list: another device's is answered "busy"; the partition's own is sent again after the resume. -/
def State.stopWaiter (s : State) (w : Node × Waiter) : State :=
  let t := { s with retry := s.retry.erase w }
  match w.2.src with
  | .core c =>
    let k := w.2.acc.slot
    let t := t.setCore c { t.core c with
      reqs := (t.core c).reqs.map fun r => if r.id = w.2.acc.req then { r with withdrawn := false } else r }
    if (t.slotOf c k).st = .parked (.syncWait w.2.acc.req) then
      t.setSlot c k { t.slotOf c k with st := .parked (.syncBusy w.2.acc.req (t.cycle c)) }
    else t
  | src => t.answer w.1 src w.2.acc .busy
/-- R152, R290: the sync waits of a core at other devices are withdrawn, to be issued again; a request that has not left is parked. -/
def State.recallWaits (s : State) (c : Nat) : State :=
  (List.range 16).foldl (fun t k =>
    match (t.slotOf c k).st with
    | .parked (.syncWait id) =>
      (match (t.core c).req id with
      | some { acc := some a, .. } =>
        (match a.loc with
        | .dev _ =>
          if t.onTheWay.any fun p => match p.body with | .access b => b.req == id | _ => false then t
          else
            let u := t.setCore c { t.core c with
              reqs := (t.core c).reqs.map fun r => if r.id = id then { r with withdrawn := true, again := true } else r }
            u.send (.core c) (u.home a.loc) a.part .request (.withdraw id k a.loc)
        | _ => t)
      | _ => t)
    | _ => t) s
/-- R289: the accesses that wait for a fill in a slice are performed, and its handler is completed. -/
def State.stopSlice (s : State) (n : Nat) : State :=
  ((s.slice n).fills.foldl (fun t f => match f.1.loc with | .hbm p o => t.fillLine n p (lineOf o) | _ => t) s).finishHandler n
/-- R289, R290: what leaves for another device at the stop: "busy" for its waiters, and the withdrawals of the partition's own. -/
def Packet.leavesAtStop (p : Packet) : Bool :=
  match p.dst, p.body with | .dev _, .accReply _ _ .busy | .dev _, .withdraw _ _ _ => true | _, _ => false
/-- R289: the packets in flight go to the park buffers, in order; those in an island that takes no cycle do so at its first one (R424). -/
def State.parkPackets (s : State) (part : Nat) (left : List Nat) : State :=
  let mine (p : Packet) : Bool := p.part == part && !p.leavesAtStop && !left.contains p.dst.island
  let p := s.partn part
  ({ s with
    arrived := s.arrived.filter fun x => !mine x, reorder := s.reorder.filter fun x => !mine x, net := s.net.filter fun x => !mine x }).setPartn part
    { p with parked := p.parked ++ (s.onTheWay.filter mine).mergeSort fun a b => decide (a.id ≤ b.id) }
/-- A packet of a partition by which a cluster's cache writes a line back, and that no failed link holds. -/
def State.landing (s : State) (part : Nat) (p : Packet) : Option Access :=
  match p.src, p.body with
  | .csm _, .access a => if p.part = part ∧ s.routeFailed p = false then some a else none
  | _, _ => none
/-- Such a packet once its bytes are written. -/
def State.blank (s : State) (part : Nat) (p : Packet) : Packet :=
  match s.landing part p with
  | some a => { p with body := .access { a with kind := .hostLine (List.replicate 64 none) } }
  | none => p
/-- R290, R338: the stop drops the replicas, and the lines that clusters were writing back are home before it is complete. -/
def State.landWrites (s : State) (part : Nat) : State :=
  let s := s.setPartn part { s.partn part with replicas := [] }
  let t := (s.onTheWay.mergeSort fun a b => decide (a.id ≤ b.id)).foldl (fun u p =>
    match s.landing part p with | some a => (u.performAt p.dst p.src a).1 | none => u) s
  { t with net := t.net.map (s.blank part), reorder := t.reorder.map (s.blank part), arrived := t.arrived.map (s.blank part) }
/-- R18: the islands of a partition's units, and that of the IOD. -/
def Partition.islands (p : Partition) : List Nat := (p.clusters.map islandOf ++ p.slices.map sliceIsland ++ [16]).eraseDups
/-- R289: the units of a partition that lie in some of the islands stop. -/
def State.stopUnits (s : State) (part : Nat) (on : Nat → Bool) : State :=
  let p := s.partn part
  let cores := p.cores.filter fun c => on (islandOf (clusterOf c))
  let t := cores.foldl State.stopCore s
  let t := (p.slices.filter fun n => on (sliceIsland n)).foldl State.stopSlice t
  let t := (t.retry.filter fun w => p.owns w.1 && on w.1.island).foldl State.stopWaiter t
  cores.foldl State.recallWaits t
/-- R289, R424, R426: the stop: a unit stops in the first cycle that its island takes at or after T; `ST` becomes 2 with the last. -/
def State.switchStop (s : State) (part : Nat) : State :=
  let p := s.partn part
  let due := p.stopLeft.getD p.islands
  let left := due.filter s.islandOff
  if p.stopLeft = some left then s
  else
    let t := ((s.stopUnits part fun i => due.contains i && !left.contains i).landWrites part).parkPackets part left
    t.setPartn part { t.partn part with
      swSt := if left.isEmpty then 2 else 1
      stopLeft := if left.isEmpty then none else some left
      stopCycles := if p.stopLeft.isNone then t.islands.toList.map (·.cycles) else p.stopCycles }
/-- R289: the stop of a partition whose time has come. -/
def State.stopDue (s : State) (part : Nat) : State :=
  let p := s.partn part
  if p.swSt = 1 ∧ s.gtime.toNat ≥ p.swAt.toNat then s.switchStop part else s
def execSwitchStop (part : Nat) (s : State) : Res :=
  onUnit (part < 64) (.next (s.stopDue part))

/-! ### The save area (R292 to R294, R416) -/

/-- Free bytes, for what an image holds in a form that the spec does not give (log 3). -/
def State.drawMany (s : State) (n : Nat) : State × List Byte :=
  ({ s with freeCtr := s.freeCtr + (n + 7) / 8 },
   (List.range n).map fun i => ((Config.freeValue (s.freeCtr + i / 8)) >>> (8 * (i % 8))).setWidth 8)
def padImg (n : Nat) (l : List Byte) : List Byte := (l ++ List.replicate (n - l.length) 0).take n
def dws (l : List W64) : List Byte := l.flatMap fun v => leBytes 8 v.toNat
/-- R294: bits of a file of scalar registers. -/
def sBits (g : Vector GReg 32) : Nat := (List.range 32).foldl (fun n i => n + bit01 (vget g i {}).s * 2 ^ i) 0
def feBits (g : Vector GReg 32) : Nat := (List.range 32).foldl (fun n i => n + bit01 (vget g i {}).full * 2 ^ i) 0
/-- R22. -/
def VReg.bytes22 (v : VReg) : List Byte := (v.w.toList.flatMap fun w => leBytes 4 w.toNat) ++ leBytes 4 v.s.toNat
def SlotState.code : SlotState → Nat | .free => 0 | .reserved _ => 1 | .ready => 2 | .waiting _ => 3 | .parked _ => 4 | .borrowed _ => 5
/-- R294, R238: the image of a slot, but for its internal job identity, which is `id`. -/
def Slot.image (x : Slot) (id : List Byte) : List Byte :=
  let code := x.st.code
  if !x.st.live then padImg 10240 (List.replicate 72 0 ++ leBytes 8 code)
  else
    let s := x.strand
    let regs (g : Vector GReg 32) : List Byte := dws (g.toList.map (·.data))
    let vregs (v : Vector VReg 32) (n : Nat) : List Byte := (v.toList.take n).flatMap VReg.bytes22
    let head := dws [w64 (s.pc.toNat % 2 ^ 57 + s.p.toNat / 2 * 2 ^ 57), w64 (feBits s.g * 2 ^ 32 + sBits s.g), s.fcsr.word,
      s.x.cause, s.x.value, if x.named then s.pc else s.x.pc, s.xstat, s.x.scratch, s.x.vec,
      w64 (s.unackElems % 65536 * 65536 + s.teFaulted.toNat * 256 + bit01 s.meFault * 16 + bit01 s.priv * 8 + code),
      s.hbi.setWidth 64, s.agage.setWidth 64, s.hbc.setWidth 64, w64 (s.priva.size % 65536 * 65536 + s.valloc.toNat),
      s.loop0.cnt.setWidth 64, s.loop0.beg.setWidth 64, s.loop0.fin.setWidth 64, s.loop1.cnt.setWidth 64, s.loop1.beg.setWidth 64,
      s.loop1.fin.setWidth 64, s.repc.setWidth 64,
      w64 (s.eng.ring.toNat * 2 ^ 24 + s.eng.sparseN.toNat * 2 ^ 20 + s.eng.sparseM.toNat * 2 ^ 12 + s.eng.kvalid.toNat), s.eng.metaBase] ++
      (s.eng.acc.toList.flatMap fun a => leBytes 2 a.toNat) ++ List.replicate 8 0 ++ (s.m.toList.flatMap fun m => leBytes 4 m.toNat) ++ id
    let b : Borrow := s.borrow.getD { slot := 0, vcount := 0 }
    let bits := match s.borrow with | some _ => feBits b.g * 2 ^ 32 + sBits b.g | none => 0
    padImg 10240 (padImg 4736 (head ++ leBytes 8 bits ++ regs s.g ++ vregs s.v s.valloc.toNat) ++
      match s.borrow with | some _ => regs b.g ++ vregs b.v b.vcount | none => [])

/-- A doubleword, and bits of one, of an image. -/
def imgDw (m : List Host.Cell) (off : Nat) : W64 := w64 (leNat (memReadN m off 8))
def imgRegs (m : List Host.Cell) (off bits : Nat) (old : Vector GReg 32) : Vector GReg 32 :=
  Vector.ofFn fun i : Fin 32 =>
    if i.val = 0 then vget old 0 {} else { data := imgDw m (off + 8 * i.val), s := bits.testBit i.val, full := bits.testBit (32 + i.val) }
def imgVregs (m : List Host.Cell) (off n : Nat) (old : Vector VReg 32) : Vector VReg 32 :=
  Vector.ofFn fun i : Fin 32 =>
    if i.val < n then
      { w := Vector.ofFn fun j : Fin 32 => BitVec.ofNat 32 (leNat (memReadN m (off + 132 * i.val + 4 * j.val) 4))
        s := BitVec.ofNat 32 (leNat (memReadN m (off + 132 * i.val + 128) 4)) }
    else vget old i.val {}
/-- R294, R295: a slot as its image gives it; what the image does not lay out stays as it was saved. -/
def Slot.load (x : Slot) (m : List Host.Cell) : Slot :=
  let st := (imgDw m 72).toNat
  let x := { x with stopped := false }
  if !x.st.live then x
  else
    let s := x.strand
    let d (i : Nat) : W64 := imgDw m (8 * i)
    let xs := d 6
    let va := (d 13).toNat
    let en := (d 21)
    let f := (d 2)
    let size := field va 16 16
    let y : Strand := { s with
      pc := (d 0).extractLsb' 0 57 |>.setWidth 64, p := BitVec.ofNat 8 (field (d 0).toNat 57 7 * 2 + 1)
      g := imgRegs m 256 (d 1).toNat s.g
      fcsr := { s.fcsr.write f with frm := f.extractLsb' 5 3 }
      x := { cause := d 3, value := d 4, pc := d 5, scratch := d 7, vec := d 8, lv := xs.getLsbD 2, pf := xs.getLsbD 1, pp := xs.getLsbD 0 }
      unackElems := field st 16 16, teFaulted := BitVec.ofNat 8 (field st 8 8), meFault := bit st 4, priv := bit st 3
      hbi := (d 10).setWidth 32, agage := (d 11).setWidth 13, hbc := (d 12).setWidth 32
      valloc := BitVec.ofNat 6 (field va 0 6), priva := { s.priva with size := if size = 0 then 65536 else size }
      loop0 := { cnt := (d 14).setWidth 32, beg := (d 15).setWidth 57, fin := (d 16).setWidth 57 }
      loop1 := { cnt := (d 17).setWidth 32, beg := (d 18).setWidth 57, fin := (d 19).setWidth 57 }
      repc := (d 20).setWidth 32
      eng := { kvalid := en.extractLsb' 0 11, sparseM := en.extractLsb' 12 2, sparseN := en.extractLsb' 20 4, ring := en.extractLsb' 24 2
               metaBase := d 22, acc := Vector.ofFn fun i : Fin 8 => BitVec.ofNat 14 (leNat (memReadN m (184 + 2 * i.val) 2)) }
      m := Vector.ofFn fun i : Fin 8 => if i.val = 0 then vget s.m 0 0 else BitVec.ofNat 32 (leNat (memReadN m (208 + 4 * i.val) 4))
      v := imgVregs m 512 s.valloc.toNat s.v
      borrow := s.borrow.map fun b => { b with g := imgRegs m 4736 (d 31).toNat b.g, v := imgVregs m 4992 b.vcount b.v } }
    { x with strand := y, st := if st % 8 = x.st.code then x.st else if st % 8 = 0 then .free else .ready }

/-- R256: a packet of the inbox, as its image lays it out. -/
def Migration.image (m : Migration) : List Byte :=
  let s := m.strand
  let live := (List.range 32).filter fun i => m.live.getLsbD i
  padImg 288 (dws [w64 (s.pc.toNat % 2 ^ 57 + s.p.toNat / 2 * 2 ^ 57)] ++ leBytes 4 m.live.toNat ++ leBytes 4 (sBits s.g) ++ leBytes 4 (feBits s.g) ++
    leBytes 4 (s.fcsr.word.toNat % 2 ^ 14) ++ leBytes 4 s.fcsr.seed.toNat ++ leBytes 4 (m.originSlot * 4096 + m.origin) ++
    live.flatMap fun i => leBytes 8 (vget s.g i {}).data.toNat)
/-- R255, R293: an entry of the call queue in 64 bytes, fields in the order R255 names them (DESIGN CHOICE, log 40). -/
def Call.image (q : Call) : List Byte :=
  padImg 64 (dws [w64 (q.caller.slot * 2 ^ 32 + q.caller.core * 2 ^ 16 + q.caller.dev), q.entry] ++ dws (padArgs q.args) ++ dws [w64 q.caller.req])
where
  padArgs (l : List W64) : List W64 := (List.range 4).map fun i => l.getD i 0
/-- R295: an entry as its image gives it. -/
def Call.load (q : Call) (m : List Host.Cell) (off : Nat) : Call :=
  let w := (imgDw m off).toNat
  { q with caller := { dev := field w 0 16, core := field w 16 16, slot := field w 32 4, req := (imgDw m (off + 48)).toNat }
           entry := imgDw m (off + 8), args := (List.range 4).map fun i => imgDw m (off + 16 + 8 * i) }
/-- R256, R295: a packet of the inbox as its image gives it. -/
def Migration.load (x : Migration) (m : List Host.Cell) (off : Nat) : Migration :=
  let h := imgDw m off
  let d4 (i : Nat) : W32 := BitVec.ofNat 32 (leNat (memReadN m (off + i) 4))
  let live := d4 8
  let place (i : Nat) : Nat := ((List.range i).filter fun j => live.getLsbD j).length
  let o := (d4 28).toNat
  { x with origin := field o 0 12, originSlot := field o 12 4, live
           strand := { x.strand with
             pc := (h.extractLsb' 0 57).setWidth 64, p := BitVec.ofNat 8 (field h.toNat 57 7 * 2 + 1)
             fcsr := { (x.strand.fcsr.write ((d4 20).setWidth 64)) with frm := (d4 20).extractLsb' 5 3, seed := d4 24 }
             g := Vector.ofFn fun i : Fin 32 =>
               if i.val = 0 then vget x.strand.g 0 {}
               else { data := if live.getLsbD i.val then imgDw m (off + 32 + 8 * place i.val) else 0
                      s := (d4 12).getLsbD i.val, full := (d4 16).getLsbD i.val } } }
/-- R312: the tiles in the latch: those to be used, then those that wait to be handed on. -/
def Core.tiles (c : Core) : List Tile := c.latch ++ (c.handOn.filter fun h => !h.going).map (·.tile)
/-- R293: the image of a core; `intern` gives the bytes of the parts whose form the spec does not lay out. In the doubleword at +16 the head
of the spill ring stands in bits 31:0 and its tail in bits 63:32 (DESIGN CHOICE, log 40). -/
def Core.image (c : Core) (intern : Nat → Nat → List Byte) : List Byte :=
  let c : Core := { c with sh := c.shPend.foldl (fun v e => vset v e.2.1.toNat e.2.2) c.sh }
  let a := padImg 256 (dws [w64 c.rot.toNat, w64 c.steal.k, w64 ((c.ringHead + c.ringCount) % ringSlots * 2 ^ 32 + c.ringHead), w64 c.chain.length])
  let a := a ++ dws c.sh.toList ++ (c.sem.toList.flatMap fun v => leBytes 4 v.toNat) ++ dws (c.queues.toList.map HwQueue.word)
  let a := padImg 1024 (a ++ padImg 64 (dws (c.chain.map (·.w))))
  let a := padImg 3072 (a ++ c.deque.flatMap fun e => dws [e.pc, e.frame, e.counter, e.tiles])
  let a := padImg 7168 (a ++ c.calls.flatMap Call.image)
  let a := padImg 8320 (a ++ c.inbox.flatMap Migration.image)
  let a := a ++ c.gens.toList.flatMap fun v => leBytes 4 v.toNat
  let a := padImg 12288 (a ++ intern 8384 (256 + 1024 + 2048))
  let w := (List.range 16384).flatMap fun i => leBytes 4 (tget c.acc i {}).w.toNat
  let sb := (List.range 2048).map fun i =>
    BitVec.ofNat 8 ((List.range 8).foldl (fun n j => n + bit01 (tget c.acc (8 * i + j) {}).s * 2 ^ j) 0)
  let a := padImg 98304 (a ++ w ++ sb ++ padImg 8704 ((c.tiles[0]?.map Tile.bytes).getD []) ++ padImg 8704 ((c.tiles[1]?.map Tile.bytes).getD []))
  a ++ (List.range 16).flatMap fun k => (vget c.slots k {}).image (intern (98304 + 10240 * k + 240) 8)
/-- R233: the fields of a queue's register put back. -/
def HwQueue.load (q : HwQueue) (v : W64) : HwQueue :=
  { q with tail := v.extractLsb' 48 9, head := v.extractLsb' 32 9, base := v.extractLsb' 8 10, logn := v.extractLsb' 4 4
           slotSz := v.extractLsb' 2 2, cls := v.getLsbD 1, en := v.getLsbD 0 }
/-- Cells of an image from an offset, counted from there. -/
def imgFrom (m : List Host.Cell) (off n : Nat) : List Host.Cell :=
  (m.filter fun c => decide (off ≤ c.1) && decide (c.1 < off + n)).map fun c => (c.1 - off, c.2)
def loadAcc (m : List Host.Cell) : Tbl AccElem :=
  (List.range 16384).filterMap fun i =>
    let e : AccElem := { w := BitVec.ofNat 32 (leNat (memReadN m (12288 + 4 * i) 4)), s := (memRead m (77824 + i / 8)).getLsbD (i % 8) }
    if e = {} then none else some (i, e)
/-- R293, R295: a core as its image gives it; its internal parts stay as they were saved. -/
def Core.load (c : Core) (m : List Host.Cell) : Core :=
  let ring := (imgDw m 16).toNat
  let head := ring % 2 ^ 32 % ringSlots
  let tile (t : Tile) (i : Nat) : Tile := { t with bytes := memReadN m (79872 + 8704 * i) t.bytes.length }
  { c with
    rot := (imgDw m 0).setWidth 4, steal := { c.steal with k := (imgDw m 8).toNat % 16 }
    ringHead := head, ringCount := if head = c.ringHead then c.ringCount else (ring / 2 ^ 32 + ringSlots - head) % ringSlots
    sh := Vector.ofFn fun i : Fin 16 => imgDw m (256 + 8 * i.val), shPend := []
    sem := Vector.ofFn fun i : Fin 16 => BitVec.ofNat 16 (leNat (memReadN m (384 + 4 * i.val) 2))
    queues := Vector.ofFn fun i : Fin 8 => (vget c.queues i.val {}).load (imgDw m (448 + 8 * i.val))
    chain := (List.range ((imgDw m 24).toNat % 9)).map fun i => { c.chain.getD i { w := 0 } with w := imgDw m (512 + 8 * i) }
    deque := (List.range c.deque.length).map fun i =>
      { pc := imgDw m (1024 + 32 * i), frame := imgDw m (1032 + 32 * i), counter := imgDw m (1040 + 32 * i), tiles := imgDw m (1048 + 32 * i)
        at_ := (c.deque[i]?).bind (·.at_) }
    calls := c.calls.zipIdx.map fun e => Call.load e.1 m (3072 + 64 * e.2)
    inbox := c.inbox.zipIdx.map fun e => e.1.load m (7168 + 288 * e.2)
    gens := Vector.ofFn fun i : Fin 16 => BitVec.ofNat 32 (leNat (memReadN m (8320 + 4 * i.val) 4))
    acc := loadAcc m
    latch := c.latch.zipIdx.map fun t => tile t.1 t.2
    handOn := c.handOn.zipIdx.map fun h => { h.1 with tile := tile h.1.tile (c.latch.length + h.2) }
    slots := Vector.ofFn fun k : Fin 16 => (vget c.slots k.val {}).load (imgFrom m (98304 + 10240 * k.val) 10240) }

/-- Cells of bytes that are not what an unlisted address reads as. -/
def cellsOf (k : Nat) (bs : List Byte) : List Host.Cell := bs.zipIdx.filterMap fun b => if b.1 = memDefault then none else some (k + b.2, b.1)
/-- A range of memory replaced. -/
def memSplice (m : List Host.Cell) (k : Nat) (bs : List Byte) : List Host.Cell :=
  (m.filter fun c => decide (c.1 < k)) ++ cellsOf k bs ++ m.filter fun c => decide (k + bs.length ≤ c.1)
def State.splice (s : State) (k : Nat) (bs : List Byte) : State := { s with mem := memSplice s.mem k bs }
/-- R292: an F/E map: bit w of it is the F/E bit of word w from a word number on. -/
def State.feMap (s : State) (word n : Nat) : List Byte :=
  (List.range n).map fun i => BitVec.ofNat 8 ((List.range 8).foldl (fun b j => b + bit01 (!s.fe.contains (word + 8 * i + j)) * 2 ^ j) 0)
/-- R292: the image of a cluster's barrier unit: for each barrier its owner gang, for each slot of the cluster the barrier its strand has
arrived at, with the scope, and the code of the cluster cache. The spec names these contents and lays nothing out (DESIGN CHOICE, log 40). -/
def State.barrierImage (s : State) (cl : Nat) : List Byte :=
  let x := s.cluster cl
  let at_ (sid : Nat) : Nat :=
    x.barriers.toList.zipIdx.foldl (fun n b => match b.1.arrived.find? fun a => a.1 == sid with
      | some a => b.2 + 1 + 32 * a.2.code.toNat
      | none => n) 0
  dws (x.barriers.toList.map fun b => w64 (match b.gid with | some g => g + 1 | none => 0)) ++
  ((coresOf cl).flatMap fun c => (List.range 16).map fun k => BitVec.ofNat 8 (if (s.slotOf c k).st.live then at_ (s.strandOf c k).sid else 0)) ++
  [x.ccCode.setWidth 8]
/-- R295: the barrier unit as its image gives it. -/
def State.loadBarriers (s : State) (cl : Nat) (x : Cluster) (m : List Host.Cell) (off : Nat) : Cluster :=
  { x with
    ccCode := (memRead m (off + 384)).setWidth 2
    barriers := Vector.ofFn fun b : Fin 16 =>
      { gid := match (imgDw m (off + 8 * b.val)).toNat with | 0 => none | g + 1 => some g
        arrived := (List.range 256).filterMap fun i =>
          let v := (memRead m (off + 128 + i)).toNat
          if v % 32 = b.val + 1 then some ((s.strandOf (cl * 16 + i / 16) (i % 16)).sid, Scope.ofCode (BitVec.ofNat 2 (v / 32))) else none } }
/-- R292: the block of a cluster, at a key. -/
def State.saveCluster (s : State) (cl base : Nat) : State :=
  let t := (List.range 16).foldl (fun u k =>
    let c := cl * 16 + k
    let (v, bs) := u.drawMany 8192
    let img := ((v.core c)).image fun off n => (bs.drop (off % 4096)).take n
    let at_ := base + 512 * 1024 * k
    let v := v.splice at_ img
    let v := { v with mem := memMove v.mem (Loc.lm c 0).key (at_ + 256 * 1024) Config.lmBytes }
    v.splice (base + 10 * 2 ^ 20 + 128 * 1024 + 4096 * k) (v.feMap ((Loc.lm c 0).key / 8) 4096)) s
  let t := { t with mem := memMove t.mem (Loc.csm cl 0).key (base + 8 * 2 ^ 20) Config.csmBytes }
  let bar := padImg 4096 (t.barrierImage cl)
  let (t, park) := t.drawMany 65536
  ((t.splice (base + 10 * 2 ^ 20) bar).splice (base + 10 * 2 ^ 20 + 64 * 1024) park).splice (base + 10 * 2 ^ 20 + 192 * 1024)
    (t.feMap ((Loc.csm cl 0).key / 8) 32768)
/-- R292: the whole area: bytes that no entry names are zero. -/
def State.saveArea (s : State) (part : Nat) : State :=
  let p := s.partn part
  let off := p.swbase.toNat % 2 ^ 43
  let key := (Loc.hbm part off).key
  let t := { s with mem := s.mem.filter fun c => !(decide (key ≤ c.1) && decide (c.1 < key + p.saveBytes)) }
  let t := t.splice key (dws [w64 (part * 65536 + s.devid.toNat), w64 p.clusters.length, p.swAt, s.gtime] ++ List.replicate 32 0 ++
    p.clusters.map fun c => BitVec.ofNat 8 c)
  p.clusters.zipIdx.foldl (fun u c => u.saveCluster c.1 (key + 2 * 2 ^ 20 + 12 * 2 ^ 20 * c.2)) t

/-- R290: what a stop leaves of caches, TLBs and slices. -/
def State.settleCaches (s : State) (part : Nat) : State :=
  let p := s.partn part
  let s := s.setPartn part { p with replicas := [] }
  let t := p.clusters.foldl (fun u cl =>
    let v := u.flushCluster cl
    let v := (v.cluster cl).walks.foldl (fun w x => x.waiters.foldl (fun z y => z.wake y.core y.slot) w) v
    v.setCluster cl { v.cluster cl with tlb := [], walks := [] }) s
  let t := p.cores.foldl (fun u c => u.setCore c { u.core c with l1tlb := [], l1i := [] }) t
  let t := p.slices.foldl (fun u n => u.setSlice n { u.slice n with
    lines := (u.slice n).lines.filter fun l => l.1 != part, tlb := (u.slice n).tlb.filter fun e => e.part != part }) t
  let lo := (Loc.hbm part 0).key / 4
  let hi := (Loc.hbm part (2 ^ 41)).key / 4
  { t with sbits := t.sbits.filter fun k => !(decide (lo ≤ k) && decide (k < hi)) }
/-- R290: a bundle whose effect lies within the core is still to complete. -/
def State.finishing (s : State) (part : Nat) : Bool :=
  (s.partn part).cores.any fun c => (s.core c).slots.toList.any fun x =>
    x.delayDone || (match x.st with | .waiting (.extended _) => true | _ => false)
def pairOf (p : Partition) (e : Node × Node × Nat) : Bool := p.owns e.1 || p.owns e.2.1
/-- R312: the transfers under way into a core's latch are completed. -/
def State.landTiles (s : State) (c : Nat) : State :=
  (s.core c).tileIn.foldl (fun u t => u.tileArrives c t) s
/-- R292: the stop is complete: the area is written, and `ST` is 3. R288 does not say what a write of `SWBASE` after an accepted `ARM` or `RES`
does: the model keeps the time of the request, and reads `SWBASE` when it saves or resumes (DESIGN CHOICE, log 37). -/
def State.switchSave (s : State) (part : Nat) : State :=
  let t := ((s.partn part).cores.foldl State.landTiles s).settleCaches part
  let p := t.partn part
  let off := p.swbase.toNat % 2 ^ 43
  let img : SaveImage :=
    { base := p.swbase.toNat, cores := t.cores.filter (fun e => p.cores.contains e.1), clusters := t.clusters.filter (fun e => p.clusters.contains e.1)
      jobs := t.jobs.filter (fun e => e.2.part == part && e.2.placed)
      gangs := t.gangs.filter (fun e => (t.job e.2.job).part == part)
      parked := p.parked, sends := t.sendSeq.filter (pairOf p), recvs := t.recvSeq.filter (pairOf p), cycles := p.stopCycles }
  let u := t.saveArea part
  u.setPartn part { u.partn part with
    swSt := 3, images := (p.images.filter fun i => i.base != img.base) ++ [img], parked := []
    marked := (off, p.saveBytes) :: p.marked }
/-- R416: the bytes that stand in HBM for the line at an offset of a partition: a marked line as its save key's ciphertext, whose plaintext
is what the home gives the partition's own agents and what `State.mem` holds (log 39). -/
def State.hbmLine (s : State) (part off : Nat) : List Byte :=
  let b := s.readAt (Loc.hbm part (lineOf off)) 64
  match (s.partn part).isMarked off, (s.partn part).saveKey, s.paOf (.hbm part off) with
  | true, some k, some pa => xtsEnc (Config.saveKeyBytes k) (pa / 64) b
  | _, _, _ => b
/-- R424: a unit that the completion of a stop needs takes no cycle. -/
def State.saveOff (s : State) (part : Nat) : Bool :=
  (s.partn part).islands.any s.islandOff || (s.partn part).slices.any s.hbmOff
def execSwitchSaveDone (part : Nat) (s : State) : Res :=
  onUnit (part < 64) (.next (if (s.partn part).swSt = 2 ∧ !s.finishing part ∧ !s.saveOff part then s.switchSave part else s))

/-! ### The resume (R295, R296) -/

/-- R296: limits counted in cycles do not count the stop. -/
def Hold.shift (d : Nat) : Hold → Hold
  | .yield o l => .yield o (l + d)
  | .extended t => .extended (t + d)
  | .tlbFill t => .tlbFill (t + d)
  | .syncBusy r t => .syncBusy r (t + d)
  | .qenq r l => .qenq r (l + d)
  | .qenqRetry r t l => .qenqRetry r (t + d) (l + d)
  | .qdeq q l => .qdeq q (l + d)
  | .spill t => .spill (t + d)
  | h => h
def SlotState.shift (d : Nat) : SlotState → SlotState
  | .waiting h => .waiting (h.shift d)
  | .parked h => .parked (h.shift d)
  | x => x
def Core.shift (c : Core) (d : Nat) : Core :=
  { c with
    slots := c.slots.map fun x => { x with st := x.st.shift d, lastIssue := x.lastIssue.map (· + d) }
    reqs := c.reqs.map fun r => { r with limit := r.limit.map (· + d), due := r.due.map fun e => (e.1 + d, e.2) }
    aggs := c.aggs.map fun b => { b with first := b.first + d, joined := b.joined + d }
    steal := { c.steal with pause := c.steal.pause.map (· + d) }, ptsDue := c.ptsDue + d }
/-- R292, R295: the words of a map put back: those whose bit is 0 are empty. -/
def State.loadFe (s : State) (m : List Host.Cell) (off n word : Nat) : State :=
  let keep := s.fe.filter fun k => !(decide (word ≤ k) && decide (k < word + 8 * n))
  { s with fe := (List.range (8 * n)).foldl (fun t i =>
      if (memRead m (off + i / 8)).getLsbD (i % 8) then t else sinsert t (word + i)) keep }
def State.loadCluster (s : State) (img : SaveImage) (cl base : Nat) : State :=
  let now := (vget s.islands (islandOf cl) {}).cycles
  let d := now - (img.cycles.getD (islandOf cl) now)
  let m := imgFrom s.mem base (12 * 2 ^ 20)
  let t := (List.range 16).foldl (fun u k =>
    let c := cl * 16 + k
    let at_ := 512 * 1024 * k
    let x := ((tget img.cores c {}).load (imgFrom m at_ (256 * 1024))).shift d
    let v := u.setCore c x
    let v := { v with mem := memMove v.mem (base + at_ + 256 * 1024) (Loc.lm c 0).key Config.lmBytes }
    v.loadFe m (10 * 2 ^ 20 + 128 * 1024 + 4096 * k) 4096 ((Loc.lm c 0).key / 8)) s
  let t := { t with mem := memMove t.mem (base + 8 * 2 ^ 20) (Loc.csm cl 0).key Config.csmBytes }
  let x := tget img.clusters cl {}
  let x := { x with bankFree := x.bankFree.map fun e => (e.1, e.2 + d) }
  (t.loadFe m (10 * 2 ^ 20 + 192 * 1024) 32768 ((Loc.csm cl 0).key / 8)).setCluster cl (t.loadBarriers cl x m (10 * 2 ^ 20))
/-- R370, R295: a parked packet is where it was: performed in its turn, or still on its way. -/
def State.reinject (s : State) (p : Packet) : State :=
  let behind := (seqOf s.recvSeq p.src p.dst + 65536 - p.seq) % 65536
  if p.inside ∨ (1 ≤ behind ∧ behind ≤ 32768) then { s with arrived := s.arrived ++ [p] } else { s with net := s.net ++ [p] }
/-- R295: the traffic held at the IOD that may be admitted is. -/
def State.admitAll (s : State) : State :=
  let t := s.hostPump s.hostQ.length
  t.fabAdmit t.fabIn.length
def State.switchResume (s : State) (part : Nat) : State :=
  let p := s.partn part
  match p.images.find? fun i => i.base == p.swbase.toNat with
  | none => s
  | some img =>
    let key := (Loc.hbm part (p.swbase.toNat % 2 ^ 43)).key
    let t := p.clusters.zipIdx.foldl (fun u c => u.loadCluster img c.1 (key + 2 * 2 ^ 20 + 12 * 2 ^ 20 * c.2)) s
    let t := { t with
      jobs := img.jobs.foldl (fun l e => tset l e.1 e.2)
        (t.jobs.map fun e => if e.2.part = part then (e.1, { e.2 with placed := false }) else e)
      gangs := img.gangs.foldl (fun l e => tset l e.1 e.2) (t.gangs.filter fun e => (s.job e.2.job).part != part)
      sendSeq := (t.sendSeq.filter fun e => !pairOf p e) ++ img.sends
      recvSeq := (t.recvSeq.filter fun e => !pairOf p e) ++ img.recvs }
    let t := img.parked.foldl State.reinject t
    let t := img.late.foldl (fun u e => match e.2 with | .reply r a => u.fabReply e.1 r a | .aggReply c q m cs => u.fabAggReply e.1 c q m cs | _ => u) t
    let t := t.setPartn part { t.partn part with
      swSt := 0, injected := img.parked.map fun p => (p.id, match p.body with | .access a => some a.req | _ => none)
      images := (t.partn part).images.map fun i => if i.base = img.base then { i with late := [] } else i }
    t.admitAll
/-- R295, R319: a packet injected again is still to be performed; one that another device performs, or that a failed link holds, is not
waited for. -/
def State.stillInjected (s : State) (e : Nat × Option Nat) : Bool :=
  (s.onTheWay.any fun p => p.id == e.1 && !s.routeFailed p && (match p.dst with | .dev _ => false | _ => true)) ||
  (match e.2 with | some r => s.slices.any fun x => x.2.fills.any fun f => f.1.req == r | none => false)
/-- R295: at the resume time the partition runs again; the held traffic is admitted once its parked packets are performed. -/
def execSwitchResume (part : Nat) (s : State) : Res :=
  onUnit (part < 64) (.next (
    let p := s.partn part
    if p.swSt = 4 ∧ s.gtime.toNat ≥ p.swAt.toNat then s.switchResume part
    else if !p.injected.isEmpty && !p.injected.any s.stillInjected then (s.setPartn part { p with injected := [] }).admitAll
    else s))

end Sys2Proof.Machine
end

