-- ==== Sys2Proof/Machine/Security.lean ====
section
/-!
DEFINITION. The management mailbox's commands, partitions, measurements and key slots (23_security_partitions.md R405, R406, R409 to
R412; 24 R421).
-/
namespace Sys2Proof.Machine
open Sys2Proof

/-! ### Partitions (R405, R406) -/

/-- R406, step 1: the memory of a partition is zero and full, with S bits 0; its units start anew. -/
def State.scrubRange (s : State) (key n : Nat) : State :=
  { s with
    mem := s.mem.filter fun c => !(decide (key ≤ c.1) && decide (c.1 < key + n))
    fe := s.fe.filter fun w => !(decide (key / 8 ≤ w) && decide (w < (key + n) / 8))
    sbits := s.sbits.filter fun w => !(decide (key / 4 ≤ w) && decide (w < (key + n) / 4)) }
def State.scrubPart (s : State) (part : Nat) (p : Partition) : State :=
  let t := s.scrubRange (Loc.hbm part 0).key (2 ^ 44)
  let t := p.cores.foldl (fun u c => (u.scrubRange (Loc.lm c 0).key Config.lmBytes).setCore c {}) t
  let t := p.clusters.foldl (fun u cl => (u.scrubRange (Loc.csm cl 0).key Config.csmBytes).setCluster cl {}) t
  let t := p.slices.foldl (fun u n => u.setSlice n {}) t
  { t with
    sendSeq := t.sendSeq.filter fun e => !pairOf p e, recvSeq := t.recvSeq.filter fun e => !pairOf p e
    net := t.net.filter (·.part != part), reorder := t.reorder.filter (·.part != part)
    arrived := t.arrived.filter fun p => p.part != part || (p.inside && p.chan == .reply)
    retry := t.retry.filter fun w => w.2.acc.part != part }
def numbersOf (m : W64) (n : Nat) : List Nat := (List.range n).filter fun i => m.getLsbD i
/-- R405: the partition that a create command names. -/
def newPartition (part : Nat) (pcl : List W64) (psl pmask : W64) (image : List Byte) (key : Nat) : Partition :=
  let slices := numbersOf psl 64
  { exists_ := true, hbm := slices.length * 8 * 2 ^ 30, slices
    clusters := (List.range 4).flatMap fun d => (numbersOf (pcl.getD d 0) 48).map fun c => d * 48 + c
    entry := Config.imageEntry image, digest := shake256 image, pmask := pmask.setWidth 18, waper := BitVec.ofNat 7 (64 + part)
    pcl := Vector.ofFn fun i : Fin 4 => (pcl.getD i.val 0).setWidth 48, psl, saveKey := some key }
/-- R406: a named cluster, slice or port that another partition holds. -/
def State.taken (s : State) (p : Partition) : Bool :=
  s.parts.any fun e => e.2.exists_ && (e.2.clusters.any (fun c => p.clusters.contains c) || e.2.slices.any (fun n => p.slices.contains n) ||
    e.2.pmask &&& p.pmask != 0)
def State.mbArg (s : State) (off : Nat) : W64 := w64 (leNat (s.mbBytes (0x1000 + off) 8))
/-- R421: a command ends with a status. -/
def State.mbDone (s : State) (status : Nat) : State := { s with mailbox := { s.mailbox with busy := false, status := BitVec.ofNat 8 status } }
/-- R421: the command under way. -/
def State.mbIs (s : State) (n : Nat) : Bool := s.mailbox.busy && s.mailbox.cmd == w64 n
/-- R418, R421: stage 3 is reached. -/
def State.started (s : State) : Bool := s.boot.stage == 3 && !s.boot.min && s.boot.began.isNone && s.boot.again.isNone && !s.power.stopped
def State.anyPartition (s : State) : Bool := s.parts.any fun e => e.2.exists_
/-- R390: `DEVID` is set; a port on whose plane another device holds it stays down, as `BOOTST` shows. -/
def State.setDevid (s : State) (d : BitVec 9) : State :=
  { s with devid := d, devidSet := true
           portsDown := (List.range 18).foldl (fun m k => if Config.devidHeld k d.toNat then m ||| ((1 : BitVec 18) <<< k) else m) s.portsDown }
/-- R421: command 1. -/
def execMbSetDevid (s : State) : Res :=
  onController s (.next (
    if !s.mbIs 1 then s
    else if !s.started || s.anyPartition then s.mbDone 2
    else (s.setDevid ((s.mbArg 0).setWidth 9)).mbDone 0))
/-- R406: the bytes at a PA before the partition exists, read where its map is to place them (DESIGN CHOICE, log 3). -/
def State.imageRead (s : State) (part : Nat) (q : Partition) (pa n : Nat) : List Byte :=
  if pa / 2 ^ 43 ≠ s.devid.toNat then []
  else match (s.setPartn part q).offLoc part (pa % 2 ^ 43) with
    | some l => s.readAt l n
    | none => []
/-- R406: the image that a create command names. -/
def State.imageNamed (s : State) (part : Nat) (q : Partition) (pa : Nat) : List Byte :=
  s.imageRead part q pa (Config.imageLen (s.imageRead part q pa 64))
/-- R406: creation. -/
def State.create (s : State) : State :=
  let p := (s.mbArg 0).toNat
  let make (image : List Byte) : Partition :=
    newPartition p [s.mbArg 8, s.mbArg 16, s.mbArg 24, s.mbArg 32] (s.mbArg 40) (s.mbArg 48) image s.freeCtr
  let image := s.imageNamed p (make []) (s.mbArg 56).toNat
  let q := make image
  if !s.started || !s.devidSet then s.mbDone 2
  else if p ≥ 64 then s.mbDone 4
  else if (s.partn p).exists_ || s.taken q then s.mbDone 2
  else if q.clusters.isEmpty || q.slices.isEmpty then s.mbDone 4
  else if !Config.imageOk image then s.mbDone 3
  else
    let t := { s with freeCtr := s.freeCtr + 1 }.scrubPart p q
    ((t.setPartn p q).writeAt (.hbm p (Config.imagePlace image)) image).mbDone 0
def execMbCreatePartition (s : State) : Res := onController s (.next (if s.mbIs 2 then s.create else s))

/-! ### Key slots (R411, R412) -/

def setBit64 (v : W64) (i : Nat) (b : Bool) : W64 := if b then v ||| ((1 : W64) <<< i) else v &&& ~~~((1 : W64) <<< i)
def State.setKown (s : State) (part slot : Nat) (b : Bool) : State :=
  let p := s.partn part
  s.setPartn part { p with kown := vset p.kown (slot / 64) (setBit64 (vget p.kown (slot / 64) 0) (slot % 64) b) }
/-- R412: the slot stops decrypting, copies filled under it are discarded in slices, replicas, cluster caches and L1Ds, what is being
filled serves its access alone, and the key is erased. -/
def State.unbind (s : State) (slot part : Nat) : State :=
  let t := { s with
    keys := tdel s.keys slot
    slices := s.slices.map fun (e : Nat × Slice) => (e.1, { e.2 with lines := e.2.lines.filter fun l => !(l.1 == part && l.2.2 == slot) }) }
  let t := t.setPartn part { t.partn part with replicas := (t.partn part).replicas.map fun r =>
    { r with lines := r.lines.filter fun l => l.2.2 != slot } }
  let t := (s.partn part).clusters.foldl (fun u cl =>
    let v := u.setCluster cl { u.cluster cl with cc := (u.cluster cl).cc.filter fun e => e.kslot != slot }
    (coresOf cl).foldl (fun w c =>
      if (w.core c).l1d.isEmpty then w else w.setCore c { w.core c with l1d := (w.core c).l1d.filter fun e => e.kslot != slot }) v) t
  let t := (s.partn part).clusters.foldl (fun u cl => u.dropFills cl fun a p _ => p == part && a.kslot == slot) t
  t.setKown part slot false
/-- R421: the SPDM channel. -/
def spdmBase : Nat := 0x10000
/-- R409: the number of the session, its requester's half first. -/
def Spdm.sid (x : Spdm) : List Byte := match x.session with | some (a, b) => a ++ b | none => []
/-- R409: the key and the vector of a record: those of its direction, the vector changed by the record's number (log 50). -/
def Spdm.keyOf (x : Spdm) (out : Bool) : List Byte × List Byte :=
  let b := leBytes 44 (Config.spdmSecret x.keyed x.established out).toNat
  (b.take 32, xorBytes (b.drop 32) (leBytes 12 (if out then x.given else x.taken)))
/-- R409: the record of the session that stands in the channel: its header and its sealed bytes (log 50). -/
def State.spdmRecord (s : State) : Option (List Byte × List Byte) :=
  if s.spdm.session.isSome && s.mbBytes spdmBase 4 == s.spdm.sid then
    some (s.mbBytes spdmBase 6, s.mbBytes (spdmBase + 6) (leNat (s.mbBytes (spdmBase + 4) 2)))
  else none
/-- R409: the message of a record, decrypted and authenticated. -/
def Spdm.unseal (x : Spdm) (r : List Byte × List Byte) : Option (List Byte) :=
  (gcmOpen (x.keyOf false).1 (x.keyOf false).2 r.1 r.2).map fun m => (m.drop 2).take (leNat (m.take 2))
/-- R409: a record of the session that carries a message. -/
def Spdm.seal (x : Spdm) (m : List Byte) : List Byte :=
  let head := x.sid ++ leBytes 2 (m.length + 18)
  head ++ gcmSeal (x.keyOf true).1 (x.keyOf true).2 head (leBytes 2 m.length ++ m)
/-- R409: a record that does not authenticate: the session ends. -/
def Spdm.broken (x : Spdm) : Spdm := { x with session := none, established := false, mutualAuth := false, chain := [] }
/-- R409: bytes of the request in the channel: of the message of a record, or in clear. -/
def State.keyReq (s : State) (off n : Nat) : List Byte :=
  match s.spdmRecord with
  | none => s.mbBytes (spdmBase + off) n
  | some r => (((s.spdm.unseal r).getD []).drop off).take n
def State.keyOp (s : State) : Nat := leNat (s.keyReq 0 1)
/-- R411: the status of a key request, written at the start of the channel; a query adds the slot's state and `PARTID` (log 21). -/
def State.keyReply (s : State) (bs : List Byte) : State :=
  match s.spdmRecord with
  | none => s.mbPut spdmBase bs
  | some _ => { s.mbPut spdmBase (s.spdm.seal bs) with spdm := { s.spdm with taken := s.spdm.taken + 1, given := s.spdm.given + 1 } }
/-- R409: a record in the channel that does not authenticate. -/
def State.recordBad (s : State) : Bool := match s.spdmRecord with | some r => (s.spdm.unseal r).isNone | none => false
/-- R409: what it is answered with, in clear (log 50). -/
def State.refuseRecord (s : State) : State := { s.mbPut spdmBase [0x13, 0x7F, 6, 0] with spdm := s.spdm.broken }
/-- R411: what makes any request fail: malformed, then without mutual authentication, as one outside the session's records is. -/
def State.keyBad (s : State) : Option Nat :=
  if s.keyReq 1 1 = [0] ∨ s.keyReq 3 5 ≠ List.replicate 5 0 then some 5
  else if !s.spdm.mutualAuth || (s.spdm.session.isSome && s.spdmRecord.isNone) then some 3 else none
def State.keySlot (s : State) : Nat := leNat (s.keyReq 1 1)
def State.keyPart (s : State) : Nat := leNat (s.keyReq 2 1)
def State.bind (s : State) : State :=
  match s.keyBad with
  | some e => s.keyReply [BitVec.ofNat 8 e]
  | none =>
    let part := s.keyPart
    let p := s.partn part
    if (s.keys.lookup s.keySlot).isSome then s.keyReply [1]
    else if !p.exists_ || p.digest != s.keyReq 8 64 then s.keyReply [2]
    else
      let k : KeySlot := { part, key := s.keyReq 72 64, binder := sha3_512 s.spdm.chain }
      (({ s with keys := tset s.keys s.keySlot k }).setKown part s.keySlot true).keyReply [0]
def execKeyBind (s : State) : Res := onController s (.next (if s.keyOp = 1 then s.bind else s))
def State.unbindReq (s : State) : State :=
  match s.keyBad with
  | some e => s.keyReply [BitVec.ofNat 8 e]
  | none =>
    match s.keys.lookup s.keySlot with
    | none => s.keyReply [1]
    | some k => if k.binder = sha3_512 s.spdm.chain then (s.unbind s.keySlot k.part).keyReply [0] else s.keyReply [4]
def execKeyUnbind (s : State) : Res := onController s (.next (if s.keyOp = 2 then s.unbindReq else s))
def State.query (s : State) : State :=
  match s.keyBad with
  | some e => s.keyReply [BitVec.ofNat 8 e]
  | none =>
    match s.keys.lookup s.keySlot with
    | none => s.keyReply [0, 0, 0]
    | some k => s.keyReply [0, 1, BitVec.ofNat 8 k.part]
/-- R411: a query, or a request of no operation, which is malformed; a record that does not authenticate has none. -/
def execKeyQuery (s : State) : Res :=
  onController s (.next (if s.recordBad then s.refuseRecord else if s.keyOp = 3 then s.query else if s.keyOp = 1 ∨ s.keyOp = 2 then s else s.keyReply [5]))

/-! ### Destruction (R406) -/

/-- R406, R391: destruction; what the IOD held for the partition is admitted, and answered as for one that does not exist. -/
def State.destroy (s : State) (part : Nat) : State :=
  let t := (s.jobs.filter fun e => e.2.part == part && !e.2.final).foldl (fun u e => u.faultJob e.1) s
  let t := (t.keys.filter fun e => e.2.part == part).foldl (fun u e => u.unbind e.1 part) t
  let t := t.scrubPart part (t.partn part)
  (({ t with jobs := t.jobs.filter fun e => e.2.part != part } : State).setPartn part {}).admitAll
def execMbDestroyPartition (s : State) : Res :=
  onController s (.next (
    if !s.mbIs 3 then s
    else
      let p := (s.mbArg 0).toNat
      if !s.started then s.mbDone 2
      else if p ≥ 64 then s.mbDone 4
      else if !(s.partn p).exists_ then s.mbDone 2 else (s.destroy p).mbDone 0))

/-! ### Firmware (R421) -/

/-- R421: command 4: the signature is checked before the flash is written. -/
def State.writeFirmware (s : State) : State :=
  let n := (s.mbArg 8).toNat
  let stage := (s.mbArg 0).toNat
  let image := s.mbBytes 0x80000 n
  if !s.started && !s.boot.min then s.mbDone 2
  else if stage > 2 ∨ n > 0x80000 ∨ n = 0 then s.mbDone 4
  else if !Config.imageOk image then s.mbDone 3
  else ({ s with flash := tset s.flash stage image }).mbDone 0
def execMbWriteFirmware (s : State) : Res := onController s (.next (if s.mbIs 4 then s.writeFirmware else s))

/-! ### Measurements and the responder (R409, R410, R419) -/

/-- R410, R418: the image of a stage that the start has measured. -/
def State.startImage (s : State) (k : Nat) : List Byte := tget s.boot.images k (Config.factoryImage k)
/-- R410: the measurements by index. For the fourth, `DEVID` and then, for each partition that exists, its number, `PSL`, `PMASK`, `PCL0` to
`PCL3` and `KOWN0` to `KOWN3` as doublewords (DESIGN CHOICE, log 50: the spec gives no order). -/
def State.measurements (s : State) : List (Nat × List Byte) :=
  let image (k : Nat) : List Byte := shake256 (s.startImage k)
  if s.boot.min then [(1, image 0), (2, image 1)]
  else
    let regs := s.devid.setWidth 64 :: s.parts.flatMap fun e =>
      if e.2.exists_ then w64 e.1 :: e.2.psl :: e.2.pmask.setWidth 64 :: (e.2.pcl.toList.map fun m => m.setWidth 64) ++ e.2.kown.toList else []
    [(1, image 0), (2, image 1), (3, image 2), (4, shake256 (dws regs))] ++
      s.parts.filterMap fun e => if e.2.exists_ then some (16 + e.1, e.2.digest) else none
/-- R409: the capabilities in the flags of DMTF SPDM (log 50): `CERT`, `CHAL`, `MEAS` with signature, `ENCRYPT`, `MAC`, `MUT_AUTH`, `KEY_EX`. -/
def spdmCaps : Nat := 2 ^ 1 + 2 ^ 2 + 2 * 2 ^ 3 + 2 ^ 6 + 2 ^ 7 + 2 ^ 8 + 2 ^ 9
/-- R409: the bits of the one algorithm of each kind: Ed448, SHA3-512, ECDHE on P-384, AES-256-GCM (log 50). -/
def spdmAsym : Nat := 2 ^ 11
def spdmHash : Nat := 2 ^ 5
def spdmDhe : Nat := 2 ^ 4
def spdmAead : Nat := 2 ^ 1
/-- R409: a message that the responder does not support: pre-shared keys, certificate provisioning, key update and what DMTF SPDM adds
beside the capabilities named (log 50). -/
def spdmUnsupported (code : Nat) : Bool :=
  !([0x81, 0x82, 0x83, 0x84, 0xE0, 0xE1, 0xE3, 0xE4, 0xE5, 0xEA, 0xEB, 0xEC, 0xFE].contains code)
def spdmError (n code : Nat) : List Byte := [0x13, 0x7F, BitVec.ofNat 8 n, BitVec.ofNat 8 code]
/-- The bits both sides have. -/
def bothBits (a b : Nat) : Nat := (BitVec.ofNat 32 a &&& BitVec.ofNat 32 b).toNat
/-- R409: the algorithms selected for a `NEGOTIATE_ALGORITHMS` (log 50): for each kind what the requester offers of the device's one. -/
def spdmSelect (req : List Byte) : List Byte :=
  let at_ (o n : Nat) : Nat := leNat ((req.drop o).take n)
  let one (k : Nat) : List Byte :=
    let o := 32 + 4 * k
    let have_ := match at_ o 1 with | 2 => spdmDhe | 3 => spdmAead | 4 => spdmAsym | 5 => 1 | _ => 0
    leBytes 1 (at_ o 1) ++ leBytes 1 0x20 ++ leBytes 2 (bothBits (at_ (o + 2) 2) have_)
  let kinds := at_ 2 1
  leBytes 1 0x13 ++ leBytes 1 0x63 ++ leBytes 1 kinds ++ leBytes 1 0 ++ leBytes 2 (36 + 4 * kinds) ++ leBytes 1 (bothBits (at_ 6 1) 1) ++ leBytes 1 (at_ 7 1) ++
    leBytes 4 1 ++ leBytes 4 (bothBits (at_ 8 4) spdmAsym) ++ leBytes 4 (bothBits (at_ 12 4) spdmHash) ++ List.replicate 16 0 ++
    (List.range kinds).flatMap one
/-- R409: the part of the chain of slot 0 that a `GET_CERTIFICATE` asks for; another slot holds none (log 50). -/
def spdmCertificate (req : List Byte) : List Byte :=
  let off := leNat ((req.drop 4).take 2)
  let part := (Config.identityChain.drop off).take (leNat ((req.drop 6).take 2))
  if (req.getD 2 0).toNat % 16 ≠ 0 then spdmError 1 0
  else [0x13, 0x02, 0, 0] ++ leBytes 2 part.length ++ leBytes 2 (Config.identityChain.length - off - part.length) ++ part
/-- R410: a measurement as a block: a raw bit stream of 64 bytes (log 50). -/
def spdmBlock (m : Nat × List Byte) : List Byte :=
  let kind : Nat := if m.1 = 1 then 0 else if m.1 = 4 then 2 else 1
  leBytes 1 m.1 ++ [1] ++ leBytes 2 (3 + m.2.length) ++ leBytes 1 (128 + kind) ++ leBytes 2 m.2.length ++ m.2
/-- R409: the digest that sums up the measurements, where a request asks for it (log 50). -/
def State.spdmSummary (s : State) (ask : Byte) : List Byte := if ask = 0 then [] else sha3_512 (s.measurements.flatMap spdmBlock)
/-- R409: an answer with its signature over the messages so far, the request and itself (log 50). -/
def State.spdmSigned (s : State) (req bs : List Byte) : List Byte :=
  bs ++ Config.spdmSign Config.identityKey (s.spdm.transcript.flatten ++ req ++ bs)
/-- R409, R410: the answer to `GET_MEASUREMENTS`: their number, one of them or all, with a random number and, where asked for, a signature
(log 50). -/
def State.spdmMeasurements (s : State) (req nonce : List Byte) : List Byte :=
  let op := (req.getD 3 0).toNat
  let sign := (req.getD 2 0).getLsbD 0
  let ms := s.measurements
  let pick := if op = 0 then [] else if op = 255 then ms else ms.filter fun m => m.1 == op
  let blocks := pick.flatMap spdmBlock
  let bs := [0x13, 0x60] ++ leBytes 1 (if op = 0 then ms.length else 0) ++ [0] ++ leBytes 1 pick.length ++ leBytes 3 blocks.length ++ blocks ++ nonce ++
    leBytes 2 0 ++ ((req.drop (if sign then 37 else 4)).take 8)
  if op ≠ 0 ∧ pick = [] then spdmError 1 0 else if sign then s.spdmSigned req bs else bs
/-- R409: the answer to `CHALLENGE` (log 50). -/
def State.spdmChallenge (s : State) (req nonce : List Byte) : List Byte :=
  if req.getD 2 0 ≠ 0 then spdmError 1 0
  else s.spdmSigned req ([0x13, 0x03, 0, 1] ++ sha3_512 Config.identityChain ++ nonce ++ s.spdmSummary (req.getD 3 0) ++ leBytes 2 0 ++
    ((req.drop 36).take 8))
/-- R409: the answer to `KEY_EXCHANGE`, which asks the requester to prove its chain (log 50). -/
def State.spdmKeyExchange (s : State) (req nonce rsp : List Byte) : List Byte :=
  if req.getD 3 0 ≠ 0 then spdmError 1 0
  else
    let bs := s.spdmSigned req ([0x13, 0x64, 0, 0] ++ rsp ++ [2, 0] ++ nonce ++ Config.spdmShare nonce ++ s.spdmSummary (req.getD 2 0) ++ leBytes 2 0)
    bs ++ Config.spdmVerify (s.spdm.transcript ++ [req, bs])
/-- R409: whether a `FINISH` ends the handshake of the session. -/
def State.spdmFinishes (s : State) (req : List Byte) : Bool :=
  s.spdm.session.isSome && !s.spdm.established && Config.spdmFinishOk (s.spdm.transcript ++ [req])
/-- R409: the answer of the responder to a message, whose second byte is its code; what it does not support, and what comes out of its
turn, is refused; so is a message of the session outside its records (log 50). -/
def State.spdmReply (s : State) (sec : Bool) (req nonce rsp : List Byte) : List Byte :=
  let code := (req.getD 1 0).toNat
  if spdmUnsupported code then spdmError 7 code
  else if !sec && [0xE5, 0xEA, 0xEB, 0xEC].contains code then spdmError 4 0
  else match code with
    | 0x84 => [0x10, 0x04, 0, 0, 0, 1, 0x00, 0x13]
    | 0xE1 => [0x13, 0x61, 0, 0, 0, 0, 0, 0] ++ leBytes 4 spdmCaps ++ leBytes 4 0x10000 ++ leBytes 4 0x10000
    | 0xE3 => spdmSelect req
    | 0x81 => [0x13, 0x01, 0, 1] ++ sha3_512 Config.identityChain
    | 0x82 => spdmCertificate req
    | 0x83 => s.spdmChallenge req nonce
    | 0xE0 => s.spdmMeasurements req nonce
    | 0xE4 => s.spdmKeyExchange req nonce rsp
    | 0xE5 => if s.spdm.session.isNone || s.spdm.established then spdmError 4 0 else if s.spdmFinishes req then [0x13, 0x65, 0, 0] else spdmError 6 0
    | 0xEA => if s.spdm.session.isNone then spdmError 4 0
      else [0x13, 0x6A, 1, 0, 0x13, 0x82, 0, 0] ++ leBytes 2 s.spdm.chain.length ++ leBytes 2 0x8000
    | 0xEB => if s.spdm.session.isNone then spdmError 4 0 else [0x13, 0x6B, 1, 0]
    | 0xEC => if s.spdm.session.isNone then spdmError 4 0 else [0x13, 0x6C, 0, 0]
    | _ => spdmError 4 0
/-- R409: the part of the requester's chain that an encapsulated `CERTIFICATE` delivers (log 50). -/
def spdmDelivered (req : List Byte) : List Byte :=
  if req.getD 5 0 = 0x02 then (req.drop 12).take (leNat ((req.drop 8).take 2)) else []
/-- R409: the connection after a message and its answer (log 50). -/
def State.spdmNext (s : State) (sec : Bool) (req ans rsp : List Byte) : Spdm :=
  let x := s.spdm
  let n := if sec then 1 else 0
  let y : Spdm := { x with transcript := x.transcript ++ [req, ans], taken := x.taken + n, given := x.given + n }
  if !sec && [0xE5, 0xEA, 0xEB, 0xEC].contains (req.getD 1 0).toNat then x else
  match (req.getD 1 0).toNat with
  | 0x84 => { transcript := [req, ans] }
  | 0xE4 => if req.getD 3 0 ≠ 0 then y
    else
      { y with session := some ((req.drop 4).take 2, rsp), established := false, mutualAuth := false, chain := [], keyed := y.transcript
               taken := 0, given := 0 }
  | 0xE5 =>
    if x.session.isNone || x.established then y
    else if s.spdmFinishes req then
      { y with established := true, mutualAuth := Config.spdmMutual x.chain (x.transcript ++ [req]), keyed := y.transcript, taken := 0, given := 0 }
    else { y with session := none }
  | 0xEB => if x.session.isNone || x.established then y else { y with chain := x.chain ++ spdmDelivered req }
  | 0xEC => { y with session := none, established := false, mutualAuth := false, chain := [] }
  | _ => y
/-- R409: a message is answered, in a record where it came in one, the connection follows, and the random numbers of the answer are used up.
One that the responder does not support leaves the connection as it is, but for the count of its records. -/
def State.spdmServe (s : State) (sec : Bool) (req : List Byte) : State :=
  let (t, rnd) := s.drawMany 40
  let ans := (s.spdmReply sec req (rnd.take 32) ((rnd.drop 32).take 2)).take (if sec then 0xFFE0 else 0x10000)
  let u := t.mbPut spdmBase (if sec then s.spdm.seal ans else ans)
  let n := if sec then 1 else 0
  { u with spdm := if spdmUnsupported (req.getD 1 0).toNat then { s.spdm with taken := s.spdm.taken + n, given := s.spdm.given + n }
                   else s.spdmNext sec req ans ((rnd.drop 32).take 2) }
/-- R409: the message in the channel: of a record of the session, or in clear. -/
def State.spdmAnswer (s : State) : State :=
  match s.spdmRecord with
  | none => s.spdmServe false (s.mbBytes spdmBase 0x10000)
  | some r => match s.spdm.unseal r with
    | some req => s.spdmServe true req
    | none => s.refuseRecord
def execSpdmGetMeasurements (s : State) : Res := onController s (.next s.spdmAnswer)
/-- R409: another request of the connection. -/
def execSpdmRequest (s : State) : Res := onController s (.next s.spdmAnswer)

end Sys2Proof.Machine
end

