-- ==== Sys2Proof/Machine/Startup.lean ====
section
/-!
DEFINITION. Start-up, errors that are retried, islands, power and temperature (24_bringup_power.md R418 to R425).
-/
namespace Sys2Proof.Machine
open Sys2Proof

/-! ### Starts (R418 to R421) -/

/-- R418: a start begins: every register is at its reset value and the scrub empties every memory of the device; the flash, `ATT` and
`CAUSE` are retained. What has left the device, the host's own memory, and the time, stand. -/
def State.begin (s : State) : State :=
  { State.reset with
    mem := s.mem.filter fun e => decide ((Loc.host 0).key ≤ e.1) && decide (e.1 < (Loc.lm 0 0).key)
    flash := s.flash, boot := { cause := s.boot.cause, att := s.boot.att, began := some s.gtime.toNat, images := s.flash }
    hostDone := s.hostDone, msi := s.msi, time := s.time, agenda := s.agenda, auto := s.auto, freeCtr := s.freeCtr, token := s.token }
/-- R418, R419: a start has failed; it begins again after 100 ms, or the device is in minimal mode. -/
def State.failStart (s : State) (cause : Nat) : State :=
  let n := min 3 (s.boot.att.toNat + 1)
  let b : Boot := { s.boot with cause := BitVec.ofNat 8 cause, att := BitVec.ofNat 2 n, began := none }
  if n ≥ 3 then { s with boot := { b with min := true, again := none }, portsDown := 0x3FFFF }
  else { s with boot := { b with again := some (s.gtime.toNat + 100000000) } }
/-- R418, R419: power-on begins a start; minimal mode, which the controller retains, ends only by command 5. -/
def execPowerOn (s : State) : Res := .next (if s.boot.min then s else s.begin)
def execMbRestart (s : State) : Res :=
  onController s (.next (if s.mbIs 5 then ({ s with boot := { s.boot with att := 0 } }).begin else s))
def StartFail.code : StartFail → Nat | .signature => 1 | .image => 2 | .selfTest => 3 | .dieTraining => 4 | .hbmTraining => 5
/-- R418: what makes the check of the next stage's image fail: it is missing, or its signature does not verify. -/
def State.imageFault (s : State) : Option StartFail :=
  let image := s.startImage (s.boot.stage.toNat + 1)
  if s.boot.stage.toNat ≥ 2 then none else if image.isEmpty then some .image else if !Config.imageOk image then some .signature else none
/-- R418: a stage ends: with a failure of its own, with the next stage's image refused, or with the next stage begun. -/
def execStartStageDone (failed : OptCause) (s : State) : Res :=
  .next (
    match s.boot.began, failed.or s.imageFault with
    | none, _ => s
    | some _, some c => s.failStart (StartFail.code c)
    | some _, none =>
      if s.boot.stage = 2 then { s with boot := { s.boot with stage := 3, att := 0, began := none } }
      else { s with boot := { s.boot with stage := s.boot.stage + 1, began := some s.gtime.toNat } })
/-- R418: a stage that does not end within 10 s. -/
def execStageTimeout (s : State) : Res :=
  .next (
    match s.boot.began with
    | some t => if s.gtime.toNat ≥ t + 10000000000 then s.failStart 6 else s
    | none => s)
def execStartRetry (s : State) : Res :=
  .next (
    match s.boot.again with
    | some t => if s.gtime.toNat ≥ t then s.begin else s
    | none => s)

/-! ### Errors (R422, R423) -/

/-- R422: a read fails: a re-read succeeds, and counts in the quadrant of the home slice (DESIGN CHOICE, log 20), or the 4 KiB page is
retired. -/
def execMemoryReadError (part pa : Nat) (retryOk : Bool) (s : State) : Res :=
  onUnit (part < 64) (.next (
    let off := pa % 2 ^ 43
    if s.hbmOff (s.homeSlice part off) then s
    else if retryOk then s.transient (sliceIsland (s.homeSlice part off))
    else if s.isRetired part off then s
    else ({ s with retired := s.retired ++ [(part, off / 4096)] }).lastingFault part (s.ownPa off) (s.readKind part off)))
/-- R191, R422: an accumulator's error: its re-read succeeds, or the command ends with sub-code 4. -/
def execAccEccError (core : Nat) (retryOk : Bool) (s : State) : Res :=
  onCore core true s (.next (
    if retryOk then s.transient (islandOf (clusterOf core))
    else match (s.core core).meQueue with
      | c :: _ =>
        if (s.core core).meBusy && !c.dead then (s.meInner core c 4).lastingFault c.who.part (w64 core) 5
        else s
      | [] => s))

/-! ### Islands (R424, R425) -/

/-- R424: a change of frequency stalls the island for 2 µs. -/
def State.setMhz (s : State) (i mhz : Nat) : State :=
  let x := vget s.islands i {}
  if x.mhz = mhz then s
  else { s with islands := vset s.islands i { x with
    mhz, mv := if mhz = 2400 then 500 else Config.supplyMv mhz, stall := some (s.gtime.toNat + 2000) } }
def execIslandFreqChange (island mhz : Nat) (s : State) : Res :=
  onUnit (island < 20) (.next (
    if mhz < 1000 ∨ mhz > 2400 ∨ mhz % 100 ≠ 0 then s
    else
      let t := s.setMhz island mhz
      { t with islands := vset t.islands island { vget t.islands island {} with setMhz := mhz } }))
def execIslandStallEnd (island : Nat) (s : State) : Res :=
  onUnit (island < 20) (.next (
    let x := vget s.islands island {}
    match x.stall with
    | some t =>
      if s.gtime.toNat ≥ t then
        let u := { s with islands := vset s.islands island { x with stall := none } }
        let u := (u.parts.map (·.1)).foldl State.stopDue u
        u.hostPump u.hostQ.length
      else s
    | none => s))
/-- R425: one island after an average: lowered, raised or left. The average lowers the CD quadrants alone, heat any island. -/
def State.powerStep (s : State) (mw : Nat) (i : Nat) : State :=
  let x := vget s.islands i {}
  let limit := s.power.plim.toNat * 1000
  let hot := decide (tget s.power.sensors i 0 ≥ 100)
  if (mw > limit ∧ i < 16) ∨ hot then s.setMhz i (max 1000 (x.mhz - 100))
  else if 100 * mw < 95 * limit then s.setMhz i (min x.setMhz (x.mhz + 100))
  else s
/-- R425: every CD quadrant island stands at 1.0 GHz. -/
def State.allLow (s : State) : Bool := (List.range 16).all fun i => (vget s.islands i {}).mhz == 1000
def execPowerWindow (mw : Nat) (s : State) : Res :=
  .next (
    let limit := s.power.plim.toNat * 1000
    let ovr := if mw > limit ∧ s.allLow then true else if mw < limit then false else s.power.ovr
    let t := (List.range 20).foldl (fun u i => u.powerStep mw i) s
    { t with power := { t.power with mw := BitVec.ofNat 32 mw, ovr } })
/-- R425: a sensor's reading; at 110 °C the device stops, and the start counts as failed. -/
def execOverTemperature (sensor deg : Nat) (s : State) : Res :=
  .next (
    let t := { s with power := { s.power with sensors := tset s.power.sensors sensor deg } }
    if deg < 110 ∨ t.power.stopped then t
    else
      let u := t.failStart 7
      { u with power := { u.power with stopped := true }, boot := { u.boot with again := none } })
/-- R425: every sensor reads below 85 °C again. -/
def execThermalRestart (s : State) : Res :=
  .next (if s.power.stopped ∧ !s.boot.min ∧ s.tmax < 85 then
      { s.begin with power := { ({} : Power) with sensors := s.power.sensors } }
    else s)

end Sys2Proof.Machine
end

