-- ==== Sys2Proof/Machine/Transfer.lean ====
section
/-!
DEFINITION. The transfer engine: its commands at issue and in the engine (08_isa_engines_tasks.md R203 to R207; 12 R281, R282).
-/
namespace Sys2Proof.Machine
open Sys2Proof

/-! ### Commands at issue (R203, R204) -/

/-- R203, R204: the limits of the fields of a command. -/
def TeCmd.illegal (c : TeCmd) : Bool :=
  let s1 := c.s1.toNat
  let len : Bool := c.s0 == 0 || decide (c.s0.toNat > 2 ^ 32)
  match c.kind with
  | .copy => len || decide (field s1 4 60 ≠ 0)
  | .copy2d => decide (c.width = 0) || decide (c.height = 0) || decide (field s1 4 28 ≠ 0)
  | .gather | .scatter =>
    decide (field s1 4 2 > 1) || decide (c.height = 0) || decide (c.width = 0) || decide (field s1 6 10 ≠ 0) || decide (field s1 48 16 ≠ 0)
  | .fill => len || decide (field s1 4 2 = 3) || decide (field s1 6 58 ≠ 0)
/-- R204: the alignment of a command's operands: the address a trap names. -/
def TeCmd.misaligned (c : TeCmd) : Option W64 :=
  match c.kind with
  | .gather | .scatter => if c.b.toNat % c.idxSize ≠ 0 then some c.b else none
  | .fill =>
    if field c.s1.toNat 4 2 = 0 then none
    else if c.a.toNat % 8 ≠ 0 then some c.a
    else if c.s0.toNat % 8 ≠ 0 then some (c.a + c.s0)
    else none
  | _ => none
/-- R203: the command that the bundle's operands make, with its number. -/
def State.teCmd (s : State) (kind : TeKind) (a b c : GR) (tag : BV3) : TeCmd :=
  { slot := s.cur.slot, sid := s.cur.pre.sid, tag, kind, a := s.g a, b := s.g b, s0 := s.g c, s1 := s.g (c + 1), who := s.actor, id := s.token }
/-- R203: an accepted command enters the queue. -/
def pushTe (q : TeCmd) (s : State) : State :=
  let t := s.fresh.2
  t.setCore t.cur.core { t.core t.cur.core with teQueue := (t.core t.cur.core).teQueue ++ [q] }
def transferOp (kind : TeKind) (a b c : GR) (tag : BV3) (s : State) : Res :=
  let q := s.teCmd kind a b c tag
  if q.illegal then trapNow s 0x02 0
  else match q.misaligned with
    | some x => trapNow s 0x09 x
    | none => .next (pushTe q s)
def execTcopy (a : GR) (b : GR) (c : GR) (pg : PR) (tag : BV3) (s : State) : Res :=
  strandOp (.tcopy a b c pg tag) s (transferOp .copy a b c tag)
def execTcopy2d (a : GR) (b : GR) (c : GR) (pg : PR) (tag : BV3) (s : State) : Res :=
  strandOp (.tcopy2d a b c pg tag) s (transferOp .copy2d a b c tag)
def execTgather (a : GR) (b : GR) (c : GR) (pg : PR) (tag : BV3) (s : State) : Res :=
  strandOp (.tgather a b c pg tag) s (transferOp .gather a b c tag)
def execTscatter (a : GR) (b : GR) (c : GR) (pg : PR) (tag : BV3) (s : State) : Res :=
  strandOp (.tscatter a b c pg tag) s (transferOp .scatter a b c tag)
def execTfill (a : GR) (b : GR) (c : GR) (pg : PR) (tag : BV3) (s : State) : Res :=
  strandOp (.tfill a b c pg tag) s (transferOp .fill a b c tag)

/-! ### Bytes moved (R204 to R207) -/

/-- R205: a word where both sides are aligned, else a byte. -/
def unitOf (src dst : W64) (left : Nat) : Nat := if src.toNat % 8 = 0 ∧ dst.toNat % 8 = 0 ∧ left ≥ 8 then 8 else 1
/-- R204: rows or elements, and bytes of one. -/
def TeCmd.rows (c : TeCmd) : Nat := match c.kind with | .copy | .fill => 1 | _ => c.height
def TeCmd.len (c : TeCmd) : Nat := match c.kind with | .copy | .fill => c.s0.toNat | _ => c.width
def TeCmd.byIndex (c : TeCmd) : Bool := match c.kind with | .gather | .scatter => true | _ => false
/-- R204: the source and the destination of the row or element under way. -/
def TeCmd.src (c : TeCmd) : W64 :=
  match c.kind with
  | .copy2d => c.b + BitVec.ofNat 64 (c.row * c.srcPitch)
  | .gather => c.s0 + BitVec.ofNat 64 (c.idx.getD 0 * c.width)
  | .scatter => c.s0 + BitVec.ofNat 64 (c.row * c.width)
  | _ => c.b
def TeCmd.dst (c : TeCmd) : W64 :=
  match c.kind with
  | .copy2d => c.a + BitVec.ofNat 64 (c.row * c.dstPitch)
  | .gather => c.a + BitVec.ofNat 64 (c.row * c.width)
  | .scatter => c.a + BitVec.ofNat 64 (c.idx.getD 0 * c.width)
  | _ => c.a
/-- R204: the F/E action of a fill. -/
def TeCmd.action (c : TeCmd) : Nat := match c.kind with | .fill => field c.s1.toNat 4 2 | _ => 0
/-- R281: how far a command has come, as its record says it. -/
def TeCmd.index (c : TeCmd) : Nat :=
  match c.kind with | .copy | .fill => c.n | .copy2d => c.row * 2 ^ 16 + c.n | .gather | .scatter => c.row
/-- R204: the bytes of a pattern at an address. -/
def TeCmd.pattern (c : TeCmd) (va : W64) (n : Nat) : List Byte :=
  (List.range n).map fun i => (leBytes 8 c.b.toNat).getD ((va.toNat + i) % 8) 0

def State.setTe (s : State) (core idx : Nat) (c : TeCmd) : State :=
  s.setCore core { s.core core with teQueue := (s.core core).teQueue.set idx c }
/-- R204: the next row or element; after the last, every write is made. -/
def TeCmd.nextRow (c : TeCmd) : TeCmd :=
  { c with row := c.row + 1, n := 0, idx := none, buf := none, io := {}, written := decide (c.row + 1 ≥ c.rows) }
/-- R204: bytes of the row are done. -/
def TeCmd.moved (c : TeCmd) (k : Nat) : TeCmd :=
  if c.n + k ≥ c.len then c.nextRow else { c with n := c.n + k, buf := none, io := {} }
/-- R207, R282: a failing byte or element: a record, and its tag faulted. A copy or a fill stops there; an indexed command goes on with its
next element. -/
def State.teFails (s : State) (core idx : Nat) (c : TeCmd) (cause : Nat) (addr : W64) : State :=
  let t := s.faultOf c.sid addr (recordWord c.index 3 0 cause c.tag.toNat) fun x => { x with teFaulted := setBit8 x.teFaulted c.tag.toNat true }
  t.setTe core idx (if c.byIndex then { c.nextRow with failed := true } else { c with failed := true, written := true, io := {} })
/-- An access of a command, and what it leaves of the command. -/
def State.teAccess (s : State) (core idx : Nat) (c : TeCmd) (kd : Kind) (k : AccKind) (va : W64) (n : Nat) (f : List Byte → TeCmd) : State :=
  match s.engAccess c.who c.id c.io kd k va n with
  | .fault e => s.teFails core idx c e va
  | .wait t io => t.setTe core idx { c with io }
  | .done t bs => t.setTe core idx { f bs with io := {} }
/-- R204 to R206: the next access of a command: an index, a unit read, a unit written, or the F/E action of a word just filled. Host memory
has no F/E bits: an action on its word fails there, after the bytes are written (DESIGN CHOICE, log 29). -/
def State.teUnit (s : State) (core idx : Nat) (c : TeCmd) : State :=
  let y := c.dst + BitVec.ofNat 64 c.n
  if c.byIndex && c.idx.isNone then
    s.teAccess core idx c .load .load (c.b + BitVec.ofNat 64 (c.row * c.idxSize)) c.idxSize fun bs => { c with idx := some (leNat bs) }
  else match c.kind, c.buf with
    | .fill, some _ => s.teAccess core idx c .store (.sync (if c.action = 2 then .feset else .feclr) 0 false) y 8 fun _ => c.moved 8
    | .fill, none =>
      let u := unitOf y y (c.len - c.n)
      s.teAccess core idx c .store (.store (c.pattern y u)) y u fun _ => if c.action = 0 then c.moved u else { c with buf := some [] }
    | _, some bs => s.teAccess core idx c .store (.store bs) y bs.length fun _ => c.moved bs.length
    | _, none =>
      let x := c.src + BitVec.ofNat 64 c.n
      let u := unitOf x y (c.len - c.n)
      s.teAccess core idx c .load .load x u fun bs => { c with buf := some (bs.take u) }

/-- R203: the scopes of a command. -/
def TeCmd.acquire (c : TeCmd) : Scope := Scope.ofCode (c.s1.extractLsb' 0 2)
def TeCmd.release (c : TeCmd) : Scope := Scope.ofCode (c.s1.extractLsb' 2 2)
/-- R353: an earlier command of the strand with the tag has not started. -/
def State.tagWaits (s : State) (core idx : Nat) (c : TeCmd) : Bool :=
  ((s.core core).teQueue.take idx).any fun q => q.sid == c.sid && q.tag == c.tag && !q.started
/-- R203, R353: a command starts, once its acquire is done. -/
def State.teStart (s : State) (core idx : Nat) (c : TeCmd) : State :=
  if s.tagWaits core idx c then s
  else
    let (t, ok) := s.engAcquire c.sid core c.acquire
    if ok then t.setTe core idx { c with started := true } else t
/-- R203, R207: a command whose writes are performed retires, once its release is done; a faulted one makes none. -/
def State.teRetire (s : State) (core idx : Nat) (c : TeCmd) : State :=
  let (t, ok) := if c.failed then (s, true) else s.engRelease c.sid core c.release
  if ok then (t.setCore core { t.core core with teQueue := (t.core core).teQueue.eraseIdx idx }).wakeHeld core .teDone |>.wakeHeld core .scoreboard
  else t
/-- R203 to R207: a command of the queue starts, makes its next access, or retires. -/
def execTeCommandDone (core : Nat) (idx : Nat) (s : State) : Res :=
  onCore core true s (.next (
    match (s.core core).teQueue[idx]? with
    | none => s
    | some c => if !c.started then s.teStart core idx c else if c.written then s.teRetire core idx c else s.teUnit core idx c))

end Sys2Proof.Machine
end

