-- ==== Sys2Proof/Machine/VectorMem.lean ====
section
/-!
DEFINITION. Vector loads and stores (07_isa_vector.md R184 to R189).
-/
namespace Sys2Proof.Machine
open Sys2Proof

/-- An access of a lane: the lane, its address, and where it lies. -/
structure LaneAcc where
  lane : Nat
  va : W64
  loc : Loc
  attr : PageAttr

inductive LaneRes where
  | ok (l : List LaneAcc)
  | fault (cause : Nat) (va : W64)
  | miss (va : W64)

/-- R184: lanes translated in ascending order. -/
def State.locate (s : State) (k : Kind) (n : Nat) : List (Nat × W64) → LaneRes
  | [] => .ok []
  | (i, va) :: r =>
    match s.lookup k va with
    | .fault c => .fault c va
    | .miss => .miss va
    | .ok l a =>
      if State.regMisuse l n then .fault 0x08 va
      else match s.locate k n r with
        | .ok ls => .ok ({ lane := i, va, loc := l, attr := a } :: ls)
        | x => x
/-- R184, R56: every lane aligned, then every lane translated, then the range scoreboard; the lowest failing lane is reported. -/
def lanesThen (k : Kind) (n : Nat) (lanes : List (Nat × W64)) (f : List LaneAcc → State → Res) (s : State) : Res :=
  match lanes.find? fun x => x.2.toNat % n != 0 with
  | some x => trapNow s 0x09 x.2
  | none =>
    match s.locate k n lanes with
    | .fault c va => trapNow s c va
    | .miss va => .next (s.missTlb va)
    | .ok l => if l.any fun x => s.teHolds s.cur.core x.loc n then .next (s.park .scoreboard) else f l s
def LaneAcc.place (x : LaneAcc) : Loc × PageAttr := (x.loc, x.attr)

/-! ### Loads -/

/-- R185: the acquire of a vector load, once all its lanes have been performed. -/
def State.acquireAfter (s : State) (sc : Scope) : State :=
  let x := s.slotOf s.cur.core s.cur.slot
  if sc = .core then s
  else match x.inflight with
  | none => s.cacheAcquire s.cur.core sc
  | some f => s.setSlot s.cur.core s.cur.slot { x with inflight := some { f with acquire := sc } }
/-- R184, R185: loads of the lanes, each to its own destination. -/
def vecLoad (n : Nat) (sc : Scope) (lanes : List (Nat × W64)) (d : Nat → Dest) (s : State) : Res :=
  lanesThen .load n lanes (fun l => afterHeld (l.map (·.place)) n fun s =>
    .next ((l.foldl (fun t x => loadAt (d x.lane) n sc .core x.va x.loc x.attr t) s).acquireAfter sc)) s
/-- The addresses of the active lanes. -/
def State.lanesOf (s : State) (mg : MR) (f : Nat → W64) : List (Nat × W64) := (active (s.mr mg)).map fun i => (i, f i)
/-- R185. -/
def State.vlAddr (s : State) (b : GR) (off : Off10) (i : Nat) : W64 :=
  s.g b + off.signExtend 64 * 128 + BitVec.ofNat 64 (4 * i)
/-- R186. -/
def State.strided (s : State) (b c : GR) (i : Nat) : W64 := s.g b + BitVec.ofNat 64 i * s.g c
def State.indexed (s : State) (b : GR) (c : VR) (i : Nat) : W64 := s.g b + ((s.vr c).lane i).signExtend 64

def vldOp (v : VR) (b : GR) (mg : MR) (sc : Scope) (off : Off10) (s : State) : Res :=
  vecLoad 4 sc (s.lanesOf mg (s.vlAddr b off)) (fun i => .lane v i .w) s
def execVld (v : VR) (b : GR) (mg : MR) (sc : Scope) (off : Off10) (s : State) : Res := strandOp (.vld v b mg sc off) s (vldOp v b mg sc off)
def vldsOp (v : VR) (b c : GR) (mg : MR) (mt : MTy) (s : State) : Res :=
  vecLoad (MTy.bytes mt) .core (s.lanesOf mg (s.strided b c)) (fun i => .lane v i mt) s
def execVlds (v : VR) (b c : GR) (mg : MR) (mt : MTy) (s : State) : Res := strandOp (.vlds v b c mg mt) s (vldsOp v b c mg mt)
def vldxOp (v : VR) (b : GR) (c : VR) (mg : MR) (mt : MTy) (s : State) : Res :=
  vecLoad (MTy.bytes mt) .core (s.lanesOf mg (s.indexed b c)) (fun i => .lane v i mt) s
def execVldx (v : VR) (b : GR) (c : VR) (mg : MR) (mt : MTy) (s : State) : Res := strandOp (.vldx v b c mg mt) s (vldxOp v b c mg mt)
/-- R186: one read for every active lane. -/
def vldbOp (v : VR) (b : GR) (mg : MR) (mt : MTy) (s : State) : Res :=
  vecLoad (MTy.bytes mt) .core [(0, s.g b)] (fun _ => .bcast v (s.mr mg) mt) s
def execVldb (v : VR) (b : GR) (mg : MR) (mt : MTy) (s : State) : Res := strandOp (.vldb v b mg mt) s (vldbOp v b mg mt)
/-- R22, R189: the 132-byte image, a word at a time. -/
def imageWords (b : W64) : List (Nat × W64) := (List.range 33).map fun i => (i, b + BitVec.ofNat 64 (4 * i))
def vfillOp (v : VR) (b : GR) (s : State) : Res := vecLoad 4 .core (imageWords (s.g b)) (fun i => .image v (4 * i)) s
def execVfill (v : VR) (b : GR) (s : State) : Res := strandOp (.vfill v b) s (vfillOp v b)

/-! ### Stores -/

/-- R146, R184: the destinations of lanes. -/
def State.laneDests (s : State) (l : List LaneAcc) : List Node := (l.filterMap fun x => s.aggDest s.cur.core x.loc x.attr false).eraseDups
/-- R184, R185: stores of the lanes that are never aggregated; each destination's buffer is sent first. -/
def vecStore (n : Nat) (sc : Scope) (lanes : List (Nat × W64)) (data : Nat → List Byte) (s : State) : Res :=
  lanesThen .store n lanes (fun l s =>
    let places := l.map (·.place)
    if sc = .core then
      afterHeld places n (fillsThen places fun s => destsThen (s.laneDests l) (fun s =>
        .next (l.foldl (fun t x => plainWrite x.loc x.attr x.va (data x.lane) t) s)) s) s
    else releaseThen sc (deferred (fillsThen places fun s => destsThen (s.laneDests l) (fun s =>
      .next (l.foldl (fun t x => scopedStore sc x.loc x.attr x.va (data x.lane) t) s)) s)) s) s
/-- The bytes of a lane. -/
def State.laneBytes (s : State) (v : VR) (i : Nat) : List Byte := leBytes 4 ((s.vr v).lane i).toNat
def vstOp (v : VR) (b : GR) (mg : MR) (sc : Scope) (off : Off10) (s : State) : Res :=
  vecStore 4 sc (s.lanesOf mg (s.vlAddr b off)) (s.laneBytes v) s
def execVst (v : VR) (b : GR) (mg : MR) (sc : Scope) (off : Off10) (s : State) : Res := strandOp (.vst v b mg sc off) s (vstOp v b mg sc off)
def vspillOp (v : VR) (b : GR) (s : State) : Res :=
  vecStore 4 .core (imageWords (s.g b))
    (fun i => if i < 32 then s.laneBytes v i else leBytes 4 (s.vr v).s.toNat) s
def execVspill (v : VR) (b : GR) (s : State) : Res := strandOp (.vspill v b) s (vspillOp v b)

/-- R184, R187: each lane in turn, aggregated where its destination is another unit's; none where a send has to wait. -/
def State.scatter (s : State) (v : VR) : List LaneAcc → Option State
  | [] => some s
  | x :: r =>
    match s.aggDest s.cur.core x.loc x.attr false with
    | some d =>
      let e := { s.elemOf x.loc none 4 x.va (((s.vr v).lane x.lane).setWidth 64) false with lane := some x.lane }
      (s.aggInsert s.cur.core d e x.loc.key).bind fun t => t.scatter v r
    | none => (plainWrite x.loc x.attr x.va (s.laneBytes v x.lane) s).scatter v r
def vecScatter (v : VR) (lanes : List (Nat × W64)) (s : State) : Res :=
  lanesThen .store 4 lanes (fun l s =>
    let direct := (l.filter fun x => (s.aggDest s.cur.core x.loc x.attr false).isNone).map (·.place)
    afterHeld direct 4 (fillsThen direct fun s =>
      match s.scatter v l with
      | some t => .next t
      | none => .next (s.park .send)) s) s
def vstsOp (v : VR) (b c : GR) (mg : MR) (s : State) : Res := vecScatter v (s.lanesOf mg (s.strided b c)) s
def execVsts (v : VR) (b c : GR) (mg : MR) (s : State) : Res := strandOp (.vsts v b c mg) s (vstsOp v b c mg)
def vstxOp (v : VR) (b : GR) (c : VR) (mg : MR) (s : State) : Res := vecScatter v (s.lanesOf mg (s.indexed b c)) s
def execVstx (v : VR) (b : GR) (c : VR) (mg : MR) (s : State) : Res := strandOp (.vstx v b c mg) s (vstxOp v b c mg)

/-! ### The narrowing store (R188) -/

/-- R188: a nibble put into a byte of memory. -/
def plainNibble (l : Loc) (a : PageAttr) (va : W64) (hi : Bool) (code : Byte) (s : State) : State :=
  let direct := s.directWrite (.nibble hi code) l 1 va
  match l with
  | .hbm p o =>
    if a.cached then
      let t := s.l1Store s.cur.core p o a.slot va.toNat []
      let old := match l1Find (t.core t.cur.core).l1d p (o / 64 * 64) a.slot with | some e => e.data.getD (o % 64) 0 | none => 0
      t.l1Store t.cur.core p o a.slot va.toNat [putNibble hi code old]
    else direct
  | _ => if l.near s.cur.core then s.nearWrite l [putNibble hi code ((s.readAt l 1).getD 0 0)] else direct
/-- R188: one element of `VSTN`; two nibbles of one byte are written together. -/
def vstnLane (fmt : NTy) (act : W32) (codes : Nat → Nat) (x : LaneAcc) (s : State) : State :=
  if fmt = .e2m1 then
    let other := x.lane ^^^ 1
    if act.getLsbD other then
      if x.lane % 2 = 0 then s
      else plainWrite x.loc x.attr x.va [putNibble true (BitVec.ofNat 8 (codes x.lane)) (BitVec.ofNat 8 (codes other))] s
    else plainNibble x.loc x.attr x.va (x.lane % 2 == 1) (BitVec.ofNat 8 (codes x.lane)) s
  else plainWrite x.loc x.attr x.va (leBytes (NTy.size fmt) (codes x.lane)) s
def vstnOp (v : VR) (b : GR) (mode : RMode) (mg : MR) (fmt : NTy) (s : State) : Res :=
  let act := s.mr mg
  let l := active act
  let f := NTy.fm fmt
  let g := s.draws mode l.length
  let r := l.map fun i => (i, finalRound ((s.vr v).lane i) ((s.vr v).laneS i) 0 f mode s.ovf (g.getD (rankOf act i) 0))
  let fl := r.foldl (fun fl e => fl ||| e.2.2) 0
  let t := s.advance mode l.length
  let codes (i : Nat) : Nat := match r.find? fun e => e.1 == i with | some e => e.2.1 | none => 0
  if t.enabled fl ≠ 0 then trapNow t 0x15 (fl.setWidth 64)
  else
    lanesThen .store (NTy.size fmt) (l.map fun i => (i, s.g b + BitVec.ofNat 64 (f.place i).1)) (fun xs =>
      afterHeld (xs.map (·.place)) (NTy.size fmt) <| fillsThen (xs.map (·.place)) fun s => destsThen (s.laneDests xs) (fun s =>
        .next ((xs.foldl (fun t x => vstnLane fmt act codes x t) s).raise fl)) s) t
def execVstn (v : VR) (b : GR) (mode : RMode) (mg : MR) (fmt : NTy) (s : State) : Res :=
  strandOp (.vstn v b mode mg fmt) s (vstnOp v b mode mg fmt)

end Sys2Proof.Machine
end

