-- ==== Sys2Proof/Machine/Dispatch.lean ====
section
/-!
DEFINITION. One arm for each constructor of Instr, each one direct call of its meaning.
-/
namespace Sys2Proof.Machine

def exec (i : Instr) (s : State) : Host.Outcome State Fault Refusal :=
  match i with
  | .cnop => Sys2Proof.Machine.execCnop s
  | .movpc d pg pn => Sys2Proof.Machine.execMovpc d pg pn s
  | .bp pg pn off => Sys2Proof.Machine.execBp pg pn off s
  | .bz a pg imm => Sys2Proof.Machine.execBz a pg imm s
  | .bnz a pg imm => Sys2Proof.Machine.execBnz a pg imm s
  | .jal pg pn off => Sys2Proof.Machine.execJal pg pn off s
  | .jalr d a pg imm => Sys2Proof.Machine.execJalr d a pg imm s
  | .ret a pg pn => Sys2Proof.Machine.execRet a pg pn s
  | .loopi k len pg cnt => Sys2Proof.Machine.execLoopi k len pg cnt s
  | .loopr k a pg len => Sys2Proof.Machine.execLoopr k a pg len s
  | .repi pg cnt => Sys2Proof.Machine.execRepi pg cnt s
  | .repr a pg => Sys2Proof.Machine.execRepr a pg s
  | .ldb x b pg sc off => Sys2Proof.Machine.execLdb x b pg sc off s
  | .ldbu x b pg sc off => Sys2Proof.Machine.execLdbu x b pg sc off s
  | .ldh x b pg sc off => Sys2Proof.Machine.execLdh x b pg sc off s
  | .ldhu x b pg sc off => Sys2Proof.Machine.execLdhu x b pg sc off s
  | .ldw x b pg sc off => Sys2Proof.Machine.execLdw x b pg sc off s
  | .ldwu x b pg sc off => Sys2Proof.Machine.execLdwu x b pg sc off s
  | .ldd x b pg sc off => Sys2Proof.Machine.execLdd x b pg sc off s
  | .stb x b pg sc off => Sys2Proof.Machine.execStb x b pg sc off s
  | .sth x b pg sc off => Sys2Proof.Machine.execSth x b pg sc off s
  | .stw x b pg sc off => Sys2Proof.Machine.execStw x b pg sc off s
  | .std x b pg sc off => Sys2Proof.Machine.execStd x b pg sc off s
  | .ldbX a b c pg mode mig => Sys2Proof.Machine.execLdbX a b c pg mode mig s
  | .ldbuX a b c pg mode mig => Sys2Proof.Machine.execLdbuX a b c pg mode mig s
  | .ldhX a b c pg mode mig => Sys2Proof.Machine.execLdhX a b c pg mode mig s
  | .ldhuX a b c pg mode mig => Sys2Proof.Machine.execLdhuX a b c pg mode mig s
  | .ldwX a b c pg mode mig => Sys2Proof.Machine.execLdwX a b c pg mode mig s
  | .ldwuX a b c pg mode mig => Sys2Proof.Machine.execLdwuX a b c pg mode mig s
  | .lddX a b c pg mode mig => Sys2Proof.Machine.execLddX a b c pg mode mig s
  | .ldq a b c pg mode mig => Sys2Proof.Machine.execLdq a b c pg mode mig s
  | .stbX a b c pg mode mig => Sys2Proof.Machine.execStbX a b c pg mode mig s
  | .sthX a b c pg mode mig => Sys2Proof.Machine.execSthX a b c pg mode mig s
  | .stwX a b c pg mode mig => Sys2Proof.Machine.execStwX a b c pg mode mig s
  | .stdX a b c pg mode mig => Sys2Proof.Machine.execStdX a b c pg mode mig s
  | .stq a b c pg mode mig => Sys2Proof.Machine.execStq a b c pg mode mig s
  | .ldff a b pg sc w => Sys2Proof.Machine.execLdff a b pg sc w s
  | .ldfe a b pg sc w => Sys2Proof.Machine.execLdfe a b pg sc w s
  | .stef a b pg sc w => Sys2Proof.Machine.execStef a b pg sc w s
  | .stsf a b pg sc w => Sys2Proof.Machine.execStsf a b pg sc w s
  | .ferd a b pg sc => Sys2Proof.Machine.execFerd a b pg sc s
  | .feset b pg sc => Sys2Proof.Machine.execFeset b pg sc s
  | .feclr b pg sc => Sys2Proof.Machine.execFeclr b pg sc s
  | .aadd dbl a b c pg sc => Sys2Proof.Machine.execAadd dbl a b c pg sc s
  | .aand dbl a b c pg sc => Sys2Proof.Machine.execAand dbl a b c pg sc s
  | .aor dbl a b c pg sc => Sys2Proof.Machine.execAor dbl a b c pg sc s
  | .axor dbl a b c pg sc => Sys2Proof.Machine.execAxor dbl a b c pg sc s
  | .amin dbl a b c pg sc => Sys2Proof.Machine.execAmin dbl a b c pg sc s
  | .amax dbl a b c pg sc => Sys2Proof.Machine.execAmax dbl a b c pg sc s
  | .aminu dbl a b c pg sc => Sys2Proof.Machine.execAminu dbl a b c pg sc s
  | .amaxu dbl a b c pg sc => Sys2Proof.Machine.execAmaxu dbl a b c pg sc s
  | .aswap dbl a b c pg sc => Sys2Proof.Machine.execAswap dbl a b c pg sc s
  | .acas dbl a b c pg sc => Sys2Proof.Machine.execAcas dbl a b c pg sc s
  | .afadd a b c pg sc => Sys2Proof.Machine.execAfadd a b c pg sc s
  | .fence mask pg sc => Sys2Proof.Machine.execFence mask pg sc s
  | .fencer a b mask pg sc => Sys2Proof.Machine.execFencer a b mask pg sc s
  | .ifence pg => Sys2Proof.Machine.execIfence pg s
  | .fenceTl pg sc => Sys2Proof.Machine.execFenceTl pg sc s
  | .agf a pg => Sys2Proof.Machine.execAgf a pg s
  | .agw pg => Sys2Proof.Machine.execAgw pg s
  | .vld v b mg sc off => Sys2Proof.Machine.execVld v b mg sc off s
  | .vst v b mg sc off => Sys2Proof.Machine.execVst v b mg sc off s
  | .vlds v b c mg mt => Sys2Proof.Machine.execVlds v b c mg mt s
  | .vldx v b c mg mt => Sys2Proof.Machine.execVldx v b c mg mt s
  | .vldb v b mg mt => Sys2Proof.Machine.execVldb v b mg mt s
  | .vsts v b c mg => Sys2Proof.Machine.execVsts v b c mg s
  | .vstx v b c mg => Sys2Proof.Machine.execVstx v b c mg s
  | .vstn v b mode mg fmt => Sys2Proof.Machine.execVstn v b mode mg fmt s
  | .vspill v b => Sys2Proof.Machine.execVspill v b s
  | .vfill v b => Sys2Proof.Machine.execVfill v b s
  | .fstn a b mode pg fmt => Sys2Proof.Machine.execFstn a b mode pg fmt s
  | .tcopy a b c pg tag => Sys2Proof.Machine.execTcopy a b c pg tag s
  | .tcopy2d a b c pg tag => Sys2Proof.Machine.execTcopy2d a b c pg tag s
  | .tgather a b c pg tag => Sys2Proof.Machine.execTgather a b c pg tag s
  | .tscatter a b c pg tag => Sys2Proof.Machine.execTscatter a b c pg tag s
  | .tfill a b c pg tag => Sys2Proof.Machine.execTfill a b c pg tag s
  | .twait sel pg => Sys2Proof.Machine.execTwait sel pg s
  | .qenq a b c pg len => Sys2Proof.Machine.execQenq a b c pg len s
  | .qdeq a b c pg q => Sys2Proof.Machine.execQdeq a b c pg q s
  | .qtry a b c pg len => Sys2Proof.Machine.execQtry a b c pg len s
  | .qpoll a b c pg q => Sys2Proof.Machine.execQpoll a b c pg q s
  | .callat d b c pg => Sys2Proof.Machine.execCallat d b c pg s
  | .retv a pg => Sys2Proof.Machine.execRetv a pg s
  | .amsg b c pg => Sys2Proof.Machine.execAmsg b c pg s
  | .amsgRet d b c pg => Sys2Proof.Machine.execAmsgRet d b c pg s
  | .frame a b c pg => Sys2Proof.Machine.execFrame a b c pg s
  | .spawn a b pg => Sys2Proof.Machine.execSpawn a b pg s
  | .sync a pg => Sys2Proof.Machine.execSync a pg s
  | .tend a pg => Sys2Proof.Machine.execTend a pg s
  | .publish a b pg => Sys2Proof.Machine.execPublish a b pg s
  | .launch a c pg => Sys2Proof.Machine.execLaunch a c pg s
  | .shrd a n pg => Sys2Proof.Machine.execShrd a n pg s
  | .shwr a n pg => Sys2Proof.Machine.execShwr a n pg s
  | .semp n pg => Sys2Proof.Machine.execSemp n pg s
  | .semv n pg => Sys2Proof.Machine.execSemv n pg s
  | .bar n pg sc => Sys2Proof.Machine.execBar n pg sc s
  | .xborrow b c pg => Sys2Proof.Machine.execXborrow b c pg s
  | .xmov a b pg vec toBorrowed => Sys2Proof.Machine.execXmov a b pg vec toBorrowed s
  | .xreturn pg => Sys2Proof.Machine.execXreturn pg s
  | .migrate a b pg => Sys2Proof.Machine.execMigrate a b pg s
  | .hbeat pg => Sys2Proof.Machine.execHbeat pg s
  | .waitt a pg => Sys2Proof.Machine.execWaitt a pg s
  | .yield pg => Sys2Proof.Machine.execYield pg s
  | .sysc n => Sys2Proof.Machine.execSysc n s
  | .brk n => Sys2Proof.Machine.execBrk n s
  | .xret pg => Sys2Proof.Machine.execXret pg s
  | .tlbinv a pg sc => Sys2Proof.Machine.execTlbinv a pg sc s
  | .cctlWb a b pg => Sys2Proof.Machine.execCctlWb a b pg s
  | .cctlInv a b pg => Sys2Proof.Machine.execCctlInv a b pg s
  | .cctlWbinv a b pg => Sys2Proof.Machine.execCctlWbinv a b pg s
  | .cctlPrefetch a b pg => Sys2Proof.Machine.execCctlPrefetch a b pg s
  | .cctlWbL1d pg => Sys2Proof.Machine.execCctlWbL1d pg s
  | .cctlInvCc pg => Sys2Proof.Machine.execCctlInvCc pg s
  | .cctlSetCc a pg => Sys2Proof.Machine.execCctlSetCc a pg s
  | .crrd d pg n => Sys2Proof.Machine.execCrrd d pg n s
  | .crwr a pg n => Sys2Proof.Machine.execCrwr a pg n s
  | .crswp d a pg n => Sys2Proof.Machine.execCrswp d a pg n s
  | .add t d a b pg => Sys2Proof.Machine.execAdd t d a b pg s
  | .sub t d a b pg => Sys2Proof.Machine.execSub t d a b pg s
  | .and t d a b pg => Sys2Proof.Machine.execAnd t d a b pg s
  | .or t d a b pg => Sys2Proof.Machine.execOr t d a b pg s
  | .xor t d a b pg => Sys2Proof.Machine.execXor t d a b pg s
  | .andn t d a b pg => Sys2Proof.Machine.execAndn t d a b pg s
  | .shl t d a b pg => Sys2Proof.Machine.execShl t d a b pg s
  | .shr t d a b pg => Sys2Proof.Machine.execShr t d a b pg s
  | .sra t d a b pg => Sys2Proof.Machine.execSra t d a b pg s
  | .ror t d a b pg => Sys2Proof.Machine.execRor t d a b pg s
  | .min t d a b pg => Sys2Proof.Machine.execMin t d a b pg s
  | .max t d a b pg => Sys2Proof.Machine.execMax t d a b pg s
  | .minu t d a b pg => Sys2Proof.Machine.execMinu t d a b pg s
  | .maxu t d a b pg => Sys2Proof.Machine.execMaxu t d a b pg s
  | .mul t d a b pg => Sys2Proof.Machine.execMul t d a b pg s
  | .mulh t d a b pg => Sys2Proof.Machine.execMulh t d a b pg s
  | .mulhu t d a b pg => Sys2Proof.Machine.execMulhu t d a b pg s
  | .div t d a b pg => Sys2Proof.Machine.execDiv t d a b pg s
  | .divu t d a b pg => Sys2Proof.Machine.execDivu t d a b pg s
  | .rem t d a b pg => Sys2Proof.Machine.execRem t d a b pg s
  | .remu t d a b pg => Sys2Proof.Machine.execRemu t d a b pg s
  | .clz t d a pg => Sys2Proof.Machine.execClz t d a pg s
  | .ctz t d a pg => Sys2Proof.Machine.execCtz t d a pg s
  | .popc t d a pg => Sys2Proof.Machine.execPopc t d a pg s
  | .sext sz d a pg => Sys2Proof.Machine.execSext sz d a pg s
  | .zext sz d a pg => Sys2Proof.Machine.execZext sz d a pg s
  | .bfx d a b pg => Sys2Proof.Machine.execBfx d a b pg s
  | .bfxu d a b pg => Sys2Proof.Machine.execBfxu d a b pg s
  | .bfi d a b pg => Sys2Proof.Machine.execBfi d a b pg s
  | .cmpeq t d a b pg => Sys2Proof.Machine.execCmpeq t d a b pg s
  | .cmpne t d a b pg => Sys2Proof.Machine.execCmpne t d a b pg s
  | .cmplt t d a b pg => Sys2Proof.Machine.execCmplt t d a b pg s
  | .cmple t d a b pg => Sys2Proof.Machine.execCmple t d a b pg s
  | .cmpltu t d a b pg => Sys2Proof.Machine.execCmpltu t d a b pg s
  | .cmpleu t d a b pg => Sys2Proof.Machine.execCmpleu t d a b pg s
  | .pand d a b pg => Sys2Proof.Machine.execPand d a b pg s
  | .por d a b pg => Sys2Proof.Machine.execPor d a b pg s
  | .pxor d a b pg => Sys2Proof.Machine.execPxor d a b pg s
  | .pandn d a b pg => Sys2Proof.Machine.execPandn d a b pg s
  | .pnot d a pg => Sys2Proof.Machine.execPnot d a pg s
  | .prd d pg => Sys2Proof.Machine.execPrd d pg s
  | .pwr a pg => Sys2Proof.Machine.execPwr a pg s
  | .addi d a imm pg => Sys2Proof.Machine.execAddi d a imm pg s
  | .andi d a imm pg => Sys2Proof.Machine.execAndi d a imm pg s
  | .ori d a imm pg => Sys2Proof.Machine.execOri d a imm pg s
  | .xori d a imm pg => Sys2Proof.Machine.execXori d a imm pg s
  | .shli d a sh pg => Sys2Proof.Machine.execShli d a sh pg s
  | .shri d a sh pg => Sys2Proof.Machine.execShri d a sh pg s
  | .srai d a sh pg => Sys2Proof.Machine.execSrai d a sh pg s
  | .rori d a sh pg => Sys2Proof.Machine.execRori d a sh pg s
  | .movi d imm pg => Sys2Proof.Machine.execMovi d imm pg s
  | .movh d k imm pg => Sys2Proof.Machine.execMovh d k imm pg s
  | .lea d a b sh pg => Sys2Proof.Machine.execLea d a b sh pg s
  | .cvta d a pg => Sys2Proof.Machine.execCvta d a pg s
  | .sel d q a b pg => Sys2Proof.Machine.execSel d q a b pg s
  | .mov d a pg => Sys2Proof.Machine.execMov d a pg s
  | .fadd t d a b pg => Sys2Proof.Machine.execFadd t d a b pg s
  | .fsub t d a b pg => Sys2Proof.Machine.execFsub t d a b pg s
  | .fmul t d a b pg => Sys2Proof.Machine.execFmul t d a b pg s
  | .fdiv t d a b pg => Sys2Proof.Machine.execFdiv t d a b pg s
  | .fsqrt t d a pg => Sys2Proof.Machine.execFsqrt t d a pg s
  | .ffma t d a b c pg => Sys2Proof.Machine.execFfma t d a b c pg s
  | .fmin t d a b pg => Sys2Proof.Machine.execFmin t d a b pg s
  | .fmax t d a b pg => Sys2Proof.Machine.execFmax t d a b pg s
  | .fneg d a pg => Sys2Proof.Machine.execFneg d a pg s
  | .fabs d a pg => Sys2Proof.Machine.execFabs d a pg s
  | .fcmpeq d a b pg => Sys2Proof.Machine.execFcmpeq d a b pg s
  | .fcmplt d a b pg => Sys2Proof.Machine.execFcmplt d a b pg s
  | .fcmple d a b pg => Sys2Proof.Machine.execFcmple d a b pg s
  | .fcmpun d a b pg => Sys2Proof.Machine.execFcmpun d a b pg s
  | .fclass d a pg => Sys2Proof.Machine.execFclass d a pg s
  | .fcvt t d a pg => Sys2Proof.Machine.execFcvt t d a pg s
  | .fcvtif t d a pg => Sys2Proof.Machine.execFcvtif t d a pg s
  | .fcvtfi d a pg => Sys2Proof.Machine.execFcvtfi d a pg s
  | .fstk d a b pg => Sys2Proof.Machine.execFstk d a b pg s
  | .fstkr d a pg => Sys2Proof.Machine.execFstkr d a pg s
  | .vadd t d a b mg => Sys2Proof.Machine.execVadd t d a b mg s
  | .vsub t d a b mg => Sys2Proof.Machine.execVsub t d a b mg s
  | .vand t d a b mg => Sys2Proof.Machine.execVand t d a b mg s
  | .vor t d a b mg => Sys2Proof.Machine.execVor t d a b mg s
  | .vxor t d a b mg => Sys2Proof.Machine.execVxor t d a b mg s
  | .vandn t d a b mg => Sys2Proof.Machine.execVandn t d a b mg s
  | .vshl t d a b mg => Sys2Proof.Machine.execVshl t d a b mg s
  | .vshr t d a b mg => Sys2Proof.Machine.execVshr t d a b mg s
  | .vsra t d a b mg => Sys2Proof.Machine.execVsra t d a b mg s
  | .vmin t d a b mg => Sys2Proof.Machine.execVmin t d a b mg s
  | .vmax t d a b mg => Sys2Proof.Machine.execVmax t d a b mg s
  | .vmul t d a b mg => Sys2Proof.Machine.execVmul t d a b mg s
  | .vmulh t d a b mg => Sys2Proof.Machine.execVmulh t d a b mg s
  | .vcmpeq t d a b mg => Sys2Proof.Machine.execVcmpeq t d a b mg s
  | .vcmpne t d a b mg => Sys2Proof.Machine.execVcmpne t d a b mg s
  | .vcmplt t d a b mg => Sys2Proof.Machine.execVcmplt t d a b mg s
  | .vcmple t d a b mg => Sys2Proof.Machine.execVcmple t d a b mg s
  | .mand d a b mg => Sys2Proof.Machine.execMand d a b mg s
  | .mor d a b mg => Sys2Proof.Machine.execMor d a b mg s
  | .mxor d a b mg => Sys2Proof.Machine.execMxor d a b mg s
  | .mandn d a b mg => Sys2Proof.Machine.execMandn d a b mg s
  | .mnot d a mg => Sys2Proof.Machine.execMnot d a mg s
  | .mpopc d a mg => Sys2Proof.Machine.execMpopc d a mg s
  | .mfromg d a mg => Sys2Proof.Machine.execMfromg d a mg s
  | .mtog d a mg => Sys2Proof.Machine.execMtog d a mg s
  | .vfadd t d a b mg => Sys2Proof.Machine.execVfadd t d a b mg s
  | .vfsub t d a b mg => Sys2Proof.Machine.execVfsub t d a b mg s
  | .vfmul t d a b mg => Sys2Proof.Machine.execVfmul t d a b mg s
  | .vfdiv t d a b mg => Sys2Proof.Machine.execVfdiv t d a b mg s
  | .vfsqrt t d a mg => Sys2Proof.Machine.execVfsqrt t d a mg s
  | .vfmin t d a b mg => Sys2Proof.Machine.execVfmin t d a b mg s
  | .vfmax t d a b mg => Sys2Proof.Machine.execVfmax t d a b mg s
  | .vfneg d a mg => Sys2Proof.Machine.execVfneg d a mg s
  | .vfabs d a mg => Sys2Proof.Machine.execVfabs d a mg s
  | .vffma t d a b c mg => Sys2Proof.Machine.execVffma t d a b c mg s
  | .vfcmpeq d a b mg => Sys2Proof.Machine.execVfcmpeq d a b mg s
  | .vfcmplt d a b mg => Sys2Proof.Machine.execVfcmplt d a b mg s
  | .vfcmple d a b mg => Sys2Proof.Machine.execVfcmple d a b mg s
  | .vfcmpun d a b mg => Sys2Proof.Machine.execVfcmpun d a b mg s
  | .vfred t d a mg => Sys2Proof.Machine.execVfred t d a mg s
  | .vfrmin t d a mg => Sys2Proof.Machine.execVfrmin t d a mg s
  | .vfrmax t d a mg => Sys2Proof.Machine.execVfrmax t d a mg s
  | .vfcvt t d a mg => Sys2Proof.Machine.execVfcvt t d a mg s
  | .vfcvtif t d a mg => Sys2Proof.Machine.execVfcvtif t d a mg s
  | .vfcvtfi d a mg => Sys2Proof.Machine.execVfcvtfi d a mg s
  | .vfrcp t d a mg => Sys2Proof.Machine.execVfrcp t d a mg s
  | .vfrsqrt t d a mg => Sys2Proof.Machine.execVfrsqrt t d a mg s
  | .vfexp2 t d a mg => Sys2Proof.Machine.execVfexp2 t d a mg s
  | .vflog2 t d a mg => Sys2Proof.Machine.execVflog2 t d a mg s
  | .vperm d a b mg => Sys2Proof.Machine.execVperm d a b mg s
  | .vslide d a b mg => Sys2Proof.Machine.execVslide d a b mg s
  | .vzip d a b mg => Sys2Proof.Machine.execVzip d a b mg s
  | .vunzip d a mg => Sys2Proof.Machine.execVunzip d a mg s
  | .vbcast d a mg => Sys2Proof.Machine.execVbcast d a mg s
  | .vcompress d a mg => Sys2Proof.Machine.execVcompress d a mg s
  | .vexpand d a mg => Sys2Proof.Machine.execVexpand d a mg s
  | .vmov d a mg => Sys2Proof.Machine.execVmov d a mg s
  | .vins d a b mg => Sys2Proof.Machine.execVins d a b mg s
  | .vext d a b mg => Sys2Proof.Machine.execVext d a b mg s
  | .rngh d a b mg => Sys2Proof.Machine.execRngh d a b mg s
  | .vrngh d a b mg => Sys2Proof.Machine.execVrngh d a b mg s
  | .vqmx fmt mode d b a mg => Sys2Proof.Machine.execVqmx fmt mode d b a mg s
  | .vdqmx fmt d a b mg => Sys2Proof.Machine.execVdqmx fmt d a b mg s
  | .vpack fmt mode d a mg => Sys2Proof.Machine.execVpack fmt mode d a mg s
  | .mset sel a pg => Sys2Proof.Machine.execMset sel a pg s
  | .mzero k a pg => Sys2Proof.Machine.execMzero k a pg s
  | .mlda sc k a b pg => Sys2Proof.Machine.execMlda sc k a b pg s
  | .msta fmt sc mode k a b pg => Sys2Proof.Machine.execMsta fmt sc mode k a b pg s
  | .mseed a pg => Sys2Proof.Machine.execMseed a pg s
  | .mring a b pg => Sys2Proof.Machine.execMring a b pg s
  | .mwait pg => Sys2Proof.Machine.execMwait pg s
  | .mma fa fb k n m ga gs fl => Sys2Proof.Machine.execMma fa fb k n m ga gs fl s
  | .mmaBf16 k n m ga fl => Sys2Proof.Machine.execMmaBf16 k n m ga fl s
  | .delayedCompletion core slot => Sys2Proof.Machine.execDelayedCompletion core slot s
  | .loadReply id => Sys2Proof.Machine.execLoadReply id s
  | .atomicReply id => Sys2Proof.Machine.execAtomicReply id s
  | .callReply id => Sys2Proof.Machine.execCallReply id s
  | .homeAccess id => Sys2Proof.Machine.execHomeAccess id s
  | .hbmFill part line => Sys2Proof.Machine.execHbmFill part line s
  | .sliceEvict part line => Sys2Proof.Machine.execSliceEvict part line s
  | .replicaInvalAck part region slice => Sys2Proof.Machine.execReplicaInvalAck part region slice s
  | .pageWalkDone cl => Sys2Proof.Machine.execPageWalkDone cl s
  | .walkerReadError cl retryOk => Sys2Proof.Machine.execWalkerReadError cl retryOk s
  | .ptsTick core => Sys2Proof.Machine.execPtsTick core s
  | .hotWindow slice => Sys2Proof.Machine.execHotWindow slice s
  | .syncWaitExpire core slot => Sys2Proof.Machine.execSyncWaitExpire core slot s
  | .syncBusyRetry core slot => Sys2Proof.Machine.execSyncBusyRetry core slot s
  | .aggAgeSend core buf => Sys2Proof.Machine.execAggAgeSend core buf s
  | .aggSendResume core => Sys2Proof.Machine.execAggSendResume core s
  | .aggPacketApply id => Sys2Proof.Machine.execAggPacketApply id s
  | .aggReply id => Sys2Proof.Machine.execAggReply id s
  | .meshPacketArrive id => Sys2Proof.Machine.execMeshPacketArrive id s
  | .escapeDivert id => Sys2Proof.Machine.execEscapeDivert id s
  | .linkCrcFail src dst again => Sys2Proof.Machine.execLinkCrcFail src dst again s
  | .queueTokenArrive id => Sys2Proof.Machine.execQueueTokenArrive id s
  | .qenqRetry core slot => Sys2Proof.Machine.execQenqRetry core slot s
  | .queueWaitExpire core slot => Sys2Proof.Machine.execQueueWaitExpire core slot s
  | .callArrive id => Sys2Proof.Machine.execCallArrive id s
  | .slotOffer core => Sys2Proof.Machine.execSlotOffer core s
  | .migrationArrive id => Sys2Proof.Machine.execMigrationArrive id s
  | .dequeSpillDone core slot => Sys2Proof.Machine.execDequeSpillDone core slot s
  | .stealProbe core => Sys2Proof.Machine.execStealProbe core s
  | .stealProbeAnswer id => Sys2Proof.Machine.execStealProbeAnswer id s
  | .stealCopyDone id => Sys2Proof.Machine.execStealCopyDone id s
  | .stealPauseEnd core => Sys2Proof.Machine.execStealPauseEnd core s
  | .yieldEnd core slot => Sys2Proof.Machine.execYieldEnd core slot s
  | .waittRelease core slot => Sys2Proof.Machine.execWaittRelease core slot s
  | .heartbeatMiss core slot => Sys2Proof.Machine.execHeartbeatMiss core slot s
  | .fencedPacket id => Sys2Proof.Machine.execFencedPacket id s
  | .meCommandStart core => Sys2Proof.Machine.execMeCommandStart core s
  | .latchTileArrive core => Sys2Proof.Machine.execLatchTileArrive core s
  | .mmaTile core => Sys2Proof.Machine.execMmaTile core s
  | .tileHandOn core => Sys2Proof.Machine.execTileHandOn core s
  | .rotateCopy core => Sys2Proof.Machine.execRotateCopy core s
  | .meCommandDone core => Sys2Proof.Machine.execMeCommandDone core s
  | .teCommandDone core idx => Sys2Proof.Machine.execTeCommandDone core idx s
  | .jobEntryRead part queue => Sys2Proof.Machine.execJobEntryRead part queue s
  | .edgeTest part => Sys2Proof.Machine.execEdgeTest part s
  | .jobAging part job => Sys2Proof.Machine.execJobAging part job s
  | .jobPlace part => Sys2Proof.Machine.execJobPlace part s
  | .gangStart cl => Sys2Proof.Machine.execGangStart cl s
  | .jobComplete part job => Sys2Proof.Machine.execJobComplete part job s
  | .switchStop part => Sys2Proof.Machine.execSwitchStop part s
  | .switchSaveDone part => Sys2Proof.Machine.execSwitchSaveDone part s
  | .switchResume part => Sys2Proof.Machine.execSwitchResume part s
  | .hostWriteTlp req bar addr bytes => Sys2Proof.Machine.execHostWriteTlp req bar addr bytes s
  | .hostLineAck id => Sys2Proof.Machine.execHostLineAck id s
  | .hostRead req bar addr len => Sys2Proof.Machine.execHostRead req bar addr len s
  | .fabricPacketArrive pkt => Sys2Proof.Machine.execFabricPacketArrive pkt s
  | .admissionCredit dev => Sys2Proof.Machine.execAdmissionCredit dev s
  | .portCrcFail port again => Sys2Proof.Machine.execPortCrcFail port again s
  | .switchCombine fst snd => Sys2Proof.Machine.execSwitchCombine fst snd s
  | .combinedReply id reply => Sys2Proof.Machine.execCombinedReply id reply s
  | .amsgTriggerArrive id => Sys2Proof.Machine.execAmsgTriggerArrive id s
  | .handlerRun slice => Sys2Proof.Machine.execHandlerRun slice s
  | .bindEntry slice => Sys2Proof.Machine.execBindEntry slice s
  | .fcsrWrite core slot val => Sys2Proof.Machine.execFcsrWrite core slot val s
  | .hbiWrite core slot val => Sys2Proof.Machine.execHbiWrite core slot val s
  | .agageWrite core slot val => Sys2Proof.Machine.execAgageWrite core slot val s
  | .qcfgEnable core q val => Sys2Proof.Machine.execQcfgEnable core q val s
  | .qcfgDisable core q val => Sys2Proof.Machine.execQcfgDisable core q val s
  | .swctlArm part val => Sys2Proof.Machine.execSwctlArm part val s
  | .swctlRes part val => Sys2Proof.Machine.execSwctlRes part val s
  | .unfence part val => Sys2Proof.Machine.execUnfence part val s
  | .pmctlGo part val => Sys2Proof.Machine.execPmctlGo part val s
  | .pageCopyDone part => Sys2Proof.Machine.execPageCopyDone part s
  | .pmctlClr part val => Sys2Proof.Machine.execPmctlClr part val s
  | .bctlGo part val => Sys2Proof.Machine.execBctlGo part val s
  | .sqcfgEnable part queue val => Sys2Proof.Machine.execSqcfgEnable part queue val s
  | .sqcfgDisable part queue val => Sys2Proof.Machine.execSqcfgDisable part queue val s
  | .doorbell part queue val => Sys2Proof.Machine.execDoorbell part queue val s
  | .msireq part val => Sys2Proof.Machine.execMsireq part val s
  | .meshctlWrite val => Sys2Proof.Machine.execMeshctlWrite val s
  | .plimWrite val => Sys2Proof.Machine.execPlimWrite val s
  | .registerWrite off val prv => Sys2Proof.Machine.execRegisterWrite off val prv s
  | .mbSetDevid => Sys2Proof.Machine.execMbSetDevid s
  | .mbCreatePartition => Sys2Proof.Machine.execMbCreatePartition s
  | .mbDestroyPartition => Sys2Proof.Machine.execMbDestroyPartition s
  | .mbWriteFirmware => Sys2Proof.Machine.execMbWriteFirmware s
  | .mbRestart => Sys2Proof.Machine.execMbRestart s
  | .spdmGetMeasurements => Sys2Proof.Machine.execSpdmGetMeasurements s
  | .spdmRequest => Sys2Proof.Machine.execSpdmRequest s
  | .keyBind => Sys2Proof.Machine.execKeyBind s
  | .keyUnbind => Sys2Proof.Machine.execKeyUnbind s
  | .keyQuery => Sys2Proof.Machine.execKeyQuery s
  | .powerOn => Sys2Proof.Machine.execPowerOn s
  | .startStageDone failed => Sys2Proof.Machine.execStartStageDone failed s
  | .stageTimeout => Sys2Proof.Machine.execStageTimeout s
  | .startRetry => Sys2Proof.Machine.execStartRetry s
  | .memoryReadError part pa retryOk => Sys2Proof.Machine.execMemoryReadError part pa retryOk s
  | .accEccError core retryOk => Sys2Proof.Machine.execAccEccError core retryOk s
  | .islandFreqChange island mhz => Sys2Proof.Machine.execIslandFreqChange island mhz s
  | .powerWindow mw => Sys2Proof.Machine.execPowerWindow mw s
  | .overTemperature sensor deg => Sys2Proof.Machine.execOverTemperature sensor deg s
  | .thermalRestart => Sys2Proof.Machine.execThermalRestart s
  | .islandStallEnd island => Sys2Proof.Machine.execIslandStallEnd island s

end Sys2Proof.Machine
end

