-- ==== Sys2Proof/Machine/Own.lean ====
section
/-!
DEFINITION. The steps the device takes by itself, in the model's default order (log 2): each is the meaning of a step of the opcode
table, offered where its trigger may hold; one that changes nothing is not taken.
-/
namespace Sys2Proof.Machine
open Sys2Proof

/-- The meaning of a step of the device. -/
abbrev Act := State → Res

/-- A list where a condition holds. -/
def onlyIf (b : Bool) (l : List α) : List α := if b then l else []

/-! ### Packets -/

/-- A packet whose turn has come. -/
def State.packetActs (s : State) (p : Packet) : List Act :=
  onlyIf (p.dst.fencedBy s) [execFencedPacket p.id] ++
  match p.dst, p.body with
  | .dev _, _ => [execMeshPacketArrive p.id]
  | .iod, .accReply _ _ _ => [execHostLineAck p.id]
  | _, .access _ | _, .withdraw _ _ _ => [execHomeAccess p.id]
  | _, .accReply _ _ _ => [execLoadReply p.id, execAtomicReply p.id]
  | _, .tokenReply _ _ _ | _, .migrateAns _ _ => [execLoadReply p.id]
  | _, .agg _ _ | _, .fabAgg _ _ _ => [execAggPacketApply p.id]
  | _, .aggReply _ _ _ => [execAggReply p.id]
  | _, .token _ | _, .tokenWithdraw _ _ => [execQueueTokenArrive p.id]
  | _, .call _ => [execCallArrive p.id]
  | _, .callReply _ _ _ => [execCallReply p.id]
  | _, .amsg _ => [execAmsgTriggerArrive p.id]
  | _, .migrate _ => [execMigrationArrive p.id]
  | _, .probe _ _ | _, .noEntry => [execStealProbeAnswer p.id]
  | _, .stealCopy _ _ => [execStealCopyDone p.id]
  | _, _ => []
def State.netActs (s : State) : List Act :=
  (s.net.flatMap fun p => [execMeshPacketArrive p.id]) ++
  s.arrived.flatMap s.packetActs ++ (s.arrived.flatMap s.linesWanted).map (fun e => execHbmFill e.1 e.2) ++
  (match s.fabIn.find? s.fabReady with | some p => [execFabricPacketArrive p] | none => [])

/-! ### Cores -/

/-- A strand whose hold may be over. -/
def State.slotActs (s : State) (c k : Nat) : List Act :=
  match (s.slotOf c k).st with
  | .waiting (.yield _ _) => [execYieldEnd c k]
  | .waiting (.extended t) => onlyIf (decide (t ≤ s.cycle c)) [execDelayedCompletion c k]
  | .parked h =>
    (match h with
    | .spill _ => [execDequeSpillDone c k]
    | .syncWait _ => [execSyncWaitExpire c k]
    | .syncBusy _ _ => [execSyncBusyRetry c k]
    | .qenqRetry _ _ _ => [execQueueWaitExpire c k, execQenqRetry c k]
    | .qenq _ _ | .qdeq _ _ => [execQueueWaitExpire c k]
    | .gtime _ => [execWaittRelease c k]
    | _ => [])
  | _ => []
def State.coreActs (s : State) (c : Nat) (x : Core) : List Act :=
  onlyIf (decide (x.ptsDue ≤ s.cycle c)) [execPtsTick c] ++
  (x.reqs.filterMap fun r => match r.due with | some (t, _) => if t ≤ s.cycle c then some (execLoadReply r.id) else none | none => none) ++
  ((List.range 16).filter (s.ageDue c)).map (execAggAgeSend c) ++
  onlyIf (x.sendingBuf.isSome || x.slots.toList.any fun y => y.st == .parked .send) [execAggSendResume c] ++
  (List.range 16).flatMap (s.slotActs c) ++
  onlyIf (!x.inbox.isEmpty || !x.calls.isEmpty || !x.claims.isEmpty) [execSlotOffer c] ++
  onlyIf (!x.rotOut.isEmpty || !x.meQueue.isEmpty) [execRotateCopy c] ++
  onlyIf (!x.handOn.isEmpty) [execTileHandOn c] ++
  onlyIf (!x.tileIn.isEmpty || !x.meQueue.isEmpty) [execLatchTileArrive c] ++
  onlyIf (!x.meQueue.isEmpty || !x.meLate.isEmpty) [execMeCommandStart c, execMmaTile c, execMeCommandDone c] ++
  (x.giving.map fun g => execStealProbeAnswer g.id) ++
  (List.range x.teQueue.length).map (execTeCommandDone c) ++
  (match x.steal.pause with
    | some t => onlyIf (decide (t ≤ s.cycle c)) [execStealPauseEnd c]
    | none => onlyIf (x.steal.slot.isNone && (s.stealJob c).isSome) [execStealProbe c])

/-! ### Clusters, slices, partitions, the device -/

def State.clusterActs (s : State) (cl : Nat) (x : Cluster) : List Act :=
  onlyIf (!x.walks.isEmpty) [execPageWalkDone cl] ++ onlyIf (s.gangReady cl).isSome [execGangStart cl]
def State.sliceActs (s : State) (n : Nat) (x : Slice) : List Act :=
  (match x.fills with | f :: _ => (match f.1.loc with | .hbm p o => [execHbmFill p (lineOf o)] | _ => []) | [] => []) ++
  onlyIf (decide (x.hotDue ≤ s.gtime.toNat)) [execHotWindow n] ++
  ((x.run.bind s.rvWaits).toList.map fun e => execHbmFill e.1 e.2) ++
  (if x.run.isSome || !x.ready.isEmpty then [execHandlerRun n]
   else match x.queue with | .trig _ :: _ => [execHandlerRun n] | .bind _ _ _ _ :: _ => [execBindEntry n] | [] => [])
def State.partActs (s : State) (n : Nat) (x : Partition) : List Act :=
  let mine := s.jobs.filter fun e => e.2.part == n
  (x.replicas.filterMap fun r => match r.asked with | (k, _) :: _ => some (execReplicaInvalAck n r.region k) | [] => none) ++
  onlyIf (x.pm.st == 1) [execPageCopyDone n] ++
  onlyIf (x.swSt == 1) [execSwitchStop n] ++ onlyIf (x.swSt == 2) [execSwitchSaveDone n] ++ onlyIf (x.swSt == 4 || !x.injected.isEmpty) [execSwitchResume n] ++
  (mine.filter fun e => s.jobDone e.1 || e.2.adding.isSome).map (fun e => execJobComplete n e.1) ++
  (mine.filter fun e => s.agingDue e.1).map (fun e => execJobAging n e.1) ++
  ((List.range 64).filter fun q => (vget x.squeues q {}).en && (vget x.squeues q {}).next != (vget x.squeues q {}).tail).map (execJobEntryRead n) ++
  onlyIf (decide (x.edgeDue ≤ s.gtime.toNat) && mine.any fun e => e.2.st == 1) [execEdgeTest n] ++
  onlyIf (!(s.readyJobs n).isEmpty) [execJobPlace n]
def State.deviceActs (s : State) : List Act :=
  onlyIf s.mailbox.busy [execMbSetDevid, execMbCreatePartition, execMbDestroyPartition, execMbWriteFirmware, execMbRestart] ++
  onlyIf s.boot.began.isSome [execStageTimeout] ++ onlyIf s.boot.again.isSome [execStartRetry] ++
  onlyIf s.power.stopped [execThermalRestart] ++
  ((List.range 20).filter fun i => (vget s.islands i {}).stall.isSome).map execIslandStallEnd
/-- Every step that may be taken now, the first of them first. -/
def State.acts (s : State) : List Act :=
  s.netActs ++ s.cores.flatMap (fun e => s.coreActs e.1 e.2) ++ s.clusters.flatMap (fun e => s.clusterActs e.1 e.2) ++
  s.slices.flatMap (fun e => s.sliceActs e.1 e.2) ++ s.parts.flatMap (fun e => s.partActs e.1 e.2) ++ s.deviceActs
/-- The outcome of the first that changes something. -/
def firstChange (s : State) : List Act → Option Res
  | [] => none
  | f :: r => match f s with
    | .next t => if t = s then firstChange s r else some (.next t)
    | x => some x
/-- R284: the strands that have missed their heartbeat. -/
def State.missed (s : State) : List Act :=
  s.cores.flatMap fun e => ((List.range 16).filter (s.heartMissed e.1)).map (execHeartbeatMiss e.1)

end Sys2Proof.Machine
end

