-- ==== Sys2Proof/Machine/Issue.lean ====
section
/-!
DEFINITION. Which step comes next: an entry of the agenda, a step of the device's own, a bundle, or the passing of a cycle; and
how a bundle is fetched, checked, held, executed and completed (00_scope.md R5 to R7; 03_encoding.md R50 to R56, R63 to R71; 05 R104;
06 R133 to R139; 07 R165, R184; 10 R240, R241; 11 R275).
-/
namespace Sys2Proof.Machine
open Sys2Proof

/-! ### Fetch (R50 to R52, R74, R332, R414) -/

def State.fetchWord (s : State) (va : W64) : Fetched :=
  match s.lookup .fetch va with
  | .ok l a => s.fetchAt l a va.toNat
  | .fault c => .fault c
  | .miss => .miss

/-- What the stages before execution come to (R56): a bundle, a trap, or a page walk. -/
inductive Front where
  | go (c : Instr) (a : Option Instr) (s : State)
  | trap (cause : Nat) (value : W64) (s : State)
  | miss (s : State)

/-- R322: the CSM bank that holds the words at an address serves their fetch. -/
def State.fetchBank (s : State) (va : W64) : State :=
  match s.lookup .fetch va with | .ok l _ => s.bankAt l 4 | _ => s
/-- R50 to R52: the words of the bundle at the strand's pc, put into `cur`. -/
def State.words (s : State) : Except Front State :=
  let pc := s.cur.pc
  if pc.toNat % 4 ≠ 0 then .error (.trap 0x09 pc s)
  else match s.fetchWord pc with
    | .fault c => .error (.trap c pc s)
    | .miss => .error (.miss s)
    | .word w t =>
      let t := { t.fetchBank pc with cur := { t.cur with cword := w, len := 4 } }
      if lone w then .ok t
      else if pc.toNat % 8 ≠ 0 then .error (.trap 0x09 pc t)
      else match t.fetchWord (pc + 4) with
        | .fault c => .error (.trap c pc t)
        | .miss => .error (.miss t)
        | .word v u => .ok { u with cur := { u.cur with aword := v, len := 8 } }

/-! ### The decode stage (R55, R71, R138) -/

def noZero [DecidableEq α] [OfNat α 0] (l : List α) : List α := l.filter (· ≠ 0)
def meetsList [DecidableEq α] (l r : List α) : Bool := l.any fun x => r.contains x
/-- R55: both words name a destination. -/
def sharesDest (c a : Uses) : Bool :=
  meetsList (noZero c.dst) a.dst || meetsList (noZero c.pdst) a.pdst || meetsList (noZero c.mdst) a.mdst ||
  meetsList c.vwrites a.vwrites || meetsList c.loops a.loops
/-- R137, R139: the bundle is a repetition. -/
def Strand.repeating (x : Strand) : Bool := x.repc != 0 && !x.checksOff
/-- R138: a C word that may not be repeated: majors 0x01 to 0x08 and 0x1F, and `XRET`. -/
def unrepeatable (i : Instr) (w : W32) : Bool :=
  let m := (majorC w).toNat
  (decide (1 ≤ m) && decide (m ≤ 8)) || m == 0x1F || (match i with | .xret _ => true | _ => false)
/-- R56, R71, R85: the decode stage; of the C word first. -/
noncomputable def State.decodeStage (s : State) : Front :=
  let cw := s.cur.cword.setWidth 64
  let aw := s.cur.aword.setWidth 64
  match decodeC s.cur.cword with
  | .error _ => .trap 0x01 cw s
  | .ok c =>
    if Instr.privileged c && !s.cur.pre.priv then .trap 0x03 cw s
    else if s.cur.pre.repeating && unrepeatable c s.cur.cword then .trap 0x01 cw s
    else if s.cur.len = 4 then .go c none s
    else match decodeA s.cur.aword with
      | .error _ => .trap 0x01 aw s
      | .ok a => if sharesDest (Instr.uses c) (Instr.uses a) then .trap 0x01 aw s else .go c (some a) s
/-- The bundle of a slot as it stands before it issues. -/
def State.atSlot (s : State) (c k : Nat) : State :=
  let x := s.slotOf c k
  { s with cur := { core := c, slot := k, pc := x.strand.pc, pre := x.strand, qi := (((s.core c).chain.head?).map fun e => e.w).getD 0, tok := s.token } }
noncomputable def State.front (s : State) : Front :=
  match s.words with
  | .error f => f
  | .ok t => t.decodeStage

/-! ### The operand stage, and what holds a bundle before it issues -/

def State.asA (s : State) : State := { s with cur := { s.cur with isA := true } }
/-- R56, R64: the operand stage of both words; `g30` is a source at most once. -/
def State.operandStage (s : State) (c : Instr) (a : Option Instr) : Option (Nat × W64) :=
  match operandFault c s, a with
  | some f, _ => some f
  | none, none => none
  | none, some i =>
    if (Instr.uses c).src.contains 30 && (Instr.uses i).src.contains 30 then some (0x02, 0) else operandFault i s.asA

/-- R65: registers the bundle names, but for those that are always full or are queues. -/
def Uses.named (u : Uses) : List GR := (u.src ++ u.dst).filter fun r => r != 0 && r != 29 && r != 30
/-- R191: words that put a command into the matrix engine's queue. -/
def Instr.meCommand : Instr → Bool
  | .mset _ _ _ | .mzero _ _ _ | .mlda _ _ _ _ _ | .msta _ _ _ _ _ _ _ | .mseed _ _ | .mring _ _ _ | .mma _ _ _ _ _ _ _ _
  | .mmaBf16 _ _ _ _ _ => true
  | _ => false
/-- R191, R202: a word that needs an entry of the queue: a command, but not one that an unreported engine fault turns away at issue; and an
`MWAIT` that has not yet passed the engine, where there is anything to wait for. -/
def Instr.entersMe (s : State) (i : Instr) : Bool :=
  let x := s.slotOf s.cur.core s.cur.slot
  let c := s.core s.cur.core
  match i with
  | .mwait _ => !x.meWaited && !x.again && !(c.meQueue.isEmpty && !c.meLate.any fun q => q.sid == s.cur.pre.sid)
  | i => Instr.meCommand i && !(s.strand.meFault && !s.cur.pre.priv)
/-- R203: words that put a command into the transfer engine's queue. -/
def Instr.teCommand : Instr → Bool
  | .tcopy _ _ _ _ _ | .tcopy2d _ _ _ _ _ | .tgather _ _ _ _ _ | .tscatter _ _ _ _ _ | .tfill _ _ _ _ _ => true
  | _ => false
/-- R104, R165: cycles from issue to the next issue, where they are more than 8. -/
def Instr.extended : Instr → Nat
  | .div t _ _ _ _ | .divu t _ _ _ _ | .rem t _ _ _ _ | .remu t _ _ _ _ => if t = .i64 then 24 else 16
  | .fdiv _ _ _ _ _ | .fsqrt _ _ _ _ | .vfdiv _ _ _ _ _ | .vfsqrt _ _ _ _ | .vfrcp _ _ _ _ | .vfrsqrt _ _ _ _ | .vfexp2 _ _ _ _
  | .vflog2 _ _ _ _ | .vfred _ _ _ _ | .vfrmin _ _ _ _ | .vfrmax _ _ _ _ | .vqmx _ _ _ _ _ _ => 16
  | .vmul t _ _ _ _ | .vmulh t _ _ _ _ => if t = .i64 then 16 else 0
  | _ => 0
def extendedTime (c : Instr) (a : Option Instr) : Nat := max (Instr.extended c) (match a with | some i => Instr.extended i | none => 0)
/-- The words of the bundle whose guard is true. -/
def State.live (s : State) (c : Instr) (a : Option Instr) : List Instr :=
  (c :: a.toList).filter fun i => Instr.guard s i
/-- R275: entries of a core's queues promised to other slots. -/
def State.promised (s : State) (c k : Nat) (me : Bool) : Nat :=
  ((List.range 16).filter fun j => j != k && (if me then (s.slotOf c j).meGrant else (s.slotOf c j).teGrant)).length
def meDepth : Nat := 2
def teDepth : Nat := 16
def chainDepth : Nat := 8
/-- R275: an entry of a core's matrix or transfer queue that a slot may take. -/
def State.meFree (s : State) (c k : Nat) : Bool := decide ((s.core c).meQueue.length + s.promised c k true < meDepth)
def State.teFree (s : State) (c k : Nat) : Bool := decide ((s.core c).teQueue.length + s.promised c k false < teDepth)
/-- R275: a bundle that needs an entry of the matrix or transfer engine's queue, which it has not been granted. -/
def State.needsMe (s : State) (l : List Instr) : Bool := l.any (Instr.entersMe s) && !(s.slotOf s.cur.core s.cur.slot).meGrant
def State.needsTe (s : State) (l : List Instr) : Bool := l.any Instr.teCommand && !(s.slotOf s.cur.core s.cur.slot).teGrant
/-- R64, R65, R184, R191, R203, R253: what holds the bundle; none where it can issue. -/
def State.holds (s : State) (c : Instr) (a : Option Instr) : Option Hold :=
  let x := s.cur.pre
  let core := s.cur.core
  let all := c :: a.toList
  let l := s.live c a
  let slot := s.slotOf core s.cur.slot
  if all.any (fun i => (Instr.uses i).named.any (fun r => !(rget x.g r).full) || (Instr.uses i).vregs.any (fun v => x.vpend.getLsbD v.toNat)) then some .regs
  else if l.any (fun i => (Instr.uses i).src.contains 30) && (match (s.core core).chain with | [] => true | e :: _ => e.wait.isSome) then some .chainIn
  else if l.any (fun i => (Instr.uses i).dst.contains 29) &&
      (match s.downstream core x with | some n => decide ((s.core n).chain.length ≥ chainDepth) && slot.place.isNone | none => false) then some .chainOut
  else
    match s.needsMe l && !s.meFree core s.cur.slot, s.needsTe l && !s.teFree core s.cur.slot with
    | true, true => some .queues
    | true, false => some .meQueue
    | false, true => some .teQueue
    | false, false => none

/-! ### Completion (R133 to R139, R245, R224) -/

def State.modSlot (s : State) (f : Slot → Slot) : State := s.setSlot s.cur.core s.cur.slot (f (s.slotOf s.cur.core s.cur.slot))
/-- What a bundle that held leaves with its slot is gone. -/
def Slot.fresh (x : Slot) : Slot :=
  { x with again := false, named := false, walkFault := none, noMig := false, delayDone := false, meGrant := false, teGrant := false, meWaited := false,
           early := none, place := none, reads := [], spawning := false }
/-- R136: a loop whose body ends at an address: its next count, and where it goes on. -/
def HwLoop.close (l : HwLoop) (next : W64) : Option (HwLoop × Bool) :=
  if l.cnt ≠ 0 ∧ l.fin.setWidth 64 = next then some ({ l with cnt := l.cnt - 1 }, l.cnt - 1 != 0) else none
/-- R136: loop 0. -/
def Strand.closeOuter (x : Strand) (next : W64) : Strand :=
  match x.loop0.close next with
  | some (l, true) => { x with loop0 := l, pc := l.beg.setWidth 64 }
  | some (l, false) => { x with loop0 := l, pc := next }
  | none => { x with pc := next }
/-- R136: the strand falls through to an address: loop 1, then loop 0. -/
def Strand.closeLoops (x : Strand) (next : W64) : Strand :=
  match x.loop1.close next with
  | some (l, true) => { x with loop1 := l, pc := l.beg.setWidth 64 }
  | some (l, false) => { x with loop1 := l }.closeOuter next
  | none => x.closeOuter next
/-- R136, R137, R139: the strand after a bundle at `pc` that completes without a taken transfer; `pre` is the strand before it. -/
def Strand.fallTo (x pre : Strand) (pc next : W64) : Strand :=
  if pre.checksOff then { x with pc := next }
  else if pre.repc ≠ 0 then
    if x.repc - 1 = 0 ∨ x.repc = 0 then { x with repc := 0 }.closeLoops next else { x with repc := x.repc - 1, pc := pc }
  else x.closeLoops next
/-- R64: the word that the bundle read from `g30` leaves the queue. R253 has a read take the oldest word and does not say when a bundle that is
held after its issue takes it: the model has it read and taken when the bundle completes, so that a bundle that another strand issues
meanwhile takes the older word (DESIGN CHOICE, log 27). -/
def State.popChain (s : State) (l : List Instr) : State :=
  if l.any fun i => (Instr.uses i).src.contains 30 then
    let t := s.setCore s.cur.core { s.core s.cur.core with chain := (s.core s.cur.core).chain.drop 1 }
    t.modSlot fun x => { x with inflight := x.inflight.map fun f => { f with popped := (s.core s.cur.core).chain.head? } }
  else s
/-- The bundle completes, and goes on at an address. -/
def State.fallThrough (s : State) (next : W64) : State :=
  s.modStrand fun x => x.fallTo s.cur.pre s.cur.pc next
/-- R56, R220: the value that a bundle's write of a shared register replaced is back, unless the register has been written again. -/
def Core.unpost (c : Core) (at_ : Nat) (n : BV4) (old : W64) : Core :=
  if c.shPend.any fun e => e.2.1 == n then { c with shPend := c.shPend.filter fun e => !(e.1 == at_ && e.2.1 == n) }
  else { c with sh := vset c.sh n.toNat old }
/-- R56: the bundle traps: what it held is given back, and a shared register that its C word wrote at its issue has its old value (log 52). -/
def State.bundleTraps (s : State) : State :=
  let t := match (s.slotOf s.cur.core s.cur.slot).early with
    | some (.shwr n old) => s.setCore s.cur.core ((s.core s.cur.core).unpost (s.issueCycle + 8) n old)
    | _ => s
  ((t.dropPlace t.cur.core t.cur.slot).semReturn s.cur.core s.cur.slot).modSlot Slot.fresh
/-- R253: a bundle that has issued, and whose words push a chain word only later, holds its place in the queue. -/
def State.reservePlace (s : State) (l : List Instr) : State :=
  match s.downstream s.cur.core s.cur.pre with
  | some n =>
    if (l.any fun i => (Instr.uses i).dst.contains 29) && (s.slotOf s.cur.core s.cur.slot).place.isNone then
      let (id, t) := s.fresh
      (t.setCore n { t.core n with chain := (t.core n).chain ++ [{ w := 0, gid := s.cur.pre.gid.getD 0, wait := some id }] }).modSlot fun y =>
        { y with place := some (n, id) }
    else s
  | none => s
/-- R253: the word that the bundle has pushed takes the place that it held. -/
def State.intoPlace (s : State) : State :=
  match (s.slotOf s.cur.core s.cur.slot).place with
  | some (n, id) =>
    let l := (s.core n).chain
    s.setCore n { s.core n with chain := l.dropLast.map fun e => if e.wait = some id then l.getLast?.getD e else e }
  | none => s
/-- R238: the instructions whose strand is saved with `XPC` naming the bundle that holds it. -/
def Instr.savesXpc : Instr → Bool
  | .tend .. | .sync .. | .twait .. | .mwait .. | .agw .. => true
  | .stb _ _ _ sc _ | .sth _ _ _ sc _ | .stw _ _ _ sc _ | .std _ _ _ sc _ | .vst _ _ _ sc _ => sc ≠ .core
  | .stef _ _ _ sc _ | .stsf _ _ _ sc _ => sc ≠ .core
  | _ => false
/-- R238, R287: a store of the bundle that is a release because it names a register of the control and doorbell region. -/
def State.storesRegister (s : State) (i : Instr) : Bool :=
  let names (va : W64) : Bool := match s.lookup .store va with | .ok l _ => effScope l .core == .sy | _ => false
  match i with
  | .std _ b _ _ off => names (s.cmAddr b off 8)
  | .stdX _ b c _ m _ => names (s.xAddr m b c 8)
  | _ => false
/-- R238, R240: the bundle is held after it has issued, and is issued again in full; a strand that departs goes as it is. -/
def State.bundleHeld (s : State) (l : List Instr) : State :=
  let x := s.slotOf s.cur.core s.cur.slot
  let t := if x.st = .parked .depart then s.dropPlace s.cur.core s.cur.slot else s.setStrand (s.cur.pre.restore s.strand)
  match x.st with
  | .waiting (.semp _) => t
  | .parked .depart => t.modSlot fun y => { y with again := true, place := none }
  | _ =>
    (t.modSlot fun y =>
      { y with again := true, named := l.any (fun i => Instr.savesXpc i || s.storesRegister i), delayDone := y.delayDone && !y.stopped }).reservePlace l
/-- What a bundle's flow comes to; `l` are its words whose guard is true. -/
def State.finish (s : State) (l : List Instr) : State :=
  match s.cur.flow with
  | .trapped => s.bundleTraps
  | .held => s.bundleHeld l
  | f =>
    let t := (s.intoPlace.popChain l).modSlot Slot.fresh
    match f with
    | .taken a => t.modStrand fun x => { x with pc := a }
    | .fall a => t.fallThrough a
    | .depart target live =>
      let u := t.fallThrough t.nextPc
      u.sendStrand u.cur.core u.cur.slot target u.strand.pc live
    | .endStrand => t.endStrand t.cur.core t.cur.slot
    | _ => t.fallThrough t.nextPc

/-! ### Execution (R54, R56) -/

def mapNext (f : State → State) : Res → Res
  | .next t => .next (f t)
  | .fault e => .fault e
  | .refused e => .refused e

/-- R105: a C word that may write `FCSR`. -/
def Instr.writesFcsr : Instr → Bool | .crwr _ _ _ | .crswp _ _ _ _ => true | _ => false
/-- R42, R56: the trap `u` of an A word, as of a bundle that began as `s`: the C word has had no effect, but a generator keeps its advance
for the elements that either word has rounded; one that the C word wrote is as it was, advanced by the A word. -/
def State.trapOfA (s u : State) (c i : Instr) : State :=
  let seed := if Instr.writesFcsr c then (match exec i s.asA with | .next v => v.strand.fcsr.seed | _ => s.strand.fcsr.seed) else u.strand.fcsr.seed
  (s.setSeed seed).asA.trap u.strand.x.cause.toNat u.strand.x.value
/-- R220, R221, R225, R284: what a C word does at its issue stays where the A word of its bundle waits after it: `s` is the state at issue,
`t` that after the C word, `v` that in which the A word waits (log 52). -/
def State.keepEarly (v s t : State) (c : Instr) : State :=
  let k := v.cur.core
  let done (v : State) (e : Early) : State := v.modSlot fun y => { y with early := some e }
  if !Instr.guard s c || (s.slotOf k s.cur.slot).early.isSome then v
  else match c with
  | .shwr _ n _ => done (v.setCore k { v.core k with sh := (t.core k).sh, shPend := (t.core k).shPend }) (.shwr n ((s.core k).shared n (s.issueCycle + 7)))
  | .semp n _ => (v.setCore k { v.core k with sem := (t.core k).sem }).modSlot fun y => { y with sempGrant := some n }
  | .hbeat _ => done (v.modStrand fun x => { x with hbc := t.strand.hbc, hbNew := t.strand.hbNew }) .other
  | .yield _ => done (v.modSlot fun y => { y with st := match (t.slotOf k t.cur.slot).st with | .waiting h => .waiting h | _ => y.st }) .other
  | _ => v
/-- R54, R56: an operand limit that a register value of the A word breaks; else the C word, then the A word; where the A word traps or is
held, the C word has had no effect. -/
def State.runWords (s : State) (c : Instr) (a : Option Instr) : Res :=
  if a.any fun i => Instr.guard s i && Instr.valueBad s i then .next (s.asA.trap 0x02 0)
  else match (if (s.slotOf s.cur.core s.cur.slot).early.isSome then .next s else exec c s), a with
  | .next t, some i =>
    if t.cur.flow = .trapped ∨ t.cur.flow = .held then .next t
    else match exec i t.asA with
      | .next u =>
        if u.cur.flow = .trapped then .next (s.trapOfA u c i)
        else if u.cur.flow = .held then mapNext (fun v => v.keepEarly s t c) (exec i s.asA)
        else .next u
      | r => r
  | r, _ => r
/-- R241: the bundle counts as issued in this cycle. -/
def State.markIssue (s : State) : State :=
  let x := s.slotOf s.cur.core s.cur.slot
  if x.again || x.delayDone then s
  else
    let t := s.setCore s.cur.core { s.core s.cur.core with rot := BitVec.ofNat 4 (s.cur.slot + 1) }
    t.modSlot fun y => { y with lastIssue := some (s.cycle s.cur.core) }
/-- R221: a `SEMP` that waits has not issued. -/
def State.unissued (t s : State) : State :=
  match (t.slotOf t.cur.core t.cur.slot).st with
  | .waiting (.semp _) =>
    (t.setCore t.cur.core { t.core t.cur.core with rot := (s.core t.cur.core).rot }).modSlot fun y =>
      { y with lastIssue := (s.slotOf s.cur.core s.cur.slot).lastIssue }
  | _ => t
/-- R56: what a bundle that waits for a reply has pushed and queued counts only once the reply has come; `t` is the state before it. -/
def State.holdBack (u t : State) : State :=
  let c := t.cur.core
  match (u.slotOf c t.cur.slot).inflight, u.cur.flow with
  | none, _ | _, .trapped | _, .held => u
  | some f, _ =>
    let new (old now : Nat) (w : Option Nat) : Option Nat := if old ≤ now ∧ w = none then some f.tag else w
    let u := match t.downstream c t.cur.pre with
      | some n => u.setCore n { u.core n with
          chain := (u.core n).chain.zipIdx.map fun (e : ChainWord × Nat) => { e.1 with wait := new (t.core n).chain.length e.2 e.1.wait } }
      | none => u
    u.setCore c { u.core c with
      meQueue := (u.core c).meQueue.zipIdx.map fun (e : MeCmd × Nat) => { e.1 with wait := new (t.core c).meQueue.length e.2 e.1.wait } }
/-- The semaphore that a bundle takes from. -/
def sempOf (l : List Instr) : Option BV4 := l.findSome? fun i => match i with | .semp n _ => some n | _ => none
/-- R220: a bundle with an extended time posts its write of a shared register at its issue, unless it will trap. -/
def State.postEarly (s : State) (c : Instr) (a : Option Instr) : State :=
  match c, s.runWords c a with
  | .shwr _ _ _, .next u =>
    if u.cur.flow = .trapped then s
    else s.setCore s.cur.core { s.core s.cur.core with sh := (u.core s.cur.core).sh, shPend := (u.core s.cur.core).shPend }
  | _, _ => s
/-- R104: the bundle issues and takes effect at the end of its time. -/
def State.delay (s : State) (n : Nat) : State := s.modSlot fun y => { y with st := .waiting (.extended (s.cycle s.cur.core + n)) }
/-- A bundle that has passed the decode stage. -/
def State.runBundle (s : State) (c : Instr) (a : Option Instr) : Res :=
  let x := s.slotOf s.cur.core s.cur.slot
  let n := if x.delayDone then 0 else extendedTime c a
  match s.operandStage c a with
  | some (cause, v) => if n ≠ 0 then .next (s.markIssue.delay n) else .next ((s.markIssue.trap cause v).finish [])
  | none =>
    match s.holds c a with
    | some h => .next (s.modSlot fun y => { y with st := .waiting h })
    | none =>
      let t := s.markIssue
      let l := t.live c a
      if n = 0 then mapNext (fun u => ((u.holdBack t).finish l).unissued s) (t.runWords c a)
      else match sempOf l with
        | none => .next (((t.postEarly c a).reservePlace l).delay n)
        | some k =>
          let co := t.core t.cur.core
          if x.sempGrant = some k then .next ((t.reservePlace l).delay n)
          else if co.sema k = 0 then mapNext (fun u => (u.finish l).unissued s) (exec c t)
          else .next ((((t.setCore t.cur.core (co.setSema k (co.sema k - 1))).modSlot fun y => { y with sempGrant := some k }).reservePlace l).delay n)
/-- R104, R277: a trap of the decode stage is taken at the end of the time that one of the bundle's words asks for. -/
noncomputable def State.trapTime (s : State) (cause : Nat) : Nat :=
  let c := match decodeC s.cur.cword with | .ok i => Instr.extended i | .error _ => 0
  let a := if s.cur.len = 4 then 0 else match decodeA s.cur.aword with | .ok i => Instr.extended i | .error _ => 0
  if cause = 0x01 ∨ cause = 0x03 then max c a else 0
/-- The bundle at a slot's pc: it issues, traps or is held. -/
noncomputable def State.issue (s : State) (c k : Nat) : Res :=
  match (s.atSlot c k).front with
  | .go i a t => t.runBundle i a
  | .trap cause v t =>
    let n := if (s.slotOf c k).delayDone then 0 else t.trapTime cause
    .next (if n = 0 then (t.markIssue.trap cause v).finish [] else t.markIssue.delay n)
  | .miss t => .next (t.missTlb t.cur.pc)

/-! ### The issue port (R240, R241, R275) -/

/-- R289, R285, R424, R425: a core that issues nothing. -/
def State.coreHalted (s : State) (c : Nat) : Bool :=
  (s.core c).fenced || s.islandOff (islandOf (clusterOf c))
/-- A bundle that has issued, and whose hold or extended time is over. -/
def Slot.resumes (x : Slot) : Bool := x.st == .ready && ((x.again && !x.stopped) || x.delayDone)
/-- R241: a slot that may issue in this cycle. -/
def Slot.eligible (x : Slot) (now : Nat) : Bool :=
  x.st == .ready && !x.stopped && (match x.lastIssue with | some t => decide (t + 8 ≤ now) | none => true)
/-- Slots in the order of the rotation pointer. -/
def Core.order (c : Core) : List Nat := (List.range 16).map fun i => (c.rot.toNat + i) % 16
/-- R241: one bundle issues in a cycle. -/
def Core.issued (c : Core) (now : Nat) : Bool := c.slots.toList.any fun x => x.lastIssue == some now
/-- R275: a slot is the first, from a pointer on, whose hold is one of some, and which is not stopped. -/
def waitsFirst (c : Core) (from_ : BV4) (f : Hold → Bool) (k : Nat) : Bool :=
  ((List.range 16).map fun i => (from_.toNat + i) % 16).find? (fun j =>
    let x := vget c.slots j {}
    !x.stopped && (match x.st with | .waiting h => f h | _ => false)) == some k
def pairWith (c : Nat) (k : Option Nat) : Option (Nat × Nat) := k.map fun n => (c, n)
def State.nextResume (s : State) : Option (Nat × Nat) :=
  s.cores.findSome? fun e => if s.coreHalted e.1 then none else pairWith e.1 (e.2.order.find? fun k => (vget e.2.slots k {}).resumes)
def State.nextIssue (s : State) : Option (Nat × Nat) :=
  s.cores.findSome? fun e =>
    let now := s.cycle e.1
    if s.coreHalted e.1 || e.2.issued now then none
    else pairWith e.1 (e.2.order.find? fun k => (vget e.2.slots k {}).eligible now)
/-- The bundle of a slot could issue, as far as its registers and queues go. -/
noncomputable def State.ready (s : State) (c k : Nat) : Bool :=
  match (s.atSlot c k).front with
  | .go i a t => (t.holds i a).isNone
  | _ => true
/-- R275: the bundle of a slot needs an entry of a queue. -/
noncomputable def State.bundleNeeds (s : State) (c k : Nat) (f : State → List Instr → Bool) : Bool :=
  match (s.atSlot c k).front with
  | .go i a t => f t (t.live i a)
  | _ => false
/-- R275: the strand to which a freed entry of a queue goes: the first that waits for one at or after the queue's rotation pointer (DEDUCED, log
52). -/
def State.meTurn (s : State) (c k : Nat) : Bool :=
  waitsFirst (s.core c) (s.core c).meRot (fun h => h == .meQueue || h == .queues) k
def State.teTurn (s : State) (c k : Nat) : Bool :=
  waitsFirst (s.core c) (s.core c).teRot (fun h => h == .teQueue || h == .queues) k
/-- R275: the entry is promised to the strand, and the pointer moves past it. -/
def State.grantMe (s : State) (c k : Nat) (st : SlotState) : State :=
  (s.setCore c { s.core c with meRot := BitVec.ofNat 4 (k + 1) }).setSlot c k { s.slotOf c k with st, meGrant := true }
def State.grantTe (s : State) (c k : Nat) (st : SlotState) : State :=
  (s.setCore c { s.core c with teRot := BitVec.ofNat 4 (k + 1) }).setSlot c k { s.slotOf c k with st, teGrant := true }
/-- A hold without a step of its own is over (R64, R65, R159, R245, R275, R328). -/
noncomputable def State.released (s : State) (c k : Nat) : Option State :=
  let x := s.slotOf c k
  let wake : State := s.setSlot c k { x with st := .ready }
  if x.stopped then none
  else match x.st with
    | .waiting .regs | .waiting .chainIn | .waiting .chainOut => if s.ready c k then some wake else none
    | .waiting .meQueue =>
      if s.meFree c k && s.meTurn c k then some (s.grantMe c k .ready)
      else if !s.teFree c k && s.bundleNeeds c k State.needsTe then some (s.setSlot c k { x with st := .waiting .queues }) else none
    | .waiting .teQueue =>
      if s.teFree c k && s.teTurn c k then some (s.grantTe c k .ready)
      else if !s.meFree c k && s.bundleNeeds c k State.needsMe then some (s.setSlot c k { x with st := .waiting .queues }) else none
    | .waiting .queues =>
      if s.meFree c k && s.meTurn c k then some (s.grantMe c k (.waiting .teQueue))
      else if s.teFree c k && s.teTurn c k then some (s.grantTe c k (.waiting .meQueue)) else none
    | .parked (.tlbFill t) | .parked (.homeBusy t) => if t ≤ s.cycle c then some wake else none
    | .parked (.tlb sc) => if s.drained c sc x.strand then some wake else none
    | .parked .removed => if (s.sweep c k).slotOf c k = x then none else some (s.sweep c k)
    | _ => none
/-- R240: a Ready slot whose bundle cannot issue is Waiting. -/
noncomputable def State.nowHeld (s : State) (c k : Nat) : Option State :=
  let x := s.slotOf c k
  if x.st != .ready || x.stopped || x.again || x.delayDone then none
  else match (s.atSlot c k).front with
    | .go i a t => if (t.operandStage i a).isSome then none else (t.holds i a).map fun h => s.setSlot c k { x with st := .waiting h }
    | _ => none
/-- R241: the next hold that is over. -/
noncomputable def State.nextRelease (s : State) : Option State :=
  s.cores.findSome? fun e =>
    if s.coreHalted e.1 then none
    else e.2.order.findSome? fun k => match s.released e.1 k with | some t => some t | none => s.nowHeld e.1 k

/-! ### The passing of a cycle (R5, R284, R424) -/

/-- R424: an island counts a cycle where its clock has one. -/
def Island.tick (x : Island) : Island :=
  if x.stall.isSome then x
  else if x.part + x.mhz ≥ 2400 then { x with part := x.part + x.mhz - 2400, cycles := x.cycles + 1 } else { x with part := x.part + x.mhz }
/-- R284, R75: a strand's heartbeat counter in a cycle of its island; an `AGAGE` written before counts from now on. -/
def Slot.beat (x : Slot) : Slot :=
  let x := if x.strand.agageOld.isSome then { x with strand := { x.strand with agageOld := none } } else x
  if !x.st.live || x.stopped || x.st == .parked .removed || x.strand.hbi == 0 then x
  else { x with strand := { x.strand with hbNew := false, hbc := if x.strand.hbNew || x.strand.hbc == 0 then x.strand.hbc else x.strand.hbc - 1 } }
def State.tick (s : State) : State :=
  let is := s.islands.mapIdx fun i x => if s.islandCold i then x else x.tick
  let moved (c : Nat) : Bool := (vget is (islandOf (clusterOf c)) {}).cycles != s.cycle c
  { s with
    time := s.time + 1, islands := is
    cores := s.cores.map fun e => if moved e.1 && !e.2.fenced then (e.1, { e.2 with slots := e.2.slots.map Slot.beat }) else e }

/-! ### The step (log 2) -/

/-- Holds that are over, then bundles, one for each core, then missed heartbeats, then the next cycle. -/
noncomputable def State.coreStep (s : State) : Res :=
  match s.nextRelease with
  | some t => .next t
  | none =>
    match s.nextResume with
    | some (c, k) => s.issue c k
    | none =>
      match s.nextIssue with
      | some (c, k) => s.issue c k
      | none => (if s.auto then firstChange s s.missed else none).getD (.next s.tick)
/-- One step: the head of the agenda once it is due, else a step of the device's own, else the cores. -/
noncomputable def stepOf (s : State) : Res :=
  match s.agenda with
  | e :: r => if e.due ≤ s.time then exec e.what { s with agenda := r } else (if s.auto then firstChange s s.acts else none).getD s.coreStep
  | [] => (if s.auto then firstChange s s.acts else none).getD s.coreStep

/-! ### An instruction placed where the next step fetches it (log 1) -/

/-- The generic address of the first byte of a core's own LM (R321). -/
def ownLmBase : W64 := 0x01D0000000000000
/-- The strand that runs a placed instruction: 32 vector registers, partition 0. -/
def placedStrand : Strand := { pc := ownLmBase, valloc := 32, priva := { core := 0, off := 0x1F000, size := 256 } }
/-- The bytes of an instruction at the start of the LM of core 0, and a strand in its slot 0 that is about to fetch them. -/
def placeWord (s : State) (nbits w : Nat) : State :=
  let c := s.core 0
  { s with
    agenda := []
    mem := memWriteN s.mem (Loc.lm 0 0).key (leBytes 8 (w % 2 ^ nbits))
    cores := tset s.cores 0 { c with rot := 0, slots := vset c.slots 0 { st := .ready, strand := placedStrand, vregs := 32 } }
    parts := tset s.parts 0 { s.partn 0 with exists_ := true, clusters := [0] } }

end Sys2Proof.Machine
end

