-- ==== Sys2Proof/Machine/Step.lean ====
section
/-!
DEFINITION. The step of the machine, and an instruction placed where the next step fetches it.
-/
namespace Sys2Proof.Machine

/-- One step of the device (Machine/Issue.lean). -/
noncomputable def step (s : State) : Host.Outcome State Fault Refusal := stepOf s

/-- `s` with an instruction placed so that the next step fetches and runs it (log 1). -/
def State.withFetchWord (s : State) (nbits w : Nat) : State := placeWord s nbits w

end Sys2Proof.Machine
end

