-- ==== Sys2Proof/Safety.lean ====
section
/-!
DEFINITION. What counts as a safe run, and the relations between states in which the statements are written.
-/
namespace Sys2Proof.Machine
open Sys2Proof

/-- A step that neither stops nor is refused. -/
def State.Goes (s : State) : Prop := ∃ t, step s = .next t

/-- R339, log 6: the state's memory is in its canonical form. -/
abbrev State.MemOk (s : State) : Prop := Memory.wf s.mem = true

/-- R7, R56, R101: the instruction passes the checks of the decode and operand stages, and its guard or mask selects it. -/
def runs (i : Instr) (s : State) : Bool := (operandFault i s).isNone && Instr.guard s i

/-- A strand whose registers, but for those `u` names as destinations, are those of `x`, and all of whose other state is that of `x`
but for `FCSR`. -/
def Strand.SameBut (u : Uses) (x y : Strand) : Prop :=
  (∀ r : GR, r ∉ u.dst → rget y.g r = rget x.g r) ∧ (∀ p : PR, p ∉ u.pdst → y.p.getLsbD p.toNat = x.p.getLsbD p.toNat) ∧
  (∀ m : MR, m ∉ u.mdst → mget y.m m = mget x.m m) ∧ (∀ v : VR, v ∉ u.vwrites → rget y.v v = rget x.v v) ∧
  { y with g := x.g, p := x.p, m := x.m, v := x.v, fcsr := x.fcsr } = x

/-- R70: a vector register whose active lanes hold `f` and whose other lanes are those of `x`. -/
def VReg.Lanes (x : VReg) (act : W32) (f : Nat → Lane) (y : VReg) : Prop :=
  ∀ i, i < 32 → y.get i = if act.getLsbD i then f i else x.get i

/-- R168, R169: a mask whose bits under `act` are `f` and whose others are those of `x`. -/
def MaskBits (x act : W32) (f : Nat → Bool) (y : W32) : Prop :=
  ∀ i, i < 32 → y.getLsbD i = if act.getLsbD i then f i else x.getLsbD i

/-- R74, R321: a generic address names `n` bytes of the LM of the core that issues, from the aligned offset `o`, none of which a
transfer-engine command in flight records (R205). -/
def State.OwnLm (s : State) (va : W64) (n o : Nat) : Prop :=
  va = ownLmBase + BitVec.ofNat 64 o ∧ o % n = 0 ∧ o + n ≤ Config.lmBytes ∧ s.teHolds s.cur.core (.lm s.cur.core o) n = false

/-- Two states that differ at most in the strand that issues and in what its bundle's flow is. -/
def State.OnlyStrand (s t : State) : Prop := ∃ x f, t = (s.setStrand x).flow f

/-- The byte of memory at a location. -/
def State.byteAt (s : State) (l : Loc) : Byte := memRead s.mem l.key

end Sys2Proof.Machine
end

