-- ==== Sys2Proof/Certificates/Slice0/Obligations.lean ====
section
/-!
DEFINITION. The statements for the provers.
-/
open Sys2Proof Sys2Proof.Machine

/-- 05 R106, 05 R107. For each of ADD to MULHU: an instruction that passes its checks and is selected writes to d the result R106
and R107 give at 64 bits, or at 32 bits extended with sign (.i32) or zeros (.z32): sums and products exact and reduced, shifts
by the low bits of b, MIN and MAX by value; nothing else changes. -/
def Obligations.IntegerAlu : Prop :=
  (∀ (d a b : GR) (pg : PR) (s : State), runs (.add .i64 d a b pg) s = true → exec (.add .i64 d a b pg) s = .next (s.setG d ((s.g a) + (s.g b)))) ∧
  (∀ (d a b : GR) (pg : PR) (s : State), runs (.sub .i64 d a b pg) s = true → exec (.sub .i64 d a b pg) s = .next (s.setG d ((s.g a) - (s.g b)))) ∧
  (∀ (d a b : GR) (pg : PR) (s : State), runs (.and .i64 d a b pg) s = true → exec (.and .i64 d a b pg) s = .next (s.setG d ((s.g a) &&& (s.g b)))) ∧
  (∀ (d a b : GR) (pg : PR) (s : State), runs (.or .i64 d a b pg) s = true → exec (.or .i64 d a b pg) s = .next (s.setG d ((s.g a) ||| (s.g b)))) ∧
  (∀ (d a b : GR) (pg : PR) (s : State), runs (.xor .i64 d a b pg) s = true → exec (.xor .i64 d a b pg) s = .next (s.setG d ((s.g a) ^^^ (s.g b)))) ∧
  (∀ (d a b : GR) (pg : PR) (s : State), runs (.andn .i64 d a b pg) s = true → exec (.andn .i64 d a b pg) s = .next (s.setG d ((s.g a) &&& ~~~(s.g b)))) ∧
  (∀ (d a b : GR) (pg : PR) (s : State), runs (.shl .i64 d a b pg) s = true → exec (.shl .i64 d a b pg) s = .next (s.setG d ((s.g a) <<< ((s.g b).toNat % 64)))) ∧
  (∀ (d a b : GR) (pg : PR) (s : State), runs (.shr .i64 d a b pg) s = true → exec (.shr .i64 d a b pg) s = .next (s.setG d ((s.g a) >>> ((s.g b).toNat % 64)))) ∧
  (∀ (d a b : GR) (pg : PR) (s : State), runs (.sra .i64 d a b pg) s = true → exec (.sra .i64 d a b pg) s = .next (s.setG d ((s.g a).sshiftRight ((s.g b).toNat % 64)))) ∧
  (∀ (d a b : GR) (pg : PR) (s : State), runs (.ror .i64 d a b pg) s = true → exec (.ror .i64 d a b pg) s = .next (s.setG d ((s.g a).rotateRight ((s.g b).toNat % 64)))) ∧
  (∀ (d a b : GR) (pg : PR) (s : State), runs (.min .i64 d a b pg) s = true → exec (.min .i64 d a b pg) s = .next (s.setG d ((if (s.g a).toInt < (s.g b).toInt then (s.g a) else (s.g b))))) ∧
  (∀ (d a b : GR) (pg : PR) (s : State), runs (.max .i64 d a b pg) s = true → exec (.max .i64 d a b pg) s = .next (s.setG d ((if (s.g a).toInt < (s.g b).toInt then (s.g b) else (s.g a))))) ∧
  (∀ (d a b : GR) (pg : PR) (s : State), runs (.minu .i64 d a b pg) s = true → exec (.minu .i64 d a b pg) s = .next (s.setG d ((if (s.g a).toNat < (s.g b).toNat then (s.g a) else (s.g b))))) ∧
  (∀ (d a b : GR) (pg : PR) (s : State), runs (.maxu .i64 d a b pg) s = true → exec (.maxu .i64 d a b pg) s = .next (s.setG d ((if (s.g a).toNat < (s.g b).toNat then (s.g b) else (s.g a))))) ∧
  (∀ (d a b : GR) (pg : PR) (s : State), runs (.mul .i64 d a b pg) s = true → exec (.mul .i64 d a b pg) s = .next (s.setG d (BitVec.ofInt 64 ((s.g a).toInt * (s.g b).toInt)))) ∧
  (∀ (d a b : GR) (pg : PR) (s : State), runs (.mulh .i64 d a b pg) s = true → exec (.mulh .i64 d a b pg) s = .next (s.setG d (BitVec.ofInt 64 ((s.g a).toInt * (s.g b).toInt / 2 ^ 64)))) ∧
  (∀ (d a b : GR) (pg : PR) (s : State), runs (.mulhu .i64 d a b pg) s = true → exec (.mulhu .i64 d a b pg) s = .next (s.setG d (BitVec.ofNat 64 ((s.g a).toNat * (s.g b).toNat / 2 ^ 64)))) ∧
  (∀ (d a b : GR) (pg : PR) (s : State), runs (.add .i32 d a b pg) s = true → exec (.add .i32 d a b pg) s = .next (s.setG d ((((s.g a).setWidth 32 : W32) + ((s.g b).setWidth 32 : W32) : W32).signExtend 64))) ∧
  (∀ (d a b : GR) (pg : PR) (s : State), runs (.add .z32 d a b pg) s = true → exec (.add .z32 d a b pg) s = .next (s.setG d ((((s.g a).setWidth 32 : W32) + ((s.g b).setWidth 32 : W32) : W32).setWidth 64))) ∧
  (∀ (d a b : GR) (pg : PR) (s : State), runs (.sub .i32 d a b pg) s = true → exec (.sub .i32 d a b pg) s = .next (s.setG d ((((s.g a).setWidth 32 : W32) - ((s.g b).setWidth 32 : W32) : W32).signExtend 64))) ∧
  (∀ (d a b : GR) (pg : PR) (s : State), runs (.sub .z32 d a b pg) s = true → exec (.sub .z32 d a b pg) s = .next (s.setG d ((((s.g a).setWidth 32 : W32) - ((s.g b).setWidth 32 : W32) : W32).setWidth 64))) ∧
  (∀ (d a b : GR) (pg : PR) (s : State), runs (.and .i32 d a b pg) s = true → exec (.and .i32 d a b pg) s = .next (s.setG d ((((s.g a).setWidth 32 : W32) &&& ((s.g b).setWidth 32 : W32) : W32).signExtend 64))) ∧
  (∀ (d a b : GR) (pg : PR) (s : State), runs (.and .z32 d a b pg) s = true → exec (.and .z32 d a b pg) s = .next (s.setG d ((((s.g a).setWidth 32 : W32) &&& ((s.g b).setWidth 32 : W32) : W32).setWidth 64))) ∧
  (∀ (d a b : GR) (pg : PR) (s : State), runs (.or .i32 d a b pg) s = true → exec (.or .i32 d a b pg) s = .next (s.setG d ((((s.g a).setWidth 32 : W32) ||| ((s.g b).setWidth 32 : W32) : W32).signExtend 64))) ∧
  (∀ (d a b : GR) (pg : PR) (s : State), runs (.or .z32 d a b pg) s = true → exec (.or .z32 d a b pg) s = .next (s.setG d ((((s.g a).setWidth 32 : W32) ||| ((s.g b).setWidth 32 : W32) : W32).setWidth 64))) ∧
  (∀ (d a b : GR) (pg : PR) (s : State), runs (.xor .i32 d a b pg) s = true → exec (.xor .i32 d a b pg) s = .next (s.setG d ((((s.g a).setWidth 32 : W32) ^^^ ((s.g b).setWidth 32 : W32) : W32).signExtend 64))) ∧
  (∀ (d a b : GR) (pg : PR) (s : State), runs (.xor .z32 d a b pg) s = true → exec (.xor .z32 d a b pg) s = .next (s.setG d ((((s.g a).setWidth 32 : W32) ^^^ ((s.g b).setWidth 32 : W32) : W32).setWidth 64))) ∧
  (∀ (d a b : GR) (pg : PR) (s : State), runs (.andn .i32 d a b pg) s = true → exec (.andn .i32 d a b pg) s = .next (s.setG d ((((s.g a).setWidth 32 : W32) &&& ~~~((s.g b).setWidth 32 : W32) : W32).signExtend 64))) ∧
  (∀ (d a b : GR) (pg : PR) (s : State), runs (.andn .z32 d a b pg) s = true → exec (.andn .z32 d a b pg) s = .next (s.setG d ((((s.g a).setWidth 32 : W32) &&& ~~~((s.g b).setWidth 32 : W32) : W32).setWidth 64))) ∧
  (∀ (d a b : GR) (pg : PR) (s : State), runs (.shl .i32 d a b pg) s = true → exec (.shl .i32 d a b pg) s = .next (s.setG d ((((s.g a).setWidth 32 : W32) <<< ((s.g b).toNat % 32) : W32).signExtend 64))) ∧
  (∀ (d a b : GR) (pg : PR) (s : State), runs (.shl .z32 d a b pg) s = true → exec (.shl .z32 d a b pg) s = .next (s.setG d ((((s.g a).setWidth 32 : W32) <<< ((s.g b).toNat % 32) : W32).setWidth 64))) ∧
  (∀ (d a b : GR) (pg : PR) (s : State), runs (.shr .i32 d a b pg) s = true → exec (.shr .i32 d a b pg) s = .next (s.setG d ((((s.g a).setWidth 32 : W32) >>> ((s.g b).toNat % 32) : W32).signExtend 64))) ∧
  (∀ (d a b : GR) (pg : PR) (s : State), runs (.shr .z32 d a b pg) s = true → exec (.shr .z32 d a b pg) s = .next (s.setG d ((((s.g a).setWidth 32 : W32) >>> ((s.g b).toNat % 32) : W32).setWidth 64))) ∧
  (∀ (d a b : GR) (pg : PR) (s : State), runs (.sra .i32 d a b pg) s = true → exec (.sra .i32 d a b pg) s = .next (s.setG d ((((s.g a).setWidth 32 : W32).sshiftRight ((s.g b).toNat % 32) : W32).signExtend 64))) ∧
  (∀ (d a b : GR) (pg : PR) (s : State), runs (.sra .z32 d a b pg) s = true → exec (.sra .z32 d a b pg) s = .next (s.setG d ((((s.g a).setWidth 32 : W32).sshiftRight ((s.g b).toNat % 32) : W32).setWidth 64))) ∧
  (∀ (d a b : GR) (pg : PR) (s : State), runs (.ror .i32 d a b pg) s = true → exec (.ror .i32 d a b pg) s = .next (s.setG d ((((s.g a).setWidth 32 : W32).rotateRight ((s.g b).toNat % 32) : W32).signExtend 64))) ∧
  (∀ (d a b : GR) (pg : PR) (s : State), runs (.ror .z32 d a b pg) s = true → exec (.ror .z32 d a b pg) s = .next (s.setG d ((((s.g a).setWidth 32 : W32).rotateRight ((s.g b).toNat % 32) : W32).setWidth 64))) ∧
  (∀ (d a b : GR) (pg : PR) (s : State), runs (.min .i32 d a b pg) s = true → exec (.min .i32 d a b pg) s = .next (s.setG d (((if ((s.g a).setWidth 32 : W32).toInt < ((s.g b).setWidth 32 : W32).toInt then ((s.g a).setWidth 32 : W32) else ((s.g b).setWidth 32 : W32)) : W32).signExtend 64))) ∧
  (∀ (d a b : GR) (pg : PR) (s : State), runs (.min .z32 d a b pg) s = true → exec (.min .z32 d a b pg) s = .next (s.setG d (((if ((s.g a).setWidth 32 : W32).toInt < ((s.g b).setWidth 32 : W32).toInt then ((s.g a).setWidth 32 : W32) else ((s.g b).setWidth 32 : W32)) : W32).setWidth 64))) ∧
  (∀ (d a b : GR) (pg : PR) (s : State), runs (.max .i32 d a b pg) s = true → exec (.max .i32 d a b pg) s = .next (s.setG d (((if ((s.g a).setWidth 32 : W32).toInt < ((s.g b).setWidth 32 : W32).toInt then ((s.g b).setWidth 32 : W32) else ((s.g a).setWidth 32 : W32)) : W32).signExtend 64))) ∧
  (∀ (d a b : GR) (pg : PR) (s : State), runs (.max .z32 d a b pg) s = true → exec (.max .z32 d a b pg) s = .next (s.setG d (((if ((s.g a).setWidth 32 : W32).toInt < ((s.g b).setWidth 32 : W32).toInt then ((s.g b).setWidth 32 : W32) else ((s.g a).setWidth 32 : W32)) : W32).setWidth 64))) ∧
  (∀ (d a b : GR) (pg : PR) (s : State), runs (.minu .i32 d a b pg) s = true → exec (.minu .i32 d a b pg) s = .next (s.setG d (((if ((s.g a).setWidth 32 : W32).toNat < ((s.g b).setWidth 32 : W32).toNat then ((s.g a).setWidth 32 : W32) else ((s.g b).setWidth 32 : W32)) : W32).signExtend 64))) ∧
  (∀ (d a b : GR) (pg : PR) (s : State), runs (.minu .z32 d a b pg) s = true → exec (.minu .z32 d a b pg) s = .next (s.setG d (((if ((s.g a).setWidth 32 : W32).toNat < ((s.g b).setWidth 32 : W32).toNat then ((s.g a).setWidth 32 : W32) else ((s.g b).setWidth 32 : W32)) : W32).setWidth 64))) ∧
  (∀ (d a b : GR) (pg : PR) (s : State), runs (.maxu .i32 d a b pg) s = true → exec (.maxu .i32 d a b pg) s = .next (s.setG d (((if ((s.g a).setWidth 32 : W32).toNat < ((s.g b).setWidth 32 : W32).toNat then ((s.g b).setWidth 32 : W32) else ((s.g a).setWidth 32 : W32)) : W32).signExtend 64))) ∧
  (∀ (d a b : GR) (pg : PR) (s : State), runs (.maxu .z32 d a b pg) s = true → exec (.maxu .z32 d a b pg) s = .next (s.setG d (((if ((s.g a).setWidth 32 : W32).toNat < ((s.g b).setWidth 32 : W32).toNat then ((s.g b).setWidth 32 : W32) else ((s.g a).setWidth 32 : W32)) : W32).setWidth 64))) ∧
  (∀ (d a b : GR) (pg : PR) (s : State), runs (.mul .i32 d a b pg) s = true → exec (.mul .i32 d a b pg) s = .next (s.setG d ((BitVec.ofInt 32 (((s.g a).setWidth 32 : W32).toInt * ((s.g b).setWidth 32 : W32).toInt) : W32).signExtend 64))) ∧
  (∀ (d a b : GR) (pg : PR) (s : State), runs (.mul .z32 d a b pg) s = true → exec (.mul .z32 d a b pg) s = .next (s.setG d ((BitVec.ofInt 32 (((s.g a).setWidth 32 : W32).toInt * ((s.g b).setWidth 32 : W32).toInt) : W32).setWidth 64))) ∧
  (∀ (d a b : GR) (pg : PR) (s : State), runs (.mulh .i32 d a b pg) s = true → exec (.mulh .i32 d a b pg) s = .next (s.setG d ((BitVec.ofInt 32 (((s.g a).setWidth 32 : W32).toInt * ((s.g b).setWidth 32 : W32).toInt / 2 ^ 32) : W32).signExtend 64))) ∧
  (∀ (d a b : GR) (pg : PR) (s : State), runs (.mulh .z32 d a b pg) s = true → exec (.mulh .z32 d a b pg) s = .next (s.setG d ((BitVec.ofInt 32 (((s.g a).setWidth 32 : W32).toInt * ((s.g b).setWidth 32 : W32).toInt / 2 ^ 32) : W32).setWidth 64))) ∧
  (∀ (d a b : GR) (pg : PR) (s : State), runs (.mulhu .i32 d a b pg) s = true → exec (.mulhu .i32 d a b pg) s = .next (s.setG d ((BitVec.ofNat 32 (((s.g a).setWidth 32 : W32).toNat * ((s.g b).setWidth 32 : W32).toNat / 2 ^ 32) : W32).signExtend 64))) ∧
  (∀ (d a b : GR) (pg : PR) (s : State), runs (.mulhu .z32 d a b pg) s = true → exec (.mulhu .z32 d a b pg) s = .next (s.setG d ((BitVec.ofNat 32 (((s.g a).setWidth 32 : W32).toNat * ((s.g b).setWidth 32 : W32).toNat / 2 ^ 32) : W32).setWidth 64)))

/-- 05 R106, 04 R95, 04 R101. With .q, ADD to ROR compute on register pairs at 128 bits, with the shift amount b<6:0> of the
single register b; the minors that have no .q form trap with 0x01 and the word. -/
def Obligations.IntegerAluPair : Prop :=
  (∀ (d a b : GR) (pg : PR) (s : State), runs (.add .q d a b pg) s = true → exec (.add .q d a b pg) s = .next (s.setQ d ((s.gq a) + (s.gq b)))) ∧
  (∀ (d a b : GR) (pg : PR) (s : State), runs (.sub .q d a b pg) s = true → exec (.sub .q d a b pg) s = .next (s.setQ d ((s.gq a) - (s.gq b)))) ∧
  (∀ (d a b : GR) (pg : PR) (s : State), runs (.and .q d a b pg) s = true → exec (.and .q d a b pg) s = .next (s.setQ d ((s.gq a) &&& (s.gq b)))) ∧
  (∀ (d a b : GR) (pg : PR) (s : State), runs (.or .q d a b pg) s = true → exec (.or .q d a b pg) s = .next (s.setQ d ((s.gq a) ||| (s.gq b)))) ∧
  (∀ (d a b : GR) (pg : PR) (s : State), runs (.xor .q d a b pg) s = true → exec (.xor .q d a b pg) s = .next (s.setQ d ((s.gq a) ^^^ (s.gq b)))) ∧
  (∀ (d a b : GR) (pg : PR) (s : State), runs (.andn .q d a b pg) s = true → exec (.andn .q d a b pg) s = .next (s.setQ d ((s.gq a) &&& ~~~(s.gq b)))) ∧
  (∀ (d a b : GR) (pg : PR) (s : State), runs (.shl .q d a b pg) s = true → exec (.shl .q d a b pg) s = .next (s.setQ d ((s.gq a) <<< ((s.g b).toNat % 128)))) ∧
  (∀ (d a b : GR) (pg : PR) (s : State), runs (.shr .q d a b pg) s = true → exec (.shr .q d a b pg) s = .next (s.setQ d ((s.gq a) >>> ((s.g b).toNat % 128)))) ∧
  (∀ (d a b : GR) (pg : PR) (s : State), runs (.sra .q d a b pg) s = true → exec (.sra .q d a b pg) s = .next (s.setQ d ((s.gq a).sshiftRight ((s.g b).toNat % 128)))) ∧
  (∀ (d a b : GR) (pg : PR) (s : State), runs (.ror .q d a b pg) s = true → exec (.ror .q d a b pg) s = .next (s.setQ d ((s.gq a).rotateRight ((s.g b).toNat % 128)))) ∧
  (∀ (d a b : GR) (pg : PR) (s : State), exec (.min .q d a b pg) s = .next (s.trap 0x01 s.word)) ∧
  (∀ (d a b : GR) (pg : PR) (s : State), exec (.max .q d a b pg) s = .next (s.trap 0x01 s.word)) ∧
  (∀ (d a b : GR) (pg : PR) (s : State), exec (.minu .q d a b pg) s = .next (s.trap 0x01 s.word)) ∧
  (∀ (d a b : GR) (pg : PR) (s : State), exec (.maxu .q d a b pg) s = .next (s.trap 0x01 s.word)) ∧
  (∀ (d a b : GR) (pg : PR) (s : State), exec (.mul .q d a b pg) s = .next (s.trap 0x01 s.word)) ∧
  (∀ (d a b : GR) (pg : PR) (s : State), exec (.mulh .q d a b pg) s = .next (s.trap 0x01 s.word)) ∧
  (∀ (d a b : GR) (pg : PR) (s : State), exec (.mulhu .q d a b pg) s = .next (s.trap 0x01 s.word)) ∧
  (∀ (d a b : GR) (pg : PR) (s : State), exec (.div .q d a b pg) s = .next (s.trap 0x01 s.word)) ∧
  (∀ (d a b : GR) (pg : PR) (s : State), exec (.divu .q d a b pg) s = .next (s.trap 0x01 s.word)) ∧
  (∀ (d a b : GR) (pg : PR) (s : State), exec (.rem .q d a b pg) s = .next (s.trap 0x01 s.word)) ∧
  (∀ (d a b : GR) (pg : PR) (s : State), exec (.remu .q d a b pg) s = .next (s.trap 0x01 s.word))

/-- 05 R108. DIV, DIVU, REM and REMU of every width give a next state with a result for every divisor: all ones and x for y = 0, m
and 0 for m divided by -1, else the truncated quotient and its remainder. Nothing but d changes. -/
def Obligations.DivisionNeverTraps : Prop :=
  (∀ (d a b : GR) (pg : PR) (s : State), runs (.div .i64 d a b pg) s = true → exec (.div .i64 d a b pg) s = .next (s.setG d ((if (s.g b) = 0 then BitVec.allOnes 64 else if (s.g a) = BitVec.intMin 64 ∧ (s.g b) = -1 then BitVec.intMin 64 else BitVec.ofInt 64 ((s.g a).toInt.tdiv (s.g b).toInt) : BitVec 64)))) ∧
  (∀ (d a b : GR) (pg : PR) (s : State), runs (.rem .i64 d a b pg) s = true → exec (.rem .i64 d a b pg) s = .next (s.setG d ((if (s.g b) = 0 then (s.g a) else if (s.g a) = BitVec.intMin 64 ∧ (s.g b) = -1 then 0#64 else BitVec.ofInt 64 ((s.g a).toInt - (s.g b).toInt * (s.g a).toInt.tdiv (s.g b).toInt) : BitVec 64)))) ∧
  (∀ (d a b : GR) (pg : PR) (s : State), runs (.divu .i64 d a b pg) s = true → exec (.divu .i64 d a b pg) s = .next (s.setG d ((if (s.g b) = 0 then BitVec.allOnes 64 else BitVec.ofNat 64 ((s.g a).toNat / (s.g b).toNat) : BitVec 64)))) ∧
  (∀ (d a b : GR) (pg : PR) (s : State), runs (.remu .i64 d a b pg) s = true → exec (.remu .i64 d a b pg) s = .next (s.setG d ((if (s.g b) = 0 then (s.g a) else BitVec.ofNat 64 ((s.g a).toNat - (s.g b).toNat * ((s.g a).toNat / (s.g b).toNat)) : BitVec 64)))) ∧
  (∀ (d a b : GR) (pg : PR) (s : State), runs (.div .i32 d a b pg) s = true → exec (.div .i32 d a b pg) s = .next (s.setG d (((if ((s.g b).setWidth 32 : W32) = 0 then BitVec.allOnes 32 else if ((s.g a).setWidth 32 : W32) = BitVec.intMin 32 ∧ ((s.g b).setWidth 32 : W32) = -1 then BitVec.intMin 32 else BitVec.ofInt 32 (((s.g a).setWidth 32 : W32).toInt.tdiv ((s.g b).setWidth 32 : W32).toInt) : BitVec 32)).signExtend 64))) ∧
  (∀ (d a b : GR) (pg : PR) (s : State), runs (.rem .i32 d a b pg) s = true → exec (.rem .i32 d a b pg) s = .next (s.setG d (((if ((s.g b).setWidth 32 : W32) = 0 then ((s.g a).setWidth 32 : W32) else if ((s.g a).setWidth 32 : W32) = BitVec.intMin 32 ∧ ((s.g b).setWidth 32 : W32) = -1 then 0#32 else BitVec.ofInt 32 (((s.g a).setWidth 32 : W32).toInt - ((s.g b).setWidth 32 : W32).toInt * ((s.g a).setWidth 32 : W32).toInt.tdiv ((s.g b).setWidth 32 : W32).toInt) : BitVec 32)).signExtend 64))) ∧
  (∀ (d a b : GR) (pg : PR) (s : State), runs (.divu .i32 d a b pg) s = true → exec (.divu .i32 d a b pg) s = .next (s.setG d (((if ((s.g b).setWidth 32 : W32) = 0 then BitVec.allOnes 32 else BitVec.ofNat 32 (((s.g a).setWidth 32 : W32).toNat / ((s.g b).setWidth 32 : W32).toNat) : BitVec 32)).signExtend 64))) ∧
  (∀ (d a b : GR) (pg : PR) (s : State), runs (.remu .i32 d a b pg) s = true → exec (.remu .i32 d a b pg) s = .next (s.setG d (((if ((s.g b).setWidth 32 : W32) = 0 then ((s.g a).setWidth 32 : W32) else BitVec.ofNat 32 (((s.g a).setWidth 32 : W32).toNat - ((s.g b).setWidth 32 : W32).toNat * (((s.g a).setWidth 32 : W32).toNat / ((s.g b).setWidth 32 : W32).toNat)) : BitVec 32)).signExtend 64))) ∧
  (∀ (d a b : GR) (pg : PR) (s : State), runs (.div .z32 d a b pg) s = true → exec (.div .z32 d a b pg) s = .next (s.setG d (((if ((s.g b).setWidth 32 : W32) = 0 then BitVec.allOnes 32 else if ((s.g a).setWidth 32 : W32) = BitVec.intMin 32 ∧ ((s.g b).setWidth 32 : W32) = -1 then BitVec.intMin 32 else BitVec.ofInt 32 (((s.g a).setWidth 32 : W32).toInt.tdiv ((s.g b).setWidth 32 : W32).toInt) : BitVec 32)).setWidth 64))) ∧
  (∀ (d a b : GR) (pg : PR) (s : State), runs (.rem .z32 d a b pg) s = true → exec (.rem .z32 d a b pg) s = .next (s.setG d (((if ((s.g b).setWidth 32 : W32) = 0 then ((s.g a).setWidth 32 : W32) else if ((s.g a).setWidth 32 : W32) = BitVec.intMin 32 ∧ ((s.g b).setWidth 32 : W32) = -1 then 0#32 else BitVec.ofInt 32 (((s.g a).setWidth 32 : W32).toInt - ((s.g b).setWidth 32 : W32).toInt * ((s.g a).setWidth 32 : W32).toInt.tdiv ((s.g b).setWidth 32 : W32).toInt) : BitVec 32)).setWidth 64))) ∧
  (∀ (d a b : GR) (pg : PR) (s : State), runs (.divu .z32 d a b pg) s = true → exec (.divu .z32 d a b pg) s = .next (s.setG d (((if ((s.g b).setWidth 32 : W32) = 0 then BitVec.allOnes 32 else BitVec.ofNat 32 (((s.g a).setWidth 32 : W32).toNat / ((s.g b).setWidth 32 : W32).toNat) : BitVec 32)).setWidth 64))) ∧
  (∀ (d a b : GR) (pg : PR) (s : State), runs (.remu .z32 d a b pg) s = true → exec (.remu .z32 d a b pg) s = .next (s.setG d (((if ((s.g b).setWidth 32 : W32) = 0 then ((s.g a).setWidth 32 : W32) else BitVec.ofNat 32 (((s.g a).setWidth 32 : W32).toNat - ((s.g b).setWidth 32 : W32).toNat * (((s.g a).setWidth 32 : W32).toNat / ((s.g b).setWidth 32 : W32).toNat)) : BitVec 32)).setWidth 64)))

/-- 05 R109. CLZ and CTZ write the number n of zero bits above the highest, or below the lowest, bit set (W where none is set),
and POPC the number of bits set, over 64 bits or the low 32; minors 0 to 2 of major 0x02 with b = 0 and t 0 to 2 are these
instructions. -/
def Obligations.BitCounts : Prop :=
  (∀ (d a : GR) (pg : PR) (s : State), runs (.clz .i64 d a pg) s = true → ∃ n, n ≤ 64 ∧ exec (.clz .i64 d a pg) s = .next (s.setG d (BitVec.ofNat 64 n)) ∧
    (∀ i, 64 - n ≤ i → (s.g a).getLsbD i = false) ∧ (n < 64 → (s.g a).getLsbD (64 - 1 - n) = true)) ∧
  (∀ (d a : GR) (pg : PR) (s : State), runs (.clz .i32 d a pg) s = true → ∃ n, n ≤ 32 ∧ exec (.clz .i32 d a pg) s = .next (s.setG d (BitVec.ofNat 64 n)) ∧
    (∀ i, 32 - n ≤ i → (((s.g a).setWidth 32 : W32)).getLsbD i = false) ∧ (n < 32 → (((s.g a).setWidth 32 : W32)).getLsbD (32 - 1 - n) = true)) ∧
  (∀ (d a : GR) (pg : PR) (s : State), runs (.clz .z32 d a pg) s = true → ∃ n, n ≤ 32 ∧ exec (.clz .z32 d a pg) s = .next (s.setG d (BitVec.ofNat 64 n)) ∧
    (∀ i, 32 - n ≤ i → (((s.g a).setWidth 32 : W32)).getLsbD i = false) ∧ (n < 32 → (((s.g a).setWidth 32 : W32)).getLsbD (32 - 1 - n) = true)) ∧
  (∀ (d a : GR) (pg : PR) (s : State), runs (.ctz .i64 d a pg) s = true → ∃ n, n ≤ 64 ∧ exec (.ctz .i64 d a pg) s = .next (s.setG d (BitVec.ofNat 64 n)) ∧
    (∀ i, i < n → (s.g a).getLsbD i = false) ∧ (n < 64 → (s.g a).getLsbD n = true)) ∧
  (∀ (d a : GR) (pg : PR) (s : State), runs (.ctz .i32 d a pg) s = true → ∃ n, n ≤ 32 ∧ exec (.ctz .i32 d a pg) s = .next (s.setG d (BitVec.ofNat 64 n)) ∧
    (∀ i, i < n → (((s.g a).setWidth 32 : W32)).getLsbD i = false) ∧ (n < 32 → (((s.g a).setWidth 32 : W32)).getLsbD n = true)) ∧
  (∀ (d a : GR) (pg : PR) (s : State), runs (.ctz .z32 d a pg) s = true → ∃ n, n ≤ 32 ∧ exec (.ctz .z32 d a pg) s = .next (s.setG d (BitVec.ofNat 64 n)) ∧
    (∀ i, i < n → (((s.g a).setWidth 32 : W32)).getLsbD i = false) ∧ (n < 32 → (((s.g a).setWidth 32 : W32)).getLsbD n = true)) ∧
  (∀ (d a : GR) (pg : PR) (s : State), runs (.popc .i64 d a pg) s = true → exec (.popc .i64 d a pg) s =
    .next (s.setG d (BitVec.ofNat 64 ((List.range 64).countP fun i => (s.g a).getLsbD i)))) ∧
  (∀ (d a : GR) (pg : PR) (s : State), runs (.popc .i32 d a pg) s = true → exec (.popc .i32 d a pg) s =
    .next (s.setG d (BitVec.ofNat 64 ((List.range 32).countP fun i => (((s.g a).setWidth 32 : W32)).getLsbD i)))) ∧
  (∀ (d a : GR) (pg : PR) (s : State), runs (.popc .z32 d a pg) s = true → exec (.popc .z32 d a pg) s =
    .next (s.setG d (BitVec.ofNat 64 ((List.range 32).countP fun i => (((s.g a).setWidth 32 : W32)).getLsbD i)))) ∧
  (∀ (d a : GR) (pg : PR), (decodeA (packAR 2 ⟨d, a, 0, 0, 0, pg⟩)).toOption = some (.clz .i64 d a pg) ∧
    (decodeA (packAR 2 ⟨d, a, 0, 0, 1, pg⟩)).toOption = some (.clz .i32 d a pg) ∧
    (decodeA (packAR 2 ⟨d, a, 0, 0, 2, pg⟩)).toOption = some (.clz .z32 d a pg) ∧
    (decodeA (packAR 2 ⟨d, a, 0, 1, 0, pg⟩)).toOption = some (.ctz .i64 d a pg) ∧
    (decodeA (packAR 2 ⟨d, a, 0, 1, 1, pg⟩)).toOption = some (.ctz .i32 d a pg) ∧
    (decodeA (packAR 2 ⟨d, a, 0, 1, 2, pg⟩)).toOption = some (.ctz .z32 d a pg) ∧
    (decodeA (packAR 2 ⟨d, a, 0, 2, 0, pg⟩)).toOption = some (.popc .i64 d a pg) ∧
    (decodeA (packAR 2 ⟨d, a, 0, 2, 1, pg⟩)).toOption = some (.popc .i32 d a pg) ∧
    (decodeA (packAR 2 ⟨d, a, 0, 2, 2, pg⟩)).toOption = some (.popc .z32 d a pg))

/-- 05 R110, 05 R111. SEXT and ZEXT extend the low 8, 16 or 32 bits; BFX, BFXU and BFI extract with sign, extract with zeros and
insert the field of the position and length that b gives (length 0 for 64, cut at bit 63); every bit of the result is stated. -/
def Obligations.ExtensionsAndFields : Prop :=
  (∀ (d a : GR) (pg : PR) (s : State), runs (.sext .b d a pg) s = true →
    ∃ v, exec (.sext .b d a pg) s = .next (s.setG d v) ∧ ∀ j, j < 64 → v.getLsbD j = (s.g a).getLsbD (min j 7)) ∧
  (∀ (d a : GR) (pg : PR) (s : State), runs (.zext .b d a pg) s = true →
    ∃ v, exec (.zext .b d a pg) s = .next (s.setG d v) ∧ ∀ j, j < 64 → v.getLsbD j = (decide (j < 8) && (s.g a).getLsbD j)) ∧
  (∀ (d a : GR) (pg : PR) (s : State), runs (.sext .h d a pg) s = true →
    ∃ v, exec (.sext .h d a pg) s = .next (s.setG d v) ∧ ∀ j, j < 64 → v.getLsbD j = (s.g a).getLsbD (min j 15)) ∧
  (∀ (d a : GR) (pg : PR) (s : State), runs (.zext .h d a pg) s = true →
    ∃ v, exec (.zext .h d a pg) s = .next (s.setG d v) ∧ ∀ j, j < 64 → v.getLsbD j = (decide (j < 16) && (s.g a).getLsbD j)) ∧
  (∀ (d a : GR) (pg : PR) (s : State), runs (.sext .w d a pg) s = true →
    ∃ v, exec (.sext .w d a pg) s = .next (s.setG d v) ∧ ∀ j, j < 64 → v.getLsbD j = (s.g a).getLsbD (min j 31)) ∧
  (∀ (d a : GR) (pg : PR) (s : State), runs (.zext .w d a pg) s = true →
    ∃ v, exec (.zext .w d a pg) s = .next (s.setG d v) ∧ ∀ j, j < 64 → v.getLsbD j = (decide (j < 32) && (s.g a).getLsbD j)) ∧
  (∀ (d a b : GR) (pg : PR) (s : State), runs (.bfx d a b pg) s = true →
    ∃ v, exec (.bfx d a b pg) s = .next (s.setG d v) ∧ let pos := (s.g b).toNat % 64; let l := (s.g b).toNat / 256 % 64;
      let len := min (if l = 0 then 64 else l) (64 - pos); ∀ j, j < 64 → v.getLsbD j = (s.g a).getLsbD (pos + min j (len - 1))) ∧
  (∀ (d a b : GR) (pg : PR) (s : State), runs (.bfxu d a b pg) s = true →
    ∃ v, exec (.bfxu d a b pg) s = .next (s.setG d v) ∧ let pos := (s.g b).toNat % 64; let l := (s.g b).toNat / 256 % 64;
      let len := min (if l = 0 then 64 else l) (64 - pos); ∀ j, j < 64 → v.getLsbD j = (decide (j < len) && (s.g a).getLsbD (pos + j))) ∧
  (∀ (d a b : GR) (pg : PR) (s : State), runs (.bfi d a b pg) s = true →
    ∃ v, exec (.bfi d a b pg) s = .next (s.setG d v) ∧ let pos := (s.g b).toNat % 64; let l := (s.g b).toNat / 256 % 64;
      let len := min (if l = 0 then 64 else l) (64 - pos); ∀ j, j < 64 → v.getLsbD j = if pos ≤ j ∧ j < pos + len then (s.g a).getLsbD (j - pos) else (s.g d).getLsbD j)

/-- 05 R112. CMPEQ to CMPLEU compare the operands of R106 at each width, by signed or unsigned value, write the truth value to
predicate d and change nothing else; .i32 and .z32 give the same results; minors 0 to 5 of major 0x03 with t 0 to 3 are these
instructions. -/
def Obligations.ComparesWritePredicates : Prop :=
  (∀ (d : PR) (a b : GR) (pg : PR) (s : State), runs (.cmpeq .i64 d a b pg) s = true → exec (.cmpeq .i64 d a b pg) s = .next (s.setP d (decide ((s.g a) = (s.g b))))) ∧
  (∀ (d : PR) (a b : GR) (pg : PR) (s : State), runs (.cmpeq .q d a b pg) s = true → exec (.cmpeq .q d a b pg) s = .next (s.setP d (decide ((s.gq a) = (s.gq b))))) ∧
  (∀ (d : PR) (a b : GR) (pg : PR) (s : State), runs (.cmpeq .i32 d a b pg) s = true → exec (.cmpeq .i32 d a b pg) s = .next (s.setP d (decide (((s.g a).setWidth 32 : W32) = ((s.g b).setWidth 32 : W32))))) ∧
  (∀ (d : PR) (a b : GR) (pg : PR) (s : State), runs (.cmpeq .z32 d a b pg) s = true → exec (.cmpeq .z32 d a b pg) s = .next (s.setP d (decide (((s.g a).setWidth 32 : W32) = ((s.g b).setWidth 32 : W32))))) ∧
  (∀ (d : PR) (a b : GR) (pg : PR) (s : State), runs (.cmpne .i64 d a b pg) s = true → exec (.cmpne .i64 d a b pg) s = .next (s.setP d (decide ((s.g a) ≠ (s.g b))))) ∧
  (∀ (d : PR) (a b : GR) (pg : PR) (s : State), runs (.cmpne .q d a b pg) s = true → exec (.cmpne .q d a b pg) s = .next (s.setP d (decide ((s.gq a) ≠ (s.gq b))))) ∧
  (∀ (d : PR) (a b : GR) (pg : PR) (s : State), runs (.cmpne .i32 d a b pg) s = true → exec (.cmpne .i32 d a b pg) s = .next (s.setP d (decide (((s.g a).setWidth 32 : W32) ≠ ((s.g b).setWidth 32 : W32))))) ∧
  (∀ (d : PR) (a b : GR) (pg : PR) (s : State), runs (.cmpne .z32 d a b pg) s = true → exec (.cmpne .z32 d a b pg) s = .next (s.setP d (decide (((s.g a).setWidth 32 : W32) ≠ ((s.g b).setWidth 32 : W32))))) ∧
  (∀ (d : PR) (a b : GR) (pg : PR) (s : State), runs (.cmplt .i64 d a b pg) s = true → exec (.cmplt .i64 d a b pg) s = .next (s.setP d (decide ((s.g a).toInt < (s.g b).toInt)))) ∧
  (∀ (d : PR) (a b : GR) (pg : PR) (s : State), runs (.cmplt .q d a b pg) s = true → exec (.cmplt .q d a b pg) s = .next (s.setP d (decide ((s.gq a).toInt < (s.gq b).toInt)))) ∧
  (∀ (d : PR) (a b : GR) (pg : PR) (s : State), runs (.cmplt .i32 d a b pg) s = true → exec (.cmplt .i32 d a b pg) s = .next (s.setP d (decide (((s.g a).setWidth 32 : W32).toInt < ((s.g b).setWidth 32 : W32).toInt)))) ∧
  (∀ (d : PR) (a b : GR) (pg : PR) (s : State), runs (.cmplt .z32 d a b pg) s = true → exec (.cmplt .z32 d a b pg) s = .next (s.setP d (decide (((s.g a).setWidth 32 : W32).toInt < ((s.g b).setWidth 32 : W32).toInt)))) ∧
  (∀ (d : PR) (a b : GR) (pg : PR) (s : State), runs (.cmple .i64 d a b pg) s = true → exec (.cmple .i64 d a b pg) s = .next (s.setP d (decide ((s.g a).toInt ≤ (s.g b).toInt)))) ∧
  (∀ (d : PR) (a b : GR) (pg : PR) (s : State), runs (.cmple .q d a b pg) s = true → exec (.cmple .q d a b pg) s = .next (s.setP d (decide ((s.gq a).toInt ≤ (s.gq b).toInt)))) ∧
  (∀ (d : PR) (a b : GR) (pg : PR) (s : State), runs (.cmple .i32 d a b pg) s = true → exec (.cmple .i32 d a b pg) s = .next (s.setP d (decide (((s.g a).setWidth 32 : W32).toInt ≤ ((s.g b).setWidth 32 : W32).toInt)))) ∧
  (∀ (d : PR) (a b : GR) (pg : PR) (s : State), runs (.cmple .z32 d a b pg) s = true → exec (.cmple .z32 d a b pg) s = .next (s.setP d (decide (((s.g a).setWidth 32 : W32).toInt ≤ ((s.g b).setWidth 32 : W32).toInt)))) ∧
  (∀ (d : PR) (a b : GR) (pg : PR) (s : State), runs (.cmpltu .i64 d a b pg) s = true → exec (.cmpltu .i64 d a b pg) s = .next (s.setP d (decide ((s.g a).toNat < (s.g b).toNat)))) ∧
  (∀ (d : PR) (a b : GR) (pg : PR) (s : State), runs (.cmpltu .q d a b pg) s = true → exec (.cmpltu .q d a b pg) s = .next (s.setP d (decide ((s.gq a).toNat < (s.gq b).toNat)))) ∧
  (∀ (d : PR) (a b : GR) (pg : PR) (s : State), runs (.cmpltu .i32 d a b pg) s = true → exec (.cmpltu .i32 d a b pg) s = .next (s.setP d (decide (((s.g a).setWidth 32 : W32).toNat < ((s.g b).setWidth 32 : W32).toNat)))) ∧
  (∀ (d : PR) (a b : GR) (pg : PR) (s : State), runs (.cmpltu .z32 d a b pg) s = true → exec (.cmpltu .z32 d a b pg) s = .next (s.setP d (decide (((s.g a).setWidth 32 : W32).toNat < ((s.g b).setWidth 32 : W32).toNat)))) ∧
  (∀ (d : PR) (a b : GR) (pg : PR) (s : State), runs (.cmpleu .i64 d a b pg) s = true → exec (.cmpleu .i64 d a b pg) s = .next (s.setP d (decide ((s.g a).toNat ≤ (s.g b).toNat)))) ∧
  (∀ (d : PR) (a b : GR) (pg : PR) (s : State), runs (.cmpleu .q d a b pg) s = true → exec (.cmpleu .q d a b pg) s = .next (s.setP d (decide ((s.gq a).toNat ≤ (s.gq b).toNat)))) ∧
  (∀ (d : PR) (a b : GR) (pg : PR) (s : State), runs (.cmpleu .i32 d a b pg) s = true → exec (.cmpleu .i32 d a b pg) s = .next (s.setP d (decide (((s.g a).setWidth 32 : W32).toNat ≤ ((s.g b).setWidth 32 : W32).toNat)))) ∧
  (∀ (d : PR) (a b : GR) (pg : PR) (s : State), runs (.cmpleu .z32 d a b pg) s = true → exec (.cmpleu .z32 d a b pg) s = .next (s.setP d (decide (((s.g a).setWidth 32 : W32).toNat ≤ ((s.g b).setWidth 32 : W32).toNat)))) ∧
  (∀ (d : PR) (a b : GR) (pg : PR), (rawDecodeA (packAR 3 ⟨d.setWidth 5, a, b, 0, 0, pg⟩)).toOption = some (.cmpeq .i64 d a b pg) ∧
    (rawDecodeA (packAR 3 ⟨d.setWidth 5, a, b, 0, 1, pg⟩)).toOption = some (.cmpeq .i32 d a b pg) ∧
    (rawDecodeA (packAR 3 ⟨d.setWidth 5, a, b, 0, 2, pg⟩)).toOption = some (.cmpeq .z32 d a b pg) ∧
    (rawDecodeA (packAR 3 ⟨d.setWidth 5, a, b, 0, 3, pg⟩)).toOption = some (.cmpeq .q d a b pg) ∧
    (rawDecodeA (packAR 3 ⟨d.setWidth 5, a, b, 1, 0, pg⟩)).toOption = some (.cmpne .i64 d a b pg) ∧
    (rawDecodeA (packAR 3 ⟨d.setWidth 5, a, b, 1, 1, pg⟩)).toOption = some (.cmpne .i32 d a b pg) ∧
    (rawDecodeA (packAR 3 ⟨d.setWidth 5, a, b, 1, 2, pg⟩)).toOption = some (.cmpne .z32 d a b pg) ∧
    (rawDecodeA (packAR 3 ⟨d.setWidth 5, a, b, 1, 3, pg⟩)).toOption = some (.cmpne .q d a b pg) ∧
    (rawDecodeA (packAR 3 ⟨d.setWidth 5, a, b, 2, 0, pg⟩)).toOption = some (.cmplt .i64 d a b pg) ∧
    (rawDecodeA (packAR 3 ⟨d.setWidth 5, a, b, 2, 1, pg⟩)).toOption = some (.cmplt .i32 d a b pg) ∧
    (rawDecodeA (packAR 3 ⟨d.setWidth 5, a, b, 2, 2, pg⟩)).toOption = some (.cmplt .z32 d a b pg) ∧
    (rawDecodeA (packAR 3 ⟨d.setWidth 5, a, b, 2, 3, pg⟩)).toOption = some (.cmplt .q d a b pg) ∧
    (rawDecodeA (packAR 3 ⟨d.setWidth 5, a, b, 3, 0, pg⟩)).toOption = some (.cmple .i64 d a b pg) ∧
    (rawDecodeA (packAR 3 ⟨d.setWidth 5, a, b, 3, 1, pg⟩)).toOption = some (.cmple .i32 d a b pg) ∧
    (rawDecodeA (packAR 3 ⟨d.setWidth 5, a, b, 3, 2, pg⟩)).toOption = some (.cmple .z32 d a b pg) ∧
    (rawDecodeA (packAR 3 ⟨d.setWidth 5, a, b, 3, 3, pg⟩)).toOption = some (.cmple .q d a b pg) ∧
    (rawDecodeA (packAR 3 ⟨d.setWidth 5, a, b, 4, 0, pg⟩)).toOption = some (.cmpltu .i64 d a b pg) ∧
    (rawDecodeA (packAR 3 ⟨d.setWidth 5, a, b, 4, 1, pg⟩)).toOption = some (.cmpltu .i32 d a b pg) ∧
    (rawDecodeA (packAR 3 ⟨d.setWidth 5, a, b, 4, 2, pg⟩)).toOption = some (.cmpltu .z32 d a b pg) ∧
    (rawDecodeA (packAR 3 ⟨d.setWidth 5, a, b, 4, 3, pg⟩)).toOption = some (.cmpltu .q d a b pg) ∧
    (rawDecodeA (packAR 3 ⟨d.setWidth 5, a, b, 5, 0, pg⟩)).toOption = some (.cmpleu .i64 d a b pg) ∧
    (rawDecodeA (packAR 3 ⟨d.setWidth 5, a, b, 5, 1, pg⟩)).toOption = some (.cmpleu .i32 d a b pg) ∧
    (rawDecodeA (packAR 3 ⟨d.setWidth 5, a, b, 5, 2, pg⟩)).toOption = some (.cmpleu .z32 d a b pg) ∧
    (rawDecodeA (packAR 3 ⟨d.setWidth 5, a, b, 5, 3, pg⟩)).toOption = some (.cmpleu .q d a b pg))

/-- 05 R113. PAND, POR, PXOR, PANDN and PNOT write the truth function of their predicates; PRD writes p7 to p0 to bits 7 to 0 of d
and zeros above; PWR writes p1 to p7 from bits 7 to 1 of a and leaves p0 true; in major 0x03 with t = 0 the minors 8 to 12, 14
and 15 are these instructions, and with another t none is. -/
def Obligations.PredicateInstructions : Prop :=
  (∀ (d a b pg : PR) (s : State), runs (.pand d a b pg) s = true → exec (.pand d a b pg) s = .next (s.setP d (s.pr a && s.pr b))) ∧
  (∀ (d a b pg : PR) (s : State), runs (.por d a b pg) s = true → exec (.por d a b pg) s = .next (s.setP d (s.pr a || s.pr b))) ∧
  (∀ (d a b pg : PR) (s : State), runs (.pxor d a b pg) s = true → exec (.pxor d a b pg) s = .next (s.setP d (s.pr a != s.pr b))) ∧
  (∀ (d a b pg : PR) (s : State), runs (.pandn d a b pg) s = true → exec (.pandn d a b pg) s = .next (s.setP d (s.pr a && !s.pr b))) ∧
  (∀ (d a pg : PR) (s : State), runs (.pnot d a pg) s = true → exec (.pnot d a pg) s = .next (s.setP d (!s.pr a))) ∧
  (∀ (d : GR) (pg : PR) (s : State), runs (.prd d pg) s = true → ∃ v, exec (.prd d pg) s = .next (s.setG d v) ∧
    ∀ j, j < 64 → v.getLsbD j = (decide (j < 8) && s.pr (BitVec.ofNat 3 j))) ∧
  (∀ (a : GR) (pg : PR) (s : State), runs (.pwr a pg) s = true → ∃ x, exec (.pwr a pg) s = .next (s.setStrand { s.strand with p := x }) ∧
    ∀ j, j < 8 → x.getLsbD j = (decide (j = 0) || (s.g a).getLsbD j)) ∧
  (∀ (d a b pg : PR), (decodeA (packAR 3 ⟨d.setWidth 5, a.setWidth 5, b.setWidth 5, 8, 0, pg⟩)).toOption = some (.pand d a b pg) ∧
    (decodeA (packAR 3 ⟨d.setWidth 5, a.setWidth 5, b.setWidth 5, 9, 0, pg⟩)).toOption = some (.por d a b pg) ∧
    (decodeA (packAR 3 ⟨d.setWidth 5, a.setWidth 5, b.setWidth 5, 10, 0, pg⟩)).toOption = some (.pxor d a b pg) ∧
    (decodeA (packAR 3 ⟨d.setWidth 5, a.setWidth 5, b.setWidth 5, 11, 0, pg⟩)).toOption = some (.pandn d a b pg) ∧
    (decodeA (packAR 3 ⟨d.setWidth 5, a.setWidth 5, 0, 12, 0, pg⟩)).toOption = some (.pnot d a pg)) ∧
  (∀ (r : GR) (pg : PR), (decodeA (packAR 3 ⟨r, 0, 0, 14, 0, pg⟩)).toOption = some (.prd r pg) ∧ (decodeA (packAR 3 ⟨0, r, 0, 15, 0, pg⟩)).toOption = some (.pwr r pg)) ∧
  (∀ (d a b c : GR) (t : BV3) (pg : PR), 8 ≤ c.toNat → c.toNat < 16 → t ≠ 0 → (decodeA (packAR 3 ⟨d, a, b, c, t, pg⟩)).toOption = none) ∧
  (∀ s : State, s.pr 0 = true)

/-- 05 R115, 05 R116, 05 R117, 04 R96. ADDI, ANDI, ORI and XORI compute with the sign-extended 13-bit immediate, the shift
immediates by 0 to 63, MOVI writes the extended immediate, and MOVH k replaces bits 13k + 12 to 13k of d and keeps its others. -/
def Obligations.ImmediateInstructions : Prop :=
  (∀ (d a : GR) (imm : Imm13) (pg : PR) (s : State), runs (.addi d a imm pg) s = true → exec (.addi d a imm pg) s = .next (s.setG d (s.g a + imm.signExtend 64))) ∧
  (∀ (d a : GR) (imm : Imm13) (pg : PR) (s : State), runs (.andi d a imm pg) s = true → exec (.andi d a imm pg) s = .next (s.setG d (s.g a &&& imm.signExtend 64))) ∧
  (∀ (d a : GR) (imm : Imm13) (pg : PR) (s : State), runs (.ori d a imm pg) s = true → exec (.ori d a imm pg) s = .next (s.setG d (s.g a ||| imm.signExtend 64))) ∧
  (∀ (d a : GR) (imm : Imm13) (pg : PR) (s : State), runs (.xori d a imm pg) s = true → exec (.xori d a imm pg) s = .next (s.setG d (s.g a ^^^ imm.signExtend 64))) ∧
  (∀ (d a : GR) (sh : BV6) (pg : PR) (s : State), runs (.shli d a sh pg) s = true → exec (.shli d a sh pg) s = .next (s.setG d (s.g a <<< sh.toNat))) ∧
  (∀ (d a : GR) (sh : BV6) (pg : PR) (s : State), runs (.shri d a sh pg) s = true → exec (.shri d a sh pg) s = .next (s.setG d (s.g a >>> sh.toNat))) ∧
  (∀ (d a : GR) (sh : BV6) (pg : PR) (s : State), runs (.srai d a sh pg) s = true → exec (.srai d a sh pg) s = .next (s.setG d ((s.g a).sshiftRight sh.toNat))) ∧
  (∀ (d a : GR) (sh : BV6) (pg : PR) (s : State), runs (.rori d a sh pg) s = true → exec (.rori d a sh pg) s = .next (s.setG d ((s.g a).rotateRight sh.toNat))) ∧
  (∀ (d : GR) (imm : Imm13) (pg : PR) (s : State), runs (.movi d imm pg) s = true → exec (.movi d imm pg) s = .next (s.setG d (imm.signExtend 64))) ∧
  (∀ (d : GR) (k : BV3) (imm : Imm13) (pg : PR) (s : State), runs (.movh d k imm pg) s = true → ∃ v, exec (.movh d k imm pg) s = .next (s.setG d v) ∧
    ∀ j, j < 64 → v.getLsbD j = if 13 * k.toNat ≤ j ∧ j < 13 * k.toNat + 13 then imm.getLsbD (j - 13 * k.toNat) else (s.g d).getLsbD j)

/-- 05 R118, 05 R131, 04 R85, 05 R120. LEA writes a + (b shifted left by 0 to 7), MOVPC the address of its bundle; SEL and MOV
copy the 64 data bits and the S of their source; FSTK writes the w of a with the S that bit 0 of b gives, FSTKR the S of a; a
destination that is neither g0 nor g29 is left full. -/
def Obligations.AddressSelectAndMove : Prop :=
  (∀ (d a b : GR) (sh : BV3) (pg : PR) (s : State), runs (.lea d a b sh pg) s = true → exec (.lea d a b sh pg) s = .next (s.setG d (s.g a + (s.g b <<< sh.toNat)))) ∧
  (∀ (d : GR) (pg : PR) (pn : Bool) (s : State), runs (.movpc d pg pn) s = true → exec (.movpc d pg pn) s = .next (s.setG d s.cur.pc)) ∧
  (∀ (d a b : GR) (pg : PR) (s : State), runs (.fstk d a b pg) s = true → exec (.fstk d a b pg) s = .next (s.setGS d (((s.g a).setWidth 32 : W32).setWidth 64) ((s.g b).getLsbD 0))) ∧
  (∀ (d a : GR) (pg : PR) (s : State), runs (.fstkr d a pg) s = true → exec (.fstkr d a pg) s = .next (s.setG d (if s.gS a then 1 else 0))) ∧
  (∀ (d : GR) (q : PR) (a b : GR) (pg : PR) (s : State), runs (.sel d q a b pg) s = true → exec (.sel d q a b pg) s = .next (if s.pr q then s.setGS d (s.g a) (s.gS a) else s.setGS d (s.g b) (s.gS b))) ∧
  (∀ (d a : GR) (pg : PR) (s : State), runs (.mov d a pg) s = true → exec (.mov d a pg) s = .next (s.setGS d (s.g a) (s.gS a))) ∧
  (∀ (d : GR) (v : W64) (b : Bool) (s : State), s.cur.slot < 16 → d ≠ 0 → d ≠ 29 → rget (s.setGS d v b).strand.g d = { data := v, s := b, full := true })

/-- 05 R119, 17 R321, 03 R74. CVTA completes with no access and no check; for a byte of the own LM named through the own-LM window
or the private window, with the core in a cluster of the partition, the address it writes translates, for every strand of the
partition, to that byte; an address of no such window is copied. -/
def Obligations.CvtaNamesTheSameByte : Prop :=
  (∀ (d a : GR) (pg : PR) (s : State), runs (.cvta d a pg) s = true → ∃ v, exec (.cvta d a pg) s = .next (s.setG d v) ∧
    ((s.g a).extractLsb' 52 5 ≠ 0x1C → (s.g a).extractLsb' 52 5 ≠ 0x1D → v = s.g a) ∧
    (∀ (k : Kind) (who : Actor), s.cur.core < Config.cores → (s.partn who.part).clusters.contains (clusterOf s.cur.core) = true →
      (s.g a).extractLsb' 52 5 = 0x1D → (s.g a).toNat % 2 ^ 52 < Config.lmBytes →
      s.translate who k v = .ok (.lm s.cur.core ((s.g a).toNat % 2 ^ 52)) {}) ∧
    (∀ (k : Kind) (who : Actor), let pa := s.cur.pre.priva; pa.core < Config.cores → (s.partn who.part).clusters.contains (clusterOf pa.core) = true →
      (s.g a).extractLsb' 52 5 = 0x1C → pa.off + (s.g a).toNat % 2 ^ 52 < Config.lmBytes →
      s.translate who k v = .ok (.lm pa.core (pa.off + (s.g a).toNat % 2 ^ 52)) {}))

/-- 03 R63, 03 R64, 03 R65, 10 R253, 03 R68. A write of g0, p0 or m0 changes nothing, and they read 0, true and all ones; a write
of g29 appends the data to the chain queue of the next core of the gang and changes no register; a write of any other scalar
register leaves it full with the data and S and changes no other register, no other strand and no memory. -/
def Obligations.RegisterWrites : Prop :=
  (∀ (v : W64) (b : Bool) (s : State), s.setGS 0 v b = s ∧ s.g 0 = 0 ∧ s.gS 0 = false) ∧
  (∀ (v : W64) (b : Bool) (s : State) (c : Nat), s.downstream s.cur.core s.strand = some c → ((s.setGS 29 v b).core c).chain = (s.core c).chain ++ [{ w := v, gid := s.strand.gid.getD 0 }] ∧
    (s.setGS 29 v b).strand = s.strand ∧ (s.setGS 29 v b).mem = s.mem) ∧
  (∀ (d : GR) (v : W64) (b : Bool) (s : State), s.cur.slot < 16 → d ≠ 0 → d ≠ 29 → rget (s.setGS d v b).strand.g d = { data := v, s := b, full := true } ∧
    (∀ r, r ≠ d → rget (s.setGS d v b).strand.g r = rget s.strand.g r) ∧ (s.setGS d v b).mem = s.mem ∧
    ∀ c k, (c ≠ s.cur.core ∨ k ≠ s.cur.slot) → (s.setGS d v b).slotOf c k = s.slotOf c k) ∧
  (∀ (s : State) (b : Bool) (w : W32), s.pr 0 = true ∧ s.mr 0 = 0xFFFFFFFF ∧ s.setP 0 b = s ∧ s.setM 0 w = s)

/-- 05 R122, 05 R123, 05 R124, 05 R126, 05 R128, 05 R129, 05 R130, 02 R39. Each scalar floating-point instruction computes its
result and flags by the number formats of chapter 02; where no raised flag is enabled it ORs the flags into FCSR.fflags and
writes the result (w, bits 63:32 zero, and S; for compares the predicate); where one is enabled it traps with 0x15 and the
flags, and writes nothing else. -/
def Obligations.FloatingPointCompletesOrTraps : Prop :=
  (∀ (t : FTy) (d a b : GR) (pg : PR) (s : State), runs (.fadd t d a b pg) s = true →
    (s.enabled ((fpArith .add t s.frm (s.gw a) (s.gw b)).fl) = 0 → exec (.fadd t d a b pg) s = .next ((s.raise (fpArith .add t s.frm (s.gw a) (s.gw b)).fl).setGS d ((fpArith .add t s.frm (s.gw a) (s.gw b)).w.setWidth 64) (fpArith .add t s.frm (s.gw a) (s.gw b)).s)) ∧ (s.enabled ((fpArith .add t s.frm (s.gw a) (s.gw b)).fl) ≠ 0 → exec (.fadd t d a b pg) s = .next (s.trap 0x15 (((fpArith .add t s.frm (s.gw a) (s.gw b)).fl : Flags).setWidth 64)))) ∧
  (∀ (t : FTy) (d a b : GR) (pg : PR) (s : State), runs (.fsub t d a b pg) s = true →
    (s.enabled ((fpArith .sub t s.frm (s.gw a) (s.gw b)).fl) = 0 → exec (.fsub t d a b pg) s = .next ((s.raise (fpArith .sub t s.frm (s.gw a) (s.gw b)).fl).setGS d ((fpArith .sub t s.frm (s.gw a) (s.gw b)).w.setWidth 64) (fpArith .sub t s.frm (s.gw a) (s.gw b)).s)) ∧ (s.enabled ((fpArith .sub t s.frm (s.gw a) (s.gw b)).fl) ≠ 0 → exec (.fsub t d a b pg) s = .next (s.trap 0x15 (((fpArith .sub t s.frm (s.gw a) (s.gw b)).fl : Flags).setWidth 64)))) ∧
  (∀ (t : FTy) (d a b : GR) (pg : PR) (s : State), runs (.fmul t d a b pg) s = true →
    (s.enabled ((fpArith .mul t s.frm (s.gw a) (s.gw b)).fl) = 0 → exec (.fmul t d a b pg) s = .next ((s.raise (fpArith .mul t s.frm (s.gw a) (s.gw b)).fl).setGS d ((fpArith .mul t s.frm (s.gw a) (s.gw b)).w.setWidth 64) (fpArith .mul t s.frm (s.gw a) (s.gw b)).s)) ∧ (s.enabled ((fpArith .mul t s.frm (s.gw a) (s.gw b)).fl) ≠ 0 → exec (.fmul t d a b pg) s = .next (s.trap 0x15 (((fpArith .mul t s.frm (s.gw a) (s.gw b)).fl : Flags).setWidth 64)))) ∧
  (∀ (t : FTy) (d a b : GR) (pg : PR) (s : State), runs (.fdiv t d a b pg) s = true →
    (s.enabled ((fpArith .div t s.frm (s.gw a) (s.gw b)).fl) = 0 → exec (.fdiv t d a b pg) s = .next ((s.raise (fpArith .div t s.frm (s.gw a) (s.gw b)).fl).setGS d ((fpArith .div t s.frm (s.gw a) (s.gw b)).w.setWidth 64) (fpArith .div t s.frm (s.gw a) (s.gw b)).s)) ∧ (s.enabled ((fpArith .div t s.frm (s.gw a) (s.gw b)).fl) ≠ 0 → exec (.fdiv t d a b pg) s = .next (s.trap 0x15 (((fpArith .div t s.frm (s.gw a) (s.gw b)).fl : Flags).setWidth 64)))) ∧
  (∀ (t : FTy) (d a : GR) (pg : PR) (s : State), runs (.fsqrt t d a pg) s = true →
    (s.enabled ((fpArith .sqrt t s.frm (s.gw a) (s.gw a)).fl) = 0 → exec (.fsqrt t d a pg) s = .next ((s.raise (fpArith .sqrt t s.frm (s.gw a) (s.gw a)).fl).setGS d ((fpArith .sqrt t s.frm (s.gw a) (s.gw a)).w.setWidth 64) (fpArith .sqrt t s.frm (s.gw a) (s.gw a)).s)) ∧ (s.enabled ((fpArith .sqrt t s.frm (s.gw a) (s.gw a)).fl) ≠ 0 → exec (.fsqrt t d a pg) s = .next (s.trap 0x15 (((fpArith .sqrt t s.frm (s.gw a) (s.gw a)).fl : Flags).setWidth 64)))) ∧
  (∀ (t : FTy) (d a b c : GR) (pg : PR) (s : State), runs (.ffma t d a b c pg) s = true →
    (s.enabled ((fpFma t s.frm (s.gw a) (s.gw b) (s.gw c)).fl) = 0 → exec (.ffma t d a b c pg) s = .next ((s.raise (fpFma t s.frm (s.gw a) (s.gw b) (s.gw c)).fl).setGS d ((fpFma t s.frm (s.gw a) (s.gw b) (s.gw c)).w.setWidth 64) (fpFma t s.frm (s.gw a) (s.gw b) (s.gw c)).s)) ∧ (s.enabled ((fpFma t s.frm (s.gw a) (s.gw b) (s.gw c)).fl) ≠ 0 → exec (.ffma t d a b c pg) s = .next (s.trap 0x15 (((fpFma t s.frm (s.gw a) (s.gw b) (s.gw c)).fl : Flags).setWidth 64)))) ∧
  (∀ (t : FTy) (d a b : GR) (pg : PR) (s : State), runs (.fmin t d a b pg) s = true →
    (s.enabled ((fpMinMax false (s.gw a) (s.gS a) (s.gw b) (s.gS b)).fl) = 0 → exec (.fmin t d a b pg) s = .next ((s.raise (fpMinMax false (s.gw a) (s.gS a) (s.gw b) (s.gS b)).fl).setGS d ((fpMinMax false (s.gw a) (s.gS a) (s.gw b) (s.gS b)).w.setWidth 64) (fpMinMax false (s.gw a) (s.gS a) (s.gw b) (s.gS b)).s)) ∧ (s.enabled ((fpMinMax false (s.gw a) (s.gS a) (s.gw b) (s.gS b)).fl) ≠ 0 → exec (.fmin t d a b pg) s = .next (s.trap 0x15 (((fpMinMax false (s.gw a) (s.gS a) (s.gw b) (s.gS b)).fl : Flags).setWidth 64)))) ∧
  (∀ (t : FTy) (d a b : GR) (pg : PR) (s : State), runs (.fmax t d a b pg) s = true →
    (s.enabled ((fpMinMax true (s.gw a) (s.gS a) (s.gw b) (s.gS b)).fl) = 0 → exec (.fmax t d a b pg) s = .next ((s.raise (fpMinMax true (s.gw a) (s.gS a) (s.gw b) (s.gS b)).fl).setGS d ((fpMinMax true (s.gw a) (s.gS a) (s.gw b) (s.gS b)).w.setWidth 64) (fpMinMax true (s.gw a) (s.gS a) (s.gw b) (s.gS b)).s)) ∧ (s.enabled ((fpMinMax true (s.gw a) (s.gS a) (s.gw b) (s.gS b)).fl) ≠ 0 → exec (.fmax t d a b pg) s = .next (s.trap 0x15 (((fpMinMax true (s.gw a) (s.gS a) (s.gw b) (s.gS b)).fl : Flags).setWidth 64)))) ∧
  (∀ (t : FTy) (d a : GR) (pg : PR) (s : State), runs (.fcvt t d a pg) s = true →
    (s.enabled ((fpCvt t (s.gw a) (s.gS a)).fl) = 0 → exec (.fcvt t d a pg) s = .next ((s.raise (fpCvt t (s.gw a) (s.gS a)).fl).setGS d ((fpCvt t (s.gw a) (s.gS a)).w.setWidth 64) (fpCvt t (s.gw a) (s.gS a)).s)) ∧ (s.enabled ((fpCvt t (s.gw a) (s.gS a)).fl) ≠ 0 → exec (.fcvt t d a pg) s = .next (s.trap 0x15 (((fpCvt t (s.gw a) (s.gS a)).fl : Flags).setWidth 64)))) ∧
  (∀ (t : FTy) (d a : GR) (pg : PR) (s : State), runs (.fcvtif t d a pg) s = true →
    (s.enabled ((fpFromInt t s.frm (s.g a).toInt).fl) = 0 → exec (.fcvtif t d a pg) s = .next ((s.raise (fpFromInt t s.frm (s.g a).toInt).fl).setGS d ((fpFromInt t s.frm (s.g a).toInt).w.setWidth 64) (fpFromInt t s.frm (s.g a).toInt).s)) ∧ (s.enabled ((fpFromInt t s.frm (s.g a).toInt).fl) ≠ 0 → exec (.fcvtif t d a pg) s = .next (s.trap 0x15 (((fpFromInt t s.frm (s.g a).toInt).fl : Flags).setWidth 64)))) ∧
  (∀ (d a : GR) (pg : PR) (s : State), runs (.fcvtfi d a pg) s = true →
    (s.enabled ((fpToInt 64 s.frm (s.gw a) (s.gS a)).2) = 0 → exec (.fcvtfi d a pg) s = .next ((s.raise (fpToInt 64 s.frm (s.gw a) (s.gS a)).2).setG d (BitVec.ofInt 64 (fpToInt 64 s.frm (s.gw a) (s.gS a)).1))) ∧ (s.enabled ((fpToInt 64 s.frm (s.gw a) (s.gS a)).2) ≠ 0 → exec (.fcvtfi d a pg) s = .next (s.trap 0x15 (((fpToInt 64 s.frm (s.gw a) (s.gS a)).2 : Flags).setWidth 64)))) ∧
  (∀ (d : PR) (a b : GR) (pg : PR) (s : State), runs (.fcmpeq d a b pg) s = true →
    (s.enabled ((fpCompare .eq (s.gw a) (s.gw b)).2) = 0 → exec (.fcmpeq d a b pg) s = .next ((s.raise (fpCompare .eq (s.gw a) (s.gw b)).2).setP d (fpCompare .eq (s.gw a) (s.gw b)).1)) ∧ (s.enabled ((fpCompare .eq (s.gw a) (s.gw b)).2) ≠ 0 → exec (.fcmpeq d a b pg) s = .next (s.trap 0x15 (((fpCompare .eq (s.gw a) (s.gw b)).2 : Flags).setWidth 64)))) ∧
  (∀ (d : PR) (a b : GR) (pg : PR) (s : State), runs (.fcmplt d a b pg) s = true →
    (s.enabled ((fpCompare .lt (s.gw a) (s.gw b)).2) = 0 → exec (.fcmplt d a b pg) s = .next ((s.raise (fpCompare .lt (s.gw a) (s.gw b)).2).setP d (fpCompare .lt (s.gw a) (s.gw b)).1)) ∧ (s.enabled ((fpCompare .lt (s.gw a) (s.gw b)).2) ≠ 0 → exec (.fcmplt d a b pg) s = .next (s.trap 0x15 (((fpCompare .lt (s.gw a) (s.gw b)).2 : Flags).setWidth 64)))) ∧
  (∀ (d : PR) (a b : GR) (pg : PR) (s : State), runs (.fcmple d a b pg) s = true →
    (s.enabled ((fpCompare .le (s.gw a) (s.gw b)).2) = 0 → exec (.fcmple d a b pg) s = .next ((s.raise (fpCompare .le (s.gw a) (s.gw b)).2).setP d (fpCompare .le (s.gw a) (s.gw b)).1)) ∧ (s.enabled ((fpCompare .le (s.gw a) (s.gw b)).2) ≠ 0 → exec (.fcmple d a b pg) s = .next (s.trap 0x15 (((fpCompare .le (s.gw a) (s.gw b)).2 : Flags).setWidth 64)))) ∧
  (∀ (d : PR) (a b : GR) (pg : PR) (s : State), runs (.fcmpun d a b pg) s = true →
    (s.enabled ((fpCompare .un (s.gw a) (s.gw b)).2) = 0 → exec (.fcmpun d a b pg) s = .next ((s.raise (fpCompare .un (s.gw a) (s.gw b)).2).setP d (fpCompare .un (s.gw a) (s.gw b)).1)) ∧ (s.enabled ((fpCompare .un (s.gw a) (s.gw b)).2) ≠ 0 → exec (.fcmpun d a b pg) s = .next (s.trap 0x15 (((fpCompare .un (s.gw a) (s.gw b)).2 : Flags).setWidth 64))))

/-- 05 R125, 05 R127. FNEG flips and FABS clears the sign bit of w, a NaN becomes the canonical one of that sign, S travels, and
no flag is raised; FCLASS sets exactly one of bits 0 to 9, by the sign, exponent and fraction of w. -/
def Obligations.SignAndClass : Prop :=
  (∀ (d a : GR) (pg : PR) (s : State), runs (.fneg d a pg) s = true → ∃ w : W32, exec (.fneg d a pg) s = .next ((s.raise 0).setGS d (w.setWidth 64) (s.gS a)) ∧
    w = if 0x7F800000 < (s.gw a).toNat % 2 ^ 31 then (if (s.gw a).getLsbD 31 then 0x7FC00000 else 0xFFC00000) else s.gw a ^^^ 0x80000000) ∧
  (∀ (d a : GR) (pg : PR) (s : State), runs (.fabs d a pg) s = true → ∃ w : W32, exec (.fabs d a pg) s = .next ((s.raise 0).setGS d (w.setWidth 64) (s.gS a)) ∧
    w = if 0x7F800000 < (s.gw a).toNat % 2 ^ 31 then 0x7FC00000 else s.gw a &&& 0x7FFFFFFF) ∧
  (∀ (d a : GR) (pg : PR) (s : State), runs (.fclass d a pg) s = true → ∃ k, k < 10 ∧ exec (.fclass d a pg) s = .next (s.setG d (BitVec.ofNat 64 (2 ^ k))) ∧
    let w := s.gw a; let e := w.toNat / 2 ^ 23 % 256; let f := w.toNat % 2 ^ 23; let neg := decide (2 ^ 31 ≤ w.toNat);
    k = if e = 255 then (if f = 0 then (if neg then 0 else 7) else if f < 2 ^ 22 then 8 else 9)
      else if e = 0 then (if f = 0 then (if neg then 3 else 4) else (if neg then 2 else 5)) else (if neg then 1 else 6))

/-- 07 R163, 07 R167, 03 R70. VADD to VMULH compute each active lane by the operation of R106 and R107 on the 32-bit lanes of a
and b, with S = 0, keep every other lane of d and change nothing else; sources are those from before the bundle. -/
def Obligations.VectorInteger32 : Prop :=
  (∀ (t : VTy) (d a b : VR) (mg : MR) (s : State), runs (.vadd t d a b mg) s = true → t ≠ .i64 → ∃ y, exec (.vadd t d a b mg) s = .next (s.setV d y) ∧ (s.vr d).Lanes (s.mr mg) (fun i => let x := (s.vr a).lane i; let y := (s.vr b).lane i; ⟨x + y, false⟩) y) ∧
  (∀ (t : VTy) (d a b : VR) (mg : MR) (s : State), runs (.vsub t d a b mg) s = true → t ≠ .i64 → ∃ y, exec (.vsub t d a b mg) s = .next (s.setV d y) ∧ (s.vr d).Lanes (s.mr mg) (fun i => let x := (s.vr a).lane i; let y := (s.vr b).lane i; ⟨x - y, false⟩) y) ∧
  (∀ (t : VTy) (d a b : VR) (mg : MR) (s : State), runs (.vand t d a b mg) s = true → t ≠ .i64 → ∃ y, exec (.vand t d a b mg) s = .next (s.setV d y) ∧ (s.vr d).Lanes (s.mr mg) (fun i => let x := (s.vr a).lane i; let y := (s.vr b).lane i; ⟨x &&& y, false⟩) y) ∧
  (∀ (t : VTy) (d a b : VR) (mg : MR) (s : State), runs (.vor t d a b mg) s = true → t ≠ .i64 → ∃ y, exec (.vor t d a b mg) s = .next (s.setV d y) ∧ (s.vr d).Lanes (s.mr mg) (fun i => let x := (s.vr a).lane i; let y := (s.vr b).lane i; ⟨x ||| y, false⟩) y) ∧
  (∀ (t : VTy) (d a b : VR) (mg : MR) (s : State), runs (.vxor t d a b mg) s = true → t ≠ .i64 → ∃ y, exec (.vxor t d a b mg) s = .next (s.setV d y) ∧ (s.vr d).Lanes (s.mr mg) (fun i => let x := (s.vr a).lane i; let y := (s.vr b).lane i; ⟨x ^^^ y, false⟩) y) ∧
  (∀ (t : VTy) (d a b : VR) (mg : MR) (s : State), runs (.vandn t d a b mg) s = true → t ≠ .i64 → ∃ y, exec (.vandn t d a b mg) s = .next (s.setV d y) ∧ (s.vr d).Lanes (s.mr mg) (fun i => let x := (s.vr a).lane i; let y := (s.vr b).lane i; ⟨x &&& ~~~y, false⟩) y) ∧
  (∀ (t : VTy) (d a b : VR) (mg : MR) (s : State), runs (.vshl t d a b mg) s = true → t ≠ .i64 → ∃ y, exec (.vshl t d a b mg) s = .next (s.setV d y) ∧ (s.vr d).Lanes (s.mr mg) (fun i => let x := (s.vr a).lane i; let y := (s.vr b).lane i; ⟨x <<< (y.toNat % 32), false⟩) y) ∧
  (∀ (t : VTy) (d a b : VR) (mg : MR) (s : State), runs (.vshr t d a b mg) s = true → t ≠ .i64 → ∃ y, exec (.vshr t d a b mg) s = .next (s.setV d y) ∧ (s.vr d).Lanes (s.mr mg) (fun i => let x := (s.vr a).lane i; let y := (s.vr b).lane i; ⟨x >>> (y.toNat % 32), false⟩) y) ∧
  (∀ (t : VTy) (d a b : VR) (mg : MR) (s : State), runs (.vsra t d a b mg) s = true → t ≠ .i64 → ∃ y, exec (.vsra t d a b mg) s = .next (s.setV d y) ∧ (s.vr d).Lanes (s.mr mg) (fun i => let x := (s.vr a).lane i; let y := (s.vr b).lane i; ⟨x.sshiftRight (y.toNat % 32), false⟩) y) ∧
  (∀ (t : VTy) (d a b : VR) (mg : MR) (s : State), runs (.vmul t d a b mg) s = true → t ≠ .i64 → ∃ y, exec (.vmul t d a b mg) s = .next (s.setV d y) ∧ (s.vr d).Lanes (s.mr mg) (fun i => let x := (s.vr a).lane i; let y := (s.vr b).lane i; ⟨x * y, false⟩) y) ∧
  (∀ (t : VTy) (d a b : VR) (mg : MR) (s : State), runs (.vmin t d a b mg) s = true → t ≠ .i64 → ∃ y, exec (.vmin t d a b mg) s = .next (s.setV d y) ∧ (s.vr d).Lanes (s.mr mg) (fun i => let x := (s.vr a).lane i; let y := (s.vr b).lane i; ⟨(if (if t = .z32 then x.ult y else x.slt y) then x else y), false⟩) y) ∧
  (∀ (t : VTy) (d a b : VR) (mg : MR) (s : State), runs (.vmax t d a b mg) s = true → t ≠ .i64 → ∃ y, exec (.vmax t d a b mg) s = .next (s.setV d y) ∧ (s.vr d).Lanes (s.mr mg) (fun i => let x := (s.vr a).lane i; let y := (s.vr b).lane i; ⟨(if (if t = .z32 then x.ult y else x.slt y) then y else x), false⟩) y) ∧
  (∀ (t : VTy) (d a b : VR) (mg : MR) (s : State), runs (.vmulh t d a b mg) s = true → t ≠ .i64 → ∃ y, exec (.vmulh t d a b mg) s = .next (s.setV d y) ∧ (s.vr d).Lanes (s.mr mg) (fun i => let x := (s.vr a).lane i; let y := (s.vr b).lane i; ⟨(if t = .z32 then BitVec.ofNat 32 (x.toNat * y.toNat / 2 ^ 32) else BitVec.ofInt 32 (x.toInt * y.toInt / 2 ^ 32)), false⟩) y)

/-- 07 R163, 07 R167, 03 R67. With .i64 element i is lane i of the second register of the group above lane i of the first; the low
half of the result goes to d and the high half to d + 1, for active lanes, with S = 0. -/
def Obligations.VectorInteger64 : Prop :=
  (∀ (d a b : VR) (mg : MR) (s : State), runs (.vadd .i64 d a b mg) s = true → ∃ y z, exec (.vadd .i64 d a b mg) s = .next ((s.setV d y).setV (d + 1) z) ∧
    let r (i : Nat) : W64 := let x := (s.vr (a + 1)).lane i ++ (s.vr a).lane i; let y := (s.vr (b + 1)).lane i ++ (s.vr b).lane i; x + y
    (s.vr d).Lanes (s.mr mg) (fun i => ⟨(r i).extractLsb' 0 32, false⟩) y ∧ (s.vr (d + 1)).Lanes (s.mr mg) (fun i => ⟨(r i).extractLsb' 32 32, false⟩) z) ∧
  (∀ (d a b : VR) (mg : MR) (s : State), runs (.vsub .i64 d a b mg) s = true → ∃ y z, exec (.vsub .i64 d a b mg) s = .next ((s.setV d y).setV (d + 1) z) ∧
    let r (i : Nat) : W64 := let x := (s.vr (a + 1)).lane i ++ (s.vr a).lane i; let y := (s.vr (b + 1)).lane i ++ (s.vr b).lane i; x - y
    (s.vr d).Lanes (s.mr mg) (fun i => ⟨(r i).extractLsb' 0 32, false⟩) y ∧ (s.vr (d + 1)).Lanes (s.mr mg) (fun i => ⟨(r i).extractLsb' 32 32, false⟩) z) ∧
  (∀ (d a b : VR) (mg : MR) (s : State), runs (.vand .i64 d a b mg) s = true → ∃ y z, exec (.vand .i64 d a b mg) s = .next ((s.setV d y).setV (d + 1) z) ∧
    let r (i : Nat) : W64 := let x := (s.vr (a + 1)).lane i ++ (s.vr a).lane i; let y := (s.vr (b + 1)).lane i ++ (s.vr b).lane i; x &&& y
    (s.vr d).Lanes (s.mr mg) (fun i => ⟨(r i).extractLsb' 0 32, false⟩) y ∧ (s.vr (d + 1)).Lanes (s.mr mg) (fun i => ⟨(r i).extractLsb' 32 32, false⟩) z) ∧
  (∀ (d a b : VR) (mg : MR) (s : State), runs (.vor .i64 d a b mg) s = true → ∃ y z, exec (.vor .i64 d a b mg) s = .next ((s.setV d y).setV (d + 1) z) ∧
    let r (i : Nat) : W64 := let x := (s.vr (a + 1)).lane i ++ (s.vr a).lane i; let y := (s.vr (b + 1)).lane i ++ (s.vr b).lane i; x ||| y
    (s.vr d).Lanes (s.mr mg) (fun i => ⟨(r i).extractLsb' 0 32, false⟩) y ∧ (s.vr (d + 1)).Lanes (s.mr mg) (fun i => ⟨(r i).extractLsb' 32 32, false⟩) z) ∧
  (∀ (d a b : VR) (mg : MR) (s : State), runs (.vxor .i64 d a b mg) s = true → ∃ y z, exec (.vxor .i64 d a b mg) s = .next ((s.setV d y).setV (d + 1) z) ∧
    let r (i : Nat) : W64 := let x := (s.vr (a + 1)).lane i ++ (s.vr a).lane i; let y := (s.vr (b + 1)).lane i ++ (s.vr b).lane i; x ^^^ y
    (s.vr d).Lanes (s.mr mg) (fun i => ⟨(r i).extractLsb' 0 32, false⟩) y ∧ (s.vr (d + 1)).Lanes (s.mr mg) (fun i => ⟨(r i).extractLsb' 32 32, false⟩) z) ∧
  (∀ (d a b : VR) (mg : MR) (s : State), runs (.vandn .i64 d a b mg) s = true → ∃ y z, exec (.vandn .i64 d a b mg) s = .next ((s.setV d y).setV (d + 1) z) ∧
    let r (i : Nat) : W64 := let x := (s.vr (a + 1)).lane i ++ (s.vr a).lane i; let y := (s.vr (b + 1)).lane i ++ (s.vr b).lane i; x &&& ~~~y
    (s.vr d).Lanes (s.mr mg) (fun i => ⟨(r i).extractLsb' 0 32, false⟩) y ∧ (s.vr (d + 1)).Lanes (s.mr mg) (fun i => ⟨(r i).extractLsb' 32 32, false⟩) z) ∧
  (∀ (d a b : VR) (mg : MR) (s : State), runs (.vshl .i64 d a b mg) s = true → ∃ y z, exec (.vshl .i64 d a b mg) s = .next ((s.setV d y).setV (d + 1) z) ∧
    let r (i : Nat) : W64 := let x := (s.vr (a + 1)).lane i ++ (s.vr a).lane i; let y := (s.vr (b + 1)).lane i ++ (s.vr b).lane i; x <<< (y.toNat % 64)
    (s.vr d).Lanes (s.mr mg) (fun i => ⟨(r i).extractLsb' 0 32, false⟩) y ∧ (s.vr (d + 1)).Lanes (s.mr mg) (fun i => ⟨(r i).extractLsb' 32 32, false⟩) z) ∧
  (∀ (d a b : VR) (mg : MR) (s : State), runs (.vshr .i64 d a b mg) s = true → ∃ y z, exec (.vshr .i64 d a b mg) s = .next ((s.setV d y).setV (d + 1) z) ∧
    let r (i : Nat) : W64 := let x := (s.vr (a + 1)).lane i ++ (s.vr a).lane i; let y := (s.vr (b + 1)).lane i ++ (s.vr b).lane i; x >>> (y.toNat % 64)
    (s.vr d).Lanes (s.mr mg) (fun i => ⟨(r i).extractLsb' 0 32, false⟩) y ∧ (s.vr (d + 1)).Lanes (s.mr mg) (fun i => ⟨(r i).extractLsb' 32 32, false⟩) z) ∧
  (∀ (d a b : VR) (mg : MR) (s : State), runs (.vsra .i64 d a b mg) s = true → ∃ y z, exec (.vsra .i64 d a b mg) s = .next ((s.setV d y).setV (d + 1) z) ∧
    let r (i : Nat) : W64 := let x := (s.vr (a + 1)).lane i ++ (s.vr a).lane i; let y := (s.vr (b + 1)).lane i ++ (s.vr b).lane i; x.sshiftRight (y.toNat % 64)
    (s.vr d).Lanes (s.mr mg) (fun i => ⟨(r i).extractLsb' 0 32, false⟩) y ∧ (s.vr (d + 1)).Lanes (s.mr mg) (fun i => ⟨(r i).extractLsb' 32 32, false⟩) z) ∧
  (∀ (d a b : VR) (mg : MR) (s : State), runs (.vmul .i64 d a b mg) s = true → ∃ y z, exec (.vmul .i64 d a b mg) s = .next ((s.setV d y).setV (d + 1) z) ∧
    let r (i : Nat) : W64 := let x := (s.vr (a + 1)).lane i ++ (s.vr a).lane i; let y := (s.vr (b + 1)).lane i ++ (s.vr b).lane i; x * y
    (s.vr d).Lanes (s.mr mg) (fun i => ⟨(r i).extractLsb' 0 32, false⟩) y ∧ (s.vr (d + 1)).Lanes (s.mr mg) (fun i => ⟨(r i).extractLsb' 32 32, false⟩) z) ∧
  (∀ (d a b : VR) (mg : MR) (s : State), runs (.vmin .i64 d a b mg) s = true → ∃ y z, exec (.vmin .i64 d a b mg) s = .next ((s.setV d y).setV (d + 1) z) ∧
    let r (i : Nat) : W64 := let x := (s.vr (a + 1)).lane i ++ (s.vr a).lane i; let y := (s.vr (b + 1)).lane i ++ (s.vr b).lane i; (if (x.slt y) then x else y)
    (s.vr d).Lanes (s.mr mg) (fun i => ⟨(r i).extractLsb' 0 32, false⟩) y ∧ (s.vr (d + 1)).Lanes (s.mr mg) (fun i => ⟨(r i).extractLsb' 32 32, false⟩) z) ∧
  (∀ (d a b : VR) (mg : MR) (s : State), runs (.vmax .i64 d a b mg) s = true → ∃ y z, exec (.vmax .i64 d a b mg) s = .next ((s.setV d y).setV (d + 1) z) ∧
    let r (i : Nat) : W64 := let x := (s.vr (a + 1)).lane i ++ (s.vr a).lane i; let y := (s.vr (b + 1)).lane i ++ (s.vr b).lane i; (if (x.slt y) then y else x)
    (s.vr d).Lanes (s.mr mg) (fun i => ⟨(r i).extractLsb' 0 32, false⟩) y ∧ (s.vr (d + 1)).Lanes (s.mr mg) (fun i => ⟨(r i).extractLsb' 32 32, false⟩) z) ∧
  (∀ (d a b : VR) (mg : MR) (s : State), runs (.vmulh .i64 d a b mg) s = true → ∃ y z, exec (.vmulh .i64 d a b mg) s = .next ((s.setV d y).setV (d + 1) z) ∧
    let r (i : Nat) : W64 := let x := (s.vr (a + 1)).lane i ++ (s.vr a).lane i; let y := (s.vr (b + 1)).lane i ++ (s.vr b).lane i; (BitVec.ofInt 64 (x.toInt * y.toInt / 2 ^ 64))
    (s.vr d).Lanes (s.mr mg) (fun i => ⟨(r i).extractLsb' 0 32, false⟩) y ∧ (s.vr (d + 1)).Lanes (s.mr mg) (fun i => ⟨(r i).extractLsb' 32 32, false⟩) z)

/-- 07 R168, 07 R169. VCMPEQ to VCMPLE write the signed or unsigned relation of each active lane to the bit of mask d; MAND to
MNOT and MFROMG write the bits under the guard; bits not under the guard are kept; MTOG and MPOPC write the bits of a under
the guard, and their number, to a scalar register. -/
def Obligations.VectorComparesAndMasks : Prop :=
  (∀ (d : MR) (a b : VR) (mg : MR) (s : State), runs (.vcmpeq .i32 d a b mg) s = true → ∃ w, exec (.vcmpeq .i32 d a b mg) s = .next (s.setM d w) ∧ MaskBits (s.mr d) (s.mr mg) (fun i => let x := (s.vr a).lane i; let y := (s.vr b).lane i; decide (x = y)) w) ∧
  (∀ (d : MR) (a b : VR) (mg : MR) (s : State), runs (.vcmpeq .z32 d a b mg) s = true → ∃ w, exec (.vcmpeq .z32 d a b mg) s = .next (s.setM d w) ∧ MaskBits (s.mr d) (s.mr mg) (fun i => let x := (s.vr a).lane i; let y := (s.vr b).lane i; decide (x = y)) w) ∧
  (∀ (d : MR) (a b : VR) (mg : MR) (s : State), runs (.vcmpeq .i64 d a b mg) s = true → ∃ w, exec (.vcmpeq .i64 d a b mg) s = .next (s.setM d w) ∧ MaskBits (s.mr d) (s.mr mg) (fun i => let x := (s.vr (a + 1)).lane i ++ (s.vr a).lane i; let y := (s.vr (b + 1)).lane i ++ (s.vr b).lane i; decide (x = y)) w) ∧
  (∀ (d : MR) (a b : VR) (mg : MR) (s : State), runs (.vcmpne .i32 d a b mg) s = true → ∃ w, exec (.vcmpne .i32 d a b mg) s = .next (s.setM d w) ∧ MaskBits (s.mr d) (s.mr mg) (fun i => let x := (s.vr a).lane i; let y := (s.vr b).lane i; decide (x ≠ y)) w) ∧
  (∀ (d : MR) (a b : VR) (mg : MR) (s : State), runs (.vcmpne .z32 d a b mg) s = true → ∃ w, exec (.vcmpne .z32 d a b mg) s = .next (s.setM d w) ∧ MaskBits (s.mr d) (s.mr mg) (fun i => let x := (s.vr a).lane i; let y := (s.vr b).lane i; decide (x ≠ y)) w) ∧
  (∀ (d : MR) (a b : VR) (mg : MR) (s : State), runs (.vcmpne .i64 d a b mg) s = true → ∃ w, exec (.vcmpne .i64 d a b mg) s = .next (s.setM d w) ∧ MaskBits (s.mr d) (s.mr mg) (fun i => let x := (s.vr (a + 1)).lane i ++ (s.vr a).lane i; let y := (s.vr (b + 1)).lane i ++ (s.vr b).lane i; decide (x ≠ y)) w) ∧
  (∀ (d : MR) (a b : VR) (mg : MR) (s : State), runs (.vcmplt .i32 d a b mg) s = true → ∃ w, exec (.vcmplt .i32 d a b mg) s = .next (s.setM d w) ∧ MaskBits (s.mr d) (s.mr mg) (fun i => let x := (s.vr a).lane i; let y := (s.vr b).lane i; decide (x.toInt < y.toInt)) w) ∧
  (∀ (d : MR) (a b : VR) (mg : MR) (s : State), runs (.vcmplt .z32 d a b mg) s = true → ∃ w, exec (.vcmplt .z32 d a b mg) s = .next (s.setM d w) ∧ MaskBits (s.mr d) (s.mr mg) (fun i => let x := (s.vr a).lane i; let y := (s.vr b).lane i; decide (x.toNat < y.toNat)) w) ∧
  (∀ (d : MR) (a b : VR) (mg : MR) (s : State), runs (.vcmplt .i64 d a b mg) s = true → ∃ w, exec (.vcmplt .i64 d a b mg) s = .next (s.setM d w) ∧ MaskBits (s.mr d) (s.mr mg) (fun i => let x := (s.vr (a + 1)).lane i ++ (s.vr a).lane i; let y := (s.vr (b + 1)).lane i ++ (s.vr b).lane i; decide (x.toInt < y.toInt)) w) ∧
  (∀ (d : MR) (a b : VR) (mg : MR) (s : State), runs (.vcmple .i32 d a b mg) s = true → ∃ w, exec (.vcmple .i32 d a b mg) s = .next (s.setM d w) ∧ MaskBits (s.mr d) (s.mr mg) (fun i => let x := (s.vr a).lane i; let y := (s.vr b).lane i; decide (x.toInt ≤ y.toInt)) w) ∧
  (∀ (d : MR) (a b : VR) (mg : MR) (s : State), runs (.vcmple .z32 d a b mg) s = true → ∃ w, exec (.vcmple .z32 d a b mg) s = .next (s.setM d w) ∧ MaskBits (s.mr d) (s.mr mg) (fun i => let x := (s.vr a).lane i; let y := (s.vr b).lane i; decide (x.toNat ≤ y.toNat)) w) ∧
  (∀ (d : MR) (a b : VR) (mg : MR) (s : State), runs (.vcmple .i64 d a b mg) s = true → ∃ w, exec (.vcmple .i64 d a b mg) s = .next (s.setM d w) ∧ MaskBits (s.mr d) (s.mr mg) (fun i => let x := (s.vr (a + 1)).lane i ++ (s.vr a).lane i; let y := (s.vr (b + 1)).lane i ++ (s.vr b).lane i; decide (x.toInt ≤ y.toInt)) w) ∧
  (∀ (d a b mg : MR) (s : State), runs (.mand d a b mg) s = true → ∃ w, exec (.mand d a b mg) s = .next (s.setM d w) ∧ MaskBits (s.mr d) (s.mr mg) (fun i => (s.mr a).getLsbD i && (s.mr b).getLsbD i) w) ∧
  (∀ (d a b mg : MR) (s : State), runs (.mor d a b mg) s = true → ∃ w, exec (.mor d a b mg) s = .next (s.setM d w) ∧ MaskBits (s.mr d) (s.mr mg) (fun i => (s.mr a).getLsbD i || (s.mr b).getLsbD i) w) ∧
  (∀ (d a b mg : MR) (s : State), runs (.mxor d a b mg) s = true → ∃ w, exec (.mxor d a b mg) s = .next (s.setM d w) ∧ MaskBits (s.mr d) (s.mr mg) (fun i => (s.mr a).getLsbD i != (s.mr b).getLsbD i) w) ∧
  (∀ (d a b mg : MR) (s : State), runs (.mandn d a b mg) s = true → ∃ w, exec (.mandn d a b mg) s = .next (s.setM d w) ∧ MaskBits (s.mr d) (s.mr mg) (fun i => (s.mr a).getLsbD i && !(s.mr b).getLsbD i) w) ∧
  (∀ (d a mg : MR) (s : State), runs (.mnot d a mg) s = true → ∃ w, exec (.mnot d a mg) s = .next (s.setM d w) ∧ MaskBits (s.mr d) (s.mr mg) (fun i => !(s.mr a).getLsbD i) w) ∧
  (∀ (d : MR) (a : GR) (mg : MR) (s : State), runs (.mfromg d a mg) s = true → ∃ w, exec (.mfromg d a mg) s = .next (s.setM d w) ∧ MaskBits (s.mr d) (s.mr mg) (fun i => (s.g a).getLsbD i) w) ∧
  (∀ (d : GR) (a mg : MR) (s : State), runs (.mtog d a mg) s = true → exec (.mtog d a mg) s = .next (s.setG d ((s.mr a &&& s.mr mg).setWidth 64))) ∧
  (∀ (d : GR) (a mg : MR) (s : State), runs (.mpopc d a mg) s = true → exec (.mpopc d a mg) s = .next (s.setG d (BitVec.ofNat 64 ((List.range 32).countP fun i => (s.mr a).getLsbD i && (s.mr mg).getLsbD i))))

/-- 07 R165, 07 R166, 07 R170, 07 R173, 07 R174, 03 R70. Each vector floating-point instruction computes its active lanes as the
scalar instruction does, raises the union of their flags and keeps the other lanes; where an enabled flag is among them it
traps with 0x15 and writes nothing. -/
def Obligations.VectorFloatingPoint : Prop :=
  (∀ (t : FTy) (d a b : VR) (mg : MR) (s : State), runs (.vfadd t d a b mg) s = true → let r (i : Nat) : FpRes := fpArith .add t s.frm ((s.vr a).lane i) ((s.vr b).lane i);
    let fl : Flags := ((List.range 32).filter (s.mr mg).getLsbD).foldl (fun f i => f ||| (r i).fl) 0;
    (s.enabled fl = 0 → ∃ y, exec (.vfadd t d a b mg) s = .next ((s.raise fl).setV d y) ∧ (s.vr d).Lanes (s.mr mg) (fun i => ⟨(r i).w, (r i).s⟩) y) ∧
    (s.enabled fl ≠ 0 → exec (.vfadd t d a b mg) s = .next (s.trap 0x15 (fl.setWidth 64)))) ∧
  (∀ (t : FTy) (d a b : VR) (mg : MR) (s : State), runs (.vfsub t d a b mg) s = true → let r (i : Nat) : FpRes := fpArith .sub t s.frm ((s.vr a).lane i) ((s.vr b).lane i);
    let fl : Flags := ((List.range 32).filter (s.mr mg).getLsbD).foldl (fun f i => f ||| (r i).fl) 0;
    (s.enabled fl = 0 → ∃ y, exec (.vfsub t d a b mg) s = .next ((s.raise fl).setV d y) ∧ (s.vr d).Lanes (s.mr mg) (fun i => ⟨(r i).w, (r i).s⟩) y) ∧
    (s.enabled fl ≠ 0 → exec (.vfsub t d a b mg) s = .next (s.trap 0x15 (fl.setWidth 64)))) ∧
  (∀ (t : FTy) (d a b : VR) (mg : MR) (s : State), runs (.vfmul t d a b mg) s = true → let r (i : Nat) : FpRes := fpArith .mul t s.frm ((s.vr a).lane i) ((s.vr b).lane i);
    let fl : Flags := ((List.range 32).filter (s.mr mg).getLsbD).foldl (fun f i => f ||| (r i).fl) 0;
    (s.enabled fl = 0 → ∃ y, exec (.vfmul t d a b mg) s = .next ((s.raise fl).setV d y) ∧ (s.vr d).Lanes (s.mr mg) (fun i => ⟨(r i).w, (r i).s⟩) y) ∧
    (s.enabled fl ≠ 0 → exec (.vfmul t d a b mg) s = .next (s.trap 0x15 (fl.setWidth 64)))) ∧
  (∀ (t : FTy) (d a b : VR) (mg : MR) (s : State), runs (.vfdiv t d a b mg) s = true → let r (i : Nat) : FpRes := fpArith .div t s.frm ((s.vr a).lane i) ((s.vr b).lane i);
    let fl : Flags := ((List.range 32).filter (s.mr mg).getLsbD).foldl (fun f i => f ||| (r i).fl) 0;
    (s.enabled fl = 0 → ∃ y, exec (.vfdiv t d a b mg) s = .next ((s.raise fl).setV d y) ∧ (s.vr d).Lanes (s.mr mg) (fun i => ⟨(r i).w, (r i).s⟩) y) ∧
    (s.enabled fl ≠ 0 → exec (.vfdiv t d a b mg) s = .next (s.trap 0x15 (fl.setWidth 64)))) ∧
  (∀ (t : FTy) (d a : VR) (mg : MR) (s : State), runs (.vfsqrt t d a mg) s = true → let r (i : Nat) : FpRes := fpArith .sqrt t s.frm ((s.vr a).lane i) ((s.vr a).lane i);
    let fl : Flags := ((List.range 32).filter (s.mr mg).getLsbD).foldl (fun f i => f ||| (r i).fl) 0;
    (s.enabled fl = 0 → ∃ y, exec (.vfsqrt t d a mg) s = .next ((s.raise fl).setV d y) ∧ (s.vr d).Lanes (s.mr mg) (fun i => ⟨(r i).w, (r i).s⟩) y) ∧
    (s.enabled fl ≠ 0 → exec (.vfsqrt t d a mg) s = .next (s.trap 0x15 (fl.setWidth 64)))) ∧
  (∀ (t : FTy) (d a b c : VR) (mg : MR) (s : State), runs (.vffma t d a b c mg) s = true → let r (i : Nat) : FpRes := fpFma t s.frm ((s.vr a).lane i) ((s.vr b).lane i) ((s.vr c).lane i);
    let fl : Flags := ((List.range 32).filter (s.mr mg).getLsbD).foldl (fun f i => f ||| (r i).fl) 0;
    (s.enabled fl = 0 → ∃ y, exec (.vffma t d a b c mg) s = .next ((s.raise fl).setV d y) ∧ (s.vr d).Lanes (s.mr mg) (fun i => ⟨(r i).w, (r i).s⟩) y) ∧
    (s.enabled fl ≠ 0 → exec (.vffma t d a b c mg) s = .next (s.trap 0x15 (fl.setWidth 64)))) ∧
  (∀ (t : FTy) (d a b : VR) (mg : MR) (s : State), runs (.vfmin t d a b mg) s = true → let r (i : Nat) : FpRes := fpMinMax false ((s.vr a).lane i) ((s.vr a).laneS i) ((s.vr b).lane i) ((s.vr b).laneS i);
    let fl : Flags := ((List.range 32).filter (s.mr mg).getLsbD).foldl (fun f i => f ||| (r i).fl) 0;
    (s.enabled fl = 0 → ∃ y, exec (.vfmin t d a b mg) s = .next ((s.raise fl).setV d y) ∧ (s.vr d).Lanes (s.mr mg) (fun i => ⟨(r i).w, (r i).s⟩) y) ∧
    (s.enabled fl ≠ 0 → exec (.vfmin t d a b mg) s = .next (s.trap 0x15 (fl.setWidth 64)))) ∧
  (∀ (t : FTy) (d a b : VR) (mg : MR) (s : State), runs (.vfmax t d a b mg) s = true → let r (i : Nat) : FpRes := fpMinMax true ((s.vr a).lane i) ((s.vr a).laneS i) ((s.vr b).lane i) ((s.vr b).laneS i);
    let fl : Flags := ((List.range 32).filter (s.mr mg).getLsbD).foldl (fun f i => f ||| (r i).fl) 0;
    (s.enabled fl = 0 → ∃ y, exec (.vfmax t d a b mg) s = .next ((s.raise fl).setV d y) ∧ (s.vr d).Lanes (s.mr mg) (fun i => ⟨(r i).w, (r i).s⟩) y) ∧
    (s.enabled fl ≠ 0 → exec (.vfmax t d a b mg) s = .next (s.trap 0x15 (fl.setWidth 64)))) ∧
  (∀ (d a : VR) (mg : MR) (s : State), runs (.vfneg d a mg) s = true → let r (i : Nat) : FpRes := ⟨fpSign true ((s.vr a).lane i), ((s.vr a).laneS i), 0⟩;
    let fl : Flags := ((List.range 32).filter (s.mr mg).getLsbD).foldl (fun f i => f ||| (r i).fl) 0;
    (s.enabled fl = 0 → ∃ y, exec (.vfneg d a mg) s = .next ((s.raise fl).setV d y) ∧ (s.vr d).Lanes (s.mr mg) (fun i => ⟨(r i).w, (r i).s⟩) y) ∧
    (s.enabled fl ≠ 0 → exec (.vfneg d a mg) s = .next (s.trap 0x15 (fl.setWidth 64)))) ∧
  (∀ (d a : VR) (mg : MR) (s : State), runs (.vfabs d a mg) s = true → let r (i : Nat) : FpRes := ⟨fpSign false ((s.vr a).lane i), ((s.vr a).laneS i), 0⟩;
    let fl : Flags := ((List.range 32).filter (s.mr mg).getLsbD).foldl (fun f i => f ||| (r i).fl) 0;
    (s.enabled fl = 0 → ∃ y, exec (.vfabs d a mg) s = .next ((s.raise fl).setV d y) ∧ (s.vr d).Lanes (s.mr mg) (fun i => ⟨(r i).w, (r i).s⟩) y) ∧
    (s.enabled fl ≠ 0 → exec (.vfabs d a mg) s = .next (s.trap 0x15 (fl.setWidth 64)))) ∧
  (∀ (t : FTy) (d a : VR) (mg : MR) (s : State), runs (.vfcvt t d a mg) s = true → let r (i : Nat) : FpRes := fpCvt t ((s.vr a).lane i) ((s.vr a).laneS i);
    let fl : Flags := ((List.range 32).filter (s.mr mg).getLsbD).foldl (fun f i => f ||| (r i).fl) 0;
    (s.enabled fl = 0 → ∃ y, exec (.vfcvt t d a mg) s = .next ((s.raise fl).setV d y) ∧ (s.vr d).Lanes (s.mr mg) (fun i => ⟨(r i).w, (r i).s⟩) y) ∧
    (s.enabled fl ≠ 0 → exec (.vfcvt t d a mg) s = .next (s.trap 0x15 (fl.setWidth 64)))) ∧
  (∀ (t : FTy) (d a : VR) (mg : MR) (s : State), runs (.vfcvtif t d a mg) s = true → let r (i : Nat) : FpRes := fpFromInt t s.frm ((s.vr a).lane i).toInt;
    let fl : Flags := ((List.range 32).filter (s.mr mg).getLsbD).foldl (fun f i => f ||| (r i).fl) 0;
    (s.enabled fl = 0 → ∃ y, exec (.vfcvtif t d a mg) s = .next ((s.raise fl).setV d y) ∧ (s.vr d).Lanes (s.mr mg) (fun i => ⟨(r i).w, (r i).s⟩) y) ∧
    (s.enabled fl ≠ 0 → exec (.vfcvtif t d a mg) s = .next (s.trap 0x15 (fl.setWidth 64)))) ∧
  (∀ (d a : VR) (mg : MR) (s : State), runs (.vfcvtfi d a mg) s = true → let r (i : Nat) : FpRes := ⟨BitVec.ofInt 32 (fpToInt 32 s.frm ((s.vr a).lane i) ((s.vr a).laneS i)).1, false, (fpToInt 32 s.frm ((s.vr a).lane i) ((s.vr a).laneS i)).2⟩;
    let fl : Flags := ((List.range 32).filter (s.mr mg).getLsbD).foldl (fun f i => f ||| (r i).fl) 0;
    (s.enabled fl = 0 → ∃ y, exec (.vfcvtfi d a mg) s = .next ((s.raise fl).setV d y) ∧ (s.vr d).Lanes (s.mr mg) (fun i => ⟨(r i).w, (r i).s⟩) y) ∧
    (s.enabled fl ≠ 0 → exec (.vfcvtfi d a mg) s = .next (s.trap 0x15 (fl.setWidth 64)))) ∧
  (∀ (t : FTy) (d a : VR) (mg : MR) (s : State), runs (.vfrcp t d a mg) s = true → let r (i : Nat) : FpRes := fpRcp t ((s.vr a).lane i);
    let fl : Flags := ((List.range 32).filter (s.mr mg).getLsbD).foldl (fun f i => f ||| (r i).fl) 0;
    (s.enabled fl = 0 → ∃ y, exec (.vfrcp t d a mg) s = .next ((s.raise fl).setV d y) ∧ (s.vr d).Lanes (s.mr mg) (fun i => ⟨(r i).w, (r i).s⟩) y) ∧
    (s.enabled fl ≠ 0 → exec (.vfrcp t d a mg) s = .next (s.trap 0x15 (fl.setWidth 64)))) ∧
  (∀ (t : FTy) (d a : VR) (mg : MR) (s : State), runs (.vfrsqrt t d a mg) s = true → let r (i : Nat) : FpRes := fpRsqrt t ((s.vr a).lane i);
    let fl : Flags := ((List.range 32).filter (s.mr mg).getLsbD).foldl (fun f i => f ||| (r i).fl) 0;
    (s.enabled fl = 0 → ∃ y, exec (.vfrsqrt t d a mg) s = .next ((s.raise fl).setV d y) ∧ (s.vr d).Lanes (s.mr mg) (fun i => ⟨(r i).w, (r i).s⟩) y) ∧
    (s.enabled fl ≠ 0 → exec (.vfrsqrt t d a mg) s = .next (s.trap 0x15 (fl.setWidth 64)))) ∧
  (∀ (t : FTy) (d a : VR) (mg : MR) (s : State), runs (.vfexp2 t d a mg) s = true → let r (i : Nat) : FpRes := fpExp2 t ((s.vr a).lane i);
    let fl : Flags := ((List.range 32).filter (s.mr mg).getLsbD).foldl (fun f i => f ||| (r i).fl) 0;
    (s.enabled fl = 0 → ∃ y, exec (.vfexp2 t d a mg) s = .next ((s.raise fl).setV d y) ∧ (s.vr d).Lanes (s.mr mg) (fun i => ⟨(r i).w, (r i).s⟩) y) ∧
    (s.enabled fl ≠ 0 → exec (.vfexp2 t d a mg) s = .next (s.trap 0x15 (fl.setWidth 64)))) ∧
  (∀ (t : FTy) (d a : VR) (mg : MR) (s : State), runs (.vflog2 t d a mg) s = true → let r (i : Nat) : FpRes := fpLog2 t ((s.vr a).lane i);
    let fl : Flags := ((List.range 32).filter (s.mr mg).getLsbD).foldl (fun f i => f ||| (r i).fl) 0;
    (s.enabled fl = 0 → ∃ y, exec (.vflog2 t d a mg) s = .next ((s.raise fl).setV d y) ∧ (s.vr d).Lanes (s.mr mg) (fun i => ⟨(r i).w, (r i).s⟩) y) ∧
    (s.enabled fl ≠ 0 → exec (.vflog2 t d a mg) s = .next (s.trap 0x15 (fl.setWidth 64))))

/-- 07 R171, 07 R172, 07 R166. VFCMP writes its relation under the guard with the union of the flags; VFRED, VFRMIN and VFRMAX
write the root of the pairwise tree over the active lanes with its flags; with one active lane the result is that lane,
unrounded and without a flag; an enabled flag traps with 0x15 instead. -/
def Obligations.VectorFpComparesAndReductions : Prop :=
  (∀ (d : MR) (a b : VR) (mg : MR) (s : State), runs (.vfcmpeq d a b mg) s = true → let r (i : Nat) : Bool × Flags := fpCompare .eq ((s.vr a).lane i) ((s.vr b).lane i);
    let fl : Flags := ((List.range 32).filter (s.mr mg).getLsbD).foldl (fun f i => f ||| (r i).2) 0;
    (s.enabled fl = 0 → ∃ w, exec (.vfcmpeq d a b mg) s = .next ((s.raise fl).setM d w) ∧ MaskBits (s.mr d) (s.mr mg) (fun i => (r i).1) w) ∧
    (s.enabled fl ≠ 0 → exec (.vfcmpeq d a b mg) s = .next (s.trap 0x15 (fl.setWidth 64)))) ∧
  (∀ (d : MR) (a b : VR) (mg : MR) (s : State), runs (.vfcmplt d a b mg) s = true → let r (i : Nat) : Bool × Flags := fpCompare .lt ((s.vr a).lane i) ((s.vr b).lane i);
    let fl : Flags := ((List.range 32).filter (s.mr mg).getLsbD).foldl (fun f i => f ||| (r i).2) 0;
    (s.enabled fl = 0 → ∃ w, exec (.vfcmplt d a b mg) s = .next ((s.raise fl).setM d w) ∧ MaskBits (s.mr d) (s.mr mg) (fun i => (r i).1) w) ∧
    (s.enabled fl ≠ 0 → exec (.vfcmplt d a b mg) s = .next (s.trap 0x15 (fl.setWidth 64)))) ∧
  (∀ (d : MR) (a b : VR) (mg : MR) (s : State), runs (.vfcmple d a b mg) s = true → let r (i : Nat) : Bool × Flags := fpCompare .le ((s.vr a).lane i) ((s.vr b).lane i);
    let fl : Flags := ((List.range 32).filter (s.mr mg).getLsbD).foldl (fun f i => f ||| (r i).2) 0;
    (s.enabled fl = 0 → ∃ w, exec (.vfcmple d a b mg) s = .next ((s.raise fl).setM d w) ∧ MaskBits (s.mr d) (s.mr mg) (fun i => (r i).1) w) ∧
    (s.enabled fl ≠ 0 → exec (.vfcmple d a b mg) s = .next (s.trap 0x15 (fl.setWidth 64)))) ∧
  (∀ (d : MR) (a b : VR) (mg : MR) (s : State), runs (.vfcmpun d a b mg) s = true → let r (i : Nat) : Bool × Flags := fpCompare .un ((s.vr a).lane i) ((s.vr b).lane i);
    let fl : Flags := ((List.range 32).filter (s.mr mg).getLsbD).foldl (fun f i => f ||| (r i).2) 0;
    (s.enabled fl = 0 → ∃ w, exec (.vfcmpun d a b mg) s = .next ((s.raise fl).setM d w) ∧ MaskBits (s.mr d) (s.mr mg) (fun i => (r i).1) w) ∧
    (s.enabled fl ≠ 0 → exec (.vfcmpun d a b mg) s = .next (s.trap 0x15 (fl.setWidth 64)))) ∧
  (∀ (t : FTy) (d : GR) (a : VR) (mg : MR) (s : State), runs (.vfred t d a mg) s = true → let r := reduce true (combineAdd t s.frm) (s.mr mg) (s.vr a);
    (s.enabled r.fl = 0 → exec (.vfred t d a mg) s = .next ((s.raise r.fl).setGS d (r.w.setWidth 64) r.s)) ∧
    (s.enabled r.fl ≠ 0 → exec (.vfred t d a mg) s = .next (s.trap 0x15 (r.fl.setWidth 64))) ∧
    ∀ k, k < 32 → (∀ i, i < 32 → ((s.mr mg).getLsbD i = true ↔ i = k)) → r = ⟨(s.vr a).lane k, (s.vr a).laneS k, 0⟩) ∧
  (∀ (t : FTy) (d : GR) (a : VR) (mg : MR) (s : State), runs (.vfrmin t d a mg) s = true → let r := reduce false (combinePick false) (s.mr mg) (s.vr a);
    (s.enabled r.fl = 0 → exec (.vfrmin t d a mg) s = .next ((s.raise r.fl).setGS d (r.w.setWidth 64) r.s)) ∧
    (s.enabled r.fl ≠ 0 → exec (.vfrmin t d a mg) s = .next (s.trap 0x15 (r.fl.setWidth 64))) ∧
    ∀ k, k < 32 → (∀ i, i < 32 → ((s.mr mg).getLsbD i = true ↔ i = k)) → r = ⟨(s.vr a).lane k, (s.vr a).laneS k, 0⟩) ∧
  (∀ (t : FTy) (d : GR) (a : VR) (mg : MR) (s : State), runs (.vfrmax t d a mg) s = true → let r := reduce false (combinePick true) (s.mr mg) (s.vr a);
    (s.enabled r.fl = 0 → exec (.vfrmax t d a mg) s = .next ((s.raise r.fl).setGS d (r.w.setWidth 64) r.s)) ∧
    (s.enabled r.fl ≠ 0 → exec (.vfrmax t d a mg) s = .next (s.trap 0x15 (r.fl.setWidth 64))) ∧
    ∀ k, k < 32 → (∀ i, i < 32 → ((s.mr mg).getLsbD i = true ↔ i = k)) → r = ⟨(s.vr a).lane k, (s.vr a).laneS k, 0⟩)

/-- 07 R175, 07 R176, 07 R177. VPERM, VSLIDE, VBCAST, VMOV, VEXPAND, VCOMPRESS, VINS, VEXT, VZIP and VUNZIP move w and S of lanes
as R175 to R177 state, with every lane of the destination stated. -/
def Obligations.VectorPermutes : Prop :=
  (∀ (d a b : VR) (mg : MR) (s : State), runs (.vperm d a b mg) s = true → ∃ y, exec (.vperm d a b mg) s = .next (s.setV d y) ∧ (s.vr d).Lanes (s.mr mg) (fun i => (s.vr a).get (((s.vr b).lane i).toNat % 32)) y) ∧
  (∀ (d a : VR) (b : GR) (mg : MR) (s : State), runs (.vslide d a b mg) s = true → ∃ y, exec (.vslide d a b mg) s = .next (s.setV d y) ∧ (s.vr d).Lanes (s.mr mg) (fun i => let k := (s.g b).toInt + i; if 0 ≤ k ∧ k < 32 then (s.vr a).get k.toNat else ⟨0, false⟩) y) ∧
  (∀ (d : VR) (a : GR) (mg : MR) (s : State), runs (.vbcast d a mg) s = true → ∃ y, exec (.vbcast d a mg) s = .next (s.setV d y) ∧ (s.vr d).Lanes (s.mr mg) (fun _ => ⟨(s.g a).setWidth 32, s.gS a⟩) y) ∧
  (∀ (d a : VR) (mg : MR) (s : State), runs (.vmov d a mg) s = true → ∃ y, exec (.vmov d a mg) s = .next (s.setV d y) ∧ (s.vr d).Lanes (s.mr mg) (fun i => (s.vr a).get i) y) ∧
  (∀ (d a : VR) (mg : MR) (s : State), runs (.vexpand d a mg) s = true → ∃ y, exec (.vexpand d a mg) s = .next (s.setV d y) ∧ (s.vr d).Lanes (s.mr mg) (fun i => (s.vr a).get ((List.range i).countP (s.mr mg).getLsbD)) y) ∧
  (∀ (d a : VR) (mg : MR) (s : State), runs (.vcompress d a mg) s = true → ∃ y, exec (.vcompress d a mg) s = .next (s.setV d y) ∧ let l := (List.range 32).filter (s.mr mg).getLsbD;
    ∀ i, i < 32 → y.get i = if i < l.length then (s.vr a).get (l.getD i 0) else (s.vr d).get i) ∧
  (∀ (d : VR) (a b : GR) (mg : MR) (s : State), runs (.vins d a b mg) s = true → ∃ y, exec (.vins d a b mg) s = .next (s.setV d y) ∧
    ∀ i, i < 32 → y.get i = if (s.mr mg).getLsbD i ∧ i = (s.g b).toNat % 32 then ⟨(s.g a).setWidth 32, s.gS a⟩ else (s.vr d).get i) ∧
  (∀ (d : GR) (a : VR) (b : GR) (mg : MR) (s : State), runs (.vext d a b mg) s = true → let k := (s.g b).toNat % 32;
    exec (.vext d a b mg) s = .next (if (s.mr mg).getLsbD k then s.setGS d (((s.vr a).lane k).setWidth 64) ((s.vr a).laneS k) else s)) ∧
  (∀ (d a b : VR) (mg : MR) (s : State), runs (.vzip d a b mg) s = true → ∃ y z, exec (.vzip d a b mg) s = .next ((s.setV d y).setV (d + 1) z) ∧
    let f (k : Nat) : Lane := if k % 2 = 0 then (s.vr a).get (k / 2) else (s.vr b).get (k / 2);
    ∀ j, j < 32 → y.get j = (if (s.mr mg).getLsbD (j / 2) then f j else (s.vr d).get j) ∧
      z.get j = (if (s.mr mg).getLsbD ((32 + j) / 2) then f (32 + j) else (s.vr (d + 1)).get j)) ∧
  (∀ (d a : VR) (mg : MR) (s : State), runs (.vunzip d a mg) s = true → ∃ y z, exec (.vunzip d a mg) s = .next ((s.setV d y).setV (d + 1) z) ∧
    let f (k : Nat) : Lane := if k < 32 then (s.vr a).get k else (s.vr (a + 1)).get (k - 32);
    (s.vr d).Lanes (s.mr mg) (fun i => f (2 * i)) y ∧ (s.vr (d + 1)).Lanes (s.mr mg) (fun i => f (2 * i + 1)) z)

/-- 07 R178, 07 R179, 07 R180, 07 R182, 07 R183, 02 R42, 07 R166, 02 R36. RNGH and VRNGH write the upper half of the mix of their
operands; VDQMX writes NaN for scale code 255, else each active element of the packed image times its scale, rounded once,
infinities and NaNs as they are; VQMX of a block with an infinity or NaN writes scale 255 and zeros and raises nv, else the
greatest scale its largest magnitude needs, never below 0, and each element rounded under it and widened; VPACK puts each
active code at the place of its element in the image of d, keeps all its other bits, and clears S of the lanes it writes;
inactive lanes are kept; an enabled flag traps with 0x15; the generator is drawn from only under stochastic rounding, and the
seed drawn from is the one the C word leaves, which is the model's choice (log 51). -/
def Obligations.GeneratorsAndBlockFormats : Prop :=
  (∀ (d a b : GR) (mg : MR) (s : State), runs (.rngh d a b mg) s = true → exec (.rngh d a b mg) s = .next (s.setG d (((mix (s.g a) (s.g b)).extractLsb' 32 32).setWidth 64))) ∧
  (∀ (d : VR) (a b : GR) (mg : MR) (s : State), runs (.vrngh d a b mg) s = true → ∃ y, exec (.vrngh d a b mg) s = .next (s.setV d y) ∧ (s.vr d).Lanes (s.mr mg) (fun i => ⟨(mix (s.g a) (s.g b + BitVec.ofNat 64 i)).extractLsb' 32 32, false⟩) y) ∧
  (∀ (fmt : NTy) (d a : VR) (b : GR) (mg : MR) (s : State), runs (.vdqmx fmt d a b mg) s = true → (s.g b).toNat % 256 = 255 → exec (.vdqmx fmt d a b mg) s = .next ((s.raise 0).setV d ((s.vr d).update (s.mr mg) (vmk fun _ => ⟨nanW, false⟩)))) ∧
  (∀ (fmt : NTy) (d a : VR) (b : GR) (mg : MR) (s : State), runs (.vdqmx fmt d a b mg) s = true → let e := (s.g b).toNat % 256; e ≠ 255 →
    let r (i : Nat) : FpRes := match (NTy.fm fmt).decode ((NTy.fm fmt).codeAt (s.vr a).image i) with | .fin n m x st => roundF32 s.frm n m (x + (e : Int) - 127) st | v => ⟨carrier v, false, 0⟩;
    let fl : Flags := ((List.range 32).filter (s.mr mg).getLsbD).foldl (fun f i => f ||| (r i).fl) 0;
    (s.enabled fl = 0 → ∃ y, exec (.vdqmx fmt d a b mg) s = .next ((s.raise fl).setV d y) ∧ (s.vr d).Lanes (s.mr mg) (fun i => ⟨(r i).w, (r i).s⟩) y) ∧
    (s.enabled fl ≠ 0 → exec (.vdqmx fmt d a b mg) s = .next (s.trap 0x15 (fl.setWidth 64)))) ∧
  (∀ (fmt : NTy) (mode : RMode) (d : VR) (b : GR) (a : VR) (mg : MR) (s : State), runs (.vqmx fmt mode d b a mg) s = true → (∃ i, i < 32 ∧ (s.mr mg).getLsbD i = true ∧ 0x7F800000 ≤ ((s.vr a).lane i).toNat % 2 ^ 31) →
    let u := s.advance mode ((List.range 32).filter (s.mr mg).getLsbD).length;
    (s.enabled Flags.nv = 0 → ∃ y, exec (.vqmx fmt mode d b a mg) s = .next (((u.raise Flags.nv).setV d y).setG b 255) ∧ (s.vr d).Lanes (s.mr mg) (fun _ => ⟨0, false⟩) y) ∧
    (s.enabled Flags.nv ≠ 0 → exec (.vqmx fmt mode d b a mg) s = .next (u.trap 0x15 (Flags.nv.setWidth 64)))) ∧
  (∀ (fmt : NTy) (mode : RMode) (d : VR) (b : GR) (a : VR) (mg : MR) (s : State), runs (.vqmx fmt mode d b a mg) s = true → (∀ i, i < 32 → (s.mr mg).getLsbD i = true → ((s.vr a).lane i).toNat % 2 ^ 31 < 0x7F800000) →
    let g := (s.draws mode ((List.range 32).filter (s.mr mg).getLsbD).length); let u := s.advance mode ((List.range 32).filter (s.mr mg).getLsbD).length; let e := max 0 (scaleCode fmt (((List.range 32).filter (s.mr mg).getLsbD).map fun i => valueOf ((s.vr a).lane i)));
    let r (i : Nat) : Nat × Flags := finalRound ((s.vr a).lane i) ((s.vr a).laneS i) (127 - e) (NTy.fm fmt) mode s.ovf (g.getD (rankOf (s.mr mg) i) 0);
    let fl : Flags := ((List.range 32).filter (s.mr mg).getLsbD).foldl (fun f i => f ||| (r i).2) 0;
    (s.enabled fl = 0 → ∃ y, exec (.vqmx fmt mode d b a mg) s = .next (((u.raise fl).setV d y).setG b (BitVec.ofInt 64 e)) ∧ (s.vr d).Lanes (s.mr mg) (fun i => ⟨(NTy.fm fmt).widen (r i).1, false⟩) y) ∧
    (s.enabled fl ≠ 0 → exec (.vqmx fmt mode d b a mg) s = .next (u.trap 0x15 (fl.setWidth 64)))) ∧
  (∀ (fmt : NTy) (l : List Fv), (∀ v ∈ l, ∃ n m e, v = .fin n m e false) → let e := max 0 (scaleCode fmt l); (∀ n m x, .fin n m x false ∈ l → m ≠ 0 → floorLog2 m x - (NTy.fm fmt).emax + 127 ≤ e) ∧
    (e = 0 ∨ ∃ n m x, .fin n m x false ∈ l ∧ m ≠ 0 ∧ floorLog2 m x - (NTy.fm fmt).emax + 127 = e)) ∧
  (∀ (fmt : NTy) (mode : RMode) (d a : VR) (mg : MR) (s : State), runs (.vpack fmt mode d a mg) s = true →
    let g := (s.draws mode ((List.range 32).filter (s.mr mg).getLsbD).length); let u := s.advance mode ((List.range 32).filter (s.mr mg).getLsbD).length; let r (i : Nat) : Nat × Flags := finalRound ((s.vr a).lane i) ((s.vr a).laneS i) 0 (NTy.fm fmt) mode s.ovf (g.getD (rankOf (s.mr mg) i) 0);
    let fl : Flags := ((List.range 32).filter (s.mr mg).getLsbD).foldl (fun f i => f ||| (r i).2) 0;
    (s.enabled fl = 0 → ∃ y, exec (.vpack fmt mode d a mg) s = .next ((u.raise fl).setV d y) ∧
      (fmt ≠ .e2m1 → ∀ i k, i < 32 → k < (NTy.fm fmt).bytes → y.image.getD ((NTy.fm fmt).bytes * i + k) 0 = if (s.mr mg).getLsbD i then (leBytes (NTy.fm fmt).bytes (r i).1).getD k 0 else (s.vr d).image.getD ((NTy.fm fmt).bytes * i + k) 0) ∧
      (fmt = .e2m1 → ∀ i, i < 32 → (y.image.getD (i / 2) 0).extractLsb' (4 * (i % 2)) 4 = if (s.mr mg).getLsbD i then BitVec.ofNat 4 (r i).1 else ((s.vr d).image.getD (i / 2) 0).extractLsb' (4 * (i % 2)) 4) ∧
      (∀ j, 32 * (NTy.fm fmt).bits ≤ 8 * j → 32 * (NTy.fm fmt).bytes ≤ j ∨ fmt = .e2m1 → y.image.getD j 0 = (s.vr d).image.getD j 0) ∧
      ∀ j, j < 32 → y.laneS j = ((s.vr d).laneS j && !((List.range 32).any fun i => (s.mr mg).getLsbD i && (if fmt = .e2m1 then i / 8 else (NTy.fm fmt).bytes * i / 4) == j))) ∧
    (s.enabled fl ≠ 0 → exec (.vpack fmt mode d a mg) s = .next (u.trap 0x15 (fl.setWidth 64)))) ∧
  (∀ (x : VReg) (f : Fm) (i : Nat), i < 32 → (∀ k, k < 128 → x.image.getD k 0 = (x.lane (k / 4)).extractLsb' (8 * (k % 4)) 8) ∧
    (f = .e2m1 → f.codeAt x.image i = ((x.image.getD (i / 2) 0).extractLsb' (4 * (i % 2)) 4).toNat) ∧ (f.bytes = 1 → f ≠ .e2m1 → f.codeAt x.image i = (x.image.getD i 0).toNat % 2 ^ f.bits) ∧
    (f.bytes = 2 → f.codeAt x.image i = (x.image.getD (2 * i) 0).toNat + 256 * (x.image.getD (2 * i + 1) 0).toNat))

/-- 03 R59, 06 R140, 06 R141, 06 R142, 03 R74, 17 R321, 04 R87, 06 R149. The addresses of the load forms, and: LDB to LDD, their
forms of major 0x14 and LDQ of an aligned address of the own LM that no transfer holds read the bytes there, which arrive for
their register or pair 8 cycles after the issue; post-increment leaves the base advanced; .mig has no effect there; an acquire
scope takes its actions. The model's own choices here: an LDQ whose base is the odd register of its pair leaves the loaded
bits over the increment (log 22), and the access takes its place in the cluster's logical time (log 7). -/
def Obligations.ScalarLoadsFromOwnLm : Prop :=
  (∀ (s : State) (b : GR) (off : Off10) (n : Nat), s.cmAddr b off n = s.g b + off.signExtend 64 * BitVec.ofNat 64 n) ∧
  (∀ (s : State) (b c : GR) (n : Nat), s.xAddr .indexed b c n = s.g b + s.g c ∧ s.xAddr .scaled b c n = s.g b + s.g c * BitVec.ofNat 64 n ∧
    s.xAddr .postInc b c n = s.g b ∧ s.xAddr .offset b c n = s.g b + c.signExtend 64 * BitVec.ofNat 64 n) ∧
  (∀ (x b : GR) (pg : PR) (sc : Scope) (off : Off10) (s : State) (o : Nat), runs (.ldb x b pg sc off) s = true → s.OwnLm (s.cmAddr b off 1) 1 o →
    exec (.ldb x b pg sc off) s = .next (((s.nearTime s.cur.core).arriveAt (.g x 1 true) .load (.lm s.cur.core o) 1 (s.cmAddr b off 1) (s.issueCycle + 8) (s.readAt (.lm s.cur.core o) 1) false).cacheAcquire s.cur.core sc)) ∧
  (∀ (x b : GR) (pg : PR) (sc : Scope) (off : Off10) (s : State) (o : Nat), runs (.ldbu x b pg sc off) s = true → s.OwnLm (s.cmAddr b off 1) 1 o →
    exec (.ldbu x b pg sc off) s = .next (((s.nearTime s.cur.core).arriveAt (.g x 1 false) .load (.lm s.cur.core o) 1 (s.cmAddr b off 1) (s.issueCycle + 8) (s.readAt (.lm s.cur.core o) 1) false).cacheAcquire s.cur.core sc)) ∧
  (∀ (x b : GR) (pg : PR) (sc : Scope) (off : Off10) (s : State) (o : Nat), runs (.ldh x b pg sc off) s = true → s.OwnLm (s.cmAddr b off 2) 2 o →
    exec (.ldh x b pg sc off) s = .next (((s.nearTime s.cur.core).arriveAt (.g x 2 true) .load (.lm s.cur.core o) 2 (s.cmAddr b off 2) (s.issueCycle + 8) (s.readAt (.lm s.cur.core o) 2) false).cacheAcquire s.cur.core sc)) ∧
  (∀ (x b : GR) (pg : PR) (sc : Scope) (off : Off10) (s : State) (o : Nat), runs (.ldhu x b pg sc off) s = true → s.OwnLm (s.cmAddr b off 2) 2 o →
    exec (.ldhu x b pg sc off) s = .next (((s.nearTime s.cur.core).arriveAt (.g x 2 false) .load (.lm s.cur.core o) 2 (s.cmAddr b off 2) (s.issueCycle + 8) (s.readAt (.lm s.cur.core o) 2) false).cacheAcquire s.cur.core sc)) ∧
  (∀ (x b : GR) (pg : PR) (sc : Scope) (off : Off10) (s : State) (o : Nat), runs (.ldw x b pg sc off) s = true → s.OwnLm (s.cmAddr b off 4) 4 o →
    exec (.ldw x b pg sc off) s = .next (((s.nearTime s.cur.core).arriveAt (.g x 4 true) .load (.lm s.cur.core o) 4 (s.cmAddr b off 4) (s.issueCycle + 8) (s.readAt (.lm s.cur.core o) 4) false).cacheAcquire s.cur.core sc)) ∧
  (∀ (x b : GR) (pg : PR) (sc : Scope) (off : Off10) (s : State) (o : Nat), runs (.ldwu x b pg sc off) s = true → s.OwnLm (s.cmAddr b off 4) 4 o →
    exec (.ldwu x b pg sc off) s = .next (((s.nearTime s.cur.core).arriveAt (.g x 4 false) .load (.lm s.cur.core o) 4 (s.cmAddr b off 4) (s.issueCycle + 8) (s.readAt (.lm s.cur.core o) 4) false).cacheAcquire s.cur.core sc)) ∧
  (∀ (x b : GR) (pg : PR) (sc : Scope) (off : Off10) (s : State) (o : Nat), runs (.ldd x b pg sc off) s = true → s.OwnLm (s.cmAddr b off 8) 8 o →
    exec (.ldd x b pg sc off) s = .next (((s.nearTime s.cur.core).arriveAt (.g x 8 false) .load (.lm s.cur.core o) 8 (s.cmAddr b off 8) (s.issueCycle + 8) (s.readAt (.lm s.cur.core o) 8) false).cacheAcquire s.cur.core sc)) ∧
  (∀ (a b c : GR) (pg : PR) (mode : XMode) (mig : Bool) (s : State) (o : Nat), runs (.ldbX a b c pg mode mig) s = true → s.OwnLm (s.xAddr mode b c 1) 1 o →
    exec (.ldbX a b c pg mode mig) s = .next (((if mode = .postInc then s.setG b (s.g b + c.signExtend 64 * BitVec.ofNat 64 1) else s).nearTime s.cur.core).arriveAt (.g a 1 true) .load (.lm s.cur.core o) 1 (s.xAddr mode b c 1) (s.issueCycle + 8) (s.readAt (.lm s.cur.core o) 1) false)) ∧
  (∀ (a b c : GR) (pg : PR) (mode : XMode) (mig : Bool) (s : State) (o : Nat), runs (.ldbuX a b c pg mode mig) s = true → s.OwnLm (s.xAddr mode b c 1) 1 o →
    exec (.ldbuX a b c pg mode mig) s = .next (((if mode = .postInc then s.setG b (s.g b + c.signExtend 64 * BitVec.ofNat 64 1) else s).nearTime s.cur.core).arriveAt (.g a 1 false) .load (.lm s.cur.core o) 1 (s.xAddr mode b c 1) (s.issueCycle + 8) (s.readAt (.lm s.cur.core o) 1) false)) ∧
  (∀ (a b c : GR) (pg : PR) (mode : XMode) (mig : Bool) (s : State) (o : Nat), runs (.ldhX a b c pg mode mig) s = true → s.OwnLm (s.xAddr mode b c 2) 2 o →
    exec (.ldhX a b c pg mode mig) s = .next (((if mode = .postInc then s.setG b (s.g b + c.signExtend 64 * BitVec.ofNat 64 2) else s).nearTime s.cur.core).arriveAt (.g a 2 true) .load (.lm s.cur.core o) 2 (s.xAddr mode b c 2) (s.issueCycle + 8) (s.readAt (.lm s.cur.core o) 2) false)) ∧
  (∀ (a b c : GR) (pg : PR) (mode : XMode) (mig : Bool) (s : State) (o : Nat), runs (.ldhuX a b c pg mode mig) s = true → s.OwnLm (s.xAddr mode b c 2) 2 o →
    exec (.ldhuX a b c pg mode mig) s = .next (((if mode = .postInc then s.setG b (s.g b + c.signExtend 64 * BitVec.ofNat 64 2) else s).nearTime s.cur.core).arriveAt (.g a 2 false) .load (.lm s.cur.core o) 2 (s.xAddr mode b c 2) (s.issueCycle + 8) (s.readAt (.lm s.cur.core o) 2) false)) ∧
  (∀ (a b c : GR) (pg : PR) (mode : XMode) (mig : Bool) (s : State) (o : Nat), runs (.ldwX a b c pg mode mig) s = true → s.OwnLm (s.xAddr mode b c 4) 4 o →
    exec (.ldwX a b c pg mode mig) s = .next (((if mode = .postInc then s.setG b (s.g b + c.signExtend 64 * BitVec.ofNat 64 4) else s).nearTime s.cur.core).arriveAt (.g a 4 true) .load (.lm s.cur.core o) 4 (s.xAddr mode b c 4) (s.issueCycle + 8) (s.readAt (.lm s.cur.core o) 4) false)) ∧
  (∀ (a b c : GR) (pg : PR) (mode : XMode) (mig : Bool) (s : State) (o : Nat), runs (.ldwuX a b c pg mode mig) s = true → s.OwnLm (s.xAddr mode b c 4) 4 o →
    exec (.ldwuX a b c pg mode mig) s = .next (((if mode = .postInc then s.setG b (s.g b + c.signExtend 64 * BitVec.ofNat 64 4) else s).nearTime s.cur.core).arriveAt (.g a 4 false) .load (.lm s.cur.core o) 4 (s.xAddr mode b c 4) (s.issueCycle + 8) (s.readAt (.lm s.cur.core o) 4) false)) ∧
  (∀ (a b c : GR) (pg : PR) (mode : XMode) (mig : Bool) (s : State) (o : Nat), runs (.lddX a b c pg mode mig) s = true → s.OwnLm (s.xAddr mode b c 8) 8 o →
    exec (.lddX a b c pg mode mig) s = .next (((if mode = .postInc then s.setG b (s.g b + c.signExtend 64 * BitVec.ofNat 64 8) else s).nearTime s.cur.core).arriveAt (.g a 8 false) .load (.lm s.cur.core o) 8 (s.xAddr mode b c 8) (s.issueCycle + 8) (s.readAt (.lm s.cur.core o) 8) false)) ∧
  (∀ (a b c : GR) (pg : PR) (mode : XMode) (mig : Bool) (s : State) (o : Nat), runs (.ldq a b c pg mode mig) s = true → s.OwnLm (s.xAddr mode b c 16) 16 o →
    exec (.ldq a b c pg mode mig) s = .next (((if mode = .postInc then s.setG b (s.g b + c.signExtend 64 * BitVec.ofNat 64 16) else s).nearTime s.cur.core).arriveAt (.pair a) .load (.lm s.cur.core o) 16 (s.xAddr mode b c 16) (s.issueCycle + 8) (s.readAt (.lm s.cur.core o) 16) false))

/-- 06 R140, 03 R65, 03 R63, 10 R253, 10 R242, 07 R184. A load from the own LM leaves its register, its pair or its vector
register waiting and its bytes due at their cycle, and no byte of memory and no other register changed; the reply of that
cycle delivers them: they fill the register in little-endian order, extended with sign or zeros, S = 0 and full; LDQ fills the
pair with the low and the high half; g0 keeps reading 0; a load of g29 takes its place in the chain queue of the next core of
the gang at its issue and is filled there by its reply; a value got at once (an atomic's) is filled the same way. -/
def Obligations.LoadedRegister : Prop :=
  (∀ (s : State) (x : GR) (n : Nat) (sx : Bool) (bs : List Byte), s.cur.slot < 16 → x ≠ 0 → x ≠ 29 → bs.length = n → (n = 1 ∨ n = 2 ∨ n = 4 ∨ n = 8) →
    let t := s.fillNow (.g x n sx) bs false; t.mem = s.mem ∧ (∀ r, r ≠ x → rget t.strand.g r = rget s.strand.g r) ∧
    rget t.strand.g x = { data := if sx then (BitVec.ofNat (8 * n) (leNat bs)).signExtend 64 else BitVec.ofNat 64 (leNat bs), s := false, full := true }) ∧
  (∀ (s : State) (x : GR) (bs : List Byte), s.cur.slot < 16 → badPair x = false → bs.length = 16 → let t := s.fillNow (.pair x) bs false; t.mem = s.mem ∧
    rget t.strand.g x = { data := BitVec.ofNat 64 (leNat (bs.take 8)), s := false, full := true } ∧
    rget t.strand.g (x + 1) = { data := BitVec.ofNat 64 (leNat (bs.drop 8)), s := false, full := true } ∧
    ∀ r, r ≠ x → r ≠ x + 1 → rget t.strand.g r = rget s.strand.g r) ∧
  (∀ (s : State) (n : Nat) (sx b : Bool) (bs : List Byte), (s.fillNow (.g 0 n sx) bs b).mem = s.mem ∧ ∀ r, rget (s.fillNow (.g 0 n sx) bs b).strand.g r = rget s.strand.g r) ∧
  (∀ (s : State) (n : Nat) (sx : Bool) (bs : List Byte) (c : Nat), s.downstream s.cur.core s.strand = some c → bs.length = n → (n = 1 ∨ n = 2 ∨ n = 4 ∨ n = 8) → let t := s.fillNow (.g 29 n sx) bs false; t.mem = s.mem ∧ t.strand = s.strand ∧
    (t.core c).chain = (s.core c).chain ++ [{ w := if sx then (BitVec.ofNat (8 * n) (leNat bs)).signExtend 64 else BitVec.ofNat 64 (leNat bs), gid := s.strand.gid.getD 0 }]) ∧
  (∀ (s : State) (x : GR) (n cyc : Nat) (sx : Bool) (l : Loc) (va : W64) (bs : List Byte), s.cur.slot < 16 → x ≠ 0 → x ≠ 29 → let t := s.arriveAt (.g x n sx) .load l n va cyc bs false; t.mem = s.mem ∧ (rget t.strand.g x).full = false ∧ (∀ r, r ≠ x → rget t.strand.g r = rget s.strand.g r) ∧
    ∃ q, (t.core s.cur.core).reqs = (s.core s.cur.core).reqs ++ [q] ∧ q.id = s.token ∧ q.slot = s.cur.slot ∧ q.sid = s.cur.pre.sid ∧ q.dest = .g x n sx ∧ q.due = some (cyc, bs) ∧ q.isWrite = false ∧ q.pred = none ∧ q.acquire = .core ∧ q.marker = none) ∧
  (∀ (s : State) (x : GR) (cyc : Nat) (l : Loc) (va : W64) (bs : List Byte), s.cur.slot < 16 → badPair x = false → x ≠ 0 → let t := s.arriveAt (.pair x) .load l 16 va cyc bs false; t.mem = s.mem ∧ (rget t.strand.g x).full = false ∧ (rget t.strand.g (x + 1)).full = false ∧ (∀ r, r ≠ x → r ≠ x + 1 → rget t.strand.g r = rget s.strand.g r) ∧
    ∃ q, (t.core s.cur.core).reqs = (s.core s.cur.core).reqs ++ [q] ∧ q.id = s.token ∧ q.dest = .pair x ∧ q.due = some (cyc, bs)) ∧
  (∀ (s : State) (v : VR) (k n cyc : Nat) (mt : MTy) (act : W32) (d : Dest) (l : Loc) (va : W64) (bs : List Byte), s.cur.slot < 16 → (d = .lane v k mt ∨ d = .bcast v act mt ∨ d = .image v k) → let t := s.arriveAt d .load l n va cyc bs false; t.mem = s.mem ∧ t.strand = { s.strand with vpend := s.strand.vpend ||| ((1 : BitVec 32) <<< v.toNat) } ∧
    ∃ q, (t.core s.cur.core).reqs = (s.core s.cur.core).reqs ++ [q] ∧ q.id = s.token ∧ q.dest = d ∧ q.due = some (cyc, bs)) ∧
  (∀ (s : State) (n cyc c : Nat) (sx : Bool) (l : Loc) (va : W64) (bs : List Byte), s.cur.slot < 16 → s.downstream s.cur.core s.strand = some c → let t := s.arriveAt (.g 29 n sx) .load l n va cyc bs false; t.mem = s.mem ∧ t.strand = s.strand ∧ (t.core c).chain = (s.core c).chain ++ [{ w := 0, gid := s.strand.gid.getD 0, wait := some s.token }]) ∧
  (∀ (s : State) (id c cyc : Nat) (r : Req) (bs : List Byte), s.takeArrived id = none → (s.core c).req id = some r → (∀ e ∈ s.cores, e.1 ≠ c → e.2.req id = none) → r.due = some (cyc, bs) →
    (cyc ≤ s.cycle c → exec (.loadReply id) s = .next (s.replyData c r bs false))) ∧
  (∀ (s : State) (c : Nat) (r : Req) (bs : List Byte) (b : Bool), r.slot < 16 → (s.strandOf c r.slot).sid = r.sid → r.isWrite = false → r.pred = none → r.acquire = .core → r.marker = none → (∃ a, r.acc = some a ∧ a.kind = .load) → (s.slotOf c r.slot).inflight = none → r.dest ≠ .held → let u := s.replyData c r bs b; let y := (s.strandOf c r.slot).deliver r.dest bs b; u.mem = s.mem ∧
    (u.strandOf c r.slot).g = y.g ∧ (u.strandOf c r.slot).v = y.v ∧ (r.dest.vec = none → u.strandOf c r.slot = y) ∧
    (∀ v, r.dest.vec = some v → (s.dropReq c r.id).lanesDue c r.slot v = false → u.strandOf c r.slot = { y with vpend := y.vpend &&& ~~~((1 : BitVec 32) <<< v.toNat) }) ∧
    (∀ v, r.dest.vec = some v → (s.dropReq c r.id).lanesDue c r.slot v = true → u.strandOf c r.slot = y)) ∧
  (∀ (x : Strand) (r : GR) (n : Nat) (sx b : Bool) (bs : List Byte), r ≠ 0 → r ≠ 29 → bs.length = n → (n = 1 ∨ n = 2 ∨ n = 4 ∨ n = 8) → let y := x.deliver (.g r n sx) bs b; (∀ q, q ≠ r → rget y.g q = rget x.g q) ∧ y = { x with g := y.g } ∧
    rget y.g r = { data := if sx then (BitVec.ofNat (8 * n) (leNat bs)).signExtend 64 else BitVec.ofNat 64 (leNat bs), s := false, full := true }) ∧
  (∀ (s : State) (id n c : Nat) (sx : Bool) (bs : List Byte), s.pushLoaded id (.g 29 n sx) bs = s.fillChain id (loadValue bs n sx) ∧ ((s.fillChain id (loadValue bs n sx)).core c).chain = (s.core c).chain.map fun e => if e.wait = some id then { e with w := loadValue bs n sx, wait := none } else e)

/-- 04 R87, 06 R141, 06 R143, 06 R144, 06 R148. A store to an aligned address of the own LM writes the low bytes of its register
(of the pair for STQ) there; with a release scope it does so once nothing of the strand is unacknowledged, the lines it writes
back wait for nothing, after the caches' part of the release. Where a fault is then pending outside privileged mode it traps
with 0x0C and XVALUE the log's address, and writes nothing. Its place in the cluster's logical time is the model's (log 7). -/
def Obligations.StoresToOwnLm : Prop :=
  (∀ (x b : GR) (pg : PR) (off : Off10) (s : State) (o : Nat), runs (.stb x b pg .core off) s = true → s.OwnLm (s.cmAddr b off 1) 1 o →
    exec (.stb x b pg .core off) s = .next ((s.nearTime s.cur.core).writeAt (.lm s.cur.core o) (leBytes 1 (s.g x).toNat))) ∧
  (∀ (x b : GR) (pg : PR) (sc : Scope) (off : Off10) (s : State) (o : Nat), runs (.stb x b pg sc off) s = true → s.OwnLm (s.cmAddr b off 1) 1 o → sc ≠ .core →
    s.flushStrand s.cur.core s.cur.slot = s → s.strand.quiet = true → (Scope.wide sc && (s.cacheRelease s.cur.core sc).writesWait s.cur.pre.part) = false → (((s.cacheRelease s.cur.core sc).strand.x.pf = false ∨ (s.cacheRelease s.cur.core sc).cur.pre.priv = true → exec (.stb x b pg sc off) s = .next (((s.cacheRelease s.cur.core sc).nearTime s.cur.core).writeAt (.lm s.cur.core o) (leBytes 1 (s.g x).toNat))) ∧ ((s.cacheRelease s.cur.core sc).strand.x.pf = true → (s.cacheRelease s.cur.core sc).cur.pre.priv = false → exec (.stb x b pg sc off) s = .next ((s.cacheRelease s.cur.core sc).trap 0x0C logAddr)))) ∧
  (∀ (x b : GR) (pg : PR) (off : Off10) (s : State) (o : Nat), runs (.sth x b pg .core off) s = true → s.OwnLm (s.cmAddr b off 2) 2 o →
    exec (.sth x b pg .core off) s = .next ((s.nearTime s.cur.core).writeAt (.lm s.cur.core o) (leBytes 2 (s.g x).toNat))) ∧
  (∀ (x b : GR) (pg : PR) (sc : Scope) (off : Off10) (s : State) (o : Nat), runs (.sth x b pg sc off) s = true → s.OwnLm (s.cmAddr b off 2) 2 o → sc ≠ .core →
    s.flushStrand s.cur.core s.cur.slot = s → s.strand.quiet = true → (Scope.wide sc && (s.cacheRelease s.cur.core sc).writesWait s.cur.pre.part) = false → (((s.cacheRelease s.cur.core sc).strand.x.pf = false ∨ (s.cacheRelease s.cur.core sc).cur.pre.priv = true → exec (.sth x b pg sc off) s = .next (((s.cacheRelease s.cur.core sc).nearTime s.cur.core).writeAt (.lm s.cur.core o) (leBytes 2 (s.g x).toNat))) ∧ ((s.cacheRelease s.cur.core sc).strand.x.pf = true → (s.cacheRelease s.cur.core sc).cur.pre.priv = false → exec (.sth x b pg sc off) s = .next ((s.cacheRelease s.cur.core sc).trap 0x0C logAddr)))) ∧
  (∀ (x b : GR) (pg : PR) (off : Off10) (s : State) (o : Nat), runs (.stw x b pg .core off) s = true → s.OwnLm (s.cmAddr b off 4) 4 o →
    exec (.stw x b pg .core off) s = .next ((s.nearTime s.cur.core).writeAt (.lm s.cur.core o) (leBytes 4 (s.g x).toNat))) ∧
  (∀ (x b : GR) (pg : PR) (sc : Scope) (off : Off10) (s : State) (o : Nat), runs (.stw x b pg sc off) s = true → s.OwnLm (s.cmAddr b off 4) 4 o → sc ≠ .core →
    s.flushStrand s.cur.core s.cur.slot = s → s.strand.quiet = true → (Scope.wide sc && (s.cacheRelease s.cur.core sc).writesWait s.cur.pre.part) = false → (((s.cacheRelease s.cur.core sc).strand.x.pf = false ∨ (s.cacheRelease s.cur.core sc).cur.pre.priv = true → exec (.stw x b pg sc off) s = .next (((s.cacheRelease s.cur.core sc).nearTime s.cur.core).writeAt (.lm s.cur.core o) (leBytes 4 (s.g x).toNat))) ∧ ((s.cacheRelease s.cur.core sc).strand.x.pf = true → (s.cacheRelease s.cur.core sc).cur.pre.priv = false → exec (.stw x b pg sc off) s = .next ((s.cacheRelease s.cur.core sc).trap 0x0C logAddr)))) ∧
  (∀ (x b : GR) (pg : PR) (off : Off10) (s : State) (o : Nat), runs (.std x b pg .core off) s = true → s.OwnLm (s.cmAddr b off 8) 8 o →
    exec (.std x b pg .core off) s = .next ((s.nearTime s.cur.core).writeAt (.lm s.cur.core o) (leBytes 8 (s.g x).toNat))) ∧
  (∀ (x b : GR) (pg : PR) (sc : Scope) (off : Off10) (s : State) (o : Nat), runs (.std x b pg sc off) s = true → s.OwnLm (s.cmAddr b off 8) 8 o → sc ≠ .core →
    s.flushStrand s.cur.core s.cur.slot = s → s.strand.quiet = true → (Scope.wide sc && (s.cacheRelease s.cur.core sc).writesWait s.cur.pre.part) = false → (((s.cacheRelease s.cur.core sc).strand.x.pf = false ∨ (s.cacheRelease s.cur.core sc).cur.pre.priv = true → exec (.std x b pg sc off) s = .next (((s.cacheRelease s.cur.core sc).nearTime s.cur.core).writeAt (.lm s.cur.core o) (leBytes 8 (s.g x).toNat))) ∧ ((s.cacheRelease s.cur.core sc).strand.x.pf = true → (s.cacheRelease s.cur.core sc).cur.pre.priv = false → exec (.std x b pg sc off) s = .next ((s.cacheRelease s.cur.core sc).trap 0x0C logAddr)))) ∧
  (∀ (a b c : GR) (pg : PR) (mode : XMode) (mig : Bool) (s : State) (o : Nat), runs (.stbX a b c pg mode mig) s = true → s.OwnLm (s.xAddr mode b c 1) 1 o →
    exec (.stbX a b c pg mode mig) s = .next (((if mode = .postInc then s.setG b (s.g b + c.signExtend 64 * BitVec.ofNat 64 1) else s).nearTime s.cur.core).writeAt (.lm s.cur.core o) (leBytes 1 (s.g a).toNat))) ∧
  (∀ (a b c : GR) (pg : PR) (mode : XMode) (mig : Bool) (s : State) (o : Nat), runs (.sthX a b c pg mode mig) s = true → s.OwnLm (s.xAddr mode b c 2) 2 o →
    exec (.sthX a b c pg mode mig) s = .next (((if mode = .postInc then s.setG b (s.g b + c.signExtend 64 * BitVec.ofNat 64 2) else s).nearTime s.cur.core).writeAt (.lm s.cur.core o) (leBytes 2 (s.g a).toNat))) ∧
  (∀ (a b c : GR) (pg : PR) (mode : XMode) (mig : Bool) (s : State) (o : Nat), runs (.stwX a b c pg mode mig) s = true → s.OwnLm (s.xAddr mode b c 4) 4 o →
    exec (.stwX a b c pg mode mig) s = .next (((if mode = .postInc then s.setG b (s.g b + c.signExtend 64 * BitVec.ofNat 64 4) else s).nearTime s.cur.core).writeAt (.lm s.cur.core o) (leBytes 4 (s.g a).toNat))) ∧
  (∀ (a b c : GR) (pg : PR) (mode : XMode) (mig : Bool) (s : State) (o : Nat), runs (.stdX a b c pg mode mig) s = true → s.OwnLm (s.xAddr mode b c 8) 8 o →
    exec (.stdX a b c pg mode mig) s = .next (((if mode = .postInc then s.setG b (s.g b + c.signExtend 64 * BitVec.ofNat 64 8) else s).nearTime s.cur.core).writeAt (.lm s.cur.core o) (leBytes 8 (s.g a).toNat))) ∧
  (∀ (a b c : GR) (pg : PR) (mode : XMode) (mig : Bool) (s : State) (o : Nat), runs (.stq a b c pg mode mig) s = true → s.OwnLm (s.xAddr mode b c 16) 16 o →
    exec (.stq a b c pg mode mig) s = .next (((if mode = .postInc then s.setG b (s.g b + c.signExtend 64 * BitVec.ofNat 64 16) else s).nearTime s.cur.core).writeAt (.lm s.cur.core o) (leBytes 8 (s.g a).toNat ++ leBytes 8 (s.g (a + 1)).toNat)))

/-- 03 R74, 06 R143, 06 R141, 04 R87. Each byte written reads back, every byte at another key reads as before, and the memory
keeps its canonical form; each scalar store to the own LM leaves every byte outside the stored ones, and the rest of the state
but for the base that post-increment advances, as before. Where the cluster cache is on, an access to the LM or CSM of the
cluster also takes its place in the logical time of its core and cluster, which is the model's (log 7) and changes nothing
else. -/
def Obligations.WritesAndStoreFrame : Prop :=
  (∀ (s : State) (l : Loc) (bs : List Byte) (k : Nat), s.MemOk → (∀ h : k < bs.length, memRead (s.writeAt l bs).mem (l.key + k) = bs[k])) ∧
  (∀ (s : State) (l : Loc) (bs : List Byte) (a : Nat), (a < l.key ∨ l.key + bs.length ≤ a) → memRead (s.writeAt l bs).mem a = memRead s.mem a) ∧
  (∀ (s : State) (l : Loc) (bs : List Byte), s.writeAt l bs = { s with mem := (s.writeAt l bs).mem } ∧ (s.MemOk → (s.writeAt l bs).MemOk)) ∧
  (∀ (s : State) (l : Loc) (bs : List Byte), s.MemOk → (s.writeAt l bs).readAt l bs.length = bs) ∧
  (∀ (x b : GR) (pg : PR) (off : Off10) (s t : State) (o : Nat), runs (.stb x b pg .core off) s = true → s.OwnLm (s.cmAddr b off 1) 1 o → exec (.stb x b pg .core off) s = .next t →
    (∀ a, (a < (Loc.lm s.cur.core o).key ∨ (Loc.lm s.cur.core o).key + 1 ≤ a) → memRead t.mem a = memRead s.mem a) ∧ t = { s.nearTime s.cur.core with mem := t.mem }) ∧
  (∀ (x b : GR) (pg : PR) (off : Off10) (s t : State) (o : Nat), runs (.sth x b pg .core off) s = true → s.OwnLm (s.cmAddr b off 2) 2 o → exec (.sth x b pg .core off) s = .next t →
    (∀ a, (a < (Loc.lm s.cur.core o).key ∨ (Loc.lm s.cur.core o).key + 2 ≤ a) → memRead t.mem a = memRead s.mem a) ∧ t = { s.nearTime s.cur.core with mem := t.mem }) ∧
  (∀ (x b : GR) (pg : PR) (off : Off10) (s t : State) (o : Nat), runs (.stw x b pg .core off) s = true → s.OwnLm (s.cmAddr b off 4) 4 o → exec (.stw x b pg .core off) s = .next t →
    (∀ a, (a < (Loc.lm s.cur.core o).key ∨ (Loc.lm s.cur.core o).key + 4 ≤ a) → memRead t.mem a = memRead s.mem a) ∧ t = { s.nearTime s.cur.core with mem := t.mem }) ∧
  (∀ (x b : GR) (pg : PR) (off : Off10) (s t : State) (o : Nat), runs (.std x b pg .core off) s = true → s.OwnLm (s.cmAddr b off 8) 8 o → exec (.std x b pg .core off) s = .next t →
    (∀ a, (a < (Loc.lm s.cur.core o).key ∨ (Loc.lm s.cur.core o).key + 8 ≤ a) → memRead t.mem a = memRead s.mem a) ∧ t = { s.nearTime s.cur.core with mem := t.mem }) ∧
  (∀ (a b c : GR) (pg : PR) (mode : XMode) (mig : Bool) (s t : State) (o : Nat), runs (.stbX a b c pg mode mig) s = true → s.OwnLm (s.xAddr mode b c 1) 1 o → exec (.stbX a b c pg mode mig) s = .next t →
    (∀ q, (q < (Loc.lm s.cur.core o).key ∨ (Loc.lm s.cur.core o).key + 1 ≤ q) → memRead t.mem q = memRead s.mem q) ∧
    t = { ((if mode = .postInc then s.setG b (s.g b + c.signExtend 64 * BitVec.ofNat 64 1) else s).nearTime s.cur.core) with mem := t.mem }) ∧
  (∀ (a b c : GR) (pg : PR) (mode : XMode) (mig : Bool) (s t : State) (o : Nat), runs (.sthX a b c pg mode mig) s = true → s.OwnLm (s.xAddr mode b c 2) 2 o → exec (.sthX a b c pg mode mig) s = .next t →
    (∀ q, (q < (Loc.lm s.cur.core o).key ∨ (Loc.lm s.cur.core o).key + 2 ≤ q) → memRead t.mem q = memRead s.mem q) ∧
    t = { ((if mode = .postInc then s.setG b (s.g b + c.signExtend 64 * BitVec.ofNat 64 2) else s).nearTime s.cur.core) with mem := t.mem }) ∧
  (∀ (a b c : GR) (pg : PR) (mode : XMode) (mig : Bool) (s t : State) (o : Nat), runs (.stwX a b c pg mode mig) s = true → s.OwnLm (s.xAddr mode b c 4) 4 o → exec (.stwX a b c pg mode mig) s = .next t →
    (∀ q, (q < (Loc.lm s.cur.core o).key ∨ (Loc.lm s.cur.core o).key + 4 ≤ q) → memRead t.mem q = memRead s.mem q) ∧
    t = { ((if mode = .postInc then s.setG b (s.g b + c.signExtend 64 * BitVec.ofNat 64 4) else s).nearTime s.cur.core) with mem := t.mem }) ∧
  (∀ (a b c : GR) (pg : PR) (mode : XMode) (mig : Bool) (s t : State) (o : Nat), runs (.stdX a b c pg mode mig) s = true → s.OwnLm (s.xAddr mode b c 8) 8 o → exec (.stdX a b c pg mode mig) s = .next t →
    (∀ q, (q < (Loc.lm s.cur.core o).key ∨ (Loc.lm s.cur.core o).key + 8 ≤ q) → memRead t.mem q = memRead s.mem q) ∧
    t = { ((if mode = .postInc then s.setG b (s.g b + c.signExtend 64 * BitVec.ofNat 64 8) else s).nearTime s.cur.core) with mem := t.mem }) ∧
  (∀ (a b c : GR) (pg : PR) (mode : XMode) (mig : Bool) (s t : State) (o : Nat), runs (.stq a b c pg mode mig) s = true → s.OwnLm (s.xAddr mode b c 16) 16 o → exec (.stq a b c pg mode mig) s = .next t →
    (∀ q, (q < (Loc.lm s.cur.core o).key ∨ (Loc.lm s.cur.core o).key + 16 ≤ q) → memRead t.mem q = memRead s.mem q) ∧
    t = { ((if mode = .postInc then s.setG b (s.g b + c.signExtend 64 * BitVec.ofNat 64 16) else s).nearTime s.cur.core) with mem := t.mem }) ∧
  (∀ (s : State) (c : Nat), (s.ccOn (clusterOf c) = false → s.nearTime c = s) ∧ (s.nearTime c).mem = s.mem ∧ (s.nearTime c).fe = s.fe ∧ (s.nearTime c).net = s.net ∧ (∀ n k, (s.nearTime c).slotOf n k = s.slotOf n k) ∧
    (∀ n, n ≠ c → (s.nearTime c).core n = s.core n) ∧ (s.nearTime c).core c = { s.core c with pts := ((s.nearTime c).core c).pts } ∧ (s.core c).pts ≤ ((s.nearTime c).core c).pts)

/-- 06 R145, 03 R75, 20 R375, 06 R150, 04 R87. Where STB to STD, their forms of major 0x14, or FSTN pass their address checks and
their location has an aggregation destination, the element with its address and data is placed in a buffer of that destination
(which may leave at once as a packet) and the bundle is done, or where a packet would have to leave and cannot the bundle is
held; in both cases every byte of memory and every F/E bit is as before. -/
def Obligations.AggregatedStoresWriteNothingYet : Prop :=
  (∀ (x b : GR) (pg : PR) (off : Off10) (s : State) (l : Loc) (at_ : PageAttr) (d : Node), runs (.stb x b pg .core off) s = true → let va := s.cmAddr b off 1; s.lookup .store va = .ok l at_ → s.teHolds s.cur.core l 1 = false → s.aggDest s.cur.core l at_ false = some d →
    let p := s.aggInsert s.cur.core d { op := none, size := 1, addr := elemAddr l va, data := BitVec.ofNat 64 ((s.g x).toNat % 2 ^ 8), s := false, slot := s.cur.slot, issued := va } l.key;
    (∀ t, p = some t → exec (.stb x b pg .core off) s = .next t) ∧ (p = none → exec (.stb x b pg .core off) s = .next (s.park .send))) ∧
  (∀ (x b : GR) (pg : PR) (off : Off10) (s : State) (l : Loc) (at_ : PageAttr) (d : Node), runs (.sth x b pg .core off) s = true → let va := s.cmAddr b off 2; va.toNat % 2 = 0 → s.lookup .store va = .ok l at_ → s.teHolds s.cur.core l 2 = false → s.aggDest s.cur.core l at_ false = some d →
    let p := s.aggInsert s.cur.core d { op := none, size := 2, addr := elemAddr l va, data := BitVec.ofNat 64 ((s.g x).toNat % 2 ^ 16), s := false, slot := s.cur.slot, issued := va } l.key;
    (∀ t, p = some t → exec (.sth x b pg .core off) s = .next t) ∧ (p = none → exec (.sth x b pg .core off) s = .next (s.park .send))) ∧
  (∀ (x b : GR) (pg : PR) (off : Off10) (s : State) (l : Loc) (at_ : PageAttr) (d : Node), runs (.stw x b pg .core off) s = true → let va := s.cmAddr b off 4; va.toNat % 4 = 0 → s.lookup .store va = .ok l at_ → s.teHolds s.cur.core l 4 = false → s.aggDest s.cur.core l at_ false = some d →
    let p := s.aggInsert s.cur.core d { op := none, size := 4, addr := elemAddr l va, data := BitVec.ofNat 64 ((s.g x).toNat % 2 ^ 32), s := false, slot := s.cur.slot, issued := va } l.key;
    (∀ t, p = some t → exec (.stw x b pg .core off) s = .next t) ∧ (p = none → exec (.stw x b pg .core off) s = .next (s.park .send))) ∧
  (∀ (x b : GR) (pg : PR) (off : Off10) (s : State) (l : Loc) (at_ : PageAttr) (d : Node), runs (.std x b pg .core off) s = true → let va := s.cmAddr b off 8; va.toNat % 8 = 0 → s.lookup .store va = .ok l at_ → s.teHolds s.cur.core l 8 = false → s.aggDest s.cur.core l at_ false = some d →
    let p := s.aggInsert s.cur.core d { op := none, size := 8, addr := elemAddr l va, data := BitVec.ofNat 64 ((s.g x).toNat % 2 ^ 64), s := false, slot := s.cur.slot, issued := va } l.key;
    (∀ t, p = some t → exec (.std x b pg .core off) s = .next t) ∧ (p = none → exec (.std x b pg .core off) s = .next (s.park .send))) ∧
  (∀ (a b c : GR) (pg : PR) (mode : XMode) (mig : Bool) (s : State) (l : Loc) (at_ : PageAttr) (d : Node), runs (.stbX a b c pg mode mig) s = true → let va := s.xAddr mode b c 1; s.lookup .store va = .ok l at_ → (mig = false ∨ s.cur.pre.valloc ≠ 0 ∨ (s.slotOf s.cur.core s.cur.slot).noMig = true ∨ ∀ n o, l ≠ .lm n o) → s.teHolds s.cur.core l 1 = false → s.aggDest s.cur.core l at_ false = some d →
    let p := s.aggInsert s.cur.core d { op := none, size := 1, addr := elemAddr l va, data := BitVec.ofNat 64 ((s.g a).toNat % 2 ^ 8), s := false, slot := s.cur.slot, issued := va } l.key;
    (∀ t, p = some t → exec (.stbX a b c pg mode mig) s = .next (if mode = .postInc then t.setG b (s.g b + c.signExtend 64 * BitVec.ofNat 64 1) else t)) ∧ (p = none → exec (.stbX a b c pg mode mig) s = .next (s.park .send))) ∧
  (∀ (a b c : GR) (pg : PR) (mode : XMode) (mig : Bool) (s : State) (l : Loc) (at_ : PageAttr) (d : Node), runs (.sthX a b c pg mode mig) s = true → let va := s.xAddr mode b c 2; va.toNat % 2 = 0 → s.lookup .store va = .ok l at_ → (mig = false ∨ s.cur.pre.valloc ≠ 0 ∨ (s.slotOf s.cur.core s.cur.slot).noMig = true ∨ ∀ n o, l ≠ .lm n o) → s.teHolds s.cur.core l 2 = false → s.aggDest s.cur.core l at_ false = some d →
    let p := s.aggInsert s.cur.core d { op := none, size := 2, addr := elemAddr l va, data := BitVec.ofNat 64 ((s.g a).toNat % 2 ^ 16), s := false, slot := s.cur.slot, issued := va } l.key;
    (∀ t, p = some t → exec (.sthX a b c pg mode mig) s = .next (if mode = .postInc then t.setG b (s.g b + c.signExtend 64 * BitVec.ofNat 64 2) else t)) ∧ (p = none → exec (.sthX a b c pg mode mig) s = .next (s.park .send))) ∧
  (∀ (a b c : GR) (pg : PR) (mode : XMode) (mig : Bool) (s : State) (l : Loc) (at_ : PageAttr) (d : Node), runs (.stwX a b c pg mode mig) s = true → let va := s.xAddr mode b c 4; va.toNat % 4 = 0 → s.lookup .store va = .ok l at_ → (mig = false ∨ s.cur.pre.valloc ≠ 0 ∨ (s.slotOf s.cur.core s.cur.slot).noMig = true ∨ ∀ n o, l ≠ .lm n o) → s.teHolds s.cur.core l 4 = false → s.aggDest s.cur.core l at_ false = some d →
    let p := s.aggInsert s.cur.core d { op := none, size := 4, addr := elemAddr l va, data := BitVec.ofNat 64 ((s.g a).toNat % 2 ^ 32), s := false, slot := s.cur.slot, issued := va } l.key;
    (∀ t, p = some t → exec (.stwX a b c pg mode mig) s = .next (if mode = .postInc then t.setG b (s.g b + c.signExtend 64 * BitVec.ofNat 64 4) else t)) ∧ (p = none → exec (.stwX a b c pg mode mig) s = .next (s.park .send))) ∧
  (∀ (a b c : GR) (pg : PR) (mode : XMode) (mig : Bool) (s : State) (l : Loc) (at_ : PageAttr) (d : Node), runs (.stdX a b c pg mode mig) s = true → let va := s.xAddr mode b c 8; va.toNat % 8 = 0 → s.lookup .store va = .ok l at_ → (mig = false ∨ s.cur.pre.valloc ≠ 0 ∨ (s.slotOf s.cur.core s.cur.slot).noMig = true ∨ ∀ n o, l ≠ .lm n o) → s.teHolds s.cur.core l 8 = false → s.aggDest s.cur.core l at_ false = some d →
    let p := s.aggInsert s.cur.core d { op := none, size := 8, addr := elemAddr l va, data := BitVec.ofNat 64 ((s.g a).toNat % 2 ^ 64), s := false, slot := s.cur.slot, issued := va } l.key;
    (∀ t, p = some t → exec (.stdX a b c pg mode mig) s = .next (if mode = .postInc then t.setG b (s.g b + c.signExtend 64 * BitVec.ofNat 64 8) else t)) ∧ (p = none → exec (.stdX a b c pg mode mig) s = .next (s.park .send))) ∧
  (∀ (a b : GR) (mode : RMode) (pg : PR) (fmt : NTy) (s : State) (l : Loc) (at_ : PageAttr) (d : Node), runs (.fstn a b mode pg fmt) s = true → let r := finalRound (s.gw a) (s.gS a) 0 (NTy.fm fmt) mode s.ovf ((s.draws mode 1).getD 0 0); let u := s.advance mode 1; s.enabled r.2 = 0 →
    (s.g b).toNat % NTy.size fmt = 0 → u.lookup .store (s.g b) = .ok l at_ → u.teHolds s.cur.core l (NTy.size fmt) = false → u.aggDest s.cur.core l at_ false = some d →
    let p := u.aggInsert s.cur.core d { op := none, size := NTy.size fmt, addr := elemAddr l (s.g b), data := BitVec.ofNat 64 (leNat (leBytes (NTy.size fmt) r.1)), s := false, slot := s.cur.slot, issued := s.g b } l.key;
    (∀ t, p = some t → exec (.fstn a b mode pg fmt) s = .next (t.raise r.2)) ∧ (p = none → exec (.fstn a b mode pg fmt) s = .next (u.park .send))) ∧
  (∀ (s t : State) (c : Nat) (d : Node) (e : AggElem) (key : Nat), s.aggInsert c d e key = some t → t.mem = s.mem ∧ t.fe = s.fe ∧
    ((∃ b, b < 16 ∧ (vget (t.core c).aggs b {}).dest = some d ∧ (e, key) ∈ (vget (t.core c).aggs b {}).elems) ∨ ∃ q ∈ (t.core c).sent, q.dest = d ∧ (e, key) ∈ q.elems)) ∧
  (∀ s : State, (s.park .send).mem = s.mem ∧ (s.park .send).fe = s.fe ∧ (s.park .send).cur.flow = .held)

/-- 06 R141, 12 R277, 06 R151, 06 R153. Scalar loads and stores, sync accesses and atomics, of every form and scope, whose address
is not a multiple of their size trap with cause 0x09 and the address; no register but the trap's own and no byte of memory
changes. -/
def Obligations.MisalignedAccessesTrap : Prop :=
  (∀ (x b : GR) (pg : PR) (sc : Scope) (off : Off10) (s : State), runs (.ldh x b pg sc off) s = true → (s.cmAddr b off 2).toNat % 2 ≠ 0 →
    exec (.ldh x b pg sc off) s = .next (s.trap 0x09 (s.cmAddr b off 2))) ∧
  (∀ (x b : GR) (pg : PR) (sc : Scope) (off : Off10) (s : State), runs (.ldhu x b pg sc off) s = true → (s.cmAddr b off 2).toNat % 2 ≠ 0 →
    exec (.ldhu x b pg sc off) s = .next (s.trap 0x09 (s.cmAddr b off 2))) ∧
  (∀ (x b : GR) (pg : PR) (sc : Scope) (off : Off10) (s : State), runs (.ldw x b pg sc off) s = true → (s.cmAddr b off 4).toNat % 4 ≠ 0 →
    exec (.ldw x b pg sc off) s = .next (s.trap 0x09 (s.cmAddr b off 4))) ∧
  (∀ (x b : GR) (pg : PR) (sc : Scope) (off : Off10) (s : State), runs (.ldwu x b pg sc off) s = true → (s.cmAddr b off 4).toNat % 4 ≠ 0 →
    exec (.ldwu x b pg sc off) s = .next (s.trap 0x09 (s.cmAddr b off 4))) ∧
  (∀ (x b : GR) (pg : PR) (sc : Scope) (off : Off10) (s : State), runs (.ldd x b pg sc off) s = true → (s.cmAddr b off 8).toNat % 8 ≠ 0 →
    exec (.ldd x b pg sc off) s = .next (s.trap 0x09 (s.cmAddr b off 8))) ∧
  (∀ (x b : GR) (pg : PR) (sc : Scope) (off : Off10) (s : State), runs (.sth x b pg sc off) s = true → (s.cmAddr b off 2).toNat % 2 ≠ 0 →
    exec (.sth x b pg sc off) s = .next (s.trap 0x09 (s.cmAddr b off 2))) ∧
  (∀ (x b : GR) (pg : PR) (sc : Scope) (off : Off10) (s : State), runs (.stw x b pg sc off) s = true → (s.cmAddr b off 4).toNat % 4 ≠ 0 →
    exec (.stw x b pg sc off) s = .next (s.trap 0x09 (s.cmAddr b off 4))) ∧
  (∀ (x b : GR) (pg : PR) (sc : Scope) (off : Off10) (s : State), runs (.std x b pg sc off) s = true → (s.cmAddr b off 8).toNat % 8 ≠ 0 →
    exec (.std x b pg sc off) s = .next (s.trap 0x09 (s.cmAddr b off 8))) ∧
  (∀ (a b c : GR) (pg : PR) (mode : XMode) (mig : Bool) (s : State), runs (.ldhX a b c pg mode mig) s = true → (s.xAddr mode b c 2).toNat % 2 ≠ 0 →
    exec (.ldhX a b c pg mode mig) s = .next (s.trap 0x09 (s.xAddr mode b c 2))) ∧
  (∀ (a b c : GR) (pg : PR) (mode : XMode) (mig : Bool) (s : State), runs (.ldwX a b c pg mode mig) s = true → (s.xAddr mode b c 4).toNat % 4 ≠ 0 →
    exec (.ldwX a b c pg mode mig) s = .next (s.trap 0x09 (s.xAddr mode b c 4))) ∧
  (∀ (a b c : GR) (pg : PR) (mode : XMode) (mig : Bool) (s : State), runs (.lddX a b c pg mode mig) s = true → (s.xAddr mode b c 8).toNat % 8 ≠ 0 →
    exec (.lddX a b c pg mode mig) s = .next (s.trap 0x09 (s.xAddr mode b c 8))) ∧
  (∀ (a b c : GR) (pg : PR) (mode : XMode) (mig : Bool) (s : State), runs (.ldq a b c pg mode mig) s = true → (s.xAddr mode b c 16).toNat % 16 ≠ 0 →
    exec (.ldq a b c pg mode mig) s = .next (s.trap 0x09 (s.xAddr mode b c 16))) ∧
  (∀ (a b c : GR) (pg : PR) (mode : XMode) (mig : Bool) (s : State), runs (.sthX a b c pg mode mig) s = true → (s.xAddr mode b c 2).toNat % 2 ≠ 0 →
    exec (.sthX a b c pg mode mig) s = .next (s.trap 0x09 (s.xAddr mode b c 2))) ∧
  (∀ (a b c : GR) (pg : PR) (mode : XMode) (mig : Bool) (s : State), runs (.stwX a b c pg mode mig) s = true → (s.xAddr mode b c 4).toNat % 4 ≠ 0 →
    exec (.stwX a b c pg mode mig) s = .next (s.trap 0x09 (s.xAddr mode b c 4))) ∧
  (∀ (a b c : GR) (pg : PR) (mode : XMode) (mig : Bool) (s : State), runs (.stdX a b c pg mode mig) s = true → (s.xAddr mode b c 8).toNat % 8 ≠ 0 →
    exec (.stdX a b c pg mode mig) s = .next (s.trap 0x09 (s.xAddr mode b c 8))) ∧
  (∀ (a b c : GR) (pg : PR) (mode : XMode) (mig : Bool) (s : State), runs (.stq a b c pg mode mig) s = true → (s.xAddr mode b c 16).toNat % 16 ≠ 0 →
    exec (.stq a b c pg mode mig) s = .next (s.trap 0x09 (s.xAddr mode b c 16))) ∧
  (∀ (a b : GR) (pg : PR) (sc : Scope) (w : Wait) (s : State), runs (.ldff a b pg sc w) s = true → (s.g b).toNat % 8 ≠ 0 → exec (.ldff a b pg sc w) s = .next (s.trap 0x09 (s.g b))) ∧
  (∀ (a b : GR) (pg : PR) (sc : Scope) (w : Wait) (s : State), runs (.ldfe a b pg sc w) s = true → (s.g b).toNat % 8 ≠ 0 → exec (.ldfe a b pg sc w) s = .next (s.trap 0x09 (s.g b))) ∧
  (∀ (a b : GR) (pg : PR) (sc : Scope) (w : Wait) (s : State), runs (.stef a b pg sc w) s = true → (s.g b).toNat % 8 ≠ 0 → exec (.stef a b pg sc w) s = .next (s.trap 0x09 (s.g b))) ∧
  (∀ (a b : GR) (pg : PR) (sc : Scope) (w : Wait) (s : State), runs (.stsf a b pg sc w) s = true → (s.g b).toNat % 8 ≠ 0 → exec (.stsf a b pg sc w) s = .next (s.trap 0x09 (s.g b))) ∧
  (∀ (dbl : Bool) (a b c : GR) (pg : PR) (sc : Scope) (s : State), runs (.aadd dbl a b c pg sc) s = true → (s.g b).toNat % (if dbl then 8 else 4) ≠ 0 →
    exec (.aadd dbl a b c pg sc) s = .next (s.trap 0x09 (s.g b))) ∧
  (∀ (dbl : Bool) (a b c : GR) (pg : PR) (sc : Scope) (s : State), runs (.aswap dbl a b c pg sc) s = true → (s.g b).toNat % (if dbl then 8 else 4) ≠ 0 →
    exec (.aswap dbl a b c pg sc) s = .next (s.trap 0x09 (s.g b))) ∧
  (∀ (dbl : Bool) (a b c : GR) (pg : PR) (sc : Scope) (s : State), runs (.acas dbl a b c pg sc) s = true → (s.g b).toNat % (if dbl then 8 else 4) ≠ 0 →
    exec (.acas dbl a b c pg sc) s = .next (s.trap 0x09 (s.g b))) ∧
  (∀ (a b c : GR) (pg : PR) (mode : XMode) (mig : Bool) (s : State), runs (.ldhuX a b c pg mode mig) s = true → (s.xAddr mode b c 2).toNat % 2 ≠ 0 →
    exec (.ldhuX a b c pg mode mig) s = .next (s.trap 0x09 (s.xAddr mode b c 2))) ∧
  (∀ (a b c : GR) (pg : PR) (mode : XMode) (mig : Bool) (s : State), runs (.ldwuX a b c pg mode mig) s = true → (s.xAddr mode b c 4).toNat % 4 ≠ 0 →
    exec (.ldwuX a b c pg mode mig) s = .next (s.trap 0x09 (s.xAddr mode b c 4))) ∧
  (∀ (a b : GR) (pg : PR) (sc : Scope) (s : State), runs (.ferd a b pg sc) s = true → (s.g b).toNat % 8 ≠ 0 → exec (.ferd a b pg sc) s = .next (s.trap 0x09 (s.g b))) ∧
  (∀ (b : GR) (pg : PR) (sc : Scope) (s : State), runs (.feset b pg sc) s = true → (s.g b).toNat % 8 ≠ 0 → exec (.feset b pg sc) s = .next (s.trap 0x09 (s.g b))) ∧
  (∀ (b : GR) (pg : PR) (sc : Scope) (s : State), runs (.feclr b pg sc) s = true → (s.g b).toNat % 8 ≠ 0 → exec (.feclr b pg sc) s = .next (s.trap 0x09 (s.g b))) ∧
  (∀ (dbl : Bool) (a b c : GR) (pg : PR) (sc : Scope) (s : State), runs (.aand dbl a b c pg sc) s = true → (s.g b).toNat % (if dbl then 8 else 4) ≠ 0 →
    exec (.aand dbl a b c pg sc) s = .next (s.trap 0x09 (s.g b))) ∧
  (∀ (dbl : Bool) (a b c : GR) (pg : PR) (sc : Scope) (s : State), runs (.aor dbl a b c pg sc) s = true → (s.g b).toNat % (if dbl then 8 else 4) ≠ 0 →
    exec (.aor dbl a b c pg sc) s = .next (s.trap 0x09 (s.g b))) ∧
  (∀ (dbl : Bool) (a b c : GR) (pg : PR) (sc : Scope) (s : State), runs (.axor dbl a b c pg sc) s = true → (s.g b).toNat % (if dbl then 8 else 4) ≠ 0 →
    exec (.axor dbl a b c pg sc) s = .next (s.trap 0x09 (s.g b))) ∧
  (∀ (dbl : Bool) (a b c : GR) (pg : PR) (sc : Scope) (s : State), runs (.amin dbl a b c pg sc) s = true → (s.g b).toNat % (if dbl then 8 else 4) ≠ 0 →
    exec (.amin dbl a b c pg sc) s = .next (s.trap 0x09 (s.g b))) ∧
  (∀ (dbl : Bool) (a b c : GR) (pg : PR) (sc : Scope) (s : State), runs (.amax dbl a b c pg sc) s = true → (s.g b).toNat % (if dbl then 8 else 4) ≠ 0 →
    exec (.amax dbl a b c pg sc) s = .next (s.trap 0x09 (s.g b))) ∧
  (∀ (dbl : Bool) (a b c : GR) (pg : PR) (sc : Scope) (s : State), runs (.aminu dbl a b c pg sc) s = true → (s.g b).toNat % (if dbl then 8 else 4) ≠ 0 →
    exec (.aminu dbl a b c pg sc) s = .next (s.trap 0x09 (s.g b))) ∧
  (∀ (dbl : Bool) (a b c : GR) (pg : PR) (sc : Scope) (s : State), runs (.amaxu dbl a b c pg sc) s = true → (s.g b).toNat % (if dbl then 8 else 4) ≠ 0 →
    exec (.amaxu dbl a b c pg sc) s = .next (s.trap 0x09 (s.g b))) ∧
  (∀ (a b c : GR) (pg : PR) (sc : Scope) (s : State), runs (.afadd a b c pg sc) s = true → (s.g b).toNat % 4 ≠ 0 → exec (.afadd a b c pg sc) s = .next (s.trap 0x09 (s.g b)))

/-- 06 R151, 06 R152, 04 R88, 17 R339. LDFF to FECLR on an aligned word of the own LM send one request and hold the strand for the
answer; at the home LDFF reads a full word, LDFE reads it and leaves it empty, STEF writes an empty word and leaves it full,
STSF writes and leaves full, FERD gives the F/E bit, FESET and FECLR set it; the others wait in the retry list, fail where
they only attempt, or find the list full. -/
def Obligations.SyncAccesses : Prop :=
  (∀ (a b : GR) (pg : PR) (w : Wait) (s : State) (o : Nat), runs (.ldff a b pg .core w) s = true → s.OwnLm (s.g b) 8 o → exec (.ldff a b pg .core w) s = .next (s.request (.g a 8 false) (.sync .ldff 0 ((waitPred w).isSome || s.waitLimit w == some 0)) (.lm s.cur.core o) 8 (s.g b)
      (fun x => { x with flagged := false, kslot := 0 }) (fun r => { r with pred := waitPred w, limit := s.limitCycle w, acquire := .core }) fun id => .syncWait id)) ∧
  (∀ (a b : GR) (pg : PR) (w : Wait) (s : State) (o : Nat), runs (.ldfe a b pg .core w) s = true → s.OwnLm (s.g b) 8 o → exec (.ldfe a b pg .core w) s = .next (s.request (.g a 8 false) (.sync .ldfe 0 ((waitPred w).isSome || s.waitLimit w == some 0)) (.lm s.cur.core o) 8 (s.g b)
      (fun x => { x with flagged := false, kslot := 0 }) (fun r => { r with pred := waitPred w, limit := s.limitCycle w, acquire := .core }) fun id => .syncWait id)) ∧
  (∀ (a b : GR) (pg : PR) (w : Wait) (s : State) (o : Nat), runs (.stef a b pg .core w) s = true → s.OwnLm (s.g b) 8 o → exec (.stef a b pg .core w) s = .next (s.request (.none_) (.sync .stef (s.g a) ((waitPred w).isSome || s.waitLimit w == some 0)) (.lm s.cur.core o) 8 (s.g b)
      (fun x => { x with flagged := false, kslot := 0 }) (fun r => { r with pred := waitPred w, limit := s.limitCycle w, acquire := .core }) fun id => .syncWait id)) ∧
  (∀ (a b : GR) (pg : PR) (w : Wait) (s : State) (o : Nat), runs (.stsf a b pg .core w) s = true → s.OwnLm (s.g b) 8 o → exec (.stsf a b pg .core w) s = .next (s.request (.none_) (.sync .stsf (s.g a) ((waitPred w).isSome || s.waitLimit w == some 0)) (.lm s.cur.core o) 8 (s.g b)
      (fun x => { x with flagged := false, kslot := 0 }) (fun r => { r with pred := waitPred w, limit := s.limitCycle w, acquire := .core }) fun id => .syncWait id)) ∧
  (∀ (a b : GR) (pg : PR) (s : State) (o : Nat), runs (.ferd a b pg .core) s = true → s.OwnLm (s.g b) 8 o → exec (.ferd a b pg .core) s = .next (s.request (.g a 8 false) (.sync .ferd 0 ((waitPred .unbounded).isSome || s.waitLimit .unbounded == some 0)) (.lm s.cur.core o) 8 (s.g b)
      (fun x => { x with flagged := false, kslot := 0 }) (fun r => { r with pred := waitPred .unbounded, limit := s.limitCycle .unbounded, acquire := .core }) fun id => .syncWait id)) ∧
  (∀ (b : GR) (pg : PR) (s : State) (o : Nat), runs (.feset b pg .core) s = true → s.OwnLm (s.g b) 8 o → exec (.feset b pg .core) s = .next (s.request (.none_) (.sync .feset 0 ((waitPred .unbounded).isSome || s.waitLimit .unbounded == some 0)) (.lm s.cur.core o) 8 (s.g b)
      (fun x => { x with flagged := false, kslot := 0 }) (fun r => { r with pred := waitPred .unbounded, limit := s.limitCycle .unbounded, acquire := .core }) fun id => .syncWait id)) ∧
  (∀ (b : GR) (pg : PR) (s : State) (o : Nat), runs (.feclr b pg .core) s = true → s.OwnLm (s.g b) 8 o → exec (.feclr b pg .core) s = .next (s.request (.none_) (.sync .feclr 0 ((waitPred .unbounded).isSome || s.waitLimit .unbounded == some 0)) (.lm s.cur.core o) 8 (s.g b)
      (fun x => { x with flagged := false, kslot := 0 }) (fun r => { r with pred := waitPred .unbounded, limit := s.limitCycle .unbounded, acquire := .core }) fun id => .syncWait id)) ∧
  (∀ (s : State) (l : Loc) (v : W64) (va : Nat), let m := l.forward s; s.isFull m = true →
    s.syncAt .ldff l v 0 va = some (s, .data (s.readAt m 8) false) ∧ s.syncAt .ldfe l v 0 va = some (s.setFull m false, .data (s.readAt m 8) false) ∧ s.syncAt .stef l v 0 va = none) ∧
  (∀ (s : State) (l : Loc) (v : W64) (va : Nat), let m := l.forward s; s.isFull m = false → s.syncAt .ldff l v 0 va = none ∧ s.syncAt .ldfe l v 0 va = none ∧
    s.syncAt .stef l v 0 va = some ((s.homeWrite m (leBytes 8 v.toNat)).setFull m true, .data [] false) ∧ ((s.homeWrite m (leBytes 8 v.toNat)).setFull m true).isFull m = true) ∧
  (∀ (s : State) (l : Loc) (v : W64) (va : Nat), let m := l.forward s; s.syncAt .stsf l v 0 va = some ((s.homeWrite m (leBytes 8 v.toNat)).setFull m true, .data [] false) ∧
    s.syncAt .ferd l v 0 va = some (s, .data (leBytes 8 (if s.isFull m then 1 else 0)) false) ∧ (∃ t, s.syncAt .feset l v 0 va = some (t, .data [] false) ∧ t.isFull m = true ∧ t.mem = s.mem)) ∧
  (∀ (s : State) (l : Loc) (v : W64) (va : Nat), let m := l.forward s; ∃ t, s.syncAt .feclr l v 0 va = some (t, .data [] false) ∧ t.isFull m = false ∧ t.mem = s.mem) ∧
  (∀ (s : State) (home src : Node) (a : Access) (op : SyncOp) (v : W64) (att : Bool), a.kind = .sync op v att → let u := s.nearAt a; u.syncAt op a.loc v a.kslot a.va.toNat = none →
    s.performAt home src a = if att then (u, some .failed) else if u.retryTaken home (u.bankOf a.loc) ≥ retryPlaces a.loc then (u, some .busy)
      else (let m := a.loc.forward u; { u with retry := u.retry ++ [(match m with | .hbm _ _ => u.home m | _ => home, { acc := { a with loc := m }, src := src })] }, none)) ∧
  (∀ (s : State) (home src : Node) (a : Access) (op : SyncOp) (v : W64) (att : Bool) (u : State) (r : AccResult), a.kind = .sync op v att → (s.nearAt a).syncAt op a.loc v a.kslot a.va.toNat = some (u, r) →
    s.performAt home src a = (if op = .ldff ∨ op = .ferd then u else u.retest (a.loc.forward u).key (u.retry.length + 1), some r))

/-- 06 R153, 06 R154, 06 R155. AADD to ACAS of 4 and 8 bytes, and AFADD, on an aligned word of the own LM leave the operation's
result there and the old value, zero-extended, in a (in no register with g0); nothing else changes but the access's place in
the cluster's logical time, which is the model's (log 7). -/
def Obligations.AtomicsInOwnLm : Prop :=
  (∀ (a b c : GR) (pg : PR) (s : State) (o : Nat), runs (.aadd false a b c pg .core) s = true → s.OwnLm (s.g b) 4 o →
    exec (.aadd false a b c pg .core) s = .next (((s.nearTime s.cur.core).writeAt (.lm s.cur.core o) (leBytes 4 ((BitVec.ofNat 32 (leNat (s.readAt (.lm s.cur.core o) 4))) + ((s.g c).setWidth 32) : BitVec 32).toNat)).fillNow (if a = 0 then .none_ else .g a 4 false) (s.readAt (.lm s.cur.core o) 4) false)) ∧
  (∀ (a b c : GR) (pg : PR) (s : State) (o : Nat), runs (.aand false a b c pg .core) s = true → s.OwnLm (s.g b) 4 o →
    exec (.aand false a b c pg .core) s = .next (((s.nearTime s.cur.core).writeAt (.lm s.cur.core o) (leBytes 4 ((BitVec.ofNat 32 (leNat (s.readAt (.lm s.cur.core o) 4))) &&& ((s.g c).setWidth 32) : BitVec 32).toNat)).fillNow (if a = 0 then .none_ else .g a 4 false) (s.readAt (.lm s.cur.core o) 4) false)) ∧
  (∀ (a b c : GR) (pg : PR) (s : State) (o : Nat), runs (.aor false a b c pg .core) s = true → s.OwnLm (s.g b) 4 o →
    exec (.aor false a b c pg .core) s = .next (((s.nearTime s.cur.core).writeAt (.lm s.cur.core o) (leBytes 4 ((BitVec.ofNat 32 (leNat (s.readAt (.lm s.cur.core o) 4))) ||| ((s.g c).setWidth 32) : BitVec 32).toNat)).fillNow (if a = 0 then .none_ else .g a 4 false) (s.readAt (.lm s.cur.core o) 4) false)) ∧
  (∀ (a b c : GR) (pg : PR) (s : State) (o : Nat), runs (.axor false a b c pg .core) s = true → s.OwnLm (s.g b) 4 o →
    exec (.axor false a b c pg .core) s = .next (((s.nearTime s.cur.core).writeAt (.lm s.cur.core o) (leBytes 4 ((BitVec.ofNat 32 (leNat (s.readAt (.lm s.cur.core o) 4))) ^^^ ((s.g c).setWidth 32) : BitVec 32).toNat)).fillNow (if a = 0 then .none_ else .g a 4 false) (s.readAt (.lm s.cur.core o) 4) false)) ∧
  (∀ (a b c : GR) (pg : PR) (s : State) (o : Nat), runs (.amin false a b c pg .core) s = true → s.OwnLm (s.g b) 4 o →
    exec (.amin false a b c pg .core) s = .next (((s.nearTime s.cur.core).writeAt (.lm s.cur.core o) (leBytes 4 ((if (BitVec.ofNat 32 (leNat (s.readAt (.lm s.cur.core o) 4))).toInt < ((s.g c).setWidth 32).toInt then (BitVec.ofNat 32 (leNat (s.readAt (.lm s.cur.core o) 4))) else ((s.g c).setWidth 32)) : BitVec 32).toNat)).fillNow (if a = 0 then .none_ else .g a 4 false) (s.readAt (.lm s.cur.core o) 4) false)) ∧
  (∀ (a b c : GR) (pg : PR) (s : State) (o : Nat), runs (.amax false a b c pg .core) s = true → s.OwnLm (s.g b) 4 o →
    exec (.amax false a b c pg .core) s = .next (((s.nearTime s.cur.core).writeAt (.lm s.cur.core o) (leBytes 4 ((if (BitVec.ofNat 32 (leNat (s.readAt (.lm s.cur.core o) 4))).toInt < ((s.g c).setWidth 32).toInt then ((s.g c).setWidth 32) else (BitVec.ofNat 32 (leNat (s.readAt (.lm s.cur.core o) 4)))) : BitVec 32).toNat)).fillNow (if a = 0 then .none_ else .g a 4 false) (s.readAt (.lm s.cur.core o) 4) false)) ∧
  (∀ (a b c : GR) (pg : PR) (s : State) (o : Nat), runs (.aminu false a b c pg .core) s = true → s.OwnLm (s.g b) 4 o →
    exec (.aminu false a b c pg .core) s = .next (((s.nearTime s.cur.core).writeAt (.lm s.cur.core o) (leBytes 4 ((if (BitVec.ofNat 32 (leNat (s.readAt (.lm s.cur.core o) 4))).toNat < ((s.g c).setWidth 32).toNat then (BitVec.ofNat 32 (leNat (s.readAt (.lm s.cur.core o) 4))) else ((s.g c).setWidth 32)) : BitVec 32).toNat)).fillNow (if a = 0 then .none_ else .g a 4 false) (s.readAt (.lm s.cur.core o) 4) false)) ∧
  (∀ (a b c : GR) (pg : PR) (s : State) (o : Nat), runs (.amaxu false a b c pg .core) s = true → s.OwnLm (s.g b) 4 o →
    exec (.amaxu false a b c pg .core) s = .next (((s.nearTime s.cur.core).writeAt (.lm s.cur.core o) (leBytes 4 ((if (BitVec.ofNat 32 (leNat (s.readAt (.lm s.cur.core o) 4))).toNat < ((s.g c).setWidth 32).toNat then ((s.g c).setWidth 32) else (BitVec.ofNat 32 (leNat (s.readAt (.lm s.cur.core o) 4)))) : BitVec 32).toNat)).fillNow (if a = 0 then .none_ else .g a 4 false) (s.readAt (.lm s.cur.core o) 4) false)) ∧
  (∀ (a b c : GR) (pg : PR) (s : State) (o : Nat), runs (.aswap false a b c pg .core) s = true → s.OwnLm (s.g b) 4 o →
    exec (.aswap false a b c pg .core) s = .next (((s.nearTime s.cur.core).writeAt (.lm s.cur.core o) (leBytes 4 (((s.g c).setWidth 32) : BitVec 32).toNat)).fillNow (if a = 0 then .none_ else .g a 4 false) (s.readAt (.lm s.cur.core o) 4) false)) ∧
  (∀ (a b c : GR) (pg : PR) (s : State) (o : Nat), runs (.acas false a b c pg .core) s = true → s.OwnLm (s.g b) 4 o →
    exec (.acas false a b c pg .core) s = .next (((s.nearTime s.cur.core).writeAt (.lm s.cur.core o) (leBytes 4 ((if (BitVec.ofNat 32 (leNat (s.readAt (.lm s.cur.core o) 4))) = ((s.g c).setWidth 32) then (s.g (c + 1)).setWidth 32 else (BitVec.ofNat 32 (leNat (s.readAt (.lm s.cur.core o) 4)))) : BitVec 32).toNat)).fillNow (if a = 0 then .none_ else .g a 4 false) (s.readAt (.lm s.cur.core o) 4) false)) ∧
  (∀ (a b c : GR) (pg : PR) (s : State) (o : Nat), runs (.aadd true a b c pg .core) s = true → s.OwnLm (s.g b) 8 o →
    exec (.aadd true a b c pg .core) s = .next (((s.nearTime s.cur.core).writeAt (.lm s.cur.core o) (leBytes 8 ((BitVec.ofNat 64 (leNat (s.readAt (.lm s.cur.core o) 8))) + ((s.g c).setWidth 64) : BitVec 64).toNat)).fillNow (if a = 0 then .none_ else .g a 8 false) (s.readAt (.lm s.cur.core o) 8) false)) ∧
  (∀ (a b c : GR) (pg : PR) (s : State) (o : Nat), runs (.aand true a b c pg .core) s = true → s.OwnLm (s.g b) 8 o →
    exec (.aand true a b c pg .core) s = .next (((s.nearTime s.cur.core).writeAt (.lm s.cur.core o) (leBytes 8 ((BitVec.ofNat 64 (leNat (s.readAt (.lm s.cur.core o) 8))) &&& ((s.g c).setWidth 64) : BitVec 64).toNat)).fillNow (if a = 0 then .none_ else .g a 8 false) (s.readAt (.lm s.cur.core o) 8) false)) ∧
  (∀ (a b c : GR) (pg : PR) (s : State) (o : Nat), runs (.aor true a b c pg .core) s = true → s.OwnLm (s.g b) 8 o →
    exec (.aor true a b c pg .core) s = .next (((s.nearTime s.cur.core).writeAt (.lm s.cur.core o) (leBytes 8 ((BitVec.ofNat 64 (leNat (s.readAt (.lm s.cur.core o) 8))) ||| ((s.g c).setWidth 64) : BitVec 64).toNat)).fillNow (if a = 0 then .none_ else .g a 8 false) (s.readAt (.lm s.cur.core o) 8) false)) ∧
  (∀ (a b c : GR) (pg : PR) (s : State) (o : Nat), runs (.axor true a b c pg .core) s = true → s.OwnLm (s.g b) 8 o →
    exec (.axor true a b c pg .core) s = .next (((s.nearTime s.cur.core).writeAt (.lm s.cur.core o) (leBytes 8 ((BitVec.ofNat 64 (leNat (s.readAt (.lm s.cur.core o) 8))) ^^^ ((s.g c).setWidth 64) : BitVec 64).toNat)).fillNow (if a = 0 then .none_ else .g a 8 false) (s.readAt (.lm s.cur.core o) 8) false)) ∧
  (∀ (a b c : GR) (pg : PR) (s : State) (o : Nat), runs (.amin true a b c pg .core) s = true → s.OwnLm (s.g b) 8 o →
    exec (.amin true a b c pg .core) s = .next (((s.nearTime s.cur.core).writeAt (.lm s.cur.core o) (leBytes 8 ((if (BitVec.ofNat 64 (leNat (s.readAt (.lm s.cur.core o) 8))).toInt < ((s.g c).setWidth 64).toInt then (BitVec.ofNat 64 (leNat (s.readAt (.lm s.cur.core o) 8))) else ((s.g c).setWidth 64)) : BitVec 64).toNat)).fillNow (if a = 0 then .none_ else .g a 8 false) (s.readAt (.lm s.cur.core o) 8) false)) ∧
  (∀ (a b c : GR) (pg : PR) (s : State) (o : Nat), runs (.amax true a b c pg .core) s = true → s.OwnLm (s.g b) 8 o →
    exec (.amax true a b c pg .core) s = .next (((s.nearTime s.cur.core).writeAt (.lm s.cur.core o) (leBytes 8 ((if (BitVec.ofNat 64 (leNat (s.readAt (.lm s.cur.core o) 8))).toInt < ((s.g c).setWidth 64).toInt then ((s.g c).setWidth 64) else (BitVec.ofNat 64 (leNat (s.readAt (.lm s.cur.core o) 8)))) : BitVec 64).toNat)).fillNow (if a = 0 then .none_ else .g a 8 false) (s.readAt (.lm s.cur.core o) 8) false)) ∧
  (∀ (a b c : GR) (pg : PR) (s : State) (o : Nat), runs (.aminu true a b c pg .core) s = true → s.OwnLm (s.g b) 8 o →
    exec (.aminu true a b c pg .core) s = .next (((s.nearTime s.cur.core).writeAt (.lm s.cur.core o) (leBytes 8 ((if (BitVec.ofNat 64 (leNat (s.readAt (.lm s.cur.core o) 8))).toNat < ((s.g c).setWidth 64).toNat then (BitVec.ofNat 64 (leNat (s.readAt (.lm s.cur.core o) 8))) else ((s.g c).setWidth 64)) : BitVec 64).toNat)).fillNow (if a = 0 then .none_ else .g a 8 false) (s.readAt (.lm s.cur.core o) 8) false)) ∧
  (∀ (a b c : GR) (pg : PR) (s : State) (o : Nat), runs (.amaxu true a b c pg .core) s = true → s.OwnLm (s.g b) 8 o →
    exec (.amaxu true a b c pg .core) s = .next (((s.nearTime s.cur.core).writeAt (.lm s.cur.core o) (leBytes 8 ((if (BitVec.ofNat 64 (leNat (s.readAt (.lm s.cur.core o) 8))).toNat < ((s.g c).setWidth 64).toNat then ((s.g c).setWidth 64) else (BitVec.ofNat 64 (leNat (s.readAt (.lm s.cur.core o) 8)))) : BitVec 64).toNat)).fillNow (if a = 0 then .none_ else .g a 8 false) (s.readAt (.lm s.cur.core o) 8) false)) ∧
  (∀ (a b c : GR) (pg : PR) (s : State) (o : Nat), runs (.aswap true a b c pg .core) s = true → s.OwnLm (s.g b) 8 o →
    exec (.aswap true a b c pg .core) s = .next (((s.nearTime s.cur.core).writeAt (.lm s.cur.core o) (leBytes 8 (((s.g c).setWidth 64) : BitVec 64).toNat)).fillNow (if a = 0 then .none_ else .g a 8 false) (s.readAt (.lm s.cur.core o) 8) false)) ∧
  (∀ (a b c : GR) (pg : PR) (s : State) (o : Nat), runs (.acas true a b c pg .core) s = true → s.OwnLm (s.g b) 8 o →
    exec (.acas true a b c pg .core) s = .next (((s.nearTime s.cur.core).writeAt (.lm s.cur.core o) (leBytes 8 ((if (BitVec.ofNat 64 (leNat (s.readAt (.lm s.cur.core o) 8))) = ((s.g c).setWidth 64) then (s.g (c + 1)).setWidth 64 else (BitVec.ofNat 64 (leNat (s.readAt (.lm s.cur.core o) 8)))) : BitVec 64).toNat)).fillNow (if a = 0 then .none_ else .g a 8 false) (s.readAt (.lm s.cur.core o) 8) false)) ∧
  (∀ (a b c : GR) (pg : PR) (s : State) (o : Nat), runs (.afadd a b c pg .core) s = true → s.OwnLm (s.g b) 4 o →
    exec (.afadd a b c pg .core) s = .next (((s.nearTime s.cur.core).writeAt (.lm s.cur.core o) (leBytes 4 (fpArith .add .f32 .rne (BitVec.ofNat 32 (leNat (s.readAt (.lm s.cur.core o) 4))) ((s.g c).setWidth 32)).w.toNat)).fillNow (if a = 0 then .none_ else .gS a) (s.readAt (.lm s.cur.core o) 4) false))

/-- 06 R156, 06 R157, 06 R158, 06 R159, 06 R160, 06 R161, 06 R148. With nothing of the strand that it orders unacknowledged, a
fault that is pending outside privileged mode makes each fence but IFENCE, AGF and AGW trap with 0x0C and XVALUE the log's
address, after what they send and await and before their own effect; with none, FENCE takes the release and the acquire its
mask asks for, a mask of loads alone once no atomic of the strand that gives no value back is open; FENCER of no bytes or at
core scope has no effect, at a wider scope it takes its actions for the lines of its range, and one past the address space, or
whose ends differ in bits 56:52, traps with 0x02; IFENCE empties the code lines of the core, AGF sends every buffer or that of
an address's destination, and AGW ends; what is still open holds the bundle. FENCE.TL forgets the accesses it waited for; that
it first brings earlier invalidations to its own scope and which accesses it waits for, and that the lines of FENCER's range
are those of its pages whatever their privilege, is the model's reading (log 30); AGF translates its address as a store's (log
22). -/
def Obligations.FencesComplete : Prop :=
  (∀ (mask : BV4) (pg : PR) (sc : Scope) (s : State), runs (.fence mask pg sc) s = true → (mask.getLsbD 2 || mask.getLsbD 3) = true →
    (s.flushStrand s.cur.core s.cur.slot = s → s.strand.quiet = true → (sc = .sy → s.markers = s ∧ s.markersOut = false) →
      let t := if sc = .core then s else s.cacheRelease s.cur.core sc; (Scope.wide sc && t.writesWait s.cur.pre.part) = false → ((t.strand.x.pf = false ∨ t.cur.pre.priv = true → exec (.fence mask pg sc) s = .next (if mask.getLsbD 0 || mask.getLsbD 2 then t.cacheAcquire t.cur.core sc else t)) ∧ (t.strand.x.pf = true → t.cur.pre.priv = false → exec (.fence mask pg sc) s = .next (t.trap 0x0C logAddr)))) ∧
    (let t := s.flushStrand s.cur.core s.cur.slot; (sc = .cl ∨ sc = .pk) → t.strand.quiet = false → exec (.fence mask pg sc) s = .next (t.park .acks))) ∧
  (∀ (mask : BV4) (pg : PR) (sc : Scope) (s : State), runs (.fence mask pg sc) s = true → (mask.getLsbD 2 || mask.getLsbD 3) = false → (mask = 0 ∨ sc = .core ∨ (s.aggPushAll s.cur.core .release (fun b => b.elems.any fun e => e.1.slot == s.cur.slot && e.1.op.isSome && true) = s ∧ s.atomicsOpen (fun _ => true) (fun _ => true) = false)) → ((s.strand.x.pf = false ∨ s.cur.pre.priv = true → exec (.fence mask pg sc) s = .next (if mask.getLsbD 0 = true then s.cacheAcquire s.cur.core sc else s)) ∧ (s.strand.x.pf = true → s.cur.pre.priv = false → exec (.fence mask pg sc) s = .next (s.trap 0x0C logAddr)))) ∧
  (∀ (a b : GR) (mask : BV4) (pg : PR) (sc : Scope) (s : State), runs (.fencer a b mask pg sc) s = true → let x := (s.g a).toNat; let n := (s.g b).toNat;
    (n = 0 → ((s.strand.x.pf = false ∨ s.cur.pre.priv = true → exec (.fencer a b mask pg sc) s = .next s) ∧ (s.strand.x.pf = true → s.cur.pre.priv = false → exec (.fencer a b mask pg sc) s = .next (s.trap 0x0C logAddr)))) ∧
    (n ≠ 0 → (2 ^ 57 < x + n ∨ (x + n - 1) / 2 ^ 52 ≠ x / 2 ^ 52) → exec (.fencer a b mask pg sc) s = .next (s.trap 0x02 0)) ∧
    (n ≠ 0 → x + n ≤ 2 ^ 57 → (x + n - 1) / 2 ^ 52 = x / 2 ^ 52 → sc = .core → ((s.strand.x.pf = false ∨ s.cur.pre.priv = true → exec (.fencer a b mask pg sc) s = .next s) ∧ (s.strand.x.pf = true → s.cur.pre.priv = false → exec (.fencer a b mask pg sc) s = .next (s.trap 0x0C logAddr)))) ∧
    (n ≠ 0 → x + n ≤ 2 ^ 57 → (x + n - 1) / 2 ^ 52 = x / 2 ^ 52 → sc ≠ .core → (mask.getLsbD 2 || mask.getLsbD 3) = true → s.aggPushAll s.cur.core .release (fun b => b.elems.any (elemIn s.cur.slot x n)) = s → (sc = .sy → s.markers = s) →
      ((s.rangeOpen x n = true ∨ (sc = .sy ∧ s.markersOut = true)) → exec (.fencer a b mask pg sc) s = .next (s.park .acks)) ∧
      (s.rangeOpen x n = false → (sc = .sy → s.markersOut = false) → let sel (s : State) : Nat → Nat → Bool := inParts (s.globalParts { s.actor with priv := true } x n);
        let u := if Scope.wide sc then (s.wbCore s.cur.core (sel s)).markRelease s.cur.core true else s.markRelease s.cur.core false; u.cur = s.cur → (Scope.wide sc && u.writesWait s.cur.pre.part) = false → ((u.strand.x.pf = false ∨ u.cur.pre.priv = true → exec (.fencer a b mask pg sc) s = .next (if mask.getLsbD 0 || mask.getLsbD 2 then (if sc = .cl then u.cacheAcquire u.cur.core .cl else (u.invCore u.cur.core (sel u)).pastLeases u.cur.core) else u)) ∧ (u.strand.x.pf = true → u.cur.pre.priv = false → exec (.fencer a b mask pg sc) s = .next (u.trap 0x0C logAddr))))) ∧
    (n ≠ 0 → x + n ≤ 2 ^ 57 → (x + n - 1) / 2 ^ 52 = x / 2 ^ 52 → sc ≠ .core → (mask.getLsbD 2 || mask.getLsbD 3) = false → (mask = 0 ∨ (s.aggPushAll s.cur.core .release (fun b => b.elems.any fun e => e.1.slot == s.cur.slot && e.1.op.isSome && elemIn s.cur.slot x n e) = s ∧ s.atomicsOpen (elemIn s.cur.slot x n) (fun y => meets y.va.toNat y.size x n) = false)) →
      let sel := inParts (s.globalParts { s.actor with priv := true } x n); ((s.strand.x.pf = false ∨ s.cur.pre.priv = true → exec (.fencer a b mask pg sc) s = .next (if mask.getLsbD 0 = true then (if sc = .cl then s.cacheAcquire s.cur.core .cl else (s.invCore s.cur.core sel).pastLeases s.cur.core) else s)) ∧ (s.strand.x.pf = true → s.cur.pre.priv = false → exec (.fencer a b mask pg sc) s = .next (s.trap 0x0C logAddr))))) ∧
  (∀ (pg : PR) (s : State), runs (.ifence pg) s = true → exec (.ifence pg) s = .next (s.setCore s.cur.core { s.core s.cur.core with l1i := [] })) ∧
  (∀ (pg : PR) (sc : Scope) (s : State), runs (.fenceTl pg sc) s = true → let u := s.widenInvs sc; (u.drained u.cur.core sc u.strand = true → ((u.strand.x.pf = false ∨ u.cur.pre.priv = true → exec (.fenceTl pg sc) s = .next (u.setStrand { u.strand with tlbWait := u.strand.tlbWait.filter u.inUse })) ∧ (u.strand.x.pf = true → u.cur.pre.priv = false → exec (.fenceTl pg sc) s = .next (u.trap 0x0C logAddr)))) ∧
    (u.drained u.cur.core sc u.strand = false → exec (.fenceTl pg sc) s = .next (u.park (.tlb sc))) ∧
    ((∀ e ∈ s.strand.tlbInvs, Scope.reach sc ≤ Scope.reach e.2) → u = s)) ∧
  (∀ (pg : PR) (s : State), runs (.agf 0 pg) s = true → let t := s.aggPushAll s.cur.core .agf fun _ => true; ((t.strand.x.pf = false ∨ t.cur.pre.priv = true → exec (.agf 0 pg) s = .next t) ∧ (t.strand.x.pf = true → t.cur.pre.priv = false → exec (.agf 0 pg) s = .next (t.trap 0x0C logAddr)))) ∧
  (∀ (a : GR) (pg : PR) (s : State), runs (.agf a pg) s = true → a ≠ 0 →
    (∀ l at_ d, s.translateNow s.actor .store (s.g a) = .ok l at_ → s.aggDest s.cur.core l at_ true = some d → let t := s.aggPushAll s.cur.core .agf fun b => b.bound d; ((t.strand.x.pf = false ∨ t.cur.pre.priv = true → exec (.agf a pg) s = .next t) ∧ (t.strand.x.pf = true → t.cur.pre.priv = false → exec (.agf a pg) s = .next (t.trap 0x0C logAddr)))) ∧
    ((∀ l at_ d, s.translateNow s.actor .store (s.g a) = .ok l at_ → s.aggDest s.cur.core l at_ true ≠ some d) → ((s.strand.x.pf = false ∨ s.cur.pre.priv = true → exec (.agf a pg) s = .next s) ∧ (s.strand.x.pf = true → s.cur.pre.priv = false → exec (.agf a pg) s = .next (s.trap 0x0C logAddr))))) ∧
  (∀ (pg : PR) (s : State), runs (.agw pg) s = true → s.flushStrand s.cur.core s.cur.slot = s → s.strand.unackElems = 0 → ((s.strand.x.pf = false ∨ s.cur.pre.priv = true → exec (.agw pg) s = .next s) ∧ (s.strand.x.pf = true → s.cur.pre.priv = false → exec (.agw pg) s = .next (s.trap 0x0C logAddr))))

/-- 07 R184, 07 R185, 07 R186, 03 R70, 07 R187, 07 R189, 02 R22. VLD, VLDS, VLDX and VLDB read their active lanes' elements, which
arrive 8 cycles after the issue; delivered, they fill the active lanes, widened, with S = 0, and the others stay; VST, VSTS
and VSTX write the active lanes in ascending order; VSPILL writes the 132-byte image of a register and VFILL reads it, a word
at a time, and a register filled with the image of another is that register, S bits included. The lanes' places in the
cluster's logical time are the model's (log 7). -/
def Obligations.VectorMemoryInOwnLm : Prop :=
  (∀ (v : VR) (b : GR) (mg : MR) (off : Off10) (s : State) (f : Nat → Nat), runs (.vld v b mg .core off) s = true → (s.core s.cur.core).teQueue = [] →
    (∀ i, i < 32 → (s.mr mg).getLsbD i = true → s.g b + off.signExtend 64 * 128 + BitVec.ofNat 64 (4 * i) = ownLmBase + BitVec.ofNat 64 (f i) ∧ f i % 4 = 0 ∧ f i + 4 ≤ Config.lmBytes) →
    exec (.vld v b mg .core off) s = .next (((List.range 32).filter (s.mr mg).getLsbD).foldl (fun t i => (t.nearTime s.cur.core).arriveAt (.lane v i .w) .load (.lm s.cur.core (f i)) 4 (s.vlAddr b off i) (s.issueCycle + 8) (s.readAt (.lm s.cur.core (f i)) 4) false) s)) ∧
  (∀ (v : VR) (b c : GR) (mg : MR) (mt : MTy) (s : State) (f : Nat → Nat), runs (.vlds v b c mg mt) s = true → (s.core s.cur.core).teQueue = [] →
    (∀ i, i < 32 → (s.mr mg).getLsbD i = true → s.g b + BitVec.ofNat 64 i * s.g c = ownLmBase + BitVec.ofNat 64 (f i) ∧ f i % MTy.bytes mt = 0 ∧ f i + MTy.bytes mt ≤ Config.lmBytes) →
    exec (.vlds v b c mg mt) s = .next (((List.range 32).filter (s.mr mg).getLsbD).foldl (fun t i => (t.nearTime s.cur.core).arriveAt (.lane v i mt) .load (.lm s.cur.core (f i)) (MTy.bytes mt) (s.strided b c i) (s.issueCycle + 8) (s.readAt (.lm s.cur.core (f i)) (MTy.bytes mt)) false) s)) ∧
  (∀ (v : VR) (b : GR) (c : VR) (mg : MR) (mt : MTy) (s : State) (f : Nat → Nat), runs (.vldx v b c mg mt) s = true → (s.core s.cur.core).teQueue = [] →
    (∀ i, i < 32 → (s.mr mg).getLsbD i = true → s.g b + ((s.vr c).lane i).signExtend 64 = ownLmBase + BitVec.ofNat 64 (f i) ∧ f i % MTy.bytes mt = 0 ∧ f i + MTy.bytes mt ≤ Config.lmBytes) →
    exec (.vldx v b c mg mt) s = .next (((List.range 32).filter (s.mr mg).getLsbD).foldl (fun t i => (t.nearTime s.cur.core).arriveAt (.lane v i mt) .load (.lm s.cur.core (f i)) (MTy.bytes mt) (s.indexed b c i) (s.issueCycle + 8) (s.readAt (.lm s.cur.core (f i)) (MTy.bytes mt)) false) s)) ∧
  (∀ (v : VR) (b : GR) (mg : MR) (mt : MTy) (s : State) (o : Nat), runs (.vldb v b mg mt) s = true → s.OwnLm (s.g b) (MTy.bytes mt) o →
    exec (.vldb v b mg mt) s = .next ((s.nearTime s.cur.core).arriveAt (.bcast v (s.mr mg) mt) .load (.lm s.cur.core o) (MTy.bytes mt) (s.g b) (s.issueCycle + 8) (s.readAt (.lm s.cur.core o) (MTy.bytes mt)) false)) ∧
  (∀ (x : Strand) (v : VR) (act : W32) (mt : MTy) (f : Nat → List Byte) (bs : List Byte), (let y := ((List.range 32).filter act.getLsbD).foldl (fun y i => y.deliver (.lane v i mt) (f i) false) x; (rget x.v v).Lanes act (fun i => ⟨MTy.widen mt (f i), false⟩) (rget y.v v) ∧ (∀ r, r ≠ v → rget y.v r = rget x.v r) ∧ y = { x with v := y.v }) ∧
    (let y := x.deliver (.bcast v act mt) bs false; (rget x.v v).Lanes act (fun _ => ⟨MTy.widen mt bs, false⟩) (rget y.v v) ∧ (∀ r, r ≠ v → rget y.v r = rget x.v r) ∧ y = { x with v := y.v }) ∧
    (∀ k, x.deliver (.image v k) bs false = { x with v := rset x.v v ((rget x.v v).putImage k bs) })) ∧
  (∀ (v : VR) (b : GR) (mg : MR) (off : Off10) (s : State) (f : Nat → Nat), runs (.vst v b mg .core off) s = true → (s.core s.cur.core).teQueue = [] →
    (∀ i, i < 32 → (s.mr mg).getLsbD i = true → s.g b + off.signExtend 64 * 128 + BitVec.ofNat 64 (4 * i) = ownLmBase + BitVec.ofNat 64 (f i) ∧ f i % 4 = 0 ∧ f i + 4 ≤ Config.lmBytes) →
    exec (.vst v b mg .core off) s = .next (((List.range 32).filter (s.mr mg).getLsbD).foldl (fun t i => (t.nearTime s.cur.core).writeAt (.lm s.cur.core (f i)) (leBytes 4 ((s.vr v).lane i).toNat)) s)) ∧
  (∀ (v : VR) (b c : GR) (mg : MR) (s : State) (f : Nat → Nat), runs (.vsts v b c mg) s = true → (s.core s.cur.core).teQueue = [] →
    (∀ i, i < 32 → (s.mr mg).getLsbD i = true → s.g b + BitVec.ofNat 64 i * s.g c = ownLmBase + BitVec.ofNat 64 (f i) ∧ f i % 4 = 0 ∧ f i + 4 ≤ Config.lmBytes) →
    exec (.vsts v b c mg) s = .next (((List.range 32).filter (s.mr mg).getLsbD).foldl (fun t i => (t.nearTime s.cur.core).writeAt (.lm s.cur.core (f i)) (leBytes 4 ((s.vr v).lane i).toNat)) s)) ∧
  (∀ (v : VR) (b : GR) (c : VR) (mg : MR) (s : State) (f : Nat → Nat), runs (.vstx v b c mg) s = true → (s.core s.cur.core).teQueue = [] →
    (∀ i, i < 32 → (s.mr mg).getLsbD i = true → s.g b + ((s.vr c).lane i).signExtend 64 = ownLmBase + BitVec.ofNat 64 (f i) ∧ f i % 4 = 0 ∧ f i + 4 ≤ Config.lmBytes) →
    exec (.vstx v b c mg) s = .next (((List.range 32).filter (s.mr mg).getLsbD).foldl (fun t i => (t.nearTime s.cur.core).writeAt (.lm s.cur.core (f i)) (leBytes 4 ((s.vr v).lane i).toNat)) s)) ∧
  (∀ (v : VR) (b : GR) (s : State) (o : Nat), runs (.vspill v b) s = true → s.g b = ownLmBase + BitVec.ofNat 64 o → o % 4 = 0 → o + 132 ≤ Config.lmBytes → (s.core s.cur.core).teQueue = [] →
    exec (.vspill v b) s = .next ((List.range 33).foldl (fun t i => (t.nearTime s.cur.core).writeAt (.lm s.cur.core (o + 4 * i)) (leBytes 4 (if i < 32 then (s.vr v).lane i else (s.vr v).s).toNat)) s)) ∧
  (∀ (v : VR) (b : GR) (s : State) (o : Nat), runs (.vfill v b) s = true → s.g b = ownLmBase + BitVec.ofNat 64 o → o % 4 = 0 → o + 132 ≤ Config.lmBytes → (s.core s.cur.core).teQueue = [] →
    exec (.vfill v b) s = .next ((List.range 33).foldl (fun t i => (t.nearTime s.cur.core).arriveAt (.image v (4 * i)) .load (.lm s.cur.core (o + 4 * i)) 4 (s.g b + BitVec.ofNat 64 (4 * i)) (s.issueCycle + 8) (s.readAt (.lm s.cur.core (o + 4 * i)) 4) false) s)) ∧
  (∀ x z : VReg, (List.range 33).foldl (fun y i => y.putImage (4 * i) (leBytes 4 (if i < 32 then x.lane i else x.s).toNat)) z = x)

/-- 06 R150, 07 R188, 02 R36, 02 R42, 02 R27. FSTN rounds w with its S once to the format, in every rounding mode, and writes the
code to the own LM with the flags raised; VSTN does so for each active lane at its place, a lane of e2m1 at a nibble, its
partner's nibble kept unless it is active too; one whose flags are enabled traps with 0x15, and a misaligned FSTN with 0x09,
and writes nothing; under stochastic rounding each element draws the next word of the generator, whose seed is left at the
last. -/
def Obligations.NarrowingStores : Prop :=
  (∀ (a b : GR) (mode : RMode) (pg : PR) (fmt : NTy) (s : State) (o : Nat), runs (.fstn a b mode pg fmt) s = true →
    let r := finalRound (s.gw a) (s.gS a) 0 (NTy.fm fmt) mode s.ovf ((s.draws mode 1).getD 0 0); let u := s.advance mode 1;
    (s.enabled r.2 = 0 → s.OwnLm (s.g b) (NTy.size fmt) o → exec (.fstn a b mode pg fmt) s = .next (((u.raise r.2).nearTime s.cur.core).writeAt (.lm s.cur.core o) (leBytes (NTy.size fmt) r.1))) ∧
    (s.enabled r.2 = 0 → (s.g b).toNat % NTy.size fmt ≠ 0 → exec (.fstn a b mode pg fmt) s = .next (u.trap 0x09 (s.g b))) ∧
    (s.enabled r.2 ≠ 0 → exec (.fstn a b mode pg fmt) s = .next (u.trap 0x15 (r.2.setWidth 64)))) ∧
  (∀ (v : VR) (b : GR) (mode : RMode) (mg : MR) (fmt : NTy) (s : State) (f : Nat → Nat), runs (.vstn v b mode mg fmt) s = true → fmt ≠ .e2m1 → (s.core s.cur.core).teQueue = [] → let g := (s.draws mode ((List.range 32).filter (s.mr mg).getLsbD).length); let r (i : Nat) : Nat × Flags := finalRound ((s.vr v).lane i) ((s.vr v).laneS i) 0 (NTy.fm fmt) mode s.ovf (g.getD (rankOf (s.mr mg) i) 0); let fl : Flags := ((List.range 32).filter (s.mr mg).getLsbD).foldl (fun f i => f ||| (r i).2) 0; let u := s.advance mode ((List.range 32).filter (s.mr mg).getLsbD).length; s.enabled fl = 0 →
    (∀ i, i < 32 → (s.mr mg).getLsbD i = true → s.g b + BitVec.ofNat 64 (NTy.size fmt * i) = ownLmBase + BitVec.ofNat 64 (f i) ∧ f i % NTy.size fmt = 0 ∧ f i + NTy.size fmt ≤ Config.lmBytes) →
    exec (.vstn v b mode mg fmt) s = .next ((((List.range 32).filter (s.mr mg).getLsbD).foldl (fun t i => (t.nearTime s.cur.core).writeAt (.lm s.cur.core (f i)) (leBytes (NTy.size fmt) (r i).1)) u).raise fl)) ∧
  (∀ (v : VR) (b : GR) (mode : RMode) (mg : MR) (fmt : NTy) (s : State) (f : Nat → Nat), runs (.vstn v b mode mg fmt) s = true → fmt = .e2m1 → (s.core s.cur.core).teQueue = [] → let g := (s.draws mode ((List.range 32).filter (s.mr mg).getLsbD).length); let r (i : Nat) : Nat × Flags := finalRound ((s.vr v).lane i) ((s.vr v).laneS i) 0 (NTy.fm fmt) mode s.ovf (g.getD (rankOf (s.mr mg) i) 0); let fl : Flags := ((List.range 32).filter (s.mr mg).getLsbD).foldl (fun f i => f ||| (r i).2) 0; let u := s.advance mode ((List.range 32).filter (s.mr mg).getLsbD).length; s.enabled fl = 0 →
    (∀ i, i < 32 → (s.mr mg).getLsbD i = true → s.g b + BitVec.ofNat 64 (i / 2) = ownLmBase + BitVec.ofNat 64 (f i) ∧ f i < Config.lmBytes) →
    exec (.vstn v b mode mg fmt) s = .next ((((List.range 32).filter (s.mr mg).getLsbD).foldl (fun t i =>
      if (s.mr mg).getLsbD (i ^^^ 1) then (if i % 2 = 0 then t else (t.nearTime s.cur.core).writeAt (.lm s.cur.core (f i)) [putNibble true (BitVec.ofNat 8 (r i).1) (BitVec.ofNat 8 (r (i ^^^ 1)).1)])
      else (t.nearTime s.cur.core).writeAt (.lm s.cur.core (f i)) [putNibble (i % 2 == 1) (BitVec.ofNat 8 (r i).1) ((t.readAt (.lm s.cur.core (f i)) 1).getD 0 0)]) u).raise fl)) ∧
  (∀ (v : VR) (b : GR) (mode : RMode) (mg : MR) (fmt : NTy) (s : State), runs (.vstn v b mode mg fmt) s = true → let g := (s.draws mode ((List.range 32).filter (s.mr mg).getLsbD).length); let r (i : Nat) : Nat × Flags := finalRound ((s.vr v).lane i) ((s.vr v).laneS i) 0 (NTy.fm fmt) mode s.ovf (g.getD (rankOf (s.mr mg) i) 0); let fl : Flags := ((List.range 32).filter (s.mr mg).getLsbD).foldl (fun f i => f ||| (r i).2) 0; let u := s.advance mode ((List.range 32).filter (s.mr mg).getLsbD).length; s.enabled fl ≠ 0 → exec (.vstn v b mode mg fmt) s = .next (u.trap 0x15 (fl.setWidth 64))) ∧
  (∀ (s : State) (mode : RMode) (n : Nat), mode ≠ .sr → s.draws mode n = [] ∧ s.advance mode n = s) ∧
  (∀ (s : State) (n : Nat), (s.draws .sr n).length = n ∧ (∀ k, k < n → (s.draws .sr n).getD k 0 = xorshift32 (if k = 0 then s.strand.fcsr.seed else (s.draws .sr n).getD (k - 1) 0)) ∧
    (s.cur.slot < 16 → (s.advance .sr n).strand.fcsr.seed = if n = 0 then s.strand.fcsr.seed else (s.draws .sr n).getD (n - 1) 0)) ∧
  (∀ (c old : Byte), (putNibble true c old).extractLsb' 4 4 = c.extractLsb' 0 4 ∧ (putNibble true c old).extractLsb' 0 4 = old.extractLsb' 0 4 ∧ (putNibble false c old).extractLsb' 0 4 = c.extractLsb' 0 4 ∧ (putNibble false c old).extractLsb' 4 4 = old.extractLsb' 4 4)

/-- 06 R133, 06 R134, 03 R53, 04 R85, 06 R135, 06 R137, 06 R139, 06 R136. A selected branch goes to the address of its bundle plus
its offset in words, JALR to a plus its offset, RET to a; JAL and JALR write the address of the bundle that follows to their
link register; BZ and BNZ go on in sequence where their condition fails. LOOPI and LOOPR set the count, the start (the bundle
that follows) and the end of loop 0 or 1, REPI and REPR set REPC; a count of zero passes over the body as a fall-through; a
count that does not fit 32 bits traps with 0x02; in privileged mode the loop checks resume. A strand that falls through to the
end of an active loop 1 counts it down and goes to its start while the count is not zero; otherwise, and where loop 1 does not
apply, loop 0 is tested in the same way; else it goes on in sequence. With REPC not zero the bundle is repeated first. A taken
transfer closes no loop. -/
def Obligations.BranchesAndLoops : Prop :=
  (∀ (s : State), runs .cnop s = true → exec .cnop s = .next s) ∧
  (∀ (pg : PR) (pn : Bool) (off : Off21) (s : State), runs (.bp pg pn off) s = true → exec (.bp pg pn off) s = .next (s.flow (.taken (s.cur.pc + 4 * off.signExtend 64)))) ∧
  (∀ (a : GR) (pg : PR) (imm : Imm12) (s : State), runs (.bz a pg imm) s = true → exec (.bz a pg imm) s = .next (if s.g a = 0 then s.flow (.taken (s.cur.pc + 4 * imm.signExtend 64)) else s)) ∧
  (∀ (a : GR) (pg : PR) (imm : Imm12) (s : State), runs (.bnz a pg imm) s = true → exec (.bnz a pg imm) s = .next (if s.g a = 0 then s else s.flow (.taken (s.cur.pc + 4 * imm.signExtend 64)))) ∧
  (∀ (pg : PR) (pn : Bool) (off : Off21) (s : State), runs (.jal pg pn off) s = true → exec (.jal pg pn off) s = .next ((s.setG 1 (s.cur.pc + BitVec.ofNat 64 s.cur.len)).flow (.taken (s.cur.pc + 4 * off.signExtend 64)))) ∧
  (∀ (d a : GR) (pg : PR) (imm : Imm12) (s : State), runs (.jalr d a pg imm) s = true → exec (.jalr d a pg imm) s = .next ((s.setG d (s.cur.pc + BitVec.ofNat 64 s.cur.len)).flow (.taken (s.g a + 4 * imm.signExtend 64)))) ∧
  (∀ (a : GR) (pg : PR) (pn : Bool) (s : State), runs (.ret a pg pn) s = true → exec (.ret a pg pn) s = .next (s.flow (.taken (s.g a)))) ∧
  (∀ (len : Len5) (pg : PR) (cnt : Imm12) (s : State), runs (.loopi false len pg cnt) s = true → let beg := s.cur.pc + BitVec.ofNat 64 s.cur.len; let fin := beg + BitVec.ofNat 64 (4 * len.toNat);
    let t := s.setStrand { s.strand with loop0 := { cnt := (cnt.setWidth 32 : W32), beg := beg.setWidth 57, fin := fin.setWidth 57 }, checksOff := s.strand.checksOff && !s.strand.priv };
    exec (.loopi false len pg cnt) s = .next (if (cnt.setWidth 32 : W32) = 0 then t.flow (.fall fin) else t)) ∧
  (∀ (a : GR) (pg : PR) (len : Imm12) (s : State), runs (.loopr false a pg len) s = true → (s.g a).toNat < 2 ^ 32 → let beg := s.cur.pc + BitVec.ofNat 64 s.cur.len; let fin := beg + BitVec.ofNat 64 (4 * len.toNat);
    let t := s.setStrand { s.strand with loop0 := { cnt := ((s.g a).setWidth 32 : W32), beg := beg.setWidth 57, fin := fin.setWidth 57 }, checksOff := s.strand.checksOff && !s.strand.priv };
    exec (.loopr false a pg len) s = .next (if ((s.g a).setWidth 32 : W32) = 0 then t.flow (.fall fin) else t)) ∧
  (∀ (a : GR) (pg : PR) (len : Imm12) (s : State), runs (.loopr false a pg len) s = true → 2 ^ 32 ≤ (s.g a).toNat → exec (.loopr false a pg len) s = .next (s.trap 0x02 0)) ∧
  (∀ (len : Len5) (pg : PR) (cnt : Imm12) (s : State), runs (.loopi true len pg cnt) s = true → let beg := s.cur.pc + BitVec.ofNat 64 s.cur.len; let fin := beg + BitVec.ofNat 64 (4 * len.toNat);
    let t := s.setStrand { s.strand with loop1 := { cnt := (cnt.setWidth 32 : W32), beg := beg.setWidth 57, fin := fin.setWidth 57 }, checksOff := s.strand.checksOff && !s.strand.priv };
    exec (.loopi true len pg cnt) s = .next (if (cnt.setWidth 32 : W32) = 0 then t.flow (.fall fin) else t)) ∧
  (∀ (a : GR) (pg : PR) (len : Imm12) (s : State), runs (.loopr true a pg len) s = true → (s.g a).toNat < 2 ^ 32 → let beg := s.cur.pc + BitVec.ofNat 64 s.cur.len; let fin := beg + BitVec.ofNat 64 (4 * len.toNat);
    let t := s.setStrand { s.strand with loop1 := { cnt := ((s.g a).setWidth 32 : W32), beg := beg.setWidth 57, fin := fin.setWidth 57 }, checksOff := s.strand.checksOff && !s.strand.priv };
    exec (.loopr true a pg len) s = .next (if ((s.g a).setWidth 32 : W32) = 0 then t.flow (.fall fin) else t)) ∧
  (∀ (a : GR) (pg : PR) (len : Imm12) (s : State), runs (.loopr true a pg len) s = true → 2 ^ 32 ≤ (s.g a).toNat → exec (.loopr true a pg len) s = .next (s.trap 0x02 0)) ∧
  (∀ (pg : PR) (cnt : Imm12) (s : State), runs (.repi pg cnt) s = true → let t := s.setStrand { s.strand with repc := (cnt.setWidth 32 : W32), checksOff := s.strand.checksOff && !s.strand.priv };
    ((cnt.setWidth 32 : W32) ≠ 0 → exec (.repi pg cnt) s = .next t) ∧ ((cnt.setWidth 32 : W32) = 0 → exec (.repi pg cnt) s = skipThen t)) ∧
  (∀ (a : GR) (pg : PR) (s : State), runs (.repr a pg) s = true → (s.g a).toNat < 2 ^ 32 → let t := s.setStrand { s.strand with repc := ((s.g a).setWidth 32 : W32), checksOff := s.strand.checksOff && !s.strand.priv };
    (((s.g a).setWidth 32 : W32) ≠ 0 → exec (.repr a pg) s = .next t) ∧ (((s.g a).setWidth 32 : W32) = 0 → exec (.repr a pg) s = skipThen t)) ∧
  (∀ (a : GR) (pg : PR) (s : State), runs (.repr a pg) s = true → 2 ^ 32 ≤ (s.g a).toNat → exec (.repr a pg) s = .next (s.trap 0x02 0)) ∧
  (∀ (t : State) (l : Loc) (a : PageAttr), t.nextPc.toNat % 4 = 0 → t.lookup .fetch t.nextPc = .ok l a →
    (∀ w u, t.fetchAt l a t.nextPc.toNat = .word w u → skipThen t = .next ((u.bankAt l 4).flow (.fall (t.nextPc + if lone w = true then 4 else 8)))) ∧
    (∀ c, t.fetchAt l a t.nextPc.toNat = .fault c → skipThen t = .next (t.trap c t.nextPc)) ∧ (t.fetchAt l a t.nextPc.toNat = .miss → skipThen t = .next (t.missTlb t.nextPc)) ∧
    ((∃ c o, l = .lm c o) → t.fetchAt l a t.nextPc.toNat = .word (wordOf (t.readAt l 4)) t)) ∧
  (∀ (t : State), t.nextPc.toNat % 4 = 0 → (∀ c, t.lookup .fetch t.nextPc = .fault c → skipThen t = .next (t.trap c t.nextPc)) ∧ (t.lookup .fetch t.nextPc = .miss → skipThen t = .next (t.missTlb t.nextPc))) ∧
  (∀ (x : Strand) (next : W64), x.loop1.cnt ≠ 0 → x.loop1.fin.setWidth 64 = next → x.loop1.cnt - 1 ≠ 0 →
    x.closeLoops next = { x with loop1 := { x.loop1 with cnt := x.loop1.cnt - 1 }, pc := x.loop1.beg.setWidth 64 }) ∧
  (∀ (x : Strand) (next : W64), x.loop1.cnt = 1 → x.loop1.fin.setWidth 64 = next → x.closeLoops next = { x with loop1 := { x.loop1 with cnt := 0 } }.closeOuter next) ∧
  (∀ (x : Strand) (next : W64), (x.loop1.cnt = 0 ∨ x.loop1.fin.setWidth 64 ≠ next) → x.closeLoops next = x.closeOuter next) ∧
  (∀ (x : Strand) (next : W64), x.closeOuter next = if x.loop0.cnt ≠ 0 ∧ x.loop0.fin.setWidth 64 = next then
      { x with loop0 := { x.loop0 with cnt := x.loop0.cnt - 1 }, pc := if x.loop0.cnt - 1 ≠ 0 then x.loop0.beg.setWidth 64 else next } else { x with pc := next }) ∧
  (∀ (x pre : Strand) (pc next : W64), pre.checksOff = false → pre.repc ≠ 0 → x.repc = pre.repc → x.fallTo pre pc next = if pre.repc = 1 then { x with repc := 0 }.closeLoops next else { x with repc := pre.repc - 1, pc := pc }) ∧
  (∀ (x pre : Strand) (pc next : W64), (pre.checksOff = true → x.fallTo pre pc next = { x with pc := next }) ∧ (pre.checksOff = false → pre.repc = 0 → x.fallTo pre pc next = x.closeLoops next)) ∧
  (∀ (s : State) (l : List Instr) (a : W64), s.cur.flow = .taken a → s.cur.slot < 16 → (s.finish l).strand.pc = a ∧ (s.finish l).strand.loop0 = s.strand.loop0 ∧ (s.finish l).strand.loop1 = s.strand.loop1)

/-- 08 R226. SYSC n and BRK n, with n in bits 24 to 10 of their words and the guard and flags zero, trap with 0x11 and 0x10:
XVALUE is n and XPC the address of their bundle. -/
def Obligations.SupervisorCallsTrap : Prop :=
  (∀ (n : BV15) (s : State), runs (.sysc n) s = true → exec (.sysc n) s = .next (s.trap 0x11 (n.setWidth 64))) ∧
  (∀ (n : BV15) (s : State), runs (.brk n) s = true → exec (.brk n) s = .next (s.trap 0x10 (n.setWidth 64))) ∧
  (∀ n : BV15, majorC (encode (.sysc n)) = 0x21 ∧ majorC (encode (.brk n)) = 0x21 ∧ (encode (.sysc n)).extractLsb' 10 15 = n ∧ (encode (.brk n)).extractLsb' 10 15 = n ∧ (encode (.sysc n)).extractLsb' 0 10 = 0 ∧ (encode (.brk n)).extractLsb' 0 10 = 1) ∧
  (∀ (s : State) (c : Nat) (v : W64), s.cur.slot < 16 → (s.trap c v).strand.x.value = v ∧ (s.trap c v).strand.x.pc = s.cur.pc ∧ (c < 2 ^ 64 → (s.trap c v).strand.x.cause.toNat = c))

/-- 03 R73, 12 R276, 12 R278, 06 R139. A trap writes XCAUSE, XVALUE and XPC, sets XSTAT.PP to the privilege the strand had and LV
to 1, clears PF for cause 0x0C alone, makes the strand privileged, suspends the loop checks and goes to XVEC; registers,
predicates, masks, loop registers, FCSR, engine state and the rest of the strand are as before (but for the fault flag of the
matrix engine under cause 0x0D), and so are every other strand, memory, the packets in flight, and of every core the engine
queues, deque, call queue, hardware queues, aggregation buffers, requests and chain queue. In privileged mode it is entered in
the same way, with PP = 1. -/
def Obligations.TrapEntry : Prop :=
  ∀ (s : State) (c : Nat) (v : W64), s.cur.slot < 16 → let x := s.strand; let t := s.trap c v; let y := t.strand;
  y.x = { x.x with cause := BitVec.ofNat 64 c, value := v, pc := s.cur.pc, lv := true, pf := if c = 0x0C then false else x.x.pf, pp := x.priv } ∧
  y.priv = true ∧ y.pc = x.x.vec ∧ y.checksOff = true ∧ y.g = x.g ∧ y.p = x.p ∧ y.m = x.m ∧ y.v = x.v ∧ y.loop0 = x.loop0 ∧ y.loop1 = x.loop1 ∧ y.repc = x.repc ∧
  y.fcsr = x.fcsr ∧ y.eng = x.eng ∧ y = { x with x := y.x, priv := true, pc := x.x.vec, checksOff := true, meFault := y.meFault } ∧ (c ≠ 0x0D → y.meFault = x.meFault) ∧
  t = { s with cores := t.cores, cur := { s.cur with flow := .trapped } } ∧
  (∀ n, t.core n = { s.core n with slots := (t.core n).slots } ∧ (t.core n).teQueue = (s.core n).teQueue ∧ (t.core n).meQueue = (s.core n).meQueue ∧ (t.core n).meLate = (s.core n).meLate ∧ (t.core n).deque = (s.core n).deque ∧
    (t.core n).calls = (s.core n).calls ∧ (t.core n).queues = (s.core n).queues ∧ (t.core n).aggs = (s.core n).aggs ∧ (t.core n).sent = (s.core n).sent ∧ (t.core n).reqs = (s.core n).reqs ∧ (t.core n).chain = (s.core n).chain) ∧
  t.slotOf s.cur.core s.cur.slot = { s.slotOf s.cur.core s.cur.slot with strand := y } ∧
  (∀ n k, (n ≠ s.cur.core ∨ k ≠ s.cur.slot) → t.slotOf n k = s.slotOf n k)

/-- 08 R227, 12 R279, 06 R139, 04 R101, 04 R92, 08 R228, 08 R229. In privileged mode XRET goes to XPC, restores the privilege from
XSTAT.PP and resumes the loop checks; with XSTAT.LV = 0 it first writes zero to LCNT0, LCNT1 and REPC; nothing else changes.
XRET, TLBINV and the privileged cells of CCTL trap with 0x03 and their word when the strand is not privileged, whatever their
guard, and have no effect; outside privileged mode the trap registers read as zero and a write of one is discarded. -/
def Obligations.ReturnAndPrivilege : Prop :=
  (∀ (pg : PR) (s : State), runs (.xret pg) s = true → exec (.xret pg) s = .next ((s.setStrand (let x := s.strand;
    if x.x.lv then { x with priv := x.x.pp, checksOff := false }
    else { x with priv := x.x.pp, checksOff := false, loop0 := { x.loop0 with cnt := 0 }, loop1 := { x.loop1 with cnt := 0 }, repc := 0 })).flow (.taken s.cur.pre.x.pc))) ∧
  (∀ (pg : PR) (s : State), s.cur.pre.priv = false → exec (.xret pg) s = .next (s.trap 0x03 s.word) ∧ exec (.cctlWbL1d pg) s = .next (s.trap 0x03 s.word) ∧ exec (.cctlInvCc pg) s = .next (s.trap 0x03 s.word)) ∧
  (∀ (a : GR) (pg : PR) (sc : Scope) (s : State), s.cur.pre.priv = false → exec (.tlbinv a pg sc) s = .next (s.trap 0x03 s.word) ∧ exec (.cctlSetCc a pg) s = .next (s.trap 0x03 s.word)) ∧
  (∀ (x : Strand) (n : CRNum) (v : W64), 0x100 ≤ n.toNat → x.crWrite false n v = x) ∧
  (∀ (s : State) (c k : Nat) (x : Strand) (n : CRNum), 0x100 ≤ n.toNat → n.toNat ≤ 0x105 → x.priv = false → s.crRead c k x n = 0)

/-- 00 R7, 04 R101, 03 R69, 03 R70. For every instruction of the opcode map: where its checks of the decode and operand stages
fail it traps with their cause and value, whatever the guard selects; where they pass and the guard or mask selects nothing,
the state is unchanged. -/
def Obligations.GuardedOffHasNoEffect : Prop :=
  ∀ (i : Instr) (s : State), i.hasWord = true → (∀ c v, operandFault i s = some (c, v) → exec i s = .next (s.trap c v)) ∧
    (operandFault i s = none → Instr.guard s i = false → exec i s = .next s)

/-- 08 R220, 08 R221, 08 R222, 08 R225. SHRD reads the shared register as seen at its cycle, and a write is seen by reads from
eight cycles after its issue and by none before; SEMP takes one of the count or waits, SEMV adds one up to 65,535; HBEAT
restarts the heartbeat; WAITT and YIELD go on at once or hold the strand; BAR arrives at its barrier. -/
def Obligations.SharedRegistersAndWaits : Prop :=
  (∀ (a : GR) (n : BV4) (pg : PR) (s : State), runs (.shrd a n pg) s = true → exec (.shrd a n pg) s = .next (s.setG a ((s.core s.cur.core).shared n s.issueCycle))) ∧
  (∀ (a : GR) (n : BV4) (pg : PR) (s : State), runs (.shwr a n pg) s = true → ∃ t, exec (.shwr a n pg) s = .next t ∧ t.strand = s.strand ∧ t.mem = s.mem ∧
    ((∀ e ∈ (s.core s.cur.core).shPend, e.1 ≤ s.issueCycle + 8) → ∀ k, s.issueCycle + 8 ≤ k → (t.core s.cur.core).shared n k = s.g a) ∧
    (∀ m k, k < s.issueCycle + 8 → (∀ e ∈ (s.core s.cur.core).shPend, s.issueCycle < e.1) → (t.core s.cur.core).shared m k = (s.core s.cur.core).shared m k)) ∧
  (∀ (n : BV4) (pg : PR) (s : State), runs (.semp n pg) s = true → (s.slotOf s.cur.core s.cur.slot).sempGrant = none → let c := s.core s.cur.core;
    (c.sema n ≠ 0 → exec (.semp n pg) s = .next (s.setCore s.cur.core (c.setSema n (c.sema n - 1)))) ∧
    (c.sema n = 0 → ∃ t, exec (.semp n pg) s = .next t ∧ t.cur.flow = .held ∧ (s.cur.slot < 16 → (t.slotOf s.cur.core s.cur.slot).st = .waiting (.semp n.toNat)))) ∧
  (∀ (n : BV4) (pg : PR) (s : State), runs (.semv n pg) s = true → let c := s.core s.cur.core; c.semWait = [] →
    exec (.semv n pg) s = .next (s.setCore s.cur.core (c.setSema n (if c.sema n = 65535 then 65535 else c.sema n + 1)))) ∧
  (∀ (pg : PR) (s : State), runs (.hbeat pg) s = true → exec (.hbeat pg) s = .next (s.setStrand { s.strand with hbc := s.strand.hbi, hbNew := true })) ∧
  (∀ (a : GR) (pg : PR) (s : State), runs (.waitt a pg) s = true → ((s.g a).toNat ≤ s.gtime.toNat → exec (.waitt a pg) s = .next s) ∧
    (s.gtime.toNat < (s.g a).toNat → exec (.waitt a pg) s = .next (s.parkAfter (.gtime (s.g a))))) ∧
  (∀ (pg : PR) (s : State), runs (.yield pg) s = true → (s.othersReady s.cur.core s.cur.slot = [] → exec (.yield pg) s = .next s) ∧
    (s.othersReady s.cur.core s.cur.slot ≠ [] → exec (.yield pg) s = .next (s.waitAfter (.yield (s.othersReady s.cur.core s.cur.slot) (s.issueCycle + 16))))) ∧
  (∀ (n : BV4) (pg : PR) (s : State) (g : Nat), runs (.bar n pg .core) s = true → s.cur.pre.gid = some g → let cl := (s.gang g).cluster; let m := (s.gang g).bars.getD n.toNat 0; let b := vget (s.cluster cl).barriers m {};
    exec (.bar n pg .core) s = .next (((s.setCluster cl { s.cluster cl with barriers := vset (s.cluster cl).barriers m { b with arrived := b.arrived ++ [(s.cur.pre.sid, .core)] } }).parkAfter (.barrier m)).tryBarrier cl m))

/-- 08 R223, 10 R259, 15 R314. XBORROW of 0, 8, 16 or 32 vector registers takes the lowest free slot of the core with that many of
its pool and writes true, or writes false; another count traps with 0x02; XMOV copies data, S and F/E either way; XRETURN
frees the slot; XBORROW while a slot is held, XMOV and XRETURN with nothing borrowed, and XMOV of a borrowed vector index at
or above the borrowed count trap with 0x13. -/
def Obligations.RegisterBorrowing : Prop :=
  (∀ (b : GR) (c pg : PR) (s : State), runs (.xborrow b c pg) s = true → (s.g b = 0 ∨ s.g b = 8 ∨ s.g b = 16 ∨ s.g b = 32) →
    (∀ k, s.freeSlot s.cur.core = some k → (s.g b).toNat ≤ s.vregsFree s.cur.core →
      exec (.xborrow b c pg) s = .next ((((s.setSlot s.cur.core k { s.slotOf s.cur.core k with st := .borrowed s.cur.slot, vregs := (s.g b).toNat }).modStrand
        fun x => { x with borrow := some { slot := k, vcount := (s.g b).toNat } }).setP c true))) ∧
    ((s.freeSlot s.cur.core = none ∨ s.vregsFree s.cur.core < (s.g b).toNat) → exec (.xborrow b c pg) s = .next (s.setP c false))) ∧
  (∀ (b : GR) (c pg : PR) (s : State), runs (.xborrow b c pg) s = true → s.g b ≠ 0 → s.g b ≠ 8 → s.g b ≠ 16 → s.g b ≠ 32 → exec (.xborrow b c pg) s = .next (s.trap 0x02 0)) ∧
  (∀ (a b : GR) (pg : PR) (s : State) (w : Borrow), s.cur.pre.borrow = some w →
    (runs (.xmov a b pg false false) s = true → a ≠ 0 → a ≠ 29 → exec (.xmov a b pg false false) s = .next (s.setStrand { s.strand with g := rset s.strand.g a (rget w.g b) })) ∧
    (runs (.xmov a b pg false true) s = true → exec (.xmov a b pg false true) s = .next (s.setStrand { s.strand with borrow := some { w with g := rset w.g b { data := s.g a, s := s.gS a, full := true } } })) ∧
    (runs (.xmov a b pg true false) s = true → exec (.xmov a b pg true false) s = .next (s.setV a (rget w.v b))) ∧
    (runs (.xmov a b pg true true) s = true → exec (.xmov a b pg true true) s = .next (s.setStrand { s.strand with borrow := some { w with v := rset w.v b (s.vr a) } }))) ∧
  (∀ (pg : PR) (s : State) (w : Borrow), runs (.xreturn pg) s = true → s.strand.borrow = some w → let t := s.setStrand { s.strand with borrow := none };
    exec (.xreturn pg) s = .next (t.setSlot s.cur.core w.slot { t.slotOf s.cur.core w.slot with st := .free, vregs := 0 })) ∧
  (∀ (a b : GR) (pg : PR) (vec tb : Bool) (s : State), s.cur.pre.borrow = none → (Instr.uses (.xmov a b pg vec tb)).illegal s.cur.pre = false → exec (.xmov a b pg vec tb) s = .next (s.trap 0x13 s.word) ∧ exec (.xreturn pg) s = .next (s.trap 0x13 s.word)) ∧
  (∀ (b : GR) (c pg : PR) (s : State), s.cur.pre.borrow.isSome = true → (Instr.uses (.xborrow b c pg)).illegal s.cur.pre = false → exec (.xborrow b c pg) s = .next (s.trap 0x13 s.word)) ∧
  (∀ (a b : GR) (pg : PR) (tb : Bool) (s : State) (w : Borrow), s.cur.pre.borrow = some w → w.vcount ≤ b.toNat → (Instr.uses (.xmov a b pg true tb)).illegal s.cur.pre = false → exec (.xmov a b pg true tb) s = .next (s.trap 0x13 s.word))

/-- 08 R211, 08 R212, 08 R213, 08 R224. CALLAT sends its entry and four arguments, with the settings of the caller's job, to its
core and expects the reply in d; RETV of a callee answers with a, bit 63 cleared, and ends the strand; AMSG sends a trigger to
the home of its address; MIGRATE departs for another core of the partition, stays where it already is or holds vector
registers, traps with 0x02 for a core that does not exist, before it sends or awaits anything, and with 0x08 for one outside
the partition, where that XVALUE holds g[a] is the model's reading (log 32); a fault that is pending outside privileged mode
makes RETV and MIGRATE trap with 0x0C first; the job's settings are those of its descriptor. -/
def Obligations.CallsTriggersAndMigration : Prop :=
  (∀ (a b : GR) (pg : PR) (s : State), runs (.migrate a b pg) s = true → let target := (s.g a).toNat % 2 ^ 12;
    (target < Config.cores → s.flushStrand s.cur.core s.cur.slot = s → s.strand.quiet = true → (s.strand.x.pf = false ∨ s.cur.pre.priv = true) → (s.partn s.cur.pre.part).clusters.contains (clusterOf target) = false →
      exec (.migrate a b pg) s = .next (s.trap 0x08 (s.g a))) ∧
    (target < Config.cores → s.flushStrand s.cur.core s.cur.slot = s → s.strand.quiet = true → (s.strand.x.pf = false ∨ s.cur.pre.priv = true) → (s.partn s.cur.pre.part).clusters.contains (clusterOf target) = true →
      exec (.migrate a b pg) s = .next (if s.cur.pre.valloc ≠ 0 ∨ target = s.cur.core then s else s.flow (.depart target ((s.g b).setWidth 32)))) ∧
    (target < Config.cores → s.flushStrand s.cur.core s.cur.slot = s → s.strand.quiet = true → s.strand.x.pf = true → s.cur.pre.priv = false → exec (.migrate a b pg) s = .next (s.trap 0x0C logAddr)) ∧
    (Config.cores ≤ target → exec (.migrate a b pg) s = .next (s.trap 0x02 0))) ∧
  (∀ (d b c : GR) (pg : PR) (s : State), runs (.callat d b c pg) s = true → (s.g (b + 1)).toNat < Config.cores → let n := (s.g (b + 1)).toNat; let x := s.cur.pre; let u := s.flushDest s.cur.core (some (.core n)); let js := s.callJob x; u.destsClear [.core n] = true →
    let t := u.expectReply d;
    exec (.callat d b c pg) s = .next (t.2.send (.core s.cur.core) (.core n) x.part .request (.call { caller := { dev := s.devid.toNat, core := s.cur.core, slot := s.cur.slot, req := t.1 }, part := x.part, job := x.job, psize := s.callSetting x, agage := js.agage, hbi := js.hbi, entry := s.g b, args := [s.g c, s.g (c + 1), s.g (c + 2), s.g (c + 3)] }))) ∧
  (∀ (a : GR) (pg : PR) (s : State) (c : Caller), runs (.retv a pg) s = true → s.cur.pre.role = .callee c → s.flushStrand s.cur.core s.cur.slot = s → s.strand.quiet = true → let t := s.cacheRelease s.cur.core .pk; t.writesWait s.cur.pre.part = false → t.cur = s.cur → t.devid = s.devid → (t.strand.x.pf = true → s.cur.pre.priv = false → exec (.retv a pg) s = .next (t.trap 0x0C logAddr)) ∧ (t.strand.x.pf = false ∨ s.cur.pre.priv = true →
    exec (.retv a pg) s = .next ((t.replyCall (.core s.cur.core) s.cur.pre.part c ((s.g a) &&& ~~~((1 : W64) <<< 63))).flow .endStrand))) ∧
  (∀ (b c : GR) (pg : PR) (s : State) (l : Loc) (a : PageAttr) (pa : Nat), runs (.amsg b c pg) s = true → (s.g (b + 1)).toNat < 64 → s.lookup .load (s.g b) = .ok l a → s.paOf l = some pa → let t : Nat × State := (0, s.flushDest s.cur.core (some (s.home l))); t.2.destsClear [s.home l] = true →
    exec (.amsg b c pg) s = .next (t.2.send (.core s.cur.core) (s.home l) s.cur.pre.part .request (.amsg { dev := s.devid.toNat, core := s.cur.core, slot := s.cur.slot, part := s.cur.pre.part, req := none, pa := pa, index := (s.g (b + 1)).toNat, args := [s.g c, s.g (c + 1), s.g (c + 2), s.g (c + 3)] }))) ∧
  (∀ (d b c : GR) (pg : PR) (s : State) (l : Loc) (a : PageAttr) (pa : Nat), runs (.amsgRet d b c pg) s = true → (s.g (b + 1)).toNat < 64 → s.lookup .load (s.g b) = .ok l a → s.paOf l = some pa → let u := s.flushDest s.cur.core (some (s.home l)); u.destsClear [s.home l] = true → let t : Nat × State := u.expectReply d;
    exec (.amsgRet d b c pg) s = .next (t.2.send (.core s.cur.core) (s.home l) s.cur.pre.part .request (.amsg { dev := s.devid.toNat, core := s.cur.core, slot := s.cur.slot, part := s.cur.pre.part, req := some t.1, pa := pa, index := (s.g (b + 1)).toNat, args := [s.g c, s.g (c + 1), s.g (c + 2), s.g (c + 3)] }))) ∧
  (∀ (s : State) (x : Strand) (n : Nat), x.job = some n → (s.callJob x).agage = clampAge ((s.job n).fld 80 0 13) ∧ (s.callJob x).hbi = BitVec.ofNat 32 ((s.job n).fld 80 32 32))

/-- 08 R208, 08 R209, 08 R210, 20 R378, 20 R379. QENQ and QTRY read their payload from the own LM, send the target's buffer and
then the token, and hold the strand for the answer; QDEQ and QPOLL copy the oldest token to LM, remove it and write its length
and sender; QPOLL of no token writes false; QDEQ of a queue that is not open traps with 0x0A, and one of no token waits until
its limit, at which it traps so. -/
def Obligations.HardwareQueues : Prop :=
  (∀ (a b c : GR) (pg : PR) (len : BV3) (s : State) (h : Handle) (o : Nat), runs (.qenq a b c pg len) s = true → handleOf (s.g a) = some h → (s.g b).toNat % 8 = 0 → s.ownLmRange s.actor (s.g b) (8 * 2 ^ len.toNat) = some o → s.teHolds s.cur.core (.lm s.cur.core o) (8 * 2 ^ len.toNat) = false → s.joined h.dev = true →
    (s.flushDest s.cur.core (some (s.queueNode h))).joined h.dev = true → (s.flushDest s.cur.core (some (s.queueNode h))).issueCycle = s.issueCycle → (s.flushDest s.cur.core (some (s.queueNode h))).cur = s.cur → (s.flushDest s.cur.core (some (s.queueNode h))).destsClear [s.queueNode h] = true →
    exec (.qenq a b c pg len) s = .next ((s.flushDest s.cur.core (some (s.queueNode h))).enqueue h (s.readAt (.lm s.cur.core o) (8 * 2 ^ len.toNat)) none (some (s.issueCycle + (s.g c).toNat)))) ∧
  (∀ (a b : GR) (c pg : PR) (len : BV3) (s : State) (h : Handle) (o : Nat), runs (.qtry a b c pg len) s = true → handleOf (s.g a) = some h → (s.g b).toNat % 8 = 0 → s.ownLmRange s.actor (s.g b) (8 * 2 ^ len.toNat) = some o → s.teHolds s.cur.core (.lm s.cur.core o) (8 * 2 ^ len.toNat) = false → s.joined h.dev = true →
    (s.flushDest s.cur.core (some (s.queueNode h))).joined h.dev = true → (s.flushDest s.cur.core (some (s.queueNode h))).issueCycle = s.issueCycle → (s.flushDest s.cur.core (some (s.queueNode h))).cur = s.cur → (s.flushDest s.cur.core (some (s.queueNode h))).destsClear [s.queueNode h] = true →
    exec (.qtry a b c pg len) s = .next ((s.flushDest s.cur.core (some (s.queueNode h))).enqueue h (s.readAt (.lm s.cur.core o) (8 * 2 ^ len.toNat)) (some c) none)) ∧
  (∀ (a b c : GR) (pg : PR) (q : BV3) (s : State) (o o2 : Nat) (tok : Nat × Nat × Nat) (rest : List (Nat × Nat × Nat)), runs (.qdeq a b c pg q) s = true → (s.g b).toNat % 8 = 0 → s.ownLmRange s.actor (s.g b) 8 = some o → let n := q.toNat; let x := (s.core s.cur.core).queue n; x.open_ = true → x.cls = false → x.tokens = tok :: rest → s.ownLmRange s.actor (s.g b) tok.1 = some o2 → s.teHolds s.cur.core (.lm s.cur.core o2) tok.1 = false → 
    exec (.qdeq a b c pg q) s = .next (((s.writeAt (.lm s.cur.core o2) (s.readAt (.lm s.cur.core (x.offset x.head)) tok.1)).takeToken s.cur.core n).setG a (BitVec.ofNat 64 (tok.1 + tok.2.1 * 2 ^ 16 + tok.2.2 * 2 ^ 28)))) ∧
  (∀ (a b : GR) (c pg : PR) (q : BV3) (s : State) (o : Nat), runs (.qpoll a b c pg q) s = true → (s.g b).toNat % 8 = 0 → s.ownLmRange s.actor (s.g b) 8 = some o → let n := q.toNat; let x := (s.core s.cur.core).queue n; 
    ((x.open_ = false ∨ x.cls = false ∨ x.tokens = []) → exec (.qpoll a b c pg q) s = .next (s.setP c false)) ∧
    ∀ (o2 : Nat) (tok : Nat × Nat × Nat) (rest : List (Nat × Nat × Nat)), x.open_ = true → x.cls = true → x.tokens = tok :: rest → s.ownLmRange s.actor (s.g b) tok.1 = some o2 → s.teHolds s.cur.core (.lm s.cur.core o2) tok.1 = false → 
      exec (.qpoll a b c pg q) s = .next ((((s.writeAt (.lm s.cur.core o2) (s.readAt (.lm s.cur.core (x.offset x.head)) tok.1)).takeToken s.cur.core n).setG a (BitVec.ofNat 64 (tok.1 + tok.2.1 * 2 ^ 16 + tok.2.2 * 2 ^ 28))).setP c true)) ∧
  (∀ (a b c : GR) (pg : PR) (q : BV3) (s : State) (o : Nat), runs (.qdeq a b c pg q) s = true → (s.g b).toNat % 8 = 0 → s.ownLmRange s.actor (s.g b) 8 = some o → let n := q.toNat; let x := (s.core s.cur.core).queue n; (x.open_ = false ∨ x.cls = true) →
    exec (.qdeq a b c pg q) s = .next (s.trap 0x0A (queueValue true x.tail.toNat x.head.toNat (s.devid.toNat * 2 ^ 16 + s.cur.core * 16 + n)))) ∧
  (∀ (a b c : GR) (pg : PR) (q : BV3) (s : State) (o : Nat), runs (.qdeq a b c pg q) s = true → (s.g b).toNat % 8 = 0 → s.ownLmRange s.actor (s.g b) 8 = some o → let x := (s.core s.cur.core).queue q.toNat; x.open_ = true → x.cls = false → x.tokens = [] → let l := s.issueCycle + (s.g c).toNat;
    exec (.qdeq a b c pg q) s = .next (if l ≤ s.now then s.trap 0x0A (queueValue false x.tail.toNat x.head.toNat (s.devid.toNat * 2 ^ 16 + s.cur.core * 16 + q.toNat)) else s.park (.qdeq q.toNat l)))

/-- 04 R93, 08 R230, 08 R231, 08 R232, 12 R284. CRRD, CRWR and CRSWP use the value from before the bundle; the identity registers
give the slot, core, cluster, die and device, GTIME the time; VALLOC, STRID to PARTID and GTIME ignore writes, and outside
privileged mode so do HBI, AGAGE and the trap registers; the trap registers read and write back in privileged mode, in XSTAT
the fields PP, PF and LV (bits 0 to 2), with BH and BSLOT giving the borrowed slot and left by a write; loop and repeat
registers and HBI keep the bits they have; a write of another register than QCFG is that of the strand, and one of QCFG sets
the queue of the core in privileged mode alone; FCSR reads and takes its fields, but for a reserved rounding mode, and a seed
of 0, which is stored as 1; AGAGE is clamped to 64 to 4,096. -/
def Obligations.ControlRegisters : Prop :=
  (∀ (d : GR) (pg : PR) (n : CRNum) (s : State), runs (.crrd d pg n) s = true → exec (.crrd d pg n) s = .next (s.setG d (s.crRead s.cur.core s.cur.slot s.cur.pre n))) ∧
  (∀ (a : GR) (pg : PR) (n : CRNum) (s : State), runs (.crwr a pg n) s = true → exec (.crwr a pg n) s = .next (s.crWrite n (s.g a))) ∧
  (∀ (d a : GR) (pg : PR) (n : CRNum) (s : State), runs (.crswp d a pg n) s = true → exec (.crswp d a pg n) s = .next ((s.setG d (s.crRead s.cur.core s.cur.slot s.cur.pre n)).crWrite n (s.g a))) ∧
  (∀ (s : State) (c k : Nat) (x : Strand), c < Config.cores → k < 16 → (s.crRead c k x 0x030).toNat = k ∧ (s.crRead c k x 0x031).toNat = c % 16 ∧ (s.crRead c k x 0x032).toNat = c / 16 % 48 ∧ (s.crRead c k x 0x033).toNat = c / 768 ∧
    s.crRead c k x 0x034 = s.devid.setWidth 64 ∧ s.crRead c k x 0x040 = s.gtime ∧ s.crRead c k x 0x016 = x.repc.setWidth 64 ∧ s.crRead c k x 0x020 = x.valloc.setWidth 64 ∧ s.crRead c k x 0x041 = x.hbi.setWidth 64) ∧
  (∀ (s : State) (c k : Nat) (x : Strand), x.priv = true → s.crRead c k x 0x100 = x.x.cause ∧ s.crRead c k x 0x101 = x.x.value ∧ s.crRead c k x 0x102 = x.x.pc ∧ s.crRead c k x 0x104 = x.x.vec ∧ s.crRead c k x 0x105 = x.x.scratch ∧
    (s.crRead c k x 0x103).getLsbD 0 = x.x.pp ∧ (s.crRead c k x 0x103).getLsbD 1 = x.x.pf ∧ (s.crRead c k x 0x103).getLsbD 2 = x.x.lv) ∧
  (∀ (s : State) (c k : Nat) (x : Strand) (v : W64), x.priv = true → (s.crRead c k (x.crWrite true 0x102 v) 0x102 = v) ∧ s.crRead c k (x.crWrite true 0x104 v) 0x104 = v ∧ s.crRead c k (x.crWrite true 0x105 v) 0x105 = v ∧ s.crRead c k (x.crWrite true 0x100 v) 0x100 = v) ∧
  (∀ (f : Fcsr) (v : W64), let g := f.write v; g.ovf = v.getLsbD 13 ∧ g.fen = v.extractLsb' 8 5 ∧ g.fflags = v.extractLsb' 0 5 ∧ g.frm = (if (v.extractLsb' 5 3).toNat < 6 then v.extractLsb' 5 3 else f.frm)) ∧
  (∀ (x : Strand) (p : Bool) (v : W64), let a := (x.crWrite true 0x042 v).agage.toNat; 64 ≤ a ∧ a ≤ 4096 ∧ (64 ≤ v.toNat % 8192 → v.toNat % 8192 ≤ 4096 → a = v.toNat % 8192) ∧ x.crWrite p 0x030 v = x) ∧
  (∀ (x : Strand) (p : Bool) (v : W64) (n : CRNum), n = 0x020 ∨ n = 0x030 ∨ n = 0x031 ∨ n = 0x032 ∨ n = 0x033 ∨ n = 0x034 ∨ n = 0x035 ∨ n = 0x040 → x.crWrite p n v = x ∧ ∀ s : State, s.cur.slot < 16 → (s.crWrite n v).slotOf s.cur.core s.cur.slot = s.slotOf s.cur.core s.cur.slot ∧ (s.crWrite n v).mem = s.mem ∧ (s.crWrite n v).time = s.time ∧ (s.crWrite n v).devid = s.devid) ∧
  (∀ (x : Strand) (v : W64) (n : CRNum), n = 0x041 ∨ n = 0x042 ∨ n = 0x100 ∨ n = 0x101 ∨ n = 0x102 ∨ n = 0x103 ∨ n = 0x104 ∨ n = 0x105 → x.crWrite false n v = x) ∧
  (∀ (s : State) (c k : Nat) (x : Strand) (v : W64), x.priv = true → s.crRead c k (x.crWrite true 0x101 v) 0x101 = v ∧
    (let y := x.crWrite true 0x103 v; y.x.pp = v.getLsbD 0 ∧ y.x.pf = v.getLsbD 1 ∧ y.x.lv = v.getLsbD 2 ∧ y.borrow = x.borrow ∧ y = { x with x := { x.x with pp := y.x.pp, pf := y.x.pf, lv := y.x.lv } } ∧
      (s.crRead c k y 0x103).getLsbD 0 = v.getLsbD 0 ∧ (s.crRead c k y 0x103).getLsbD 1 = v.getLsbD 1 ∧ (s.crRead c k y 0x103).getLsbD 2 = v.getLsbD 2)) ∧
  (∀ (s : State) (c k : Nat) (x : Strand) (b : Borrow), x.priv = true → x.borrow = some b → b.slot < 16 → (s.crRead c k x 0x103).getLsbD 11 = true ∧ ((s.crRead c k x 0x103).extractLsb' 12 4).toNat = b.slot) ∧
  (∀ (s : State) (c k : Nat) (x : Strand) (v : W64), (∀ p, s.crRead c k (x.crWrite p 0x010 v) 0x010 = (v.setWidth 32).setWidth 64 ∧ s.crRead c k (x.crWrite p 0x013 v) 0x013 = (v.setWidth 32).setWidth 64 ∧ s.crRead c k (x.crWrite p 0x016 v) 0x016 = (v.setWidth 32).setWidth 64 ∧
      s.crRead c k (x.crWrite p 0x011 v) 0x011 = (v.setWidth 57).setWidth 64 ∧ s.crRead c k (x.crWrite p 0x012 v) 0x012 = (v.setWidth 57).setWidth 64 ∧ s.crRead c k (x.crWrite p 0x014 v) 0x014 = (v.setWidth 57).setWidth 64 ∧
      s.crRead c k (x.crWrite p 0x015 v) 0x015 = (v.setWidth 57).setWidth 64) ∧ s.crRead c k (x.crWrite true 0x041 v) 0x041 = (v.setWidth 32).setWidth 64 ∧ (x.crWrite true 0x041 v).hbc = v.setWidth 32) ∧
  (∀ (s : State) (n : CRNum) (v : W64), (¬ (0x050 ≤ n.toNat ∧ n.toNat ≤ 0x057) → s.crWrite n v = s.modStrand fun x => x.crWrite s.cur.pre.priv n v) ∧
    (0x050 ≤ n.toNat → n.toNat ≤ 0x057 → (s.cur.pre.priv = true → s.crWrite n v = s.writeQcfg s.cur.core (n.toNat - 0x050) v) ∧ (s.cur.pre.priv = false → s.crWrite n v = s))) ∧
  (∀ (x : Strand) (p : Bool) (v : W64), x.crWrite p 0x000 v = { x with fcsr := x.fcsr.write v } ∧ (x.fcsr.write v).seed = if v.extractLsb' 32 32 = (0 : W32) then 1 else v.extractLsb' 32 32) ∧
  (∀ (s : State) (c k : Nat) (x : Strand), let w := s.crRead c k x 0x000; w.extractLsb' 32 32 = x.fcsr.seed ∧ w.extractLsb' 14 18 = 0 ∧ w.getLsbD 13 = x.fcsr.ovf ∧ w.extractLsb' 8 5 = x.fcsr.fen ∧ w.extractLsb' 5 3 = x.fcsr.frm ∧ w.extractLsb' 0 5 = x.fcsr.fflags) ∧
  (∀ (x : Strand) (v : W64), (x.crWrite true 0x041 v).hbi = v.setWidth 32 ∧ (x.crWrite true 0x042 v).fcsr = x.fcsr ∧ (x.crWrite true 0x042 v).g = x.g ∧ (x.crWrite true 0x042 v).x = x.x)

/-- 08 R228, 08 R229, 17 R323, 17 R328, 17 R333, 17 R338. CCTL writes back, drops, or asks for the lines of its range: no line it
writes back keeps a dirty byte in the own L1D or the cluster cache, no line it drops stays there and a fill under way for it
is not kept, and every other line stays as it is; a dirty byte goes to its home at once, behind what waits there for the line,
or by a packet where replicas or a failed link are in its way; a line asked for comes to the cluster cache when it arrives;
the privileged forms write back the whole L1D, drop the cluster cache and set its size code (a code above 3 traps with 0x02);
TLBINV drops the translations of the page, or with g0 all of the partition, and no other, from the core's TLB, at cluster
scope from the cluster's TLBs, and at wider scopes from every TLB of the partition's cores, clusters and slices. Whose lines
and times a drop leaves in other cores' L1Ds, and the order in which lines come, are the model's (log 7). -/
def Obligations.CacheAndTlbControl : Prop :=
  (∀ (a b : GR) (pg : PR) (s : State), runs (.cctlWb a b pg) s = true → let sel := inParts (s.globalParts s.actor (s.g a).toNat (s.g b).toNat); exec (.cctlWb a b pg) s = .next (s.cacheWb s.cur.core sel)) ∧
  (∀ (a b : GR) (pg : PR) (s : State), runs (.cctlInv a b pg) s = true → let sel := inParts (s.globalParts s.actor (s.g a).toNat (s.g b).toNat); exec (.cctlInv a b pg) s = .next (s.cacheDrop s.cur.core true sel)) ∧
  (∀ (a b : GR) (pg : PR) (s : State), runs (.cctlWbinv a b pg) s = true → let sel := inParts (s.globalParts s.actor (s.g a).toNat (s.g b).toNat); exec (.cctlWbinv a b pg) s = .next ((s.cacheWb s.cur.core sel).cacheDrop s.cur.core true sel)) ∧
  (∀ (a b : GR) (pg : PR) (s : State), runs (.cctlPrefetch a b pg) s = true → exec (.cctlPrefetch a b pg) s = .next (s.prefetch (s.g a).toNat (s.g b).toNat)) ∧
  (∀ (pg : PR) (s : State), runs (.cctlWbL1d pg) s = true → exec (.cctlWbL1d pg) s = .next (s.l1WbAll s.cur.core)) ∧
  (∀ (pg : PR) (s : State), runs (.cctlInvCc pg) s = true → exec (.cctlInvCc pg) s = .next (s.cacheDrop s.cur.core false everyLine)) ∧
  (∀ (a : GR) (pg : PR) (s : State), runs (.cctlSetCc a pg) s = true → ((s.g a).toNat ≤ 3 → ∃ t, exec (.cctlSetCc a pg) s = .next t ∧ (t.cluster (clusterOf s.cur.core)).ccCode = (s.g a).setWidth 2) ∧
    (3 < (s.g a).toNat → exec (.cctlSetCc a pg) s = .next (s.trap 0x02 0))) ∧
  (∀ (a : GR) (pg : PR) (s : State), runs (.tlbinv a pg .core) s = true → ∃ t, exec (.tlbinv a pg .core) s = .next t ∧ t.mem = s.mem ∧
    ((t.core s.cur.core).l1tlb = (s.core s.cur.core).l1tlb.filter fun e => !(if a = 0 then e.part == s.cur.pre.part else e.covers s.cur.pre.part (s.g a).toNat))) ∧
  (∀ (s : State) (c : Nat) (sel : Nat → Nat → Bool), let t := s.cacheWb c sel; let cl := clusterOf c; (∀ x ∈ (t.core c).l1d, sel x.part x.pa = true → x.dirty = 0) ∧ (∀ x ∈ (t.cluster cl).cc, sel x.part x.pa = true → x.dirty = 0) ∧
    (∀ x, sel x.part x.pa = false → (x ∈ (t.core c).l1d ↔ x ∈ (s.core c).l1d)) ∧ (∀ x, sel x.part x.pa = false → (x ∈ (t.cluster cl).cc ↔ x ∈ (s.cluster cl).cc)) ∧ ∀ n, n ≠ c → (t.core n).l1d = (s.core n).l1d) ∧
  (∀ (s : State) (c : Nat) (own : Bool) (sel : Nat → Nat → Bool), let t := s.cacheDrop c own sel; let cl := clusterOf c; (∀ x ∈ (t.cluster cl).cc, sel x.part x.pa = false) ∧ (own = true → ∀ x ∈ (t.core c).l1d, sel x.part x.pa = false) ∧
    (∀ x, sel x.part x.pa = false → (x ∈ (t.core c).l1d ↔ x ∈ (s.core c).l1d)) ∧ (∀ x, sel x.part x.pa = false → (x ∈ (t.cluster cl).cc ↔ x ∈ (s.cluster cl).cc)) ∧
    (∀ k a p o, k < 16 → ∀ r ∈ (t.core (cl * 16 + k)).reqs, r.acc = some a → a.kind = .line → a.loc = .hbm p o → sel p (lineOf o) = true → r.drop = true)) ∧
  (∀ (s : State) (c : Nat), let t := s.l1WbAll c; (∀ x ∈ (t.core c).l1d, x.dirty = 0) ∧ (∀ x, (∀ y ∈ (s.core c).l1d, ¬ (y.part = x.part ∧ y.pa = x.pa)) → (x ∈ (t.cluster (clusterOf c)).cc ↔ x ∈ (s.cluster (clusterOf c)).cc)) ∧ ∀ n, n ≠ c → (t.core n).l1d = (s.core n).l1d) ∧
  (∀ (s : State) (cl part pa : Nat) (m : BitVec 64) (bs : List Byte), let n := s.homeSlice part pa; let w := lineWrite cl s.token part pa m bs; (m = 0 → s.writeBack cl part pa m bs = s) ∧
    (m ≠ 0 → (s.cutOff (.csm cl) (.slice n) || s.gated part pa || s.wbOut cl part pa) = true → s.writeBack cl part pa m bs = s.fresh.2.send (.csm cl) (.slice n) part .request (.access w)) ∧
    (m ≠ 0 → (s.cutOff (.csm cl) (.slice n) || s.gated part pa || s.wbOut cl part pa) = false → s.lineBusy part pa = true → s.writeBack cl part pa m bs = s.fresh.2.setSlice n { s.slice n with fills := (s.slice n).fills ++ [(w, .csm cl)] }) ∧
    (m ≠ 0 → (s.cutOff (.csm cl) (.slice n) || s.gated part pa || s.wbOut cl part pa) = false → s.lineBusy part pa = false → s.writeBack cl part pa m bs = (List.range 64).foldl (fun t i => if m.getLsbD i then t.homeWrite (.hbm part (pa + i)) [bs.getD i 0] else t) s)) ∧
  (∀ (s : State) (a n : Nat), s.prefetch a n = (List.range ((a + n + 63) / 64 - a / 64)).foldl (fun t i => t.prefetchLine ((a / 64 + i) * 64)) s) ∧
  (∀ (s : State) (va p o : Nat) (a : PageAttr), s.translateNow s.actor .load (BitVec.ofNat 64 va) = .ok (.hbm p o) a → let held := ccFind (s.cluster (clusterOf s.cur.core)).cc p (lineOf o) a.slot;
    ((a.cached = false ∨ s.walkHeld s.actor .load (BitVec.ofNat 64 va) = true ∨ held ≠ none) → s.prefetchLine va = s) ∧
    (a.cached = true → s.walkHeld s.actor .load (BitVec.ofNat 64 va) = false → held = none → let t := (s.walkNow s.actor .load (BitVec.ofNat 64 va)).dropOtherSlot (clusterOf s.cur.core) p (lineOf o) a.slot; s.prefetchLine va = (t.askHome s.actor t.token .line (.hbm p o) 64 (BitVec.ofNat 64 va) a.slot).2)) ∧
  (∀ (s : State) (c p o k : Nat) (r : Req) (a : Access) (bs : List Byte) (b : Bool), r.eng ≠ none → r.drop = false → r.acc = some a → a.kind = .line → a.loc = .hbm p o → a.kslot = k → s.ccOn (clusterOf c) = true → ccFind ((s.engReply c r (.data bs b)).cluster (clusterOf c)).cc p (lineOf o) k ≠ none) ∧
  (∀ (a : GR) (pg : PR) (s : State), runs (.tlbinv a pg .cl) s = true → let va := if a = 0 then none else some (s.g a).toNat; let part := s.cur.pre.part; let cl := clusterOf s.cur.core; ∃ t, exec (.tlbinv a pg .cl) s = .next t ∧ t.mem = s.mem ∧ (∀ n, clusterOf n = cl → (t.core n).l1tlb = dropTlb part va (s.core n).l1tlb) ∧ (∀ n, clusterOf n ≠ cl → (t.core n).l1tlb = (s.core n).l1tlb) ∧
    (t.cluster cl).tlb = dropTlb part va (s.cluster cl).tlb ∧ (∀ k, k ≠ cl → (t.cluster k).tlb = (s.cluster k).tlb) ∧ t.slices = s.slices) ∧
  (∀ (a : GR) (pg : PR) (sc : Scope) (s : State), (sc = .pk ∨ sc = .sy) → runs (.tlbinv a pg sc) s = true → let va := if a = 0 then none else some (s.g a).toNat; let part := s.cur.pre.part; let p := s.partn part; ∃ t, exec (.tlbinv a pg sc) s = .next t ∧ t.mem = s.mem ∧
    (∀ n, clusterOf n ∈ p.clusters → (t.core n).l1tlb = dropTlb part va (s.core n).l1tlb) ∧ (∀ n, clusterOf n ∉ p.clusters → (t.core n).l1tlb = (s.core n).l1tlb) ∧ (∀ k, k ∈ p.clusters → (t.cluster k).tlb = dropTlb part va (s.cluster k).tlb) ∧ (∀ k, k ∉ p.clusters → (t.cluster k).tlb = (s.cluster k).tlb) ∧
    (∀ k, k ∈ p.slices → (t.slice k).tlb = dropTlb part va (s.slice k).tlb) ∧ ∀ k, k ∉ p.slices → (t.slice k).tlb = (s.slice k).tlb) ∧
  (∀ (part : Nat) (va : Option Nat) (l : List TlbEntry) (e : TlbEntry), e ∈ dropTlb part va l ↔ e ∈ l ∧ (∀ a, va = some a → e.covers part a = false) ∧ (va = none → e.part ≠ part))

/-- 08 R214, 08 R215, 08 R216, 08 R217, 08 R218, 08 R219, 10 R246, 11 R273. FRAME writes its header in the own LM and clears its
counter; SPAWN counts its child and pushes the continuation, or traps with 0x12 where the deque has no place, those kept for
pushes whose counter answers later counted (log 32); SYNC goes on where no child is open and else leaves its header suspended
and resumes another task; TEND traps with 0x0C where a fault is pending outside privileged mode; else TEND, its transfers,
matrix commands and releases done, counts down, and one that finds the frame suspended and itself the last copies the frame
here and goes on with it, or traps with 0x12 where no place is left. A counter step is made at once in the own LM or cluster,
after the strand's own accesses to its bytes, and elsewhere by a request to its home, whose answer is kept until the bundle is
issued again. PUBLISH writes back the listed regions; LAUNCH places its descriptor at its queue's tail and says whether it
did, and traps with 0x08 for a slot on a retired page; what is pushed is popped first, and a push onto 64 entries moves the
oldest to the ring. -/
def Obligations.TaskInstructions : Prop :=
  (∀ (a b c : GR) (pg : PR) (s : State) (o q : Nat) (l : Loc) (at_ : PageAttr), runs (.frame a b c pg) s = true → lmSpace (s.g b) = true → (s.g b).toNat % 64 = 0 → s.ownLmRange s.actor (s.g b) 64 = some o → s.teHolds s.cur.core (.lm s.cur.core o) 64 = false → (s.g c).extractLsb' 52 12 = 0x01F → (s.g c).toNat % 8 = 0 → s.translate s.actor .store (s.g c) = .ok l at_ →
    (s.g (c + 1) ≠ 0 → lmSpace (s.g (c + 1)) = true ∧ (s.g (c + 1)).toNat % 8 = 0 ∧ s.ownLmRange s.actor (s.g (c + 1)) 32 = some q ∧ s.teHolds s.cur.core (.lm s.cur.core q) 32 = false ∧ ∀ i, i < 4 → (tileOf (s.readW (.lm s.cur.core (q + 8 * i)))).bad = false) →
    let tiles := if s.g (c + 1) = 0 then List.replicate 32 0 else s.readAt (.lm s.cur.core q) 32; let op : CtrOp := .frame o (leBytes 8 (s.g c).toNat ++ List.replicate 24 0 ++ tiles); let w := BitVec.ofNat 64 (0x1D * 2 ^ 52 + o);
    exec (.frame a b c pg) s = ctrKept op (s.g c) (fun _ _ u => .next (u.setG a w)) l at_ s ∧
    ((s.slotOf s.cur.core s.cur.slot).reads = [] → l.near s.cur.core = true → s.writeOpen 8 (l, at_) = false → let z : State := (match l with | .csm cl off => (s.takeBank cl off s.issueCycle).2 | _ => s); exec (.frame a b c pg) s = .next (((z.nearTime s.cur.core).ctrAt op l s.cur.core s.cur.slot).1.setG a w))) ∧
  (∀ (a b c : GR) (pg : PR) (s : State), runs (.frame a b c pg) s = true → (lmSpace (s.g b) = false ∨ (s.g c).extractLsb' 52 12 ≠ 0x01F ∨ (s.g (c + 1) ≠ 0 ∧ lmSpace (s.g (c + 1)) = false)) → exec (.frame a b c pg) s = .next (s.trap 0x02 0)) ∧
  (∀ (a b c : GR) (pg : PR) (s : State), runs (.frame a b c pg) s = true → s.frameBad b c = false → (s.tilesHeld (s.g (c + 1)) = true → exec (.frame a b c pg) s = .next (s.park .scoreboard)) ∧ (s.tilesHeld (s.g (c + 1)) = false → s.badTiles (s.g (c + 1)) = true → exec (.frame a b c pg) s = .next (s.trap 0x02 0))) ∧
  (∀ (a b : GR) (pg : PR) (s : State) (o : Nat), runs (.spawn a b pg) s = true → lmSpace (s.g a) = true → (s.g a).toNat % 64 = 0 → s.ownLmRange s.actor (s.g a) 64 = some o → s.teHolds s.cur.core (.lm s.cur.core o) 64 = false → ((s.slotOf s.cur.core s.cur.slot).spawning = true ∨ s.dequeFull s.cur.core s.cur.slot = false) → let ctr := s.readW (.lm s.cur.core o); let n := s.nearTime s.cur.core;
    let k : State → State := fun u => let p := u.pushDeque u.cur.core u.cur.pre.job { pc := u.nextPc, frame := u.g a, counter := ctr, tiles := u.g a + 32, at_ := some o }; (if 64 ≤ (u.core u.cur.core).deque.length then p.1.parkAfter (.spill (p.1.now + 16)) else p.1).flow (.taken (u.g b));
    exec (.spawn a b pg) s = ctrThen .spawn ctr (fun _ _ u => .next (k u)) n ∧
    (∀ (l : Loc) (at_ : PageAttr), ctr.toNat % 8 = 0 → n.lookup .store ctr = .ok l at_ → (∀ h, l ≠ .host h) → (∀ p h, l ≠ .regs p h) → (∀ h, l ≠ .dev h) → (n.slotOf n.cur.core n.cur.slot).reads = [] → l.near n.cur.core = true → n.writeOpen 8 (l, at_) = false → let z : State := (match l with | .csm cl off => (n.takeBank cl off n.issueCycle).2 | _ => n); exec (.spawn a b pg) s = .next (k ((z.nearTime n.cur.core).ctrAt .spawn l n.cur.core n.cur.slot).1))) ∧
  (∀ (a b : GR) (pg : PR) (s : State) (o : Nat), runs (.spawn a b pg) s = true → lmSpace (s.g a) = true → (s.g a).toNat % 64 = 0 → s.ownLmRange s.actor (s.g a) 64 = some o → s.teHolds s.cur.core (.lm s.cur.core o) 64 = false → (s.slotOf s.cur.core s.cur.slot).spawning = false → s.dequeFull s.cur.core s.cur.slot = true → exec (.spawn a b pg) s = .next (s.trap 0x12 (s.g a))) ∧
  (∀ (s : State) (c k : Nat), (∀ j, j < 16 → j ≠ k → (s.slotOf c j).spawning = false) → (s.dequeFull c k = true ↔ 4160 ≤ (s.core c).deque.length + (s.core c).ringCount)) ∧
  (∀ (a : GR) (pg : PR) (s : State) (o : Nat), runs (.sync a pg) s = true → lmSpace (s.g a) = true → (s.g a).toNat % 64 = 0 → s.ownLmRange s.actor (s.g a) 64 = some o → s.teHolds s.cur.core (.lm s.cur.core o) 64 = false → let ctr := s.readW (.lm s.cur.core o); let n := s.nearTime s.cur.core; let op : CtrOp := .sync o s.nextPc;
    exec (.sync a pg) s = ctrThen op ctr (fun w _ u => if w.extractLsb' 0 32 = (0 : W32) then .next (u.cacheAcquire u.cur.core .pk) else resume none u) n ∧
    (∀ (l : Loc) (at_ : PageAttr), ctr.toNat % 8 = 0 → n.lookup .store ctr = .ok l at_ → (∀ h, l ≠ .host h) → (∀ p h, l ≠ .regs p h) → (∀ h, l ≠ .dev h) → (n.slotOf n.cur.core n.cur.slot).reads = [] → l.near n.cur.core = true → n.writeOpen 8 (l, at_) = false → let z : State := (match l with | .csm cl off => (n.takeBank cl off n.issueCycle).2 | _ => n); let r := (z.nearTime n.cur.core).ctrAt op l n.cur.core n.cur.slot;
      (r.2.1.extractLsb' 0 32 = (0 : W32) → exec (.sync a pg) s = .next (r.1.cacheAcquire r.1.cur.core .pk)) ∧ (r.2.1.extractLsb' 0 32 ≠ (0 : W32) → exec (.sync a pg) s = resume none r.1 ∧ ∃ u, exec (.sync a pg) s = .next u))) ∧
  (∀ (a b : GR) (pg : PR) (s : State), runs (.spawn a b pg) s = true → (lmSpace (s.g a) = false → exec (.spawn a b pg) s = .next (s.trap 0x02 0)) ∧ (lmSpace (s.g a) = true → (s.g a).toNat % 64 ≠ 0 → exec (.spawn a b pg) s = .next (s.trap 0x09 (s.g a)))) ∧
  (∀ (a : GR) (pg : PR) (s : State), runs (.sync a pg) s = true → (lmSpace (s.g a) = false → exec (.sync a pg) s = .next (s.trap 0x02 0)) ∧ (lmSpace (s.g a) = true → (s.g a).toNat % 64 ≠ 0 → exec (.sync a pg) s = .next (s.trap 0x09 (s.g a)))) ∧
  (∀ (a : GR) (pg : PR) (s : State), runs (.tend a pg) s = true → s.teOpen s.cur.core s.cur.pre.sid (fun _ => true) = false → s.meOpen s.cur.core s.cur.pre.sid = false → s.flushStrand s.cur.core s.cur.slot = s → s.strand.quiet = true →
    let t := s.cacheRelease s.cur.core .pk; t.cur = s.cur → t.writesWait s.cur.pre.part = false → (s.cur.pre.priv = false → t.strand.teFaulted = 0 → t.strand.meFault = false → t.strand.x.pf = true → exec (.tend a pg) s = .next (t.trap 0x0C logAddr)) ∧ ((s.cur.pre.priv = true ∨ (t.strand.teFaulted = 0 ∧ t.strand.meFault = false ∧ t.strand.x.pf = false)) →
    (a = 0 → exec (.tend a pg) s = resume none t ∧ ∃ u, exec (.tend a pg) s = .next u) ∧
    (a ≠ 0 → exec (.tend a pg) s = ctrThen .tend (t.g a) (fun w full u => if full = true then .next (u.trap 0x12 (ownLmAddr ((w.extractLsb' 45 12).toNat * 64))) else if w.extractLsb' 0 32 = (1 : W32) ∧ w.getLsbD 32 = true then movedEntry w (fun k v => resume (some k) v) (u.keepAnswer (u.g a) w) else resume none u) t) ∧
    (∀ (l : Loc) (at_ : PageAttr), a ≠ 0 → (t.g a).toNat % 8 = 0 → t.lookup .store (t.g a) = .ok l at_ → (∀ h, l ≠ .host h) → (∀ p h, l ≠ .regs p h) → (∀ h, l ≠ .dev h) → (t.slotOf t.cur.core t.cur.slot).reads = [] → l.near t.cur.core = true → t.writeOpen 8 (l, at_) = false → let z : State := (match l with | .csm cl off => (t.takeBank cl off t.issueCycle).2 | _ => t); let r := (z.nearTime t.cur.core).ctrAt .tend l t.cur.core t.cur.slot; let w := r.2.1;
      (r.2.2 = true → exec (.tend a pg) s = .next (r.1.trap 0x12 (ownLmAddr ((w.extractLsb' 45 12).toNat * 64)))) ∧
      (r.2.2 = false → ¬ (w.extractLsb' 0 32 = (1 : W32) ∧ w.getLsbD 32 = true) → exec (.tend a pg) s = resume none r.1 ∧ ∃ u, exec (.tend a pg) s = .next u) ∧
      (r.2.2 = false → w.extractLsb' 0 32 = (1 : W32) → w.getLsbD 32 = true → exec (.tend a pg) s = movedEntry w (fun k v => resume (some k) v) (r.1.keepAnswer (r.1.g a) w) ∧ ∃ u, exec (.tend a pg) s = .next u)))) ∧
  (∀ (s t : State) (e : DequeEntry), s.cur.pre.role.isTask = true → (s.core s.cur.core).dequeJob = s.cur.pre.job →
    (s.popDeque s.cur.core = some (e, t) → resume none s = .next (((t.cacheAcquire t.cur.core .pk).setG 3 e.frame).flow (.taken e.pc))) ∧ (s.popDeque s.cur.core = none → resume none s = .next (s.flow .endStrand))) ∧
  (∀ (s : State), (s.cur.pre.role.isTask = false ∨ (s.core s.cur.core).dequeJob ≠ s.cur.pre.job) →
    (∀ c, s.cur.pre.role = .callee c → resume none s = .next ((s.replyCall (.core s.cur.core) s.cur.pre.part c (BitVec.ofNat 64 (2 ^ 63 + 5))).flow .endStrand)) ∧ ((∀ c, s.cur.pre.role ≠ .callee c) → resume none s = .next (s.flow .endStrand))) ∧
  (∀ (s : State) (e : DequeEntry), (s.core s.cur.core).deque.length < 64 → ∃ t : State, resume (some e) s = .next (((t.cacheAcquire t.cur.core .pk).setG 3 e.frame).flow (.taken e.pc)) ∧ t.mem = s.mem ∧ (t.core s.cur.core).deque = (s.core s.cur.core).deque) ∧
  (∀ (a b : GR) (pg : PR) (s : State), runs (.publish a b pg) s = true → (b = 0 → exec (.publish a b pg) s = .next s) ∧ (b ≠ 0 → (s.g b).toNat % 8 ≠ 0 → exec (.publish a b pg) s = .next (s.trap 0x09 (s.g b))) ∧
    (∀ o, b ≠ 0 → s.g b = ownLmBase + BitVec.ofNat 64 o → o % 8 = 0 → o + 256 ≤ Config.lmBytes → (s.core s.cur.core).teQueue = [] → (s.slotOf s.cur.core s.cur.slot).reads = [] →
      exec (.publish a b pg) s = .next ((regionsOf (s.readAt (.lm s.cur.core o) 256) 16).foldl (fun t r => t.cacheWb t.cur.core (inParts (t.globalParts t.actor r.1 r.2))) s))) ∧
  (∀ (a : GR) (c pg : PR) (s : State), runs (.launch a c pg) s = true → ((s.g a).toNat % 128 ≠ 0 → exec (.launch a c pg) s = .next (s.trap 0x09 (s.g a))) ∧
    (∀ o, s.g a = ownLmBase + BitVec.ofNat 64 o → o % 128 = 0 → o + 128 ≤ Config.lmBytes → s.flushStrand s.cur.core s.cur.slot = s → s.strand.quiet = true → let t := s.cacheRelease s.cur.core .pk; t.cur = s.cur → t.writesWait s.cur.pre.part = false → (t.core s.cur.core).teQueue = [] → (t.slotOf s.cur.core s.cur.slot).reads = [] →
      let part := s.cur.pre.part; let bs := t.readAt (.lm s.cur.core o) 128; let v := (List.range 16).foldl (fun u _ => u.nearTime t.cur.core) t; let q := queueOf bs; (v.tailSlot part q = none → exec (.launch a c pg) s = .next (v.setP c false)) ∧
      (∀ off, v.tailSlot part q = some off → (v.isRetired part off = true → exec (.launch a c pg) s = .next (v.trap 0x08 (s.g a))) ∧
        (v.isRetired part off = false → (v.frontBusy part off || v.frontBusy part (off + 64)) = true → exec (.launch a c pg) s = .next v.tryAgain) ∧
        (v.isRetired part off = false → (v.frontBusy part off || v.frontBusy part (off + 64)) = false → exec (.launch a c pg) s = .next ((v.placeDescriptor part q off bs).setP c true))))) ∧
  (∀ (s : State) (c : Nat) (j : Option Nat) (e : DequeEntry), (s.core c).deque.length < 64 → ∃ t, (s.pushDeque c j e).1.popDeque c = some (e, t) ∧ (t.core c).deque = (s.core c).deque) ∧
  (∀ (s : State) (c : Nat) (j : Option Nat) (e x : DequeEntry) (r : List DequeEntry), (s.core c).deque = x :: r → 64 ≤ (s.core c).deque.length → ((s.pushDeque c j e).1.core c).deque = r ++ [e] ∧ ((s.pushDeque c j e).1.core c).ringCount = (s.core c).ringCount + 1) ∧
  (∀ (s : State) (c : Nat) (l : Loc), (∀ p o, l ≠ .hbm p o) → s.homeFirst c l = s) ∧
  (∀ (o : CtrOp) (va : W64) (f : W64 → Bool → State → Res) (l : Loc) (a : PageAttr) (s : State), let rd := (s.slotOf s.cur.core s.cur.slot).reads.lookup va; (∀ bs, rd = some bs → ctrKept o va f l a s = f (ctrAnswer bs).1 (ctrAnswer bs).2 s ∧ ctrThen o va f s = f (ctrAnswer bs).1 (ctrAnswer bs).2 s) ∧
    (rd = none → ctrKept o va f l a s = ctrStep o va f l a s ∧ (va.toNat % 8 = 0 → s.lookup .store va = .ok l a → ((∀ h, l ≠ .host h) → (∀ p h, l ≠ .regs p h) → (∀ h, l ≠ .dev h) → ctrThen o va f s = ctrStep o va f l a s) ∧ (((∃ h, l = .host h) ∨ (∃ p h, l = .regs p h) ∨ ∃ h, l = .dev h) → ctrThen o va f s = .next (s.trap 0x08 va))))) ∧
  (∀ (o : CtrOp) (va : W64) (f : W64 → Bool → State → Res) (l : Loc) (a : PageAttr) (s : State), (∀ d, s.heldDest 8 (l, a) = some d → ctrStep o va f l a s = .next ((s.flushDest s.cur.core (some d)).park .acks)) ∧ (s.heldDest 8 (l, a) = none → s.writeOpen 8 (l, a) = true → ctrStep o va f l a s = .next (s.park .acks)) ∧
    (s.heldDest 8 (l, a) = none → s.writeOpen 8 (l, a) = false → let ds := (s.aggDest s.cur.core l a true).toList; let t := s.flushDests ds; let h := t.homeFirst t.cur.core l; (t.destsClear ds = false → ctrStep o va f l a s = .next (t.park .send)) ∧
      (t.destsClear ds = true → l.near h.cur.core = true → let z : State := (match l with | .csm cl off => (h.takeBank cl off h.issueCycle).2 | _ => h); let r := (z.nearTime h.cur.core).ctrAt o l h.cur.core h.cur.slot; ctrStep o va f l a s = f r.2.1 r.2.2 r.1) ∧
      (t.destsClear ds = true → l.near h.cur.core = false → let y := (h.setSlot h.cur.core h.cur.slot { h.slotOf h.cur.core h.cur.slot with spawning := o == .spawn }).fresh; let x := y.2.accessOf y.1 (.ctr o) l 8 va a.slot; ctrStep o va f l a s = .next (((y.2.addReq (y.2.reqOf y.1 .held x)).toHome x).park .replies)))) ∧
  (∀ (s : State) (l : Loc) (core slot off : Nat) (h : List Byte) (pc : W64), let m := l.forward s; let w := s.readW m; let n : W32 := w.extractLsb' 0 32; let put : State → W64 → State := fun t v => t.homeWrite m (leBytes 8 v.toNat);
    s.ctrAt (.frame off h) l core slot = (put ((s.nearTime core).writeAt (.lm core off) h) 0, w, false) ∧ s.ctrAt .spawn l core slot = (put s (w.extractLsb' 32 32 ++ (n + 1)), w, false) ∧
    (n = 1 → w.getLsbD 32 = true → s.ctrAt .tend l core slot = if s.dequeFull core slot = true then (s, w, true) else (put s 0, w, false)) ∧ (¬ (n = 1 ∧ w.getLsbD 32 = true) → s.ctrAt .tend l core slot = (put s (w.extractLsb' 32 32 ++ (n - 1)), w, false)) ∧
    (n = 0 → s.ctrAt (.sync off pc) l core slot = (s, w, false)) ∧ (n ≠ 0 → s.ctrAt (.sync off pc) l core slot = (put ((s.nearTime core).writeW (.lm core (off + 8)) pc) (BitVec.ofNat 64 (w.toNat % 2 ^ 32 + 2 ^ 32 + core * 2 ^ 33 + off / 64 * 2 ^ 45)), w, false))) ∧
  (∀ (s : State) (a : Access) (o : CtrOp) (home src : Node) (w : W64) (full : Bool), ctrAnswer (ctrBytes w full) = (w, full) ∧ (a.kind = .ctr o → let r := (s.nearAt a).ctrAt o a.loc a.core a.slot; s.performAt home src a = (r.1, some (.data (ctrBytes r.2.1 r.2.2) false)))) ∧
  (∀ (s : State) (w : W64) (k : DequeEntry → State → Res), let off := (w.extractLsb' 45 12).toNat * 64; let src := (w.extractLsb' 33 12).toNat; let en : State → DequeEntry := fun u => { pc := u.readW (.lm u.cur.core (off + 8)), frame := ownLmAddr off, counter := u.readW (.lm u.cur.core off), tiles := ownLmAddr (off + 32), at_ := some off };
    (src = s.cur.core → movedEntry w k s = k (en s) s) ∧ (src ≠ s.cur.core → movedEntry w k s = lmBytesThen src off 64 (fun h u => frameBytesThen src ((List.range 4).map fun i => (tileOf (BitVec.ofNat 64 (leNat ((h.drop (32 + 8 * i)).take 8)))).part) (fun img v =>
      let t := ((off, h) :: img).foldl (fun y e => y.writeAt (.lm y.cur.core e.1) e.2) (v.nearTime v.cur.core); k (en t) t) u) s)) ∧
  (∀ (s : State) (core off n : Nat) (k : List Byte → State → Res), (clusterOf core = clusterOf s.cur.core → (s.core core).fenced = false → lmBytesThen core off n k s = k (s.readAt (.lm core off) n) (s.nearTime s.cur.core)) ∧ (clusterOf core = clusterOf s.cur.core → (s.core core).fenced = true → lmBytesThen core off n k s = .next (s.trap 0x08 (lmAlias core off))) ∧
    (∀ e, clusterOf core ≠ clusterOf s.cur.core → (s.slotOf s.cur.core s.cur.slot).reads.find? (fun e => e.1 == lmAlias core off && e.2.length == n) = some e → lmBytesThen core off n k s = k e.2 s) ∧
    (clusterOf core ≠ clusterOf s.cur.core → (s.slotOf s.cur.core s.cur.slot).reads = [] → lmBytesThen core off n k s = holdAccess .load (.lm core off) n (lmAlias core off) 0 s)) ∧
  (∀ (s : State) (va w : W64), s.cur.slot < 16 → (s.keepAnswer va w).slotOf s.cur.core s.cur.slot = { s.slotOf s.cur.core s.cur.slot with reads := (s.slotOf s.cur.core s.cur.slot).reads ++ [(va, ctrBytes w false)] } ∧ (s.keepAnswer va w).mem = s.mem)

/-- 08 R203, 08 R204, 08 R207, 08 R191, 08 R192, 08 R193, 08 R198, 08 R199, 08 R200, 08 R201, 08 R202, 03 R56. TCOPY to TFILL and
MSET to MMA with legal operands append one command with its operands and snapshot and change nothing else but the engine state
that MSET sets; illegal fields trap with 0x02, then, of a strand with an unreported fault of the matrix engine outside
privileged mode, with 0x0D, then misaligned or unreachable addresses with 0x09 or 0x08; TWAIT waits for the commands of its
tags, and MWAIT goes through the queue of the matrix engine; both then go on, or report a fault with 0x0E, the tags cleared,
or 0x0D outside privileged mode. -/
def Obligations.EngineCommands : Prop :=
  (∀ (a b c : GR) (pg : PR) (tag : BV3) (s : State), runs (.tcopy a b c pg tag) s = true →
    let q : TeCmd := { slot := s.cur.slot, sid := s.cur.pre.sid, tag := tag, kind := .copy, a := s.g a, b := s.g b, s0 := s.g c, s1 := s.g (c + 1), who := s.actor, id := s.token };
    (q.illegal = false → q.misaligned = none → exec (.tcopy a b c pg tag) s = .next (pushTe q s)) ∧
    (q.illegal = true → exec (.tcopy a b c pg tag) s = .next (s.trap 0x02 0)) ∧
    (∀ x, q.illegal = false → q.misaligned = some x → exec (.tcopy a b c pg tag) s = .next (s.trap 0x09 x))) ∧
  (∀ (a b c : GR) (pg : PR) (tag : BV3) (s : State), runs (.tcopy2d a b c pg tag) s = true →
    let q : TeCmd := { slot := s.cur.slot, sid := s.cur.pre.sid, tag := tag, kind := .copy2d, a := s.g a, b := s.g b, s0 := s.g c, s1 := s.g (c + 1), who := s.actor, id := s.token };
    (q.illegal = false → q.misaligned = none → exec (.tcopy2d a b c pg tag) s = .next (pushTe q s)) ∧
    (q.illegal = true → exec (.tcopy2d a b c pg tag) s = .next (s.trap 0x02 0)) ∧
    (∀ x, q.illegal = false → q.misaligned = some x → exec (.tcopy2d a b c pg tag) s = .next (s.trap 0x09 x))) ∧
  (∀ (a b c : GR) (pg : PR) (tag : BV3) (s : State), runs (.tgather a b c pg tag) s = true →
    let q : TeCmd := { slot := s.cur.slot, sid := s.cur.pre.sid, tag := tag, kind := .gather, a := s.g a, b := s.g b, s0 := s.g c, s1 := s.g (c + 1), who := s.actor, id := s.token };
    (q.illegal = false → q.misaligned = none → exec (.tgather a b c pg tag) s = .next (pushTe q s)) ∧
    (q.illegal = true → exec (.tgather a b c pg tag) s = .next (s.trap 0x02 0)) ∧
    (∀ x, q.illegal = false → q.misaligned = some x → exec (.tgather a b c pg tag) s = .next (s.trap 0x09 x))) ∧
  (∀ (a b c : GR) (pg : PR) (tag : BV3) (s : State), runs (.tscatter a b c pg tag) s = true →
    let q : TeCmd := { slot := s.cur.slot, sid := s.cur.pre.sid, tag := tag, kind := .scatter, a := s.g a, b := s.g b, s0 := s.g c, s1 := s.g (c + 1), who := s.actor, id := s.token };
    (q.illegal = false → q.misaligned = none → exec (.tscatter a b c pg tag) s = .next (pushTe q s)) ∧
    (q.illegal = true → exec (.tscatter a b c pg tag) s = .next (s.trap 0x02 0)) ∧
    (∀ x, q.illegal = false → q.misaligned = some x → exec (.tscatter a b c pg tag) s = .next (s.trap 0x09 x))) ∧
  (∀ (a b c : GR) (pg : PR) (tag : BV3) (s : State), runs (.tfill a b c pg tag) s = true →
    let q : TeCmd := { slot := s.cur.slot, sid := s.cur.pre.sid, tag := tag, kind := .fill, a := s.g a, b := s.g b, s0 := s.g c, s1 := s.g (c + 1), who := s.actor, id := s.token };
    (q.illegal = false → q.misaligned = none → exec (.tfill a b c pg tag) s = .next (pushTe q s)) ∧
    (q.illegal = true → exec (.tfill a b c pg tag) s = .next (s.trap 0x02 0)) ∧
    (∀ x, q.illegal = false → q.misaligned = some x → exec (.tfill a b c pg tag) s = .next (s.trap 0x09 x))) ∧
  (∀ (q : TeCmd) (s : State), ((pushTe q s).core s.cur.core).teQueue = (s.core s.cur.core).teQueue ++ [q] ∧ (pushTe q s).mem = s.mem ∧ (pushTe q s).strand = s.strand ∧ (pushTe q s).token = s.token + 1) ∧
  (∀ (sel : TSel) (pg : PR) (s : State), runs (.twait sel pg) s = true →
    (s.teOpen s.cur.core s.cur.pre.sid (TSel.takes sel) = true → exec (.twait sel pg) s = .next (s.park .teDone)) ∧
    (s.teOpen s.cur.core s.cur.pre.sid (TSel.takes sel) = false → ((∀ i, i < 8 → s.strand.teFaulted.getLsbD i = true → TSel.takes sel (BitVec.ofNat 3 i) = false) ∨ s.cur.pre.priv = true) → exec (.twait sel pg) s = .next s) ∧
    (∀ i, s.teOpen s.cur.core s.cur.pre.sid (TSel.takes sel) = false → s.cur.pre.priv = false → i < 8 → s.strand.teFaulted.getLsbD i = true → TSel.takes sel (BitVec.ofNat 3 i) = true →
      ∃ u : State, exec (.twait sel pg) s = .next (u.trap 0x0E logAddr) ∧ (s.cur.slot < 16 → ∀ j, j < 8 → u.strand.teFaulted.getLsbD j = (s.strand.teFaulted.getLsbD j && !TSel.takes sel (BitVec.ofNat 3 j))))) ∧
  (∀ (sel : MSel) (a : GR) (pg : PR) (s : State), runs (.mset sel a pg) s = true →
    (MSel.illegal sel (s.g a) = true → exec (.mset sel a pg) s = .next (s.trap 0x02 0)) ∧
    (MSel.illegal sel (s.g a) = false → s.strand.meFault = true → s.cur.pre.priv = false → exec (.mset sel a pg) s = .next (s.trap 0x0D logAddr)) ∧
    (MSel.illegal sel (s.g a) = false → (s.strand.meFault = false ∨ s.cur.pre.priv = true) → exec (.mset sel a pg) s = .next (pushMe (.mset) (s.setStrand { s.strand with eng := s.strand.eng.put sel (s.g a) })))) ∧
  (∀ (k : BV3) (a : GR) (pg : PR) (s : State), runs (.mzero k a pg) s = true →
    (16384 < accBase s.cur.pre.eng k + (s.g a).toNat → exec (.mzero k a pg) s = .next (s.trap 0x02 0)) ∧
    (accBase s.cur.pre.eng k + (s.g a).toNat ≤ 16384 → s.strand.meFault = true → s.cur.pre.priv = false → exec (.mzero k a pg) s = .next (s.trap 0x0D logAddr)) ∧
    (accBase s.cur.pre.eng k + (s.g a).toNat ≤ 16384 → (s.strand.meFault = false ∨ s.cur.pre.priv = true) → exec (.mzero k a pg) s = .next (pushMe (.mzero (accBase s.cur.pre.eng k) (s.g a).toNat) s))) ∧
  (∀ (sc : Scope) (k : BV3) (a b : GR) (pg : PR) (s : State), runs (.mlda sc k a b pg) s = true →
    (shapeBad (s.g b) 32 (accBase s.cur.pre.eng k) = true → exec (.mlda sc k a b pg) s = .next (s.trap 0x02 0)) ∧
    (shapeBad (s.g b) 32 (accBase s.cur.pre.eng k) = false → s.strand.meFault = true → s.cur.pre.priv = false → exec (.mlda sc k a b pg) s = .next (s.trap 0x0D logAddr)) ∧
    (shapeBad (s.g b) 32 (accBase s.cur.pre.eng k) = false → (s.strand.meFault = false ∨ s.cur.pre.priv = true) → (s.g a).toNat % 4 ≠ 0 → exec (.mlda sc k a b pg) s = .next (s.trap 0x09 (s.g a))) ∧
    (shapeBad (s.g b) 32 (accBase s.cur.pre.eng k) = false → (s.strand.meFault = false ∨ s.cur.pre.priv = true) → (s.g a).toNat % 4 = 0 → exec (.mlda sc k a b pg) s = .next (pushMe (.mlda sc (accBase s.cur.pre.eng k) (s.g a) (s.g b)) s))) ∧
  (∀ (fmt : FTy) (sc : Scope) (mode : RMode) (k : BV3) (a b : GR) (pg : PR) (s : State), runs (.msta fmt sc mode k a b pg) s = true →
    (shapeBad (s.g b) (if FTy.fm fmt = .e2m1 then 4 else 8 * (FTy.fm fmt).bytes) (accBase s.cur.pre.eng k) = true → exec (.msta fmt sc mode k a b pg) s = .next (s.trap 0x02 0)) ∧
    (shapeBad (s.g b) (if FTy.fm fmt = .e2m1 then 4 else 8 * (FTy.fm fmt).bytes) (accBase s.cur.pre.eng k) = false → s.strand.meFault = true → s.cur.pre.priv = false → exec (.msta fmt sc mode k a b pg) s = .next (s.trap 0x0D logAddr)) ∧
    (shapeBad (s.g b) (if FTy.fm fmt = .e2m1 then 4 else 8 * (FTy.fm fmt).bytes) (accBase s.cur.pre.eng k) = false → (s.strand.meFault = false ∨ s.cur.pre.priv = true) → (s.g a).toNat % (FTy.fm fmt).bytes ≠ 0 → exec (.msta fmt sc mode k a b pg) s = .next (s.trap 0x09 (s.g a))) ∧
    (shapeBad (s.g b) (if FTy.fm fmt = .e2m1 then 4 else 8 * (FTy.fm fmt).bytes) (accBase s.cur.pre.eng k) = false → (s.strand.meFault = false ∨ s.cur.pre.priv = true) → (s.g a).toNat % (FTy.fm fmt).bytes = 0 → exec (.msta fmt sc mode k a b pg) s = .next (pushMe (.msta fmt sc mode (accBase s.cur.pre.eng k) (s.g a) (s.g b) s.ovf) s))) ∧
  (∀ (a : GR) (pg : PR) (s : State), runs (.mseed a pg) s = true →
    (s.strand.meFault = true → s.cur.pre.priv = false → exec (.mseed a pg) s = .next (s.trap 0x0D logAddr)) ∧
    ((s.strand.meFault = false ∨ s.cur.pre.priv = true) → exec (.mseed a pg) s = .next (pushMe (.mseed (s.g a)) s))) ∧
  (∀ (a b : GR) (pg : PR) (s : State), runs (.mring a b pg) s = true →
    (ringBad (s.g b) = true → exec (.mring a b pg) s = .next (s.trap 0x02 0)) ∧
    (ringBad (s.g b) = false → s.strand.meFault = true → s.cur.pre.priv = false → exec (.mring a b pg) s = .next (s.trap 0x0D logAddr)) ∧
    (ringBad (s.g b) = false → (s.strand.meFault = false ∨ s.cur.pre.priv = true) → (s.g a).toNat % 64 ≠ 0 → exec (.mring a b pg) s = .next (s.trap 0x09 (s.g a))) ∧
    (ringBad (s.g b) = false → (s.strand.meFault = false ∨ s.cur.pre.priv = true) → (s.g a).toNat % 64 = 0 → s.ownLmRange s.actor (s.g a) (field (s.g b).toNat 16 16 * 64 * field (s.g b).toNat 0 6) = none → exec (.mring a b pg) s = .next (s.trap 0x08 (s.g a))) ∧
    (ringBad (s.g b) = false → (s.strand.meFault = false ∨ s.cur.pre.priv = true) → (s.g a).toNat % 64 = 0 → (s.ownLmRange s.actor (s.g a) (field (s.g b).toNat 16 16 * 64 * field (s.g b).toNat 0 6)).isSome = true → exec (.mring a b pg) s = .next (pushMe (.mring (s.g a) (field (s.g b).toNat 16 16) (field (s.g b).toNat 8 4) (field (s.g b).toNat 0 6)) s))) ∧
  (∀ (fa fb : MxFmt) (k : BV3) (n : BV6) (m : BV2) (ga gs : GR) (fl : MmaFl) (s : State), runs (.mma fa fb k n m ga gs fl) s = true →
    (mmaBad k n m fl s = true → exec (.mma fa fb k n m ga gs fl) s = .next (s.trap 0x02 0)) ∧
    (mmaBad k n m fl s = false → s.strand.meFault = true → s.cur.pre.priv = false → exec (.mma fa fb k n m ga gs fl) s = .next (s.trap 0x0D logAddr)) ∧
    (∀ c v, mmaBad k n m fl s = false → (s.strand.meFault = false ∨ s.cur.pre.priv = true) → mmaFault (some (fa, fb)) m (s.g ga) (s.g gs) fl s = some (c, v) → exec (.mma fa fb k n m ga gs fl) s = .next (s.trap c v)) ∧
    (mmaBad k n m fl s = false → (s.strand.meFault = false ∨ s.cur.pre.priv = true) → mmaFault (some (fa, fb)) m (s.g ga) (s.g gs) fl s = none → exec (.mma fa fb k n m ga gs fl) s = .next (pushMe (.mma (some (fa, fb)) (accBase s.cur.pre.eng k) (16 * 2 ^ m.toNat) (n.toNat * 16) (s.g ga) (s.g gs) fl) s))) ∧
  (∀ (k : BV3) (n : BV6) (m : BV2) (ga : GR) (fl : MmaFl) (s : State), runs (.mmaBf16 k n m ga fl) s = true →
    (mmaBad k n m fl s = true → exec (.mmaBf16 k n m ga fl) s = .next (s.trap 0x02 0)) ∧
    (mmaBad k n m fl s = false → s.strand.meFault = true → s.cur.pre.priv = false → exec (.mmaBf16 k n m ga fl) s = .next (s.trap 0x0D logAddr)) ∧
    (∀ c v, mmaBad k n m fl s = false → (s.strand.meFault = false ∨ s.cur.pre.priv = true) → mmaFault none m (s.g ga) 0 fl s = some (c, v) → exec (.mmaBf16 k n m ga fl) s = .next (s.trap c v)) ∧
    (mmaBad k n m fl s = false → (s.strand.meFault = false ∨ s.cur.pre.priv = true) → mmaFault none m (s.g ga) 0 fl s = none → exec (.mmaBf16 k n m ga fl) s = .next (pushMe (.mma none (accBase s.cur.pre.eng k) (16 * 2 ^ m.toNat) (n.toNat * 16) (s.g ga) 0 fl) s))) ∧
  (∀ (op : MeOp) (s : State), ((pushMe op s).core s.cur.core).meQueue = (s.core s.cur.core).meQueue ++ [{ slot := s.cur.slot, sid := s.cur.pre.sid, op := op, eng := s.cur.pre.eng, who := s.actor, id := s.token, dead := s.strand.meFault }] ∧ (pushMe op s).mem = s.mem ∧ (pushMe op s).strand = s.strand) ∧
  (∀ (pg : PR) (s : State), runs (.mwait pg) s = true → let x := s.slotOf s.cur.core s.cur.slot; let c := s.core s.cur.core; let past : Prop := x.meWaited = true ∨ (c.meQueue = [] ∧ ∀ q ∈ c.meLate, q.sid ≠ s.cur.pre.sid);
    (past → (s.strand.meFault = false ∨ s.cur.pre.priv = true) → exec (.mwait pg) s = .next s) ∧ (past → s.strand.meFault = true → s.cur.pre.priv = false → exec (.mwait pg) s = .next (s.trap 0x0D logAddr)) ∧
    (¬ past → exec (.mwait pg) s = .next ((if (c.meQueue ++ c.meLate).any (fun q => q.isWait && q.sid == s.cur.pre.sid) then s else pushMe .mwait s).park .meDone)))

/-- 19 R364, 20 R369, 20 R370, 20 R372, 20 R376, 20 R377, 20 R379, 20 R380, 17 R338, 06 R153, 10 R256, 12 R286. A packet whose
number is the next of its source and destination is delivered, with those it held up, and an early one waits; a packet whose
route holds and that has waited its limit moves to the escape channel; a failing link is a transient error once, counted in
the island of the sending end, which is the model's choice (log 20), and a lasting failure twice, and holds the packets whose
route uses it, as a stopped island on the route does; and a delivered access is performed and answered at its home once the
replicas of its line have gone, the bytes that the asking core's cluster writes back to it are home and no earlier write of
that line waits, joins its fill, or is answered or sent on by a replica; a waiter is withdrawn; replies of loads and atomics
fill their destinations, aggregated elements, of this device and of another, are applied in order and answered by mask once
none of them has to wait; tokens, calls (of one cycle in the order of their callers' cores), triggers and migrated strands are
taken in or turned away, a strand or a call of a job that has ended ends, and a fenced core answers a packet for itself. -/
def Obligations.PacketsAreDelivered : Prop :=
  (∀ (id : Nat) (p : Packet) (s : State), s.net.find? (fun x => x.id == id) = some p → s.routeFailed p = false → s.routeOff p = false → let t : State := { s with net := s.net.filter fun x => x.id != id }; let q := seqOf s.recvSeq p.src p.dst;
    (p.seq = q → exec (.meshPacketArrive id) s = .next (({ t with arrived := t.arrived ++ [p], recvSeq := seqSet t.recvSeq p.src p.dst ((q + 1) % 65536) }).releaseHeld p.src p.dst t.reorder.length).toFabric) ∧
    (p.seq ≠ q → s.reorderFull p = false → exec (.meshPacketArrive id) s = .next { t with reorder := t.reorder ++ [p] })) ∧
  (∀ (id : Nat) (p : Packet) (s : State), s.net.find? (fun x => x.id == id) = some p → (s.routeFailed p = true ∨ s.routeOff p = true) → exec (.meshPacketArrive id) s = .next s) ∧
  (∀ (id : Nat) (s : State), exec (.escapeDivert id) s = .next { s with net := s.net.map fun p => if p.id = id ∧ p.chan ≠ .escape ∧ s.dlt.toNat ≤ s.packetAge p ∧ s.routeFailed p = false then { p with chan := .escape } else p }) ∧
  (∀ (src dst : Nat) (s : State), exec (.linkCrcFail src dst false) s = .next (s.transient (if src < 192 then islandOf src else if src < 1000 then 16 else sliceIsland (src - 1000))) ∧
    (s.failed.contains (src, dst) = false → ∃ t, exec (.linkCrcFail src dst true) s = .next t ∧ t.failed = s.failed ++ [(src, dst)] ∧ t.mem = s.mem ∧ t.cores = s.cores)) ∧
  (∀ (id : Nat) (p : Packet) (s t : State) (b : Access), s.takeArrived id = some (p, t) → p.body = .access b → p.dst.fencedBy s = false → (∀ d, p.dst ≠ .dev d) → (∀ n, p.dst ≠ .slice n) → exec (.homeAccess id) s = .next (t.performAnswer p.dst p.src b)) ∧
  (∀ (id : Nat) (p : Packet) (s t : State) (b : Access) (n : Nat), s.takeArrived id = some (p, t) → p.body = .access b → p.dst = .slice n → let a := { b with loc := b.loc.forward s }; (∀ q o, a.loc ≠ .hbm q o) → exec (.homeAccess id) s = .next (t.performAnswer (.slice n) p.src a)) ∧
  (∀ (id : Nat) (p : Packet) (s t : State) (b : Access) (n q o : Nat), s.takeArrived id = some (p, t) → p.body = .access b → p.dst = .slice n → b.loc.forward s = .hbm q o → s.behindWb p.src b.loc = true → exec (.homeAccess id) s = .next s) ∧
  (∀ (id : Nat) (p : Packet) (s t : State) (b : Access) (n q o : Nat), s.takeArrived id = some (p, t) → p.body = .access b → p.dst = .slice n → let a := { b with loc := b.loc.forward s }; a.loc = .hbm q o → s.behindWb p.src b.loc = false → ¬ (a.loc = b.loc ∧ s.homeSlice q o ≠ n ∧ a.kind.reads = true) → let m := if a.loc = b.loc then n else s.homeSlice q o;
    ((t.slice m).fills.any (fun f => f.2 == p.src) = true → exec (.homeAccess id) s = .next s) ∧
    ((t.slice m).fills.any (fun f => f.2 == p.src) = false → let g := s.replicaGate id m q o a; let u : State := { g.1 with arrived := t.arrived };
      (g.2 = false → exec (.homeAccess id) s = .next g.1) ∧
      (g.2 = true → (s.homeRefuses a = true ∨ t.waitsFill m q o a = false) → exec (.homeAccess id) s = .next ((u.performAnswer (.slice m) p.src a).writeDone m q o a)) ∧
      (g.2 = true → s.homeRefuses a = false → t.waitsFill m q o a = true → exec (.homeAccess id) s = .next (u.setSlice m { u.slice m with fills := (u.slice m).fills ++ [(a, p.src)] })))) ∧
  (∀ (id : Nat) (p : Packet) (s t : State) (b : Access) (n q o : Nat), s.takeArrived id = some (p, t) → p.body = .access b → p.dst = .slice n → b.loc = .hbm q o → b.loc.forward s = b.loc → s.behindWb p.src b.loc = false → s.homeSlice q o ≠ n → b.kind.reads = true → exec (.homeAccess id) s = .next (t.atReplica n q o b)) ∧
  (∀ (id : Nat) (p : Packet) (s t : State) (n q o : Nat) (r : Replica) (x : AccResult) (b : Access) (u : State), s.takeArrived id = some (p, t) → p.body = .access b → p.dst = .slice n → b.loc = .hbm q o → b.loc.forward s = b.loc → s.behindWb p.src b.loc = false → t.homeRefuses b = false → s.homeSlice q o ≠ n → b.kind.reads = true → t.replicaOn (n / 16) q o = some (r, n) → r.lines.contains (n, lineOf o, b.kslot) = true → t.performAt (.slice n) (.core b.core) b = (u, some x) → exec (.homeAccess id) s = .next (u.answer (.slice n) (.core b.core) b x)) ∧
  (∀ (s : State) (id n p o : Nat) (a : Access), a.kind.writes = false → s.replicaGate id n p o a = (s, true) ∧ s.writeDone n p o a = s) ∧
  (∀ (id : Nat) (p : Packet) (s t : State) (req sl : Nat) (l : Loc), s.takeArrived id = some (p, t) → p.body = .withdraw req sl l → p.dst.fencedBy s = false → (∀ d, p.dst ≠ .dev d) → (∀ n, p.dst = .slice n → ∀ e ∈ s.slices, ∀ f ∈ e.2.fills, ¬ (f.2 = p.src ∧ f.1.req = req)) → exec (.homeAccess id) s = .next (t.withdrawn p.src req)) ∧
  (∀ (id : Nat) (p : Packet) (s t : State) (c req sl : Nat) (r : AccResult) (q : Req), s.takeArrived id = some (p, t) → p.body = .accReply req sl r → p.dst = .core c → (s.core c).fenced = false → (s.core c).req req = some q → q.isAtomic = false → exec (.loadReply id) s = .next (t.replyAccess c req r)) ∧
  (∀ (id : Nat) (p : Packet) (s t : State) (c req sl : Nat) (r : AccResult) (q : Req), s.takeArrived id = some (p, t) → p.body = .accReply req sl r → p.dst = .core c → (s.core c).fenced = false → (s.core c).req req = some q → q.isAtomic = true → exec (.atomicReply id) s = .next (t.replyAccess c req r)) ∧
  (∀ (id : Nat) (p : Packet) (s t : State) (g : Trigger) (es : List (AggElem × Nat)), s.takeArrived id = some (p, t) → p.body = .agg es g → p.dst.fencedBy s = false → (∀ d, p.dst ≠ .dev d) → (∀ n, p.dst = .slice n → s.elemsWait p.dst p.part p.src es = false ∧ s.elemsBehind p.dst p.part p.src es = false) → let w := s.elemGates id p.dst p.part es;
    (w.2 = false → exec (.aggPacketApply id) s = .next w.1) ∧
    (w.2 = true → let x := State.performElems { w.1 with arrived := t.arrived } p.dst p.part es; exec (.aggPacketApply id) s = .next (x.1.send p.dst p.src p.part .reply (.aggReply p.seq (maskOf x.2) x.2)))) ∧
  (∀ (id : Nat) (p : Packet) (s t : State) (g : Trigger) (es : List (AggElem × Nat)), s.takeArrived id = some (p, t) → p.body = .agg es g → ∀ n, p.dst = .slice n → (s.elemsWait p.dst p.part p.src es = true ∨ s.elemsBehind p.dst p.part p.src es = true) → exec (.aggPacketApply id) s = .next s) ∧
  (∀ (id : Nat) (p : Packet) (s t : State) (c q : Nat) (fs : List AggElem), s.takeArrived id = some (p, t) → p.body = .fabAgg c q fs → let es := fs.map fun e => (e, 0); (s.elemsWait p.dst p.part p.src es = true → exec (.aggPacketApply id) s = .next s) ∧
    (s.elemsWait p.dst p.part p.src es = false → let w := s.elemGates id p.dst p.part es; (w.2 = false → exec (.aggPacketApply id) s = .next w.1) ∧
      (w.2 = true → let x := State.performElems { w.1 with arrived := t.arrived } p.dst p.part es; exec (.aggPacketApply id) s = .next (x.1.sendInside p.dst p.src p.part .reply (.fabAggReply c q (maskOf x.2) x.2))))) ∧
  (∀ (s : State) (dst : Node) (part : Nat) (es : List (AggElem × Nat)), (State.performElems s dst part es).2 = (s.applyElems dst part es).2 ∧ (State.performElems s dst part es).1.mem = (s.applyElems dst part es).1.mem ∧ (s.applyElems dst part es).2.length = es.length) ∧
  (∀ (s : State) (dst : Node) (part : Nat) (e : AggElem) (k : Nat) (r : List (AggElem × Nat)), (∀ t l, s.elemLoc dst part e k = (t, .ok l) → s.applyElems dst part ((e, k) :: r) = (((t.applyElem e l).applyElems dst part r).1, 0 :: ((t.applyElem e l).applyElems dst part r).2)) ∧
    (∀ t c, s.elemLoc dst part e k = (t, .error c) → s.applyElems dst part ((e, k) :: r) = ((t.applyElems dst part r).1, c :: (t.applyElems dst part r).2) ∧ t.mem = s.mem)) ∧
  (∀ (id : Nat) (p : Packet) (s t : State) (c q : Nat) (m : W32) (cs : List Nat), s.takeArrived id = some (p, t) → p.body = .aggReply q m cs → p.dst = .core c → (s.core c).fenced = false → exec (.aggReply id) s = .next (t.aggAnswered c p.src q m cs)) ∧
  (∀ (id : Nat) (p : Packet) (s t : State) (k : Token) (c : Nat), s.takeArrived id = some (p, t) → p.body = .token k → p.dst = .core c → exec (.queueTokenArrive id) s = .next (t.tokenArrive k)) ∧
  (∀ (id : Nat) (p : Packet) (s t : State) (c : Nat) (r : Call), s.takeArrived id = some (p, t) → p.body = .call r → p.dst = .core c → let q : Call := { r with came := t.cycle c }; (t.core c).fenced = false → (∀ n, r.job = some n → (t.job n).final = false) → (t.partn r.part).clusters.contains (clusterOf c) = true → (t.core c).calls.length < 64 → ∃ l1 l2 : List Call, (t.core c).calls = l1 ++ l2 ∧ (∀ x ∈ l1, x.came = t.cycle c → x.caller.core ≤ r.caller.core) ∧ (∀ x, l2.head? = some x → x.came = t.cycle c ∧ r.caller.core < x.caller.core) ∧
    exec (.callArrive id) s = .next (t.setCore c { t.core c with calls := l1 ++ q :: l2 })) ∧
  (∀ (id : Nat) (p : Packet) (s t : State) (c : Nat) (r : Call), s.takeArrived id = some (p, t) → p.body = .call r → p.dst = .core c → let q : Call := { r with came := t.cycle c }; (t.core c).fenced = false → (∀ n, r.job = some n → (t.job n).final = false) → (t.partn r.part).clusters.contains (clusterOf c) = true → 64 ≤ (t.core c).calls.length → ∀ x, (t.core c).calls.getLast? = some x →
    (¬ (x.came = t.cycle c ∧ r.caller.core < x.caller.core) → exec (.callArrive id) s = .next (t.replyCall (.core c) q.part q.caller (refusal 1))) ∧
    (x.came = t.cycle c → r.caller.core < x.caller.core → exec (.callArrive id) s = .next ((t.setCore c { t.core c with calls := (putCall q (t.core c).calls).dropLast }).replyCall (.core c) x.part x.caller (refusal 1)))) ∧
  (∀ (id : Nat) (p : Packet) (s t : State) (c : Nat) (r : Call), s.takeArrived id = some (p, t) → p.body = .call r → p.dst = .core c → let q : Call := { r with came := t.cycle c }; ((t.core c).fenced = true → exec (.callArrive id) s = .next (t.replyCall (.core c) q.part q.caller (refusal 6))) ∧ (∀ n, (t.core c).fenced = false → r.job = some n → (t.job n).final = true → exec (.callArrive id) s = .next t) ∧ ((t.core c).fenced = false → (∀ n, r.job = some n → (t.job n).final = false) → (t.partn r.part).clusters.contains (clusterOf c) = false → exec (.callArrive id) s = .next (t.replyCall (.core c) q.part q.caller (refusal 2)))) ∧
  (∀ (id : Nat) (p : Packet) (s t : State) (c req sl : Nat) (v : W64), s.takeArrived id = some (p, t) → p.body = .callReply req sl v → p.dst = .core c → exec (.callReply id) s = .next (t.callReply c req v)) ∧
  (∀ (id : Nat) (p : Packet) (s t : State) (n : Nat) (q : PhloxTrig), s.takeArrived id = some (p, t) → p.body = .amsg q → p.dst = .slice n → exec (.amsgTriggerArrive id) s = .next (t.triggerArrive n q)) ∧
  (∀ (id : Nat) (p : Packet) (s t : State) (c k : Nat) (m : Migration), s.takeArrived id = some (p, t) → p.body = .migrate m → p.dst = .core c → (s.core c).fenced = false → (∀ n, m.strand.job = some n → (t.job n).st < 4) → (t.core c).inbox = [] → t.freeSlot c = some k → exec (.migrationArrive id) s = .next ((t.arriveStrand c k m).send (.core c) (.core m.origin) p.part .reply (.migrateAns m.originSlot true))) ∧
  (∀ (id : Nat) (p : Packet) (s t : State) (c : Nat) (m : Migration), s.takeArrived id = some (p, t) → p.body = .migrate m → p.dst = .core c → (s.core c).fenced = false → (∀ n, m.strand.job = some n → (t.job n).st < 4) → ((t.core c).inbox ≠ [] ∨ t.freeSlot c = none) → exec (.migrationArrive id) s = .next (if 4 ≤ (t.core c).inbox.length then t.send (.core c) (.core m.origin) p.part .reply (.migrateAns m.originSlot false)
    else (t.setCore c { t.core c with inbox := (t.core c).inbox ++ [m] }).send (.core c) (.core m.origin) p.part .reply (.migrateAns m.originSlot true))) ∧
  (∀ (id : Nat) (p : Packet) (s t : State) (c j : Nat) (m : Migration), s.takeArrived id = some (p, t) → p.body = .migrate m → p.dst = .core c → (s.core c).fenced = false → m.strand.job = some j → 4 ≤ (t.job j).st → exec (.migrationArrive id) s = .next ((t.leftGang m.strand).send (.core c) (.core m.origin) p.part .reply (.migrateAns m.originSlot true))) ∧
  (∀ (id : Nat) (p : Packet) (s t : State) (c : Nat), s.takeArrived id = some (p, t) → p.dst = .core c → (s.core c).fenced = true → exec (.fencedPacket id) s = .next (t.fencedAnswer c p)) ∧
  (∀ (id : Nat) (p : Packet) (s t : State) (req sl : Nat) (r : AccResult), s.takeArrived id = some (p, t) → p.body = .accReply req sl r → p.dst = .iod → (∀ e ∈ s.jobs, e.2.adding ≠ some req) → exec (.hostLineAck id) s = .next (let u : State := { t with hostOpen := t.hostOpen.filter fun o => o.2 != req }; u.hostPump u.hostQ.length))

/-- 17 R328, 17 R330, 17 R333, 17 R337, 17 R338, 20 R380, 20 R381, 24 R422. A filled line takes the accesses that waited for it:
none of them waits on, a load among them is answered with the bytes at its home, and the slice holds the line; the bytes of a
copied page stand at its destination and no others change, and a page with bytes out of use is not moved (log 41); a line of
HBM that leaves its slice loses the S of its words and one of slice memory stays; a replica drops the lines it was asked to
and acknowledges; one of the first eight walks of a cluster (which one is a free value, log 3) reads its entries, which no
failed link or waiting line holds back, and ends in a translation or fails; PTS advances by one each 128 cycles; the counts of
a slice begin again at each millisecond; a first error of a read is counted, in the quadrant of the line's home slice by the
model's choice (log 20), and a lasting one retires its page and is recorded as a fault of a slice's memory or of HBM; of a
walk's entries it fails the walk and is recorded with the last one's address (log 3); the records fill 16 places and then
overflow. -/
def Obligations.MemorySystemEvents : Prop :=
  (∀ (part line : Nat) (s : State), part < 64 → line % 64 = 0 → s.hbmOff (s.homeSlice part line) = false → exec (.hbmFill part line) s = .next (let t := s.fillLine (s.homeSlice part line) part line; t.hostPump t.hostQ.length)) ∧
  (∀ (n part o : Nat) (s : State), o % 64 = 0 → let t := s.fillLine n part o; (t.slice n).fills = (s.slice n).fills.filter (fun f => !f.1.loc.onLine part o) ∧ (∀ f ∈ (t.slice n).fills, f.1.loc.onLine part o = false) ∧
    (o < 2 ^ 41 → (∀ f ∈ (s.slice n).fills, f.1.loc.onLine part o = true → ∀ m, f.2 ≠ .slice m) → ∃ e ∈ (t.slice n).lines, e.1 = part ∧ e.2.1 = o)) ∧
  (∀ (n part o : Nat) (a : Access) (src : Node) (s : State), (∀ m, src ≠ .slice m) → (∀ m, src ≠ .csm m) → a.loc = .hbm part o → a.kind = .load → a.kslot = 0 → (s.homeRefuses a || s.markedFor (askedBy src a) a) = false → ∃ p ∈ (s.performAnswer (.slice n) src a).onTheWay, p.src = .slice n ∧ p.dst = src ∧ p.body = .accReply a.req a.slot (.data (s.homeRead a.loc a.size 0 a.va.toNat) false)) ∧
  (∀ (part line n : Nat) (s : State), part < 64 → line % 64 = 0 → line < 2 ^ 41 → n = s.homeSlice part line → s.hbmOff n = false → exec (.sliceEvict part line) s = .next ((s.setSlice n { s.slice n with lines := (s.slice n).lines.filter (fun e => !(e.1 == part && e.2.1 == line)) }).clearS (.hbm part line) 64)) ∧
  (∀ (part line : Nat) (s : State), part < 64 → 2 ^ 41 ≤ line → exec (.sliceEvict part line) s = .next s) ∧
  (∀ (part region slice : Nat) (s : State), part < 64 → slice < Config.slices → s.islandOff (sliceIsland slice) = false → exec (.replicaInvalAck part region slice) s = .next (s.setPartn part { s.partn part with replicas := (s.partn part).replicas.map fun r => if r.region = region then { r with lines := r.lines.filter (fun e => !(e.1 == slice && r.asked.contains (e.1, e.2.1))), asked := r.asked.filter (fun e => e.1 != slice) } else r })) ∧
  (∀ (cl : Nat) (w : Walk) (e : TlbEntry) (s t : State), cl < Config.clusters → s.islandOff (islandOf cl) = false → s.someWalk cl = (some w, t) → t.walkCut (.csm cl) w.part w.va = false → (∀ o ∈ t.walkReads w.part w.va, t.lineBusy w.part o = false) → let v := t.noteWalk (.csm cl) w.part w.va; v.walk w.part w.va = some e → exec (.pageWalkDone cl) s = .next ((v.setCluster cl { v.cluster cl with tlb := tlbAdd (v.cluster cl).tlb 16384 e }).endWalk cl w fun x u => u.setCore x.core { u.core x.core with l1tlb := tlbAdd (u.core x.core).l1tlb 1024 e })) ∧
  (∀ (cl : Nat) (w : Walk) (s t : State), cl < Config.clusters → s.islandOff (islandOf cl) = false → s.someWalk cl = (some w, t) → t.walkCut (.csm cl) w.part w.va = false → (∀ o ∈ t.walkReads w.part w.va, t.lineBusy w.part o = false) → let v := t.noteWalk (.csm cl) w.part w.va; v.walk w.part w.va = none → exec (.pageWalkDone cl) s = .next (v.failWalk cl w)) ∧
  (∀ (cl : Nat) (s : State), (∀ w, (s.cluster cl).walks = [w] → s.someWalk cl = (some w, s)) ∧ ((s.cluster cl).walks ≠ [] → ∃ w ∈ (s.cluster cl).walks.take 8, ∃ t, s.someWalk cl = (some w, t))) ∧
  (∀ (cl : Nat) (ok : Bool) (w : Walk) (s t : State), cl < Config.clusters → s.islandOff (islandOf cl) = false → s.someWalk cl = (some w, t) → (∀ o, (s.walkReads w.part w.va).getLast? = some o → exec (.walkerReadError cl ok) s = .next (if ok = true then s.transient (islandOf cl) else (t.failWalk cl w).lastingFault w.part (BitVec.ofNat 64 (s.devid.toNat * 2 ^ 43 + o)) (s.readKind w.part o))) ∧
    (s.walkReads w.part w.va = [] → exec (.walkerReadError cl ok) s = .next s)) ∧
  (∀ (core : Nat) (s : State), core < Config.cores → s.coreStopped core = false → (s.core core).ptsDue ≤ s.cycle core → exec (.ptsTick core) s = .next (s.setCore core { s.core core with pts := (s.core core).pts + 1, ptsDue := (s.core core).ptsDue + 128 })) ∧
  (∀ (slice : Nat) (s : State), slice < Config.slices → s.islandOff (sliceIsland slice) = false → (s.slice slice).hotDue ≤ s.gtime.toNat → ∃ t, exec (.hotWindow slice) s = .next t ∧ (t.slice slice).hot = [] ∧ s.gtime.toNat < (t.slice slice).hotDue ∧ (t.slice slice).hotDue % 1000000 = 0 ∧ t.mem = s.mem) ∧
  (∀ (part pa : Nat) (s : State), part < 64 → s.hbmOff (s.homeSlice part (pa % 2 ^ 43)) = false → exec (.memoryReadError part pa true) s = .next (s.transient (sliceIsland (s.homeSlice part (pa % 2 ^ 43))))) ∧
  (∀ (part pa o : Nat) (s : State), part < 64 → o = pa % 2 ^ 43 → s.hbmOff (s.homeSlice part o) = false → s.isRetired part o = false → exec (.memoryReadError part pa false) s = .next (({ s with retired := s.retired ++ [(part, o / 4096)] } : State).lastingFault part (BitVec.ofNat 64 (s.devid.toNat * 2 ^ 43 + o)) (s.readKind part o))) ∧
  (∀ (core : Nat) (s : State), core < Config.cores → s.coreStopped core = false → exec (.accEccError core true) s = .next (s.transient (islandOf (clusterOf core)))) ∧
  (∀ (core : Nat) (c : MeCmd) (r : List MeCmd) (s : State), core < Config.cores → s.coreStopped core = false → (s.core core).meQueue = c :: r → (s.core core).meBusy = true → c.dead = false → exec (.accEccError core false) s = .next ((s.meInner core c 4).lastingFault c.who.part (w64 core) 5)) ∧
  (∀ (part : Nat) (s : State), part < 64 → let m := (s.partn part).pm; m.st = 1 → (∀ n ∈ (s.partn part).slices, s.hbmOff n = false) →
    (s.anyRetired part m.src m.len = false → s.anyRetired part m.dst m.len = false → exec (.pageCopyDone part) s = .next (s.pageCopy part)) ∧
    ((s.anyRetired part m.src m.len = true ∨ s.anyRetired part m.dst m.len = true) → exec (.pageCopyDone part) s = .next (s.setPartn part { s.partn part with pm := { m with st := 0, err := true } }))) ∧
  (∀ (part : Nat) (s : State), Memory.wf s.mem = true → let m := (s.partn part).pm; let u := s.pageFills part m.src m.len; let t := s.pageCopy part; (t.partn part).pm = { m with st := 2 } ∧ (∀ x, x < m.len → t.readAt (.hbm part (m.dst + x)) 1 = u.readAt (.hbm part (m.src + x)) 1) ∧
    (∀ k, (k < (Loc.hbm part m.dst).key ∨ (Loc.hbm part m.dst).key + m.len ≤ k) → memRead t.mem k = memRead u.mem k) ∧ ((∀ e ∈ s.slices, ∀ f ∈ e.2.fills, ∀ o, f.1.loc = .hbm part o → ¬ (m.src ≤ o ∧ o < m.src + m.len)) → u = s)) ∧
  (∀ (s : State) (part o : Nat), (2 ^ 41 ≤ o → s.readKind part o = 2) ∧ (∀ e ∈ (s.slice (s.homeSlice part o)).lines, e.1 = part → e.2.1 = o / 64 * 64 → s.readKind part o = 2) ∧ (o < 2 ^ 41 → (∀ e ∈ (s.slice (s.homeSlice part o)).lines, e.1 = part → e.2.1 ≠ o / 64 * 64) → s.readKind part o = 1)) ∧
  (∀ (s : State) (part : Nat) (a b : W64), let p := s.partn part; let n := p.lfcnt.toNat % 32; (n < 16 → let q := (s.lastingFault part a b).partn part; q.lfcnt = p.lfcnt + 1 ∧ vget q.lfrecs n {} = { w0 := a, w1 := b } ∧ ∀ m, m ≠ n → m < 16 → vget q.lfrecs m {} = vget p.lfrecs m {}) ∧ (16 ≤ n → ((s.lastingFault part a b).partn part).lfcnt = p.lfcnt ||| 0x100 ∧ ((s.lastingFault part a b).partn part).lfrecs = p.lfrecs))

/-- 06 R152, 08 R209, 08 R225, 08 R231, 12 R284, 12 R285, 20 R375, 20 R378, 20 R379. A wait of a strand ends when its cycle or
time has come: the strand runs again, or its request is withdrawn or sent again; a buffer whose age has come is sent; a
released slot is offered; a missed heartbeat fences the core and faults its job, and where none is missed the step leaves the
state as it is, as every step of the device does without its trigger (log 14, the model's reading); FCSR, HBI and AGAGE
written from outside take the value CRWR would give them; a queue is enabled empty with its fields, keeps them while enabled,
and is emptied when disabled. -/
def Obligations.CoreEvents : Prop :=
  (∀ (core slot t : Nat) (s : State), core < Config.cores → slot < 16 → (s.slotOf core slot).st = .waiting (.extended t) → t ≤ s.cycle core → exec (.delayedCompletion core slot) s = .next (s.setSlot core slot { s.slotOf core slot with st := .ready, delayDone := true })) ∧
  (∀ (core slot id l : Nat) (q : Req) (a : Access) (s : State), core < Config.cores → slot < 16 → s.coreStopped core = false → (s.slotOf core slot).st = .parked (.syncWait id) → (s.core core).req id = some q → q.acc = some a → q.limit = some l → q.withdrawn = false → l ≤ s.cycle core → exec (.syncWaitExpire core slot) s = .next (let t := s.setCore core { s.core core with reqs := (s.core core).reqs.map fun x => if x.id = id then { x with withdrawn := true } else x }; t.send (.core core) (t.waiterHome a id) a.part .request (.withdraw id slot a.loc))) ∧
  (∀ (core slot id t : Nat) (q : Req) (a : Access) (s : State), core < Config.cores → slot < 16 → s.coreStopped core = false → (s.slotOf core slot).st = .parked (.syncBusy id t) → (s.core core).req id = some q → q.acc = some a → t ≤ s.cycle core → exec (.syncBusyRetry core slot) s = .next (s.sendAgain core slot id a)) ∧
  (∀ (core buf : Nat) (s : State), core < Config.cores → buf < 16 → s.coreStopped core = false → s.ageDue core buf = true → exec (.aggAgeSend core buf) s = .next (s.aggPush core buf .age)) ∧
  (∀ (core b : Nat) (g : Trigger) (s : State), core < Config.cores → s.coreStopped core = false → (s.core core).sent.length < 64 → (s.core core).sendingBuf = some (b, g) → exec (.aggSendResume core) s = .next (((s.aggSend core b g).getD s).wakeHeld core .send)) ∧
  (∀ (core slot id a : Nat) (l : Nat) (q : Req) (k : Token) (s : State), core < Config.cores → slot < 16 → s.coreStopped core = false → (s.slotOf core slot).st = .parked (.qenqRetry id a l) → a ≤ s.cycle core → (s.core core).req id = some q → q.tok = some k → exec (.qenqRetry core slot) s = .next ((s.setSlot core slot { s.slotOf core slot with st := .parked (.qenq id l) }).send (.core core) (s.queueNode k.handle) k.part .request (.token k))) ∧
  (∀ (core slot l : Nat) (q : Nat) (s : State), core < Config.cores → slot < 16 → s.coreStopped core = false → (s.slotOf core slot).st = .parked (.qdeq q l) → l ≤ s.cycle core → exec (.queueWaitExpire core slot) s = .next (s.wake core slot)) ∧
  (∀ (core : Nat) (t : State) (s : State), core < Config.cores → s.coreStopped core = false → s.offerSlot core = some t → exec (.slotOffer core) s = .next t) ∧
  (∀ (core slot t : Nat) (s : State), core < Config.cores → slot < 16 → s.coreStopped core = false → (s.slotOf core slot).st = .parked (.spill t) → t ≤ s.cycle core → exec (.dequeSpillDone core slot) s = .next (s.wake core slot)) ∧
  (∀ (core slot l : Nat) (o : List Nat) (s : State), core < Config.cores → slot < 16 → s.coreStopped core = false → (s.slotOf core slot).st = .waiting (.yield o l) →
    exec (.yieldEnd core slot) s = .next (if s.yieldLeft core o (l - 16) = [] ∨ l ≤ s.cycle core then s.wake core slot else s.setSlot core slot { s.slotOf core slot with st := .waiting (.yield (s.yieldLeft core o (l - 16)) l) })) ∧
  (∀ (core slot : Nat) (t : W64) (s : State), core < Config.cores → slot < 16 → s.coreStopped core = false → (s.slotOf core slot).st = .parked (.gtime t) → s.gtime.ult t = false → exec (.waittRelease core slot) s = .next (s.wake core slot)) ∧
  (∀ (core slot n : Nat) (s : State), core < Config.cores → slot < 16 → s.heartMissed core slot = true → (s.strandOf core slot).job = some n → exec (.heartbeatMiss core slot) s = .next ((s.fenceCore core (some n)).faultJob n)) ∧
  (∀ (core slot : Nat) (s : State), s.heartMissed core slot = false → core < Config.cores → slot < 16 → exec (.heartbeatMiss core slot) s = .next s) ∧
  (∀ (core slot : Nat) (v : W64) (s : State), core < Config.cores → slot < 16 → (s.slotOf core slot).st = .ready → let x := s.strandOf core slot; exec (.fcsrWrite core slot v) s = .next (s.setStrandOf core slot (x.crWrite x.priv 0x000 v))) ∧
  (∀ (core slot : Nat) (v : W64) (s : State), core < Config.cores → slot < 16 → (s.slotOf core slot).st = .ready → let x := s.strandOf core slot; exec (.hbiWrite core slot v) s = .next (s.setStrandOf core slot (x.crWrite true 0x041 v))) ∧
  (∀ (core slot : Nat) (v : W64) (s : State), core < Config.cores → slot < 16 → (s.slotOf core slot).st = .ready → let x := s.strandOf core slot; exec (.agageWrite core slot v) s = .next (s.setStrandOf core slot (x.crWrite true 0x042 v))) ∧
  (∀ (core : Nat) (q : BV3) (v : W64) (s : State), core < Config.cores → ((s.core core).queue q.toNat).en = false → (v.extractLsb' 4 4).toNat ≤ 8 → v.extractLsb' 4 4 ≠ 0 → v.extractLsb' 2 2 ≠ 3 → let x := (s.core core).queue q.toNat;
    exec (.qcfgEnable core q v) s = .next (s.setCore core ((s.core core).setQueue q.toNat { x with en := true, base := v.extractLsb' 8 10, cls := v.getLsbD 1, logn := v.extractLsb' 4 4, slotSz := v.extractLsb' 2 2, head := 0, tail := 0, tokens := [], waiting := [] }))) ∧
  (∀ (core : Nat) (q : BV3) (v : W64) (s : State), core < Config.cores → ((s.core core).queue q.toNat).en = true → exec (.qcfgEnable core q v) s = .next s ∧
    ∃ t, exec (.qcfgDisable core q v) s = .next t ∧ t.mem = s.mem ∧ ((t.core core).queue q.toNat).en = false ∧ ((t.core core).queue q.toNat).tokens = [] ∧ ((t.core core).queue q.toNat).waiting = [])

/-- 08 R195, 08 R197, 08 R204, 08 R205, 08 R206, 08 R207, 10 R249, 10 R250, 14 R301, 14 R304, 20 R383, 20 R386. The oldest matrix
command starts, after its acquire; an MWAIT behind an incomplete MSTA of its strand leaves the engine at once; each link
places 64 bytes of a tile at a time, then MRING does, and a tile is in the latch with its last byte; an MMA takes the next
step with its oldest tile, adding its block products to the accumulators, with sub-code 3 for a tile of another size and 2 for
metadata that cannot be, hands used tiles on to the next core's latch while that has a free half, drops them with a fault of
its own where that core is lost, and a rotate copies its operand west; a command leaves the engine when it is done; a transfer
command starts in the order of its tag, makes its accesses one by one, one with each event by the model's choice (log 26): an
index, a unit of 8 bytes or one read from its source, that unit written at its destination, or a pattern and then its F/E
action, each shown in the own LM, and the address that fails is recorded with its tag faulted, where a copy or a fill stops
and an indexed command goes on with its next element, and is removed after its release; a probe that finds no entry is
answered with none, one that finds an entry takes it off the victim's deque, and it is sent with its frame once all that was
written before is acknowledged and written back; the handler of a unit goes on by an instruction with each event (log 18, the
model's reading), then released and then new requests are taken: bound ones run, others wait among 16 or are refused, none
before the cycle after a handler's end. A step whose trigger does not hold leaves the state as it is (log 14, the model's
reading). -/
def Obligations.EngineStealAndHandlerEvents : Prop :=
  (∀ (core : Nat) (c : MeCmd) (r : List MeCmd) (s : State), core < Config.cores → s.coreStopped core = false → (s.core core).meQueue = c :: r → (s.core core).meBusy = false → c.wait = none → (∀ q ∈ (s.core core).meLate, c.isWait = true → q.sid ≠ c.sid) →
    ((∀ sc k a b, c.op = .mlda sc k a b → c.dead = true ∨ sc = .core) → exec (.meCommandStart core) s = .next (s.setCore core { s.core core with meBusy := true })) ∧
    (∀ sc k a b, c.op = .mlda sc k a b → c.dead = false → sc ≠ .core → s.engQuiet c.sid = (s, true) → let t := s.cacheAcquire core sc; exec (.meCommandStart core) s = .next (t.setCore core { t.core core with meBusy := true }))) ∧
  (∀ (core : Nat) (t : TileIn) (s : State), core < Config.cores → s.coreStopped core = false → (s.core core).tileIn = [t] → (s.core core).meQueue = [] →
    (t.left ≤ 1 → exec (.latchTileArrive core) s = .next ((s.setCore core { s.core core with tileIn := [], latch := (s.core core).latch ++ [t.tile] }).handOnEnds t.src core)) ∧
    (1 < t.left → exec (.latchTileArrive core) s = .next (s.setCore core { s.core core with tileIn := [{ t with left := t.left - 1 }] }))) ∧
  (∀ (core : Nat) (s : State), core < Config.cores → s.coreStopped core = false → exec (.latchTileArrive core) s = .next (((s.core core).tileIn.foldl (fun u t => u.linkUnit core t) s).ringStep core)) ∧
  (∀ (core : Nat) (c : MeCmd) (r : List MeCmd) (a : W64) (units hop count : Nat) (s : State), core < Config.cores → s.coreStopped core = false → (s.core core).tileIn = [] → (s.core core).meQueue = c :: r → c.op = .mring a units hop count → (s.core core).meBusy = true → c.dead = false → c.progress < count →
    (c.sub = 0 → (s.core core).latchUsed < 2 ∧ s.upstreamWaits core = false) → let va := a + BitVec.ofNat 64 ((c.progress * units + c.sub) * 64); s.meHeld core c va 64 = false →
    let bs := c.held.headD [] ++ s.readAt (.lm core ((s.ownLm c.who va).getD 0)) 64;
    exec (.latchTileArrive core) s = .next (if c.sub + 1 < units then s.setHead core { c with sub := c.sub + 1, held := [bs] }
      else (s.setCore core { s.core core with latch := (s.core core).latch ++ [{ bytes := bs, hop := hop }] }).setHead core { c with progress := c.progress + 1, sub := 0, held := [] })) ∧
  (∀ (core : Nat) (c : MeCmd) (r : List MeCmd) (p : Option (MxFmt × MxFmt)) (base m n : Nat) (ga gs : W64) (fl : MmaFl) (s : State), core < Config.cores → s.coreStopped core = false → (s.core core).meQueue = c :: r → c.op = .mma p base m n ga gs fl → (s.core core).meBusy = true → c.progress < n / 16 → (c.readsNext n fl && s.meBlocked core c p m ga gs fl) = false →
    (∀ t u, (s.core core).latch = t :: u → exec (.mmaTile core) s = .next (s.useTile core c p base m n ga gs fl t)) ∧ ((s.core core).latch = [] → ¬ (fl = .rot ∧ s.meBlocked core c p m ga gs fl = true) → exec (.mmaTile core) s = .next (s.lostTile core c p m n ga gs fl))) ∧
  (∀ (core : Nat) (c : MeCmd) (p : Option (MxFmt × MxFmt)) (base m n : Nat) (ga gs : W64) (fl : MmaFl) (t : Tile) (s : State), (c.dead = true → s.useTile core c p base m n ga gs fl t = s.passTile core c p m n ga gs fl t) ∧
    (c.dead = false → t.bytes.length ≠ MmaPair.tile p → s.useTile core c p base m n ga gs fl t = (s.meInner core c 3).passTile core c p m n ga gs fl t) ∧
    (c.dead = false → t.bytes.length = MmaPair.tile p → let kv := min c.eng.kvalid.toNat (MmaPair.k p); let raw := if c.held.isEmpty = true then s.rawA c p m ga gs fl else c.held;
      (c.rowsA p m fl kv raw = none → s.useTile core c p base m n ga gs fl t = (s.meInner core c 2).passTile core c p m n ga gs fl t) ∧
      (∀ rows, c.rowsA p m fl kv raw = some rows → let u := s.setCore core { s.core core with acc := accStep (s.core core).acc p base n c.progress kv c.sub rows t.bytes };
        (MmaPair.steps p ≤ c.sub + 1 → s.useTile core c p base m n ga gs fl t = u.passTile core c p m n ga gs fl t) ∧
        (c.sub + 1 < MmaPair.steps p → s.useTile core c p base m n ga gs fl t = u.setHead core { c with sub := c.sub + 1, held := raw })))) ∧
  (∀ (core : Nat) (s : State), core < Config.cores → s.coreStopped core = false → let q := (s.core core).handOn.find? (fun h => !h.going && (s.handOnLost h || s.handOnFree core h)); (q = none → exec (.tileHandOn core) s = .next s) ∧
    (∀ h, q = some h → s.handOnLost h = true → exec (.tileHandOn core) s = .next ((s.setCore core { s.core core with handOn := (s.core core).handOn.filter fun x => x.id != h.id }).ringFaults core h.gid)) ∧
    (∀ h, q = some h → s.handOnLost h = false → let u := s.setCore core { s.core core with handOn := (s.core core).handOn.map fun x => if x.id = h.id then { x with going := true } else x };
      exec (.tileHandOn core) s = .next (u.setCore h.dst { u.core h.dst with tileIn := (u.core h.dst).tileIn ++ [{ tile := h.tile, src := core, left := (h.tile.bytes.length + 63) / 64 }] }))) ∧
  (∀ (core : Nat) (h : HandOn) (s : State), (s.handOnLost h = true ↔ (s.core h.dst).fenced = true ∨ (2 ≤ (s.core h.dst).latchUsed ∧ s.lostTo h.gid h.dst = true)) ∧
    (s.handOnFree core h = true ↔ (∀ x ∈ (s.core core).handOn, x.going = true → x.dst ≠ h.dst) ∧ (s.core h.dst).latchUsed < 2)) ∧
  (∀ (core : Nat) (x : RotCopy) (r : List RotCopy) (s : State), core < Config.cores → s.coreStopped core = false → (s.core core).rotOut = x :: r → let t := s.setCore core { s.core core with rotOut := r };
    (s.lostTo x.gid x.dst = true → exec (.rotateCopy core) s = .next t) ∧
    (∀ c, s.lostTo x.gid x.dst = false → s.awaitsCopy x.dst = some c → exec (.rotateCopy core) s = .next ((x.img.foldl (fun u y => u.writeAt (.lm x.dst y.1) y.2) t).setHead x.dst { c with rotated := true }))) ∧
  (∀ (core : Nat) (s : State), core < Config.cores → s.coreStopped core = false → (∀ t, (s.core core).meLate.findSome? (s.lateStep core) = some t → exec (.meCommandDone core) s = .next t) ∧
    (∀ c r, (s.core core).meLate = [] → (s.core core).meQueue = c :: r → (s.core core).meBusy = true →
      exec (.meCommandDone core) s = .next (if c.done || c.lastLeft then s.meLeaves core c else s.meElem core c)) ∧
    ((s.core core).meLate = [] → (s.core core).meBusy = false → exec (.meCommandDone core) s = .next s)) ∧
  (∀ (core : Nat) (c : MeCmd) (base n : Nat) (s : State), c.op = .mzero base n → s.meElem core c = (s.setAcc core (base + c.progress) {}).setHead core { c with progress := c.progress + 1 }) ∧
  (∀ (core idx : Nat) (c : TeCmd) (s : State), core < Config.cores → s.coreStopped core = false → (s.core core).teQueue[idx]? = some c →
    (c.started = false → s.tagWaits core idx c = true → exec (.teCommandDone core idx) s = .next s) ∧
    (c.started = false → s.tagWaits core idx c = false → c.acquire = .core → exec (.teCommandDone core idx) s = .next (s.setTe core idx { c with started := true })) ∧
    (c.started = true → c.written = false → exec (.teCommandDone core idx) s = .next (s.teUnit core idx c)) ∧
    (c.started = true → c.written = true → (c.failed = true ∨ c.release = .core) → exec (.teCommandDone core idx) s = .next (((s.setCore core { s.core core with teQueue := (s.core core).teQueue.eraseIdx idx }).wakeHeld core .teDone).wakeHeld core .scoreboard))) ∧
  (∀ (core : Nat) (s : State), core < Config.cores → s.coreStopped core = false → exec (.stealProbe core) s = .next (s.stealProbe core) ∧
    (∀ n k v, (s.core core).steal.slot = none → (s.core core).steal.pause = none → (s.core core).inbox = [] → s.claimed core = false → s.stealJob core = some n → s.freeSlot core = some k → (s.victims core n)[(s.core core).steal.pos]? = some v →
      exec (.stealProbe core) s = .next (((s.setSlot core k { s.slotOf core k with st := .reserved false, vregs := (s.job n).vcount }).setSteal core { (s.core core).steal with slot := some k }).send (.core core) v (s.job n).part .request (.probe n core)))) ∧
  (∀ (id : Nat) (p : Packet) (s t : State) (job thief : Nat), s.takeArrived id = some (p, t) → p.body = .probe job thief → p.dst.fencedBy s = false →
    (t.victimOf p.dst job thief = none → exec (.stealProbeAnswer id) s = .next (t.send p.dst (.core thief) p.part .reply .noEntry)) ∧
    (∀ c, t.victimOf p.dst job thief = some c → exec (.stealProbeAnswer id) s = .next ((t.giveEntry p.dst c thief p.part).getD (s.aggPushAll c .release fun b => b.dest.isSome)))) ∧
  (∀ (id : Nat) (p : Packet) (s t : State) (c : Nat), s.takeArrived id = some (p, t) → p.body = .noEntry → p.dst = .core c → exec (.stealProbeAnswer id) s = .next (t.stealNothing c)) ∧
  (∀ (id c : Nat) (g : StealGive) (s : State), s.takeArrived id = none → s.giver id = some (c, g) → (s.coreStopped c = false → s.ackedAll c g = true → exec (.stealProbeAnswer id) s = .next (s.sendCopy c g)) ∧ ((s.coreStopped c = true ∨ s.ackedAll c g = false) → exec (.stealProbeAnswer id) s = .next s)) ∧
  (∀ (id : Nat) (p : Packet) (s t : State) (c : Nat) (e : DequeEntry) (img : List (Nat × List Byte)), s.takeArrived id = some (p, t) → p.body = .stealCopy e img → p.dst = .core c → exec (.stealCopyDone id) s = .next (if (s.core c).fenced = true then s else t.finishSteal c e img)) ∧
  (∀ (core t : Nat) (s : State), core < Config.cores → s.coreStopped core = false → (s.core core).steal.pause = some t → exec (.stealPauseEnd core) s = .next (if s.cycle core < t then s else s.setSteal core { (s.core core).steal with pause := none })) ∧
  (∀ (slice : Nat) (s : State), slice < Config.slices → s.islandOff (sliceIsland slice) = false → let c := s.slice slice; (∀ r, c.run = some r → exec (.handlerRun slice) s = .next (s.rvNext slice r)) ∧
    (∀ t l, c.run = none → c.ready = t :: l → s.heldPart t.part = false → s.entryOpen slice = true → exec (.handlerRun slice) s = .next ((s.setSlice slice { c with ready := l }).runHandler slice t)) ∧
    (∀ t r, c.run = none → c.ready = [] → c.queue = .trig t :: r → s.heldPart t.part = false → s.entryOpen slice = true → let u := s.setSlice slice { c with queue := r };
      exec (.handlerRun slice) s = .next (if c.bound.getLsbD t.index then u.runHandler slice t else if 16 ≤ c.pending.length then u.phloxReply slice t (refusal 4) else u.setSlice slice { c with queue := r, pending := c.pending ++ [t] }))) ∧
  (∀ (slice part i pa len : Nat) (r : List PhloxEntry) (s : State), slice < Config.slices → s.islandOff (sliceIsland slice) = false → (s.slice slice).queue = .bind part i pa len :: r → (s.slice slice).run = none → (s.slice slice).ready = [] → s.heldPart part = false → s.entryOpen slice = true → exec (.bindEntry slice) s = .next ((s.setSlice slice { s.slice slice with queue := r }).bindEntry slice part i pa len)) ∧
  (∀ (core : Nat) (c : MeCmd) (r : List MeCmd) (s : State), core < Config.cores → s.coreStopped core = false → (s.core core).meQueue = c :: r → (s.core core).meBusy = false → c.wait = none → c.op = .mwait → (∃ q ∈ (s.core core).meLate, q.sid = c.sid) →
    exec (.meCommandStart core) s = .next (s.setCore core { s.core core with meQueue := r, meLate := (s.core core).meLate ++ [c] })) ∧
  (∀ (c : Nat) (g : StealGive) (s : State), let t := s.cacheRelease c .pk; let d : State := t.setCore c { t.core c with giving := (t.core c).giving.filter fun x => x.id != g.id }; s.copyFails c g.thief = false →
    (t.writesWait g.part = true → s.sendCopy c g = t) ∧ (∀ img, t.writesWait g.part = false → t.copyImage c g.entry = some img → s.sendCopy c g = d.send (.core c) (.core g.thief) g.part .request (.stealCopy g.entry img))) ∧
  (∀ (core idx o : Nat) (c : TeCmd) (s : State), c.who.core = core → c.io = {} → o < Config.lmBytes → c.byIndex = true → c.idx = none → c.b + BitVec.ofNat 64 (c.row * c.idxSize) = ownLmBase + BitVec.ofNat 64 o → s.teUnit core idx c = (s.nearTime core).setTe core idx { c with idx := some (leNat (s.readAt (.lm core o) c.idxSize)) }) ∧
  (∀ (core idx o : Nat) (c : TeCmd) (s : State), c.who.core = core → c.io = {} → o < Config.lmBytes → (c.byIndex = true → c.idx ≠ none) → c.kind ≠ .fill → c.buf = none → let x := c.src + BitVec.ofNat 64 c.n; let u := unitOf x (c.dst + BitVec.ofNat 64 c.n) (c.len - c.n); x = ownLmBase + BitVec.ofNat 64 o → s.teUnit core idx c = (s.nearTime core).setTe core idx { c with buf := some (s.readAt (.lm core o) u) }) ∧
  (∀ (core idx o : Nat) (c : TeCmd) (bs : List Byte) (s : State), c.who.core = core → c.io = {} → o < Config.lmBytes → (c.byIndex = true → c.idx ≠ none) → c.kind ≠ .fill → c.buf = some bs → c.dst + BitVec.ofNat 64 c.n = ownLmBase + BitVec.ofNat 64 o → s.teUnit core idx c = ((s.nearTime core).writeAt (.lm core o) bs).setTe core idx (c.moved bs.length)) ∧
  (∀ (core idx o : Nat) (c : TeCmd) (s : State), c.who.core = core → c.io = {} → o < Config.lmBytes → c.kind = .fill → let y := c.dst + BitVec.ofNat 64 c.n; let u := unitOf y y (c.len - c.n); y = ownLmBase + BitVec.ofNat 64 o → (c.buf = none → s.teUnit core idx c = ((s.nearTime core).writeAt (.lm core o) (c.pattern y u)).setTe core idx (if c.action = 0 then c.moved u else { c with buf := some [] })) ∧
    (∀ b, c.buf = some b → s.retry = [] → s.teUnit core idx c = ((s.setFull (.lm core o) (c.action == 2)).nearTime core).setTe core idx (c.moved 8))) ∧
  (∀ (core idx : Nat) (c : TeCmd) (cause : Nat) (a : W64) (s : State), c.io.req = none → (let i := c.b + BitVec.ofNat 64 (c.row * c.idxSize); c.byIndex = true → c.idx = none → s.translateNow c.who .load i = .fault cause → s.teUnit core idx c = s.teFails core idx c cause i) ∧
    ((c.byIndex = true → c.idx ≠ none) → (let x := c.src + BitVec.ofNat 64 c.n; c.kind ≠ .fill → c.buf = none → s.translateNow c.who .load x = .fault cause → s.teUnit core idx c = s.teFails core idx c cause x) ∧
      (let y := c.dst + BitVec.ofNat 64 c.n; (c.kind = .fill ∨ c.buf ≠ none) → s.translateNow c.who .store y = .fault cause → s.teUnit core idx c = s.teFails core idx c cause y)) ∧
    s.teFails core idx c cause a = ((s.faultOf c.sid a (recordWord c.index 3 0 cause c.tag.toNat) fun x => { x with teFaulted := x.teFaulted ||| ((1 : BitVec 8) <<< c.tag.toNat) }).setTe core idx (if c.byIndex = true then { c.nextRow with failed := true } else { c with failed := true, written := true, io := {} }))) ∧
  (∀ (c : TeCmd) (k n : Nat) (va : W64), (c.n + k < c.len → c.moved k = { c with n := c.n + k, buf := none, io := {} }) ∧ (c.len ≤ c.n + k → c.moved k = { c with row := c.row + 1, n := 0, idx := none, buf := none, io := {}, written := decide (c.rows ≤ c.row + 1) }) ∧ (c.pattern va n).length = n ∧ ∀ i, i < n → (c.pattern va n).getD i 0 = (c.b.extractLsb' (8 * ((va.toNat + i) % 8)) 8)) ∧
  (∀ (c : TeCmd), ((c.kind = .copy ∨ c.kind = .fill) → c.dst = c.a ∧ c.src = c.b ∧ c.rows = 1 ∧ c.len = c.s0.toNat) ∧ (c.kind = .copy2d → c.dst = c.a + BitVec.ofNat 64 (c.row * c.dstPitch) ∧ c.src = c.b + BitVec.ofNat 64 (c.row * c.srcPitch) ∧ c.rows = c.height ∧ c.len = c.width) ∧
    (c.kind = .gather → c.dst = c.a + BitVec.ofNat 64 (c.row * c.width) ∧ c.src = c.s0 + BitVec.ofNat 64 (c.idx.getD 0 * c.width) ∧ c.rows = c.height ∧ c.len = c.width) ∧ (c.kind = .scatter → c.dst = c.a + BitVec.ofNat 64 (c.idx.getD 0 * c.width) ∧ c.src = c.s0 + BitVec.ofNat 64 (c.row * c.width) ∧ c.rows = c.height ∧ c.len = c.width))

/-- 11 R266, 11 R267, 11 R268, 11 R270, 11 R272, 12 R289, 12 R290, 12 R295, 12 R286, 22 R402. A running partition reads the next
entry of an enabled queue, where its page is in use and nothing holds the lines it reads, into a job that is rejected with a
reason or waits or is ready, tests its edges each 10 us, raises a waiting job by one level, places the next job, which holds
its clusters from then on and waits where one of them is taken, starts a gang that is ready and completes a job that is done:
its clusters' dirty lines go home, the clusters are free, 1 is added at its counter by an access whose answer the end awaits,
and it is in state 6, which its state word shows; an armed switch stops at its time, the units of an island that takes no step
then with the first cycle it takes, is saved once nothing finishes, in an image at SWBASE with ST 3, and resumes at its time
with ST 0 and the image's jobs; UNFENCE frees a fenced core of the partition with every slot free, and where it held no gang
strand changes no other core; a doorbell moves the tail within the unread part or records its error, where a value with bits
63:12 set is past the ring by the model's choice (log 48). A step whose trigger does not hold leaves the state as it is (log
14, the model's reading), and one that names a partition past 63 is the fault noSuchUnit (log 15, the model's choice). -/
def Obligations.JobAndSwitchEvents : Prop :=
  (∀ (part queue : Nat) (s : State), part < 64 → queue < 64 → s.frontOff part = false → exec (.jobEntryRead part queue) s = .next (s.readEntry part queue)) ∧
  (∀ (part : Nat) (s : State), part < 64 → s.frontOff part = false → s.testHeld part = false → (s.partn part).edgeDue ≤ s.gtime.toNat → exec (.edgeTest part) s = .next ((s.setPartn part { s.partn part with edgeDue := s.gtime.toNat / 10000 * 10000 + 10000 }).testEdges part)) ∧
  (∀ (part job : Nat) (s : State), part < 64 → (s.job job).part = part → s.agingDue job = true → exec (.jobAging part job) s = .next (s.setJob job { s.job job with level := (s.job job).level - 1, rises := (s.job job).rises + 1 })) ∧
  (∀ (part : Nat) (s : State), part < 64 → s.frontOff part = false → s.placeHeld part = false → exec (.jobPlace part) s = .next (s.placeNext part)) ∧
  (∀ (cl g : Nat) (s : State), cl < Config.clusters → s.islandOff (islandOf cl) = false → s.gangReady cl = some g → s.heldPart (s.job (s.gang g).job).part = false → exec (.gangStart cl) s = .next (s.startGang g)) ∧
  (∀ (part job : Nat) (s : State), part < 64 → s.frontOff part = false → (s.job job).part = part → (s.job job).final = false → ((s.job job).adding = none → s.jobDone job = true → exec (.jobComplete part job) s = .next (s.completeJob job)) ∧
    (∀ id, (s.job job).adding = some id → (s.added id = none → exec (.jobComplete part job) s = .next s) ∧ (∀ p q t, s.added id = some p → s.takeArrived p.id = some (q, t) → exec (.jobComplete part job) s = .next (t.jobCompleted job)))) ∧
  (∀ (n : Nat) (s : State), let j := s.job n; let t := j.clusters.foldl (fun u cl => u.wbCluster cl) s; let held := t.writesWait j.part = true ∨ (j.dw 96 ≠ 0 ∧ t.walkCut .iod j.part (j.dw 96).toNat = true);
    (held → s.completeJob n = t) ∧ (¬ held → (t.release n).counterLoc j = none → s.completeJob n = (t.release n).jobCompleted n) ∧ (∀ l, ¬ held → (t.release n).counterLoc j = some l → s.completeJob n = (t.release n).addOne n l)) ∧
  (∀ (n : Nat) (l : Loc) (s : State), let u := s.addOne n l; (∃ id, u.job n = { s.job n with adding := some id }) ∧ u.mem = s.mem ∧ (∀ m, m ≠ n → u.job m = s.job m)) ∧
  (∀ (n : Nat) (s : State), let u := s.release n; u.job n = { s.job n with placed := false, clusters := [] } ∧ u.mem = s.mem ∧ (∀ m, m ≠ n → u.job m = s.job m) ∧ ∀ c k, k < 16 → u.slotOf c k = s.slotOf c k) ∧
  (∀ (n : Nat) (s : State), ((s.jobCompleted n).job n) = { s.job n with st := 6, reason := 0, adding := none }) ∧
  (∀ (n st reason : Nat) (s : State), Memory.wf s.mem = true → let j := s.job n; let t := s.jobState n st reason; t.job n = { j with st := st, reason := reason } ∧ (s.isRetired j.part (j.slotAt + 112) = false → t.readAt ((Loc.hbm j.part (j.slotAt + 112)).forward s) 8 = leBytes 8 (reason * 256 + st))) ∧
  (∀ (n : Nat) (s : State), let u := s.placeJob n; (u.job n).placed = true ∧ (u.job n).clusters = (s.job n).needs ∧ ∀ m, m ≠ n → u.job m = s.job m) ∧
  (∀ (part n : Nat) (s : State), let p := s.partn part; (s.clustersFree (s.job n).needs = true → s.offerJob part n = (s.setPartn part { p with waitJob := none }).placeJob n) ∧ (s.clustersFree (s.job n).needs = false → s.offerJob part n = s.setPartn part { p with waitJob := some n })) ∧
  (∀ (s : State) (cs : List Nat), s.clustersFree cs = true ↔ ∀ e ∈ s.jobs, e.2.placed = true → ∀ c ∈ e.2.clusters, c ∉ cs) ∧
  (∀ (part : Nat) (s : State), (s.partn part).waitJob = none → (s.choose part (s.readyJobs part) (s.readyJobs part) = none → s.placeNext part = s) ∧ (∀ c t, s.choose part (s.readyJobs part) (s.readyJobs part) = some (c, t) → s.placeNext part = t.offerJob part c.1)) ∧
  (∀ (part w : Nat) (s : State), (s.partn part).waitJob = some w → let o := (s.readyJobs part).filter (fun c => c.1 != w); (∀ c t, s.choose part o (o.filter fun c => c.2.level < (s.job w).level) = some (c, t) → s.placeNext part = t.offerJob part c.1) ∧
    (s.choose part o (o.filter fun c => c.2.level < (s.job w).level) = none → s.clustersFree (s.job w).needs = true → s.placeNext part = (s.setPartn part { s.partn part with waitJob := none }).placeJob w)) ∧
  (∀ (g : Nat) (s : State), ((s.startGang g).gang g).started = true ∧ ((s.startGang g).job (s.gang g).job).st = 3) ∧
  (∀ (part q : Nat) (s : State), let x := s.squeue part q; let o := x.off + 128 * x.next; (x.en = false ∨ x.next = x.tail ∨ s.isRetired part o = true ∨ s.frontBusy part o = true ∨ s.frontBusy part (o + 64) = true) → s.readEntry part q = s) ∧
  (∀ (part q : Nat) (s : State), q < 64 → let x := s.squeue part q; let o := x.off + 128 * x.next; let bs := s.homeRead (.hbm part o) 128 0 0; let j₀ : Job := { part := part, queue := q, qslot := x.next, slotAt := o, bytes := bs, read := s.gtime.toNat }; let j := { j₀ with level := j₀.fld 88 8 2 };
    x.en = true → x.next ≠ x.tail → s.isRetired part o = false → s.frontBusy part o = false → s.frontBusy part (o + 64) = false → (∀ v ∈ s.edgeVas j, s.frontHeld part v = false) → let u := s.readEntry part q;
    (u.squeue part q).next = (x.next + 1) % x.slots ∧ (∃ st r, u.job s.token = { j with st := st, reason := r } ∧ ((st = 4 ∧ r ≠ 0) ∨ ((st = 1 ∨ st = 2) ∧ r = 0))) ∧ ∀ m, m ≠ s.token → u.job m = s.job m) ∧
  (∀ (part : Nat) (s : State), part < 64 → exec (.switchStop part) s = .next (if (s.partn part).swSt = 1 ∧ (s.partn part).swAt.toNat ≤ s.gtime.toNat then s.switchStop part else s)) ∧
  (∀ (part : Nat) (s : State), (s.partn part).stopLeft = none → (∀ i ∈ (s.partn part).islands, s.islandOff i = false) → ((s.switchStop part).partn part).swSt = 2 ∧ ((s.switchStop part).partn part).stopLeft = none) ∧
  (∀ (part : Nat) (s : State), let left := ((s.partn part).stopLeft.getD (s.partn part).islands).filter s.islandOff; left ≠ [] → (s.partn part).stopLeft ≠ some left → ((s.switchStop part).partn part).swSt = 1 ∧ ((s.switchStop part).partn part).stopLeft = some left) ∧
  (∀ (part : Nat) (s : State), part < 64 → exec (.switchSaveDone part) s = .next (if (s.partn part).swSt = 2 ∧ s.finishing part = false ∧ s.saveOff part = false then s.switchSave part else s)) ∧
  (∀ (part : Nat) (s : State), part < 64 → exec (.switchResume part) s = .next (if (s.partn part).swSt = 4 ∧ (s.partn part).swAt.toNat ≤ s.gtime.toNat then s.switchResume part
    else if (s.partn part).injected ≠ [] ∧ (s.partn part).injected.any s.stillInjected = false then (s.setPartn part { s.partn part with injected := [] }).admitAll else s)) ∧
  (∀ (part core : Nat) (v : W64) (s : State), part < 64 → core = field v.toNat 0 12 → core < Config.cores →
    (((s.core core).fenced = false ∨ (s.partn part).clusters.contains (clusterOf core) = false) → exec (.unfence part v) s = .next s) ∧
    ((s.core core).fenced = true → (s.partn part).clusters.contains (clusterOf core) = true → ∃ t, exec (.unfence part v) s = .next t ∧ (t.core core).fenced = false ∧ (∀ k, k < 16 → t.slotOf core k = { lastIssue := (s.slotOf core k).lastIssue }) ∧ (t.core core).teQueue = [] ∧ (t.core core).meQueue = [] ∧ (t.core core).deque = [] ∧ (t.core core).calls = [] ∧ (t.core core).inbox = [] ∧
      ((∀ k g, k < 16 → (s.strandOf core k).role ≠ .gang g) → t.mem = s.mem ∧ ∀ n, n ≠ core → t.core n = s.core n))) ∧
  (∀ (part q : Nat) (v : W64) (s : State), part < 64 → q < 64 → let x := s.squeue part q; let n := x.slots; let d := (v.toNat + n - x.head) % n;
    ((x.en = false ∨ x.mode = true) → exec (.doorbell part q v) s = .next (s.setSqueue part q { x with err := 2 })) ∧
    (x.en = true → x.mode = false → n ≤ v.toNat → exec (.doorbell part q v) s = .next (s.setSqueue part q { x with err := 1 })) ∧
    (x.en = true → x.mode = false → v.toNat < n → d < (x.tail + n - x.head) % n → exec (.doorbell part q v) s = .next (s.setSqueue part q { x with err := 3 })) ∧
    (x.en = true → x.mode = false → v.toNat < n → (x.tail + n - x.head) % n ≤ d → exec (.doorbell part q v) s = .next (s.setSqueue part q { x with tail := v.toNat }))) ∧
  (∀ (part : Nat) (s : State), 64 ≤ part → exec (.jobPlace part) s = .fault .noSuchUnit ∧ exec (.edgeTest part) s = .fault .noSuchUnit ∧ exec (.switchStop part) s = .fault .noSuchUnit) ∧
  (∀ (part : Nat) (s : State), let p := ((s.switchSave part).partn part); p.swSt = 3 ∧ p.parked = [] ∧ (∃ i ∈ p.images, ∃ b, b ∈ p.marked ∧ b.1 = i.base % 2 ^ 43)) ∧
  (∀ (part : Nat) (i : SaveImage) (s : State), (s.partn part).images.find? (fun i => i.base == (s.partn part).swbase.toNat) = some i → ∃ u : State, s.switchResume part = u.admitAll ∧ (u.partn part).swSt = 0 ∧ ∀ e ∈ i.jobs, (∀ d ∈ i.jobs, d.1 = e.1 → d = e) → u.job e.1 = e.2) ∧
  (∀ (part : Nat) (s : State), (s.partn part).images.find? (fun i => i.base == (s.partn part).swbase.toNat) = none → s.switchResume part = s)

/-- 12 R288, 12 R295, 17 R330, 17 R331, 20 R386, 22 R401, 22 R403, 20 R369, 24 R425. SWCTL's ARM at ST 0 and its RES at ST 3, the
one with SWTIME at least 10,000 ns ahead and a page range at SWBASE that lies in the partition's HBM, the other with these and
an image saved there, leave ST 1 or 4 and the time; else ERR alone says why, and both bits at once are its error 5; PMCTL
begins the move of two pages that are aligned and in the partition's HBM while none is under way, and ends one that is copied,
dropping the old page from the partition's caches; a page move that cannot begin or end sets ERR and changes no state; BCTL
takes its fields and begins, busy, on a slice of the partition with an even length to 1,024 and aligned code in HBM, with
error 3, 1 or 2 else; a submission queue is enabled empty where its ring is legal and head and tail are equal, with error 4 or
5 else, and an enabled one keeps its size and mode; MSIREQ raises its vector, which stays pending where it is masked; MESHCTL
is clamped to 256 to 1,024 and PLIM to 1,000 to 3,000; the user view writes no device register. The order of SWCTL's and
SQCFG's errors and what PMCTL refuses are the model's reading (log 37), the fault noSuchUnit for a partition past 63 its
choice (log 15). -/
def Obligations.RegisterWriteEvents : Prop :=
  (∀ (part : Nat) (v : W64) (s : State), part < 64 → exec (.swctlArm part v) s = .next (if v.getLsbD 1 = true then s.swFail part 5 else s.swArm part)) ∧
  (∀ (part : Nat) (v : W64) (s : State), part < 64 → exec (.swctlRes part v) s = .next (if v.getLsbD 0 = true then s.swFail part 5 else s.swRes part)) ∧
  (∀ (part : Nat) (v : W64) (s : State), part < 64 → v.getLsbD 1 = false → (s.partn part).pm.st ≠ 0 → ∃ t, exec (.pmctlGo part v) s = .next t ∧ (t.partn part).pm.err = true ∧ (t.partn part).pm.st = (s.partn part).pm.st ∧ t.mem = s.mem) ∧
  (∀ (part : Nat) (v : W64) (s : State), part < 64 → v.getLsbD 0 = false → (s.partn part).pm.st ≠ 2 → ∃ t, exec (.pmctlClr part v) s = .next t ∧ (t.partn part).pm.err = true ∧ (t.partn part).pm.st = (s.partn part).pm.st ∧ t.mem = s.mem) ∧
  (∀ (part : Nat) (v : W64) (s : State), part < 64 → exec (.bctlGo part v) s = .next ((s.setPartn part { s.partn part with blen := v.extractLsb' 16 16, bidx := v.extractLsb' 0 6 }).bctlGo part)) ∧
  (∀ (part q : Nat) (v : W64) (s : State), part < 64 → q < 64 → let x := s.squeue part q;
    (x.en = true → exec (.sqcfgEnable part q v) s = .next (s.setSqueue part q { x with err := x.err &&& ~~~(v.extractLsb' 16 8), weight := v.extractLsb' 8 4, ivec := v.extractLsb' 3 5, ie := v.getLsbD 2 })) ∧
    (x.en = true → exec (.sqcfgDisable part q v) s = .next (s.setSqueue part q { x with err := x.err &&& ~~~(v.extractLsb' 16 8), weight := v.extractLsb' 8 4, ivec := v.extractLsb' 3 5, ie := v.getLsbD 2, en := false })) ∧
    (x.en = false → v.extractLsb' 12 4 ≠ 0 → (v.extractLsb' 12 4).toNat ≤ 12 → exec (.sqcfgDisable part q v) s = .next (s.setSqueue part q { x with err := x.err &&& ~~~(v.extractLsb' 16 8), weight := v.extractLsb' 8 4, ivec := v.extractLsb' 3 5, ie := v.getLsbD 2, logn := v.extractLsb' 12 4, mode := v.getLsbD 1 }))) ∧
  (∀ (part : Nat) (v : W64) (s : State), part < 64 → exec (.msireq part v) s = .next (s.raiseMsi part (v.toNat % 32))) ∧
  (∀ (v : W64) (s : State), exec (.meshctlWrite v) s = .next { s with dlt := BitVec.ofNat 16 (max 256 (min 1024 (v.toNat % 65536))) }) ∧
  (∀ (v : W64) (s : State), exec (.plimWrite v) s = .next { s with power := { s.power with plim := BitVec.ofNat 12 (max 1000 (min 3000 (v.toNat % 4096))) } }) ∧
  (∀ (off : Nat) (v : W64) (p : Bool) (s : State), exec (.registerWrite off v p) s = .next (if off % 8 = 0 then s.bar0Write off v p else s)) ∧
  (∀ (off : Nat) (v : W64) (s : State), off < 0x2000000 → exec (.registerWrite off v false) s = .next s) ∧
  (∀ (part : Nat) (v : W64) (s : State), part < 64 → let p := s.partn part; let r := s.hbmRange part p.swbase.toNat p.saveBytes (2 * 2 ^ 20); v.getLsbD 1 = false → let late := p.swtime.toNat < s.gtime.toNat + 10000;
    (p.swSt ≠ 0 → exec (.swctlArm part v) s = .next (s.setPartn part { p with swErr := 4 })) ∧ (p.swSt = 0 → late → exec (.swctlArm part v) s = .next (s.setPartn part { p with swErr := 1 })) ∧ (p.swSt = 0 → ¬ late → r = none → exec (.swctlArm part v) s = .next (s.setPartn part { p with swErr := 2 })) ∧
    (p.swSt = 0 → ¬ late → r ≠ none → exec (.swctlArm part v) s = .next (s.setPartn part { p with swSt := 1, swAt := p.swtime }))) ∧
  (∀ (part : Nat) (v : W64) (s : State), part < 64 → let p := s.partn part; let r := s.hbmRange part p.swbase.toNat p.saveBytes (2 * 2 ^ 20); v.getLsbD 0 = false → let late := p.swtime.toNat < s.gtime.toNat + 10000;
    (p.swSt ≠ 3 → exec (.swctlRes part v) s = .next (s.setPartn part { p with swErr := 4 })) ∧ (p.swSt = 3 → late → exec (.swctlRes part v) s = .next (s.setPartn part { p with swErr := 1 })) ∧ (p.swSt = 3 → ¬ late → r = none → exec (.swctlRes part v) s = .next (s.setPartn part { p with swErr := 2 })) ∧
    (p.swSt = 3 → ¬ late → r ≠ none → (∀ i ∈ p.images, i.base ≠ p.swbase.toNat) → exec (.swctlRes part v) s = .next (s.setPartn part { p with swErr := 3 })) ∧
    (p.swSt = 3 → ¬ late → r ≠ none → (∃ i ∈ p.images, i.base = p.swbase.toNat) → exec (.swctlRes part v) s = .next (s.setPartn part { p with swSt := 4, swAt := p.swtime }))) ∧
  (∀ (s : State) (part pa n al o : Nat), s.hbmRange part pa n al = some o ↔ pa / 2 ^ 43 = s.devid.toNat ∧ pa % al = 0 ∧ o = pa % 2 ^ 43 ∧ o + n ≤ (s.partn part).hbm) ∧
  (∀ (part : Nat) (v : W64) (s : State), part < 64 → let p := { s.partn part with blen := v.extractLsb' 16 16, bidx := v.extractLsb' 0 6 }; let n := p.blen.toNat; let code := (∃ q o q' o', (s.setPartn part p).paLoc part p.bcode.toNat = some (.hbm q o) ∧ (s.setPartn part p).paLoc part (p.bcode.toNat + (n - 1)) = some (.hbm q' o')) ∧ p.bcode.toNat % 64 = 0;
    (p.bBusy = true → exec (.bctlGo part v) s = .next (s.setPartn part { p with bErr := 3 })) ∧ (p.bBusy = false → p.bslice.toNat ∉ p.slices → exec (.bctlGo part v) s = .next (s.setPartn part { p with bErr := 1 })) ∧
    (p.bBusy = false → p.bslice.toNat ∈ p.slices → (n % 2 = 1 ∨ 1024 < n ∨ ¬ code) → exec (.bctlGo part v) s = .next (s.setPartn part { p with bErr := 2 })) ∧
    (p.bBusy = false → p.bslice.toNat ∈ p.slices → n % 2 = 0 → n ≤ 1024 → code → ∃ t, exec (.bctlGo part v) s = .next t ∧ (t.partn part).bBusy = true ∧ t.mem = s.mem ∧ (t.slice p.bslice.toNat).queue = (s.slice p.bslice.toNat).queue ++ [.bind part p.bidx.toNat p.bcode.toNat n] ∧ ∀ m, m ≠ p.bslice.toNat → t.slice m = s.slice m)) ∧
  (∀ (s : State) (part k : Nat), k < 32 → let e := 32 * part + k; (s.msix.masked e = true → s.raiseMsi part k = { s with msix := { s.msix with pending := sinsert s.msix.pending e } }) ∧
    (s.msix.masked e = false → s.raiseMsi part k = { s with msi := s.msi ++ [e], msix := { s.msix with pending := sremove s.msix.pending e } })) ∧
  (∀ (part : Nat) (v : W64) (s : State), 64 ≤ part → exec (.swctlArm part v) s = .fault .noSuchUnit ∧ exec (.msireq part v) s = .fault .noSuchUnit ∧ exec (.pmctlGo part v) s = .fault .noSuchUnit) ∧
  (∀ (part : Nat) (v : W64) (s : State), part < 64 → v.getLsbD 1 = false → (s.partn part).pm.st = 0 → let p := s.partn part; let z := if v.extractLsb' 8 2 = 3 then p.pm.sz else v.extractLsb' 8 2; let t := s.setPartn part { p with pm := { p.pm with sz := z, err := p.pm.err && !v.getLsbD 4 } }; let n := pmBytes z; 
    (∀ a b, t.hbmRange part (p.pmsrc.toNat * 4096) n n = some a → t.hbmRange part (p.pmdst.toNat * 4096) n n = some b → ∃ u, exec (.pmctlGo part v) s = .next u ∧
      u.partn part = { p with pm := { p.pm with sz := z, err := false, st := 1, src := a, dst := b, len := n }, replicas := p.replicas.filter fun r => !meets (r.region * 65536) 65536 a n } ∧ (∀ q, q ≠ part → u.partn q = s.partn q) ∧ u = { s with parts := u.parts }) ∧
    ((t.hbmRange part (p.pmsrc.toNat * 4096) n n = none ∨ t.hbmRange part (p.pmdst.toNat * 4096) n n = none) → ∃ u, exec (.pmctlGo part v) s = .next u ∧ u.partn part = { p with pm := { p.pm with sz := z, err := true } } ∧ u = { s with parts := u.parts })) ∧
  (∀ (part : Nat) (v : W64) (s : State), part < 64 → v.getLsbD 0 = false → (s.partn part).pm.st = 2 → let p := s.partn part; let z := if v.extractLsb' 8 2 = 3 then p.pm.sz else v.extractLsb' 8 2; let t := s.setPartn part { p with pm := { p.pm with sz := z, err := p.pm.err && !v.getLsbD 4 } }; let d := t.dropRange part p.pm.src p.pm.len;
    ∃ u, exec (.pmctlClr part v) s = .next u ∧ u = { d with parts := u.parts } ∧ (u.partn part).pm = { (d.partn part).pm with st := 0, err := false }) ∧
  (∀ (part q : Nat) (v : W64) (s : State), part < 64 → q < 64 → let x := s.squeue part q; x.en = false → let l := v.extractLsb' 12 4; let y : SubQueue := { x with err := x.err &&& ~~~(v.extractLsb' 16 8), weight := v.extractLsb' 8 4, ivec := v.extractLsb' 3 5, ie := v.getLsbD 2, logn := if l = 0 ∨ 12 < l.toNat then x.logn else l, mode := v.getLsbD 1 };
    let t := s.setSqueue part q y; let n := 128 * 2 ^ y.logn.toNat; let r := t.hbmRange part x.base.toNat n (max 4096 n);
    ((y.logn = 0 ∨ r = none) → exec (.sqcfgEnable part q v) s = .next (t.setSqueue part q { y with err := 4 })) ∧
    (y.logn ≠ 0 → r ≠ none → x.head ≠ x.tail → exec (.sqcfgEnable part q v) s = .next (t.setSqueue part q { y with err := 5 })) ∧
    (y.logn ≠ 0 → r ≠ none → x.head = x.tail → exec (.sqcfgEnable part q v) s = .next (t.setSqueue part q { y with en := true, ring := y.logn, head := 0, tail := 0, next := 0 })))

/-- 22 R392, 22 R393, 22 R395, 16 R317, 22 R400. Each host transaction joins the queue behind the earlier ones, which are then
taken as far as they go; a fabric packet inside the window and not seen before is held and admitted in order, and any other is
dropped; a credit frees its entry at the source; a port that fails twice is down; the switch combines two packets of one port
for one word into one, as far as the 64 entries of the port's wait buffer go, one of them being another device's where the
model holds no packet of that number, with a free operand (log 19), and one reply is split among the parts, each with the
operands before it added, none of which passes while the ports take no cycle. A port past 17 is the fault noSuchUnit (log 15,
the model's choice). -/
def Obligations.HostAndFabricEvents : Prop :=
  (∀ (req bar addr : Nat) (bs : TlpBytes) (s : State), exec (.hostWriteTlp req bar addr bs) s = .next (let t : State := { s with hostQ := s.hostQ ++ [{ req := req, bar := bar, addr := addr, bytes := bs }] }; t.hostPump t.hostQ.length)) ∧
  (∀ (req bar addr len : Nat) (s : State), exec (.hostRead req bar addr len) s = .next (let t : State := { s with hostQ := s.hostQ ++ [{ req := req, bar := bar, addr := addr, read := some len }] }; t.hostPump t.hostQ.length)) ∧
  (∀ (pkt : FabPkt) (s : State), (pkt.comb = true → s.fabIn.contains pkt = false → exec (.fabricPacketArrive pkt) s = .next (let t : State := { s with fabIn := s.fabIn ++ [pkt] }; t.fabAdmit t.fabIn.length)) ∧
    (pkt.comb = false → s.inWindow pkt = true → s.fabIn.any (fun q => !q.comb && q.srcDev == pkt.srcDev && q.seq % 65536 == pkt.seq % 65536) = false →
      exec (.fabricPacketArrive pkt) s = .next (let t : State := { s with fabIn := s.fabIn ++ [pkt] }; t.fabAdmit t.fabIn.length)) ∧
    (pkt.comb = false → (s.inWindow pkt = false ∨ s.fabIn.any (fun q => !q.comb && q.srcDev == pkt.srcDev && q.seq % 65536 == pkt.seq % 65536) = true) → exec (.fabricPacketArrive pkt) s = .next (s.fabAdmit s.fabIn.length))) ∧
  (∀ (dev : Nat) (s : State), exec (.admissionCredit dev) s = .next ({ s with fabOut := dropFirst (fun e => e.dev == dev) s.fabOut } : State).toFabric) ∧
  (∀ (port : Nat) (s : State), port < 18 → exec (.portCrcFail port false) s = .next (s.transient 17)) ∧
  (∀ (port : Nat) (s : State), port < 18 → s.portsDown.getLsbD port = false → ∃ t, exec (.portCrcFail port true) s = .next t ∧ t.portsDown = s.portsDown ||| ((1 : BitVec 18) <<< port) ∧ t.mem = s.mem) ∧
  (∀ (port : Nat) (again : Bool) (s : State), 18 ≤ port → exec (.portCrcFail port again) s = .fault .noSuchUnit) ∧
  (∀ (i j : Nat) (a b : SwitchAdd) (s : State), s.switchBuf.find? (fun x => x.id == i) = some a → s.switchBuf.find? (fun x => x.id == j) = some b →
    (i ≠ j → a.dev = b.dev → a.tpart = b.tpart → a.pa = b.pa → a.size = b.size → a.port = b.port → let t : State := { s with switchBuf := (s.switchBuf.filter fun x => x.id != j).map fun x => if x.id = a.id then { x with parts := a.parts ++ b.parts } else x };
      (t.waitEntries a.port ≤ 64 → exec (.switchCombine i j) s = .next t) ∧ (64 < t.waitEntries a.port → exec (.switchCombine i j) s = .next s)) ∧
    ((i = j ∨ a.dev ≠ b.dev ∨ a.pa ≠ b.pa ∨ a.size ≠ b.size ∨ a.port ≠ b.port) → exec (.switchCombine i j) s = .next s)) ∧
  (∀ (i j : Nat) (a : SwitchAdd) (s : State), s.switchBuf.find? (fun x => x.id == i) = some a → s.switchBuf.find? (fun x => x.id == j) = none → let v := s.draw.1;
    (let t : State := { s.draw.2 with switchBuf := s.switchBuf.map fun x => if x.id = a.id then { x with parts := a.parts ++ [(none, v)] } else x }; (t.waitEntries a.port ≤ 64 → exec (.switchCombine i j) s = .next t) ∧ (64 < t.waitEntries a.port → exec (.switchCombine i j) s = .next s)) ∧
    (let t : State := { s.draw.2 with switchBuf := s.switchBuf.map fun x => if x.id = a.id then { x with parts := (none, v) :: a.parts } else x }; (t.waitEntries a.port ≤ 64 → exec (.switchCombine j i) s = .next t) ∧ (64 < t.waitEntries a.port → exec (.switchCombine j i) s = .next s))) ∧
  (∀ (size : Nat) (r v : W64) (o : Option (Nat × Nat)) (l : List (Option (Nat × Nat) × W64)), shares size r [] = [] ∧ shares size r ((o, v) :: l) = (o, BitVec.ofNat 64 (r.toNat % 2 ^ (8 * size))) :: shares size (r + v) l) ∧
  (∀ (id : Nat) (r : W64) (x : SwitchAdd) (s : State), s.switchBuf.find? (fun y => y.id == id) = some x → s.islandOff 17 = false → exec (.combinedReply id r) s = .next (s.splitReply x r).toFabric) ∧
  (∀ (id : Nat) (r : W64) (s : State), s.islandOff 17 = true → exec (.combinedReply id r) s = .next s)

/-- 23 R406, 23 R409, 23 R410, 23 R411, 23 R412, 24 R418, 24 R419, 24 R421, 24 R424, 24 R425. Each mailbox command under way acts
once the device has started and the island of the security controller runs, and ends with its status, where what creation and
destruction answer in which case is the model's reading (log 38); a message of the SPDM channel is answered there, with an
error where it is not supported, and moves the connection, and one of the session comes and is answered in a sealed record,
with the layouts of DMTF SPDM and of its records (log 50, presumed); the measurements are those of R410, the first two alone
in minimal mode; a key request that is malformed, of no known operation (status 5, log 21) or without mutual authentication is
answered with its error, and a bind of a free slot to a partition of the named digest keeps the key and its binder; a power-on
begins a start, which empties every memory of the device, unless it is in minimal mode; a start goes through three stages,
fails at an error, where the next stage's image is missing or not signed, or after 10 s, begins again after 100 ms and leaves
the device in minimal mode at the third failure; an island takes a frequency of 1,000 to 2,400 MHz in steps of 100, stalls,
and then takes the stops that came due; the average power of a millisecond lowers the CD quadrants by 100 MHz each where it is
above the limit, no further than 1,000, and raises each island by 100 MHz up to its set frequency where it is below 95 % of
it, a sensor of 100 degrees lowers its island, and OVR says that all quadrants stand at 1,000 above the limit; at 110 degrees
the device stops, which counts as a failed start (log 41), and starts again below 85. A step whose trigger does not hold
leaves the state as it is (log 14, the model's reading). -/
def Obligations.ManagementStartAndPowerEvents : Prop :=
  (∀ (s : State), s.islandOff 16 = false → s.mbIs 1 = true → exec .mbSetDevid s = .next (if s.started = true ∧ s.anyPartition = false then (s.setDevid ((s.mbArg 0).setWidth 9)).mbDone 0 else s.mbDone 2)) ∧
  (∀ (s : State) (d : BitVec 9), (s.setDevid d).devid = d ∧ (s.setDevid d).devidSet = true ∧ ∀ k, k < 18 → (s.setDevid d).portsDown.getLsbD k = (s.portsDown.getLsbD k || Config.devidHeld k d.toNat)) ∧
  (∀ (s : State), s.islandOff 16 = false → s.mbIs 2 = true → exec (.mbCreatePartition) s = .next s.create) ∧
  (∀ (s : State), s.islandOff 16 = false → s.mbIs 2 = true → s.started = false → exec .mbCreatePartition s = .next (s.mbDone 2)) ∧
  (∀ (s : State), s.islandOff 16 = false → s.mbIs 3 = true → let p := (s.mbArg 0).toNat; (s.started = false → exec .mbDestroyPartition s = .next (s.mbDone 2)) ∧ (s.started = true → 64 ≤ p → exec .mbDestroyPartition s = .next (s.mbDone 4)) ∧
    (s.started = true → p < 64 → (s.partn p).exists_ = false → exec .mbDestroyPartition s = .next (s.mbDone 2)) ∧ (s.started = true → p < 64 → (s.partn p).exists_ = true → exec .mbDestroyPartition s = .next ((s.destroy p).mbDone 0))) ∧
  (∀ (s : State), s.islandOff 16 = false → s.mbIs 4 = true → exec (.mbWriteFirmware) s = .next s.writeFirmware) ∧
  (∀ (s : State), s.islandOff 16 = false → s.mbIs 5 = true → exec (.mbRestart) s = .next ({ s with boot := { s.boot with att := 0 } } : State).begin) ∧
  (∀ (s : State), s.islandOff 16 = false → exec .spdmGetMeasurements s = exec .spdmRequest s ∧ (s.spdmRecord = none → exec .spdmRequest s = .next (s.spdmServe false (s.mbBytes spdmBase 0x10000))) ∧
    (∀ r req, s.spdmRecord = some r → s.spdm.unseal r = some req → exec .spdmRequest s = .next (s.spdmServe true req)) ∧
    (∀ r, s.spdmRecord = some r → s.spdm.unseal r = none → exec .spdmRequest s = .next { s.mbPut spdmBase [0x13, 0x7F, 6, 0] with spdm := { s.spdm with session := none, established := false, mutualAuth := false, chain := [] } })) ∧
  (∀ (s : State) (sec : Bool) (req : List Byte), let d := s.drawMany 40; let rsp := (d.2.drop 32).take 2; let ans := (s.spdmReply sec req (d.2.take 32) rsp).take (if sec then 0xFFE0 else 0x10000); let u := d.1.mbPut spdmBase (if sec then s.spdm.seal ans else ans); let n := if sec then 1 else 0;
    (spdmUnsupported (req.getD 1 0).toNat = true → s.spdmServe sec req = { u with spdm := { s.spdm with taken := s.spdm.taken + n, given := s.spdm.given + n } } ∧ s.spdmReply sec req (d.2.take 32) rsp = [0x13, 0x7F, 0x07, BitVec.ofNat 8 (req.getD 1 0).toNat]) ∧
    (spdmUnsupported (req.getD 1 0).toNat = false → s.spdmServe sec req = { u with spdm := s.spdmNext sec req ans rsp })) ∧
  (∀ (s : State), (s.spdm.session = none → s.spdmRecord = none) ∧ (∀ a b, s.spdm.session = some (a, b) → (s.mbBytes spdmBase 4 ≠ a ++ b → s.spdmRecord = none) ∧ (s.mbBytes spdmBase 4 = a ++ b → s.spdmRecord = some (s.mbBytes spdmBase 6, s.mbBytes (spdmBase + 6) (leNat (s.mbBytes (spdmBase + 4) 2))))) ∧
    (∀ r, s.spdm.unseal r = (gcmOpen (s.spdm.keyOf false).1 (s.spdm.keyOf false).2 r.1 r.2).map fun m => (m.drop 2).take (leNat (m.take 2))) ∧
    (∀ m, s.spdm.seal m = s.spdm.sid ++ leBytes 2 (m.length + 18) ++ gcmSeal (s.spdm.keyOf true).1 (s.spdm.keyOf true).2 (s.spdm.sid ++ leBytes 2 (m.length + 18)) (leBytes 2 m.length ++ m))) ∧
  (∀ (s : State), (s.boot.min = true → s.measurements = [(1, shake256 (s.startImage 0)), (2, shake256 (s.startImage 1))]) ∧
    (s.boot.min = false → ∃ m4, m4 = shake256 (dws (s.devid.setWidth 64 :: s.parts.flatMap fun e => if e.2.exists_ then w64 e.1 :: e.2.psl :: e.2.pmask.setWidth 64 :: (e.2.pcl.toList.map fun m => m.setWidth 64) ++ e.2.kown.toList else [])) ∧
      s.measurements = [(1, shake256 (s.startImage 0)), (2, shake256 (s.startImage 1)), (3, shake256 (s.startImage 2)), (4, m4)] ++ s.parts.filterMap fun e => if e.2.exists_ then some (16 + e.1, e.2.digest) else none)) ∧
  (∀ (s : State) (e : Nat), s.islandOff 16 = false → s.keyBad = some e → (s.keyOp = 1 → exec .keyBind s = .next (s.keyReply [BitVec.ofNat 8 e])) ∧ (s.keyOp = 2 → exec .keyUnbind s = .next (s.keyReply [BitVec.ofNat 8 e]))) ∧
  (∀ (s : State), s.islandOff 16 = false → s.keyOp = 1 → s.keyBad = none → (s.keys.lookup s.keySlot).isSome = true → exec .keyBind s = .next (s.keyReply [1])) ∧
  (∀ (s : State), s.islandOff 16 = false → s.keyOp = 1 → s.keyBad = none → s.keys.lookup s.keySlot = none → let p := s.partn s.keyPart;
    ((p.exists_ = false ∨ p.digest ≠ s.keyReq 8 64) → exec .keyBind s = .next (s.keyReply [2])) ∧
    (p.exists_ = true → p.digest = s.keyReq 8 64 → exec .keyBind s = .next ((({ s with keys := tset s.keys s.keySlot { part := s.keyPart, key := s.keyReq 72 64, binder := sha3_512 s.spdm.chain } } : State).setKown s.keyPart s.keySlot true).keyReply [0]))) ∧
  (∀ (s : State), s.islandOff 16 = false → s.keyOp = 2 → exec (.keyUnbind) s = .next s.unbindReq) ∧
  (∀ (s : State), s.islandOff 16 = false → s.keyOp = 3 → exec (.keyQuery) s = .next s.query) ∧
  (∀ (s : State), s.islandOff 16 = false → s.keyOp ≠ 1 → s.keyOp ≠ 2 → s.keyOp ≠ 3 → exec (.keyQuery) s = .next (if s.recordBad = true then s.refuseRecord else s.keyReply [5])) ∧
  (∀ (s : State) (bs : List Byte), (s.spdmRecord = none → s.keyReply bs = s.mbPut spdmBase bs ∧ s.recordBad = false) ∧ (∀ r, s.spdmRecord = some r → s.recordBad = (s.spdm.unseal r).isNone ∧ s.keyReply bs = { s.mbPut spdmBase (s.spdm.seal bs) with spdm := { s.spdm with taken := s.spdm.taken + 1, given := s.spdm.given + 1 } })) ∧
  (∀ (s : State), (s.boot.min = true → exec .powerOn s = .next s) ∧ (s.boot.min = false → ∃ t, exec .powerOn s = .next t ∧ t.cores = State.reset.cores ∧ t.parts = State.reset.parts ∧ t.mem = s.mem.filter (fun e => decide ((Loc.host 0).key ≤ e.1) && decide (e.1 < (Loc.lm 0 0).key)) ∧
    t.flash = s.flash ∧ t.boot.cause = s.boot.cause ∧ t.boot.att = s.boot.att ∧ t.boot.stage = 0 ∧ t.boot.began = some s.gtime.toNat)) ∧
  (∀ (s : State) (b : Nat) (c : StartFail), s.boot.began = some b → s.imageFault = some c → exec (.startStageDone none) s = .next (s.failStart (StartFail.code c))) ∧
  (∀ (s : State) (b : Nat), s.boot.began = some b → (∀ c, exec (.startStageDone (some c)) s = .next (s.failStart (StartFail.code c))) ∧
    (s.boot.stage = 2 → exec (.startStageDone none) s = .next { s with boot := { s.boot with stage := 3, att := 0, began := none } }) ∧
    (s.boot.stage ≠ 2 → s.imageFault = none → exec (.startStageDone none) s = .next { s with boot := { s.boot with stage := s.boot.stage + 1, began := some s.gtime.toNat } }) ∧
    exec .stageTimeout s = .next (if b + 10000000000 ≤ s.gtime.toNat then s.failStart 6 else s)) ∧
  (∀ (s : State) (c : Nat), ((s.failStart c).boot.min = true ↔ (2 ≤ s.boot.att.toNat ∨ s.boot.min = true)) ∧ (s.boot.att.toNat < 2 → (s.failStart c).boot.again = some (s.gtime.toNat + 100000000) ∧ (s.failStart c).boot.att = s.boot.att + 1) ∧ (2 ≤ s.boot.att.toNat → (s.failStart c).boot.att = 3 ∧ (s.failStart c).boot.again = none ∧ (s.failStart c).portsDown = 0x3FFFF) ∧ (s.failStart c).boot.cause = BitVec.ofNat 8 c) ∧
  (∀ (s : State) (b : Nat), s.boot.again = some b → exec .startRetry s = .next (if b ≤ s.gtime.toNat then s.begin else s)) ∧
  (∀ (i m : Nat) (s : State), i < 20 → 1000 ≤ m → m ≤ 2400 → m % 100 = 0 → exec (.islandFreqChange i m) s = .next (let t := s.setMhz i m; { t with islands := vset t.islands i { vget t.islands i {} with setMhz := m } })) ∧
  (∀ (i t : Nat) (s : State), i < 20 → (vget s.islands i {}).stall = some t → t ≤ s.gtime.toNat → exec (.islandStallEnd i) s = .next (let u := { s with islands := vset s.islands i { vget s.islands i {} with stall := none } }; let w := (u.parts.map (·.1)).foldl State.stopDue u; w.hostPump w.hostQ.length)) ∧
  (∀ (s : State) (mw : Nat), ∃ t, exec (.powerWindow mw) s = .next t ∧ t.power.mw = BitVec.ofNat 32 mw ∧ t.mem = s.mem ∧ t.cores = s.cores ∧ let lim := s.power.plim.toNat * 1000;
    (∀ i, i < 20 → let x := vget s.islands i {}; let y := vget t.islands i {}; let down := (lim < mw ∧ i < 16) ∨ 100 ≤ tget s.power.sensors i 0; (down → y.mhz = max 1000 (x.mhz - 100)) ∧ (¬ down → 100 * mw < 95 * lim → y.mhz = min x.setMhz (x.mhz + 100)) ∧ (¬ down → 95 * lim ≤ 100 * mw → y = x) ∧
      (y.mhz ≠ x.mhz → y.stall = some (s.gtime.toNat + 2000)) ∧ (y.mhz = x.mhz → y = x) ∧ y.setMhz = x.setMhz) ∧
    (lim < mw → (∀ i, i < 16 → (vget s.islands i {}).mhz = 1000) → t.power.ovr = true) ∧ (mw < lim → t.power.ovr = false) ∧ (lim ≤ mw → (mw = lim ∨ ∃ i, i < 16 ∧ (vget s.islands i {}).mhz ≠ 1000) → t.power.ovr = s.power.ovr)) ∧
  (∀ (s : State) (n d : Nat), d < 110 → exec (.overTemperature n d) s = .next { s with power := { s.power with sensors := tset s.power.sensors n d } }) ∧
  (∀ (s : State) (n d : Nat), 110 ≤ d → s.power.stopped = false → ∃ t, exec (.overTemperature n d) s = .next t ∧ t.power.stopped = true ∧ t.boot.cause = 7 ∧ t.boot.again = none) ∧
  (∀ (s : State), exec .thermalRestart s = .next (if s.power.stopped = true ∧ s.boot.min = false ∧ s.tmax < 85 then { s.begin with power := { ({} : Power) with sensors := s.power.sensors } } else s)) ∧
  (∀ (s : State), s.islandOff 16 = true → exec .mbSetDevid s = .next s ∧ exec .mbCreatePartition s = .next s ∧ exec .mbDestroyPartition s = .next s ∧ exec .mbWriteFirmware s = .next s ∧ exec .mbRestart s = .next s ∧ exec .spdmRequest s = .next s ∧ exec .spdmGetMeasurements s = .next s ∧ exec .keyBind s = .next s ∧ exec .keyUnbind s = .next s ∧ exec .keyQuery s = .next s)

/-- 03 R57, 03 R61, 04 R85, 04 R94, 05 R106, 06 R133, 07 R165. Thirty-five of the words that 03 to 21 print beside an instruction,
of every family of words, decode to that instruction with those operands. -/
def Obligations.SpecWordsDecode : Prop :=
  (decodeC 0x80000000#32).toOption = some (.cnop) ∧
  (decodeC 0x26710003#32).toOption = some (.std 7 2 0 .core 3) ∧
  (decodeA 0x10A50203#32).toOption = some (.addi 5 5 64 3) ∧
  (decodeA 0x10C6FFF8#32).toOption = some (.addi 6 6 0x1FFF 0) ∧
  (decodeC 0xA8729826#32).toOption = some (.lddX 7 5 6 0 .scaled false) ∧
  (decodeA 0x80912424#32).toOption = some (.mma .e4m3 .e5m2 1 4 2 8 9 .plain) ∧
  (decodeA 0x24A0EC98#32).toOption = some (.movi 5 (-621) 0) ∧
  (decodeA 0x24A46B70#32).toOption = some (.movh 5 4 0xD6E 0) ∧
  (decodeA 0x04A63800#32).toOption = some (.add .i64 5 6 7 0) ∧
  (decodeA 0x04A63A10#32).toOption = some (.sra .z32 5 6 7 0) ∧
  (decodeC 0x10010064#32).toOption = some (.loopi false 2 0 100) ∧
  (decodeC 0x28530446#32).toOption = some (.lddX 5 6 1 0 .postInc false) ∧
  (decodeC 0xA6940800#32).toOption = some (.std 9 8 0 .pk 0) ∧
  (decodeC 0x829FFFF8#32).toOption = some (.bp 2 false (-8)) ∧
  (decodeC 0x91000010#32).toOption = some (.repi 0 16) ∧
  (decodeC 0xB8530073#32).toOption = some (.fstn 5 6 .rne 0 .e2m1) ∧
  (decodeC 0xAA531C19#32).toOption = some (.ldfe 5 6 0 .pk (.bounded 7)) ∧
  (decodeC 0xB0002840#32).toOption = some (.fence 10 0 .pk) ∧
  (decodeC 0x32430000#32).toOption = some (.vld 4 6 0 .core 0) ∧
  (decodeA 0x482A0180#32).toOption = some (.mfromg 1 10 0) ∧
  (decodeA 0x60C43838#32).toOption = some (.vqmx .e2m1 .rne 6 7 4 0) ∧
  (decodeA 0x61060438#32).toOption = some (.vpack .e2m1 .rne 8 6 0) ∧
  (decodeA 0x40853000#32).toOption = some (.vadd .i32 4 5 6 0) ∧
  (decodeA 0x55240101#32).toOption = some (.vfred .f32 9 4 1) ∧
  (decodeA 0x680C0000#32).toOption = some (.mset .kvalid 12 0) ∧
  (decodeA 0x680B7940#32).toOption = some (.mring 11 15 0) ∧
  (decodeA 0x6A0A6E08#32).toOption = some (.msta .bf16 .pk .rne 0 10 13 0) ∧
  (decodeC 0x3B026010#32).toOption = some (.tcopy 16 4 24 0 1) ∧
  (decodeC 0x3A000015#32).toOption = some (.twait (.tag 1) 0) ∧
  (decodeC 0xC0048805#32).toOption = some (.xborrow 9 2 0) ∧
  (decodeC 0xC0100026#32).toOption = some (.xmov 1 0 0 true false) ∧
  (decodeC 0xBD6A4004#32).toOption = some (.callat 22 20 16 0) ∧
  (decodeC 0x44800034#32).toOption = some (.crrd 8 0 0x034) ∧
  (decodeC 0x2EB4B009#32).toOption = some (.acas true 11 9 12 0 .core) ∧
  (decodeC 0x118B8000#32).toOption = some (.repr 23 0)

/-- 03 R50, 03 R54, 03 R56. A step whose agenda is due runs that entry's meaning; otherwise, with no step of the device's own and
no hold that ends, it takes the bundle the issue port chooses: its words are those at the pc; where they decode and pass the
decode and operand stages and nothing holds them, the step is the C word's meaning, then the A word's, and then the completion
of the bundle. Where the A word waited before and the C word had its effect at the issue (log 52, the model's choice), the
step is the A word's meaning alone. The order among agenda, own steps and issue is the model's choice (log 2). -/
def Obligations.StepRunsTheDecodedBundle : Prop :=
  (∀ (s : State) (e : AgendaEntry) (r : List AgendaEntry), s.agenda = e :: r → e.due ≤ s.time → step s = exec e.what { s with agenda := r }) ∧
  (∀ (s : State) (c k : Nat), s.agenda = [] → (s.auto = false ∨ firstChange s s.acts = none) → s.nextRelease = none → s.nextResume = none → s.nextIssue = some (c, k) →
    step s = s.issue c k) ∧
  (∀ (s t : State) (c k : Nat) (i : Instr), (s.atSlot c k).words = .ok t → t.cur.len = 4 → (decodeC t.cur.cword).toOption = some i → (Instr.privileged i = true → t.cur.pre.priv = true) →
    (t.cur.pre.repeating = false ∨ unrepeatable i t.cur.cword = false) → Instr.extended i = 0 → operandFault i t = none → t.holds i none = none → (t.slotOf t.cur.core t.cur.slot).early = none → let u := t.markIssue;
    s.issue c k = mapNext (fun v => ((v.holdBack u).finish (u.live i none)).unissued t) (exec i u)) ∧
  (∀ (s t : State) (c k : Nat) (i j : Instr) (v w : State), (s.atSlot c k).words = .ok t → t.cur.len = 8 → (decodeC t.cur.cword).toOption = some i → (decodeA t.cur.aword).toOption = some j → sharesDest (Instr.uses i) (Instr.uses j) = false →
    (Instr.privileged i = true → t.cur.pre.priv = true) → (t.cur.pre.repeating = false ∨ unrepeatable i t.cur.cword = false) → Instr.extended i = 0 → Instr.extended j = 0 → operandFault i t = none → operandFault j t.asA = none →
    ((Instr.uses i).src.contains 30 && (Instr.uses j).src.contains 30) = false → t.holds i (some j) = none → (t.slotOf t.cur.core t.cur.slot).early = none → let u := t.markIssue; (Instr.guard u j && Instr.valueBad u j) = false →
    exec i u = .next v → v.cur.flow ≠ .trapped → v.cur.flow ≠ .held → exec j v.asA = .next w → w.cur.flow ≠ .trapped → w.cur.flow ≠ .held →
    s.issue c k = .next (((w.holdBack u).finish (u.live i (some j))).unissued t)) ∧
  (∀ (s : State) (c k n o : Nat) (a : PageAttr), let t := s.atSlot c k; t.cur.pc.toNat % 8 = 0 → t.lookup .fetch t.cur.pc = .ok (.lm n o) a → let w := wordOf (s.readAt (.lm n o) 4);
    lone w = true → t.words = .ok { t with cur := { t.cur with cword := w, len := 4 } }) ∧
  (∀ (s t : State) (c k : Nat) (i j : Instr) (w : State), (s.atSlot c k).words = .ok t → t.cur.len = 8 → (decodeC t.cur.cword).toOption = some i → (decodeA t.cur.aword).toOption = some j → sharesDest (Instr.uses i) (Instr.uses j) = false →
    (Instr.privileged i = true → t.cur.pre.priv = true) → (t.cur.pre.repeating = false ∨ unrepeatable i t.cur.cword = false) → Instr.extended i = 0 → Instr.extended j = 0 → operandFault i t = none → operandFault j t.asA = none →
    ((Instr.uses i).src.contains 30 && (Instr.uses j).src.contains 30) = false → t.holds i (some j) = none → (t.slotOf t.cur.core t.cur.slot).early.isSome = true → let u := t.markIssue; (Instr.guard u j && Instr.valueBad u j) = false →
    u.cur.flow ≠ .trapped → u.cur.flow ≠ .held → exec j u.asA = .next w → w.cur.flow ≠ .trapped → w.cur.flow ≠ .held → s.issue c k = .next (((w.holdBack u).finish (u.live i (some j))).unissued t))

/-- 03 R50, 03 R57, 03 R61, 04 R85, 04 R94. For every well-formed C instruction its word, and for every pair of a well-formed C
instruction and a well-formed A instruction the C word with L cleared followed by the A word, laid out as little-endian bytes,
decode to exactly those instructions, with every operand at every value, and leave the bytes that follow. -/
def Obligations.EncodeDecodeRoundTrip : Prop :=
  (∀ (i : Instr) (rest : List Byte), i.hasWord = true → i.isC = true → i.wellFormed = true → decodeBytes (leBytes 4 (encode i).toNat ++ rest) = some (⟨i, none⟩, rest)) ∧
  (∀ (i j : Instr) (rest : List Byte), i.hasWord = true → i.isC = true → i.wellFormed = true → j.hasWord = true → j.isC = false → j.wellFormed = true →
    decodeBytes (leBytes 4 (encode i &&& 0x7FFFFFFF#32).toNat ++ (leBytes 4 (encode j).toNat ++ rest)) = some (⟨i, some j⟩, rest))

/-- 17 R339. From every state whose memory is in its canonical form (addresses rising, no entry that equals what an unlisted
address reads as; log 6), a step that goes on leaves a state whose memory is in that form. -/
def Obligations.StepsKeepMemoryCanonical : Prop :=
  ∀ s t : State, s.MemOk → step s = .next t → t.MemOk

/-- 02 R32, 08 R230, 08 R231, 10 R240, 17 R339, 20 R369, 24 R420, 24 R425. At reset every byte of memory reads zero in canonical
form and every word is full, no partition exists, every slot is free, no packet is in flight, time is 0, FCSR has rounding
mode 0 and seed 1 and AGAGE is 512, the dateline limit is 1,024, the power limit 3,000 and the start at stage 0. That a scalar
register with no strand holds zero and full, and p0 alone is true, is the model's choice (log 4), as is zero for host memory
(log 6). -/
def Obligations.ResetState : Prop :=
  State.reset.MemOk ∧ (∀ l : Loc, State.reset.byteAt l = 0) ∧ State.reset.fe = [] ∧ State.reset.time = 0 ∧ State.reset.gtime = 0 ∧ State.reset.net = [] ∧ State.reset.arrived = [] ∧ (∀ n, (State.reset.partn n).exists_ = false) ∧
  (∀ c k, k < 16 → (State.reset.slotOf c k).st = .free ∧ (State.reset.strandOf c k).fcsr.frm = 0 ∧ (State.reset.strandOf c k).fcsr.seed = 1 ∧ (State.reset.strandOf c k).agage = 512) ∧
  State.reset.dlt = 1024 ∧ State.reset.power.plim = 3000 ∧ State.reset.boot.stage = 0 ∧ State.reset.boot.min = false ∧
  (∀ c k (r : GR), k < 16 → rget (State.reset.strandOf c k).g r = { data := 0, s := false, full := true }) ∧ (∀ c k, k < 16 → (State.reset.strandOf c k).p = 1)

/-- 02 R31, 02 R33, 02 R34, 02 R35, 02 R36, 02 R37, 02 R38, 02 R41, 02 R24. Round-to-odd keeps a zero and its sign, gives the
infinity above the greatest binade, the value itself where it lies on the grid, and else the odd one of its two neighbours
with the inexact mark; a type other than .f32 delivers it at two bits more and the value stands exactly in the carrier; narrow
arithmetic never raises of, uf or nx, a NaN gives the canonical NaN; the final rounding gives by each mode the neighbour R35
and R41 name, its flags, the overflow result beyond the greatest magnitude and the NaN and infinity results by format, and a
code stands for exactly the rounded value. -/
def Obligations.NumberFormats : Prop :=
  (∀ (neg : Bool) (mag : Nat) (exp : Int) (p : Nat) (emin emax : Int), roundToOdd neg 0 exp false p emin emax = (.zero neg, false) ∧ (mag ≠ 0 → emax < floorLog2 mag exp → roundToOdd neg mag exp false p emin emax = (.inf neg, true)) ∧
    (mag ≠ 0 → floorLog2 mag exp ≤ emax → let q := max (floorLog2 mag exp) emin - p + 1; let a := mag * 2 ^ (exp - q).toNat; let d := 2 ^ (q - exp).toNat;
      roundToOdd neg mag exp false p emin emax = (.fin neg (if a % d = 0 then a / d else a / d + 1 - a / d % 2) q false, decide (a % d ≠ 0)))) ∧
  (∀ (t : FTy) (m : RMode) (n : Bool) (mag : Nat) (e : Int) (fl : Flags), t ≠ .f32 → let r := roundToOdd n mag e false ((FTy.fm t).p + 2) (FTy.fm t).emin 127;
    deliver t m (.fin n mag e false) fl = ⟨carrier r.1, r.2, fl⟩ ∧ fvEq (valueOf (carrier r.1)) r.1 = true ∧ (valueOf (carrier r.1)).neg = n) ∧
  (∀ (o : FpOp) (t : FTy) (m : RMode) (a b : W32), (t ≠ .f32 → (fpArith o t m a b).fl &&& 7 = 0) ∧
    (o ≠ .sqrt → 0x7F800000 < a.toNat % 2 ^ 31 ∨ 0x7F800000 < b.toNat % 2 ^ 31 → fpArith o t m a b = ⟨0x7FC00000, false, if (0x7F800000 < a.toNat % 2 ^ 31 ∧ a.getLsbD 22 = false) ∨ (0x7F800000 < b.toNat % 2 ^ 31 ∧ b.getLsbD 22 = false) then Flags.nv else 0⟩) ∧
    (b.toNat % 2 ^ 31 = 0 → 0 < a.toNat % 2 ^ 31 → a.toNat % 2 ^ 31 < 0x7F800000 → fpArith .div t m a b = ⟨if a.getLsbD 31 = b.getLsbD 31 then 0x7F800000 else 0xFF800000, false, Flags.dz⟩)) ∧
  (∀ (t : FTy) (w : W32) (b : Bool), fpCvt .f32 w b = ⟨w, b, 0⟩ ∧ (t ≠ .f32 → 0x7F800000 < w.toNat % 2 ^ 31 → fpCvt t w b = ⟨if w.getLsbD 31 then 0xFFC00000 else 0x7FC00000, false, if w.getLsbD 22 then 0 else Flags.nv⟩) ∧
    (t ≠ .f32 → w.toNat % 2 ^ 31 = 0x7F800000 → fpCvt t w b = ⟨w, false, 0⟩)) ∧
  (∀ (w : W32) (s : Bool) (f : Fm) (m : RMode) (ovf : Bool) (g : W32), let n := w.getLsbD 31;
    (0x7F800000 < w.toNat % 2 ^ 31 → finalRound w s 0 f m ovf g = if f = .e3m2 ∨ f = .e2m3 ∨ f = .e2m1 ∨ f = .mi8 then (f.maxCode n, Flags.nv) else (f.nanCode n, 0)) ∧
    (w.toNat % 2 ^ 31 = 0x7F800000 → finalRound w true 0 f m ovf g = (f.overflow n m ovf, Flags.ofl ||| Flags.nx) ∧
      finalRound w false 0 f m ovf g = if f = .e4m3 then (if ovf then f.nanCode n else f.maxCode n, Flags.nv) else if f = .e3m2 ∨ f = .e2m3 ∨ f = .e2m1 ∨ f = .mi8 then (f.maxCode n, Flags.nv) else (f.infCode n, 0)) ∧
    (w.toNat % 2 ^ 31 < 0x7F800000 → finalRound w s 0 .f32 m ovf g = (w.toNat, if s then Flags.nx else 0))) ∧
  (∀ (w : W32) (s : Bool) (f : Fm) (m : RMode) (ovf : Bool) (g : W32) (n : Bool) (mag : Nat) (e : Int), valueOf w = .fin n mag e false → f ≠ .f32 → (mag = 0 → finalRound w s 0 f m ovf g = (f.encode n 0 0, if s then Flags.nx else 0)) ∧
    (mag ≠ 0 → let q := max (floorLog2 mag e) f.emin - f.p + 1; let a := mag * 2 ^ (e - q).toNat; let d := 2 ^ (q - e).toNat; let t := a / d; let k := min (q - e).toNat 32;
      let y := match m with
        | .rne => if 2 * (a % d) < d ∨ (2 * (a % d) = d ∧ t % 2 = 0) then t else t + 1
        | .rz => t
        | .ru => if a % d = 0 ∨ n = true then t else t + 1
        | .rd => if a % d = 0 ∨ n = false then t else t + 1
        | .rmm => if 2 * (a % d) < d then t else t + 1
        | .ro => if a % d = 0 then t else t + 1 - t % 2
        | .sr => if 2 ^ k ≤ (if (q - e).toNat ≤ 32 then a % d else a % d * 2 ^ 32 / d) + g.toNat / 2 ^ (32 - k) then t + 1 else t;
      let fl : Flags := if a % d ≠ 0 ∨ s = true then Flags.nx else 0;
      finalRound w s 0 f m ovf g = if f.exceeds n y q then (f.overflow n m ovf, fl ||| Flags.ofl ||| Flags.nx) else (f.encode n y q, if f ≠ .mi8 ∧ floorLog2 mag e < f.emin ∧ fl ≠ 0 then fl ||| Flags.uf else fl))) ∧
  (∀ (f : Fm) (n : Bool) (t : Nat) (q : Int), (∀ mm me, f.decode (f.maxCode n) = .fin n mm me false → f.exceeds n t q = fvLt (.fin false mm me false) (.fin false t q false)) ∧
    (f ≠ .f32 → f.exceeds n t q = false → f.emin - f.p + 1 ≤ q → t ≤ 2 ^ f.p → (q = f.emin - f.p + 1 ∨ 2 ^ (f.p - 1) ≤ t) → fvEq (f.decode (f.encode n t q)) (.fin n t q false) = true)) ∧
  (∀ (f : Fm) (n : Bool) (m : RMode) (ovf : Bool), let up := match m with | .rz | .ro => false | .ru => !n | .rd => n | _ => true;
    f.overflow n m ovf = if f = .f32 ∨ f = .bf16 ∨ f = .f16 ∨ (f = .e5m2 ∧ ovf = true) then (if up then f.infCode n else f.maxCode n) else if f = .e4m3 ∧ ovf = true then (if up then f.nanCode n else f.maxCode n) else f.maxCode n) ∧
  (∀ n : Bool, Fm.decode .bf16 (Fm.maxCode .bf16 n) = .fin n 255 120 false ∧ Fm.decode .f16 (Fm.maxCode .f16 n) = .fin n 2047 5 false ∧ Fm.decode .e4m3 (Fm.maxCode .e4m3 n) = .fin n 14 5 false ∧ Fm.decode .e5m2 (Fm.maxCode .e5m2 n) = .fin n 7 13 false ∧
    Fm.decode .e3m2 (Fm.maxCode .e3m2 n) = .fin n 7 2 false ∧ Fm.decode .e2m3 (Fm.maxCode .e2m3 n) = .fin n 15 (-1) false ∧ Fm.decode .e2m1 (Fm.maxCode .e2m1 n) = .fin n 3 1 false ∧ Fm.decode .mi8 (Fm.maxCode .mi8 n) = .fin n (if n then 128 else 127) (-6) false ∧
    (∀ f : Fm, f.hasInf = true → f.decode (f.infCode n) = .inf n ∧ f.decode (f.nanCode n) = .nan n false) ∧ Fm.decode .e4m3 (Fm.nanCode .e4m3 n) = .nan n false)

/-- 02 R40, 02 R33, 02 R36. For every carrier, every sequence of in-register narrowings to types whose precision is at least that
of the last format and whose least exponent is at most that of it, and one final rounding in a mode other than stochastic: the
code and the flags are those of the final rounding of the carrier itself. -/
def Obligations.NarrowingChains : Prop :=
  ∀ (ts : List FTy) (w : W32) (f : Fm) (m : RMode) (ovf : Bool) (g : W32), m ≠ .sr → (∀ t ∈ ts, f.p ≤ (FTy.fm t).p ∧ (FTy.fm t).emin ≤ f.emin) →
  let r := ts.foldl (fun (x : W32 × Bool) t => ((fpCvt t x.1 x.2).w, (fpCvt t x.1 x.2).s)) (w, false);
  finalRound r.1 r.2 0 f m ovf g = finalRound w false 0 f m ovf g

/-- 02 R46, 02 R47, 02 R48, 02 R49, 08 R195, 08 R198, 08 R199, 14 R307, 02 R30. A block without valid elements contributes +0; one
with a scale code 255, a NaN element, an infinity times zero or infinities of both signs is NaN, else one with infinite
products is the infinity of their sign, else it is the exact sum of the products at its scales; zero changes nothing, NaN
stays, infinities follow R48 and any other sum is rounded to odd at 24 bits with S kept; a step of a tile adds the block of
its place to each element of its rows and columns and to no other; MSTA stores w, or the FP32 overflow result of an infinity
with S, or the final rounding, whose column generator a stochastic store advances once for an element, however often its
access waits; MLDA loads w with S = 0. That MSTA waits for one element before it writes the next is the model's choice (log
46). -/
def Obligations.MatrixAccumulation : Prop :=
  (∀ (scaled : Bool) (ea eb : Nat) (as bs : List Fv), as.length = bs.length → (as = [] → blockProduct scaled ea eb as bs = .zero false) ∧
    (as ≠ [] → scaled = true → (ea = 255 ∨ eb = 255) → blockProduct scaled ea eb as bs = .nan false false) ∧
    ((∃ x ∈ as.zip bs, x.1.isNan = true ∨ x.2.isNan = true ∨ (∃ n, x.1 = .inf n ∧ x.2.isZero = true) ∨ (∃ n, x.2 = .inf n ∧ x.1.isZero = true)) → blockProduct scaled ea eb as bs = .nan false false) ∧
    (∀ x ∈ as.zip bs, ∀ y ∈ as.zip bs, (fvMul x.1 x.2).1 = .inf true → (fvMul y.1 y.2).1 = .inf false → blockProduct scaled ea eb as bs = .nan false false) ∧
    (∀ x ∈ as.zip bs, ∀ n, (scaled = false ∨ (ea ≠ 255 ∧ eb ≠ 255)) → (fvMul x.1 x.2).1 = .inf n → (∀ y ∈ as.zip bs, (fvMul y.1 y.2).1.isNan = false ∧ (fvMul y.1 y.2).1 ≠ .inf (!n)) → blockProduct scaled ea eb as bs = .inf n) ∧
    (as ≠ [] → (scaled = false ∨ (ea ≠ 255 ∧ eb ≠ 255)) → (∀ x ∈ as.zip bs, ∃ n m e k l d, x = (.fin n m e false, .fin k l d false)) →
      let sum : Int := ((as.zip bs).map fun x => match x with | (.fin n m e _, .fin k l d _) => (if n = k then 1 else -1) * ((m * l : Nat) : Int) * 2 ^ (e + d + 300).toNat | _ => 0).sum;
      blockProduct scaled ea eb as bs = .fin (decide (sum < 0)) sum.natAbs ((if scaled then (ea : Int) + eb - 254 else 0) - 300) false)) ∧
  (∀ (x : AccElem) (v : Fv), (v.isZero = true → x.add v = x) ∧ (v.isZero = false → (valueOf x.w).isNan = true ∨ v.isNan = true → x.add v = ⟨0x7FC00000, false⟩) ∧
    (∀ n, v = .inf n → (valueOf x.w).isNan = false → x.add v = if valueOf x.w = .inf (!n) ∧ x.s = false then ⟨0x7FC00000, false⟩ else ⟨if n then 0xFF800000 else 0x7F800000, false⟩) ∧
    (∀ k n m e, valueOf x.w = .inf k → v = .fin n m e false → x.add v = x) ∧
    (∀ n1 m1 e1 n2 m2 e2, valueOf x.w = .fin n1 m1 e1 false → v = .fin n2 m2 e2 false → m2 ≠ 0 → let e := min e1 e2; let sum : Int := (if n1 then -1 else 1) * ((m1 * 2 ^ (e1 - e).toNat : Nat) : Int) + (if n2 then -1 else 1) * ((m2 * 2 ^ (e2 - e).toNat : Nat) : Int);
      let r := roundToOdd (decide (sum < 0)) sum.natAbs e false 24 (-126) 127; x.add v = ⟨carrier r.1, x.s || r.2⟩)) ∧
  (∀ (acc : Tbl AccElem) (p : Option (MxFmt × MxFmt)) (base n t kv st : Nat) (rows : List (List Fv × List Nat)) (tile : List Byte), 16 * (t + 1) ≤ n → let q := st % (MmaPair.k p / 32); let group := st / (MmaPair.k p / 32);
    let col (j : Nat) : List Fv := (((MmaPair.b p).codes ((tile.drop (MmaPair.bCol p * j)).take (MmaPair.bCol p))).map (MmaPair.b p).decode).take kv;
    let scale (j : Nat) : Nat := ((((tile.drop (16 * MmaPair.bCol p)).drop (MmaPair.scales p * j)).take (MmaPair.scales p)).map (·.toNat)).getD q 0;
    (∀ i row j, rows[i]? = some row → j < 16 → j / 4 = group → let e := base + n * i + 16 * t + j;
      tget (accStep acc p base n t kv st rows tile) e {} = (tget acc e {}).add (blockProduct p.isSome (row.2.getD q 0) (scale j) (blockOf row.1 q) (blockOf (col j) q))) ∧
    (∀ e, (∀ i j, i < rows.length → j / 4 = group → e ≠ base + n * i + 16 * t + j) → tget (accStep acc p base n t kv st rows tile) e {} = tget acc e {})) ∧
  (∀ (x : AccElem) (fmt : FTy) (mode : RMode) (ovf : Bool) (g : W32), (fmt ≠ .f32 → x.store fmt mode ovf g = (finalRound x.w x.s 0 (FTy.fm fmt) mode ovf g).1) ∧
    (∀ n, valueOf x.w = .inf n → x.s = true → x.store .f32 mode ovf g = Fm.f32.overflow n mode ovf) ∧ (((∀ n, valueOf x.w ≠ .inf n) ∨ x.s = false) → x.store .f32 mode ovf g = x.w.toNat)) ∧
  (∀ (core : Nat) (c : MeCmd) (sc : Scope) (base : Nat) (a sh : W64) (s : State), c.op = .mlda sc base a sh → let va := a + BitVec.ofNat 64 (c.progress / shCols sh * shPitch sh + 4 * (c.progress % shCols sh));
    (va.toNat % 4 ≠ 0 → s.meElem core c = s.elemFails core c va 0x09) ∧
    (∀ t bs, va.toNat % 4 = 0 → s.meHeld core c va 4 = false → s.engAccess c.who c.id c.io .load .load va 4 = .done t bs →
      s.meElem core c = (t.setAcc core (base + c.progress) { w := BitVec.ofNat 32 (leNat bs), s := false }).setHead core { c with progress := c.progress + 1, io := {} })) ∧
  (∀ (core : Nat) (c : MeCmd) (fmt : FTy) (sc : Scope) (mode : RMode) (base : Nat) (a sh : W64) (ovf : Bool) (s : State), c.op = .msta fmt sc mode base a sh ovf → let j := c.progress % shCols sh; let f := FTy.fm fmt; let now := vget (s.core core).gens (j % 16) 0; let g := if c.drew = true then now else xorshift32 now;
    let code := (tget (s.core core).acc (base + c.progress) {}).store fmt mode ovf g; let va := a + BitVec.ofNat 64 (c.progress / shCols sh * shPitch sh + (f.place j).1);
    let k : AccKind := if f = .e2m1 then .nibble (j % 2 == 1) (BitVec.ofNat 8 code) else .store (leBytes f.bytes code);
    (∀ t bs, mode ≠ .sr → va.toNat % f.bytes = 0 → s.meHeld core c va f.bytes = false → s.engAccess c.who c.id c.io .store k va f.bytes = .done t bs →
      s.meElem core c = t.setHead core { c with progress := c.progress + 1, io := {}, drew := false }) ∧
    (∀ t bs, mode = .sr → va.toNat % f.bytes = 0 → s.meHeld core c va f.bytes = false → s.engAccess c.who c.id c.io .store k va f.bytes = .done t bs →
      s.meElem core c = (t.setCore core { t.core core with gens := vset (t.core core).gens (j % 16) g }).setHead core { c with progress := c.progress + 1, io := {}, drew := false }) ∧
    (∀ t io, mode = .sr → va.toNat % f.bytes = 0 → s.meHeld core c va f.bytes = false → s.engAccess c.who c.id c.io .store k va f.bytes = .wait t io →
      s.meElem core c = (t.setCore core { t.core core with gens := vset (t.core core).gens (j % 16) g }).setHead core { c with io := io, drew := true })) ∧
  (∀ (core i : Nat) (e : AccElem) (s : State), (((s.setAcc core i e).core core).accAt i = e) ∧ ∀ j, j ≠ i → ((s.setAcc core i e).core core).accAt j = (s.core core).accAt j)
end

