-- ==== Sys2Proof/Laws/Memory.lean ====
section
/-!
SUPPORT. Tables, vectors and register files read back what is set; memory reads back what is written and nothing else changes, and
every write keeps the canonical form.
-/
namespace Sys2Proof.Machine
open Sys2Proof

/-! ### Tables -/

theorem tget_tset_self (t : Tbl α) (k : Nat) (a d : α) : tget (tset t k a) k d = a := by
  induction t with
  | nil => simp [tset, tget]
  | cons e r ih =>
    obtain ⟨j, b⟩ := e
    simp only [tset]
    split
    · simp [tget]
    · split
      · simp [tget]
      · simp [tget, *]
theorem tget_tset_ne (t : Tbl α) {k n : Nat} (a d : α) (h : n ≠ k) : tget (tset t k a) n d = tget t n d := by
  induction t with
  | nil => simp [tset, tget, Ne.symm h]
  | cons e r ih =>
    obtain ⟨j, b⟩ := e
    simp only [tset]
    split
    · simp [tget, Ne.symm h]
    · split
      · subst_vars; simp [tget, Ne.symm h]
      · simp [tget, ih]
theorem tget_tset (t : Tbl α) (k n : Nat) (a d : α) : tget (tset t k a) n d = if n = k then a else tget t n d := by
  split
  · subst_vars; exact tget_tset_self ..
  · exact tget_tset_ne _ _ _ ‹_›
theorem tset_tset (t : Tbl α) (k : Nat) (a b : α) : tset (tset t k a) k b = tset t k b := by
  induction t with
  | nil => simp [tset]
  | cons e r ih =>
    obtain ⟨j, c⟩ := e
    simp only [tset]
    split
    · simp [tset]
    · split
      · subst_vars; simp [tset]
      · simp [tset, *]

/-! ### Vectors and register files -/

theorem vget_vset_self (v : Vector α n) {i : Nat} (a d : α) (h : i < n) : vget (vset v i a) i d = a := by simp [vget, vset, h]
theorem vget_vset_ne (v : Vector α n) {i j : Nat} (a d : α) (h : j ≠ i) : vget (vset v i a) j d = vget v j d := by
  simp [vget, vset, Ne.symm h]
theorem rget_rset (v : Vector α 32) (r q : BitVec 5) (a : α) : rget (rset v r a) q = if q = r then a else rget v q := by
  simp only [rget, rset, Vector.getElem_set]
  by_cases h : q = r
  · simp [h]
  · have : r.toNat ≠ q.toNat := fun e => h (BitVec.eq_of_toNat_eq e.symm)
    simp [h, this]
theorem mget_mset (v : Vector α 8) (r q : BitVec 3) (a : α) : mget (mset v r a) q = if q = r then a else mget v q := by
  simp only [mget, mset, Vector.getElem_set]
  by_cases h : q = r
  · simp [h]
  · have : r.toNat ≠ q.toNat := fun e => h (BitVec.eq_of_toNat_eq e.symm)
    simp [h, this]

/-! ### The units of the state -/

theorem State.core_setCore (s : State) (n k : Nat) (c : Core) : (s.setCore n c).core k = if k = n then c else s.core k := tget_tset ..
@[simp] theorem State.core_setCore_self (s : State) (n : Nat) (c : Core) : (s.setCore n c).core n = c := tget_tset_self ..
theorem State.cluster_setCluster (s : State) (n k : Nat) (c : Cluster) : (s.setCluster n c).cluster k = if k = n then c else s.cluster k :=
  tget_tset ..
@[simp] theorem State.cluster_setCluster_self (s : State) (n : Nat) (c : Cluster) : (s.setCluster n c).cluster n = c := tget_tset_self ..
theorem State.slice_setSlice (s : State) (n k : Nat) (c : Slice) : (s.setSlice n c).slice k = if k = n then c else s.slice k := tget_tset ..
@[simp] theorem State.slice_setSlice_self (s : State) (n : Nat) (c : Slice) : (s.setSlice n c).slice n = c := tget_tset_self ..
theorem State.partn_setPartn (s : State) (n k : Nat) (c : Partition) : (s.setPartn n c).partn k = if k = n then c else s.partn k :=
  tget_tset ..
@[simp] theorem State.partn_setPartn_self (s : State) (n : Nat) (c : Partition) : (s.setPartn n c).partn n = c := tget_tset_self ..
@[simp] theorem State.setCore_setCore (s : State) (n : Nat) (c d : Core) : (s.setCore n c).setCore n d = s.setCore n d := by
  simp [State.setCore, tset_tset]
/-- A slot reads back; a number past 15 names none. -/
theorem State.slotOf_setSlot_self (s : State) (c : Nat) {k : Nat} (x : Slot) (h : k < 16) : (s.setSlot c k x).slotOf c k = x := by
  simp [State.slotOf, State.setSlot, vget_vset_self, h]
theorem State.slotOf_setSlot_ne (s : State) {c d k j : Nat} (x : Slot) (h : d ≠ c ∨ j ≠ k) :
    (s.setSlot c k x).slotOf d j = s.slotOf d j := by
  simp only [State.slotOf, State.setSlot, State.core_setCore]
  by_cases hd : d = c
  · subst hd; simp [vget_vset_ne _ _ _ (h.resolve_left (by simp))]
  · simp [hd]
theorem State.strandOf_setStrandOf_self (s : State) (c : Nat) {k : Nat} (x : Strand) (h : k < 16) :
    (s.setStrandOf c k x).strandOf c k = x := by
  simp [State.strandOf, State.setStrandOf, State.slotOf_setSlot_self _ _ _ h]
/-- The strand that issues reads back. -/
theorem State.strand_setStrand (s : State) (x : Strand) (h : s.cur.slot < 16) : (s.setStrand x).strand = x :=
  State.strandOf_setStrandOf_self s _ x h

/-! ### Memory: the canonical form -/

/-- Every key of a memory is greater than `k`. -/
def Memory.above (k : Nat) (m : List Host.Cell) : Prop := ∀ c ∈ m, k < c.1

theorem Memory.wf_cons {j : Nat} {b : Byte} {m : List Host.Cell} :
    Memory.wf ((j, b) :: m) = true ↔ b ≠ memDefault ∧ Memory.above j m ∧ Memory.wf m = true := by
  induction m generalizing j b with
  | nil => simp [Memory.wf, Memory.above]
  | cons e r ih =>
    obtain ⟨k, c⟩ := e
    rw [Memory.wf, Bool.and_eq_true, Bool.and_eq_true, ih]
    constructor
    · rintro ⟨⟨h1, h2⟩, h3, h4, h5⟩
      refine ⟨by simpa using h1, ?_, h3, h4, h5⟩
      intro x hx
      rcases List.mem_cons.mp hx with rfl | hx
      · exact of_decide_eq_true h2
      · exact Nat.lt_trans (of_decide_eq_true h2) (h4 x hx)
    · rintro ⟨h1, h2, h3, h4, h5⟩
      exact ⟨⟨by simpa using h1, decide_eq_true (h2 (k, c) (by simp))⟩, h3, h4, h5⟩

theorem Memory.above_write {k n : Nat} {b : Byte} {m : List Host.Cell} (h : Memory.above k m) (hn : k < n) :
    Memory.above k (memWrite m n b) := by
  induction m with
  | nil => simp only [memWrite]; split <;> simp [Memory.above, hn]
  | cons e r ih =>
    obtain ⟨j, x⟩ := e
    have hr : Memory.above k r := fun c hc => h c (List.mem_cons_of_mem _ hc)
    have hj : k < j := h (j, x) (by simp)
    simp only [memWrite]
    repeat' split
    all_goals intro c hc
    · exact h c hc
    · rcases List.mem_cons.mp hc with rfl | hc
      · exact hn
      · exact h c hc
    · exact hr c hc
    · rcases List.mem_cons.mp hc with rfl | hc
      · exact hn
      · exact hr c hc
    · rcases List.mem_cons.mp hc with rfl | hc
      · exact hj
      · exact ih hr c hc

/-- Log 6: a write of one byte keeps the canonical form. -/
theorem Memory.wf_memWrite {m : List Host.Cell} (h : Memory.wf m = true) (k : Nat) (b : Byte) : Memory.wf (memWrite m k b) = true := by
  induction m with
  | nil => simp only [memWrite]; split <;> simp_all [Memory.wf]
  | cons e r ih =>
    obtain ⟨j, x⟩ := e
    obtain ⟨hx, ha, hr⟩ := Memory.wf_cons.mp h
    simp only [memWrite]
    split
    · split
      · exact h
      · refine Memory.wf_cons.mpr ⟨‹_›, ?_, h⟩
        intro c hc
        rcases List.mem_cons.mp hc with rfl | hc
        · assumption
        · exact Nat.lt_trans ‹_› (ha c hc)
    · split
      · subst_vars
        split
        · exact hr
        · exact Memory.wf_cons.mpr ⟨‹_›, ha, hr⟩
      · exact Memory.wf_cons.mpr ⟨hx, Memory.above_write ha (by omega), ih hr⟩
theorem Memory.wf_memWriteN {m : List Host.Cell} (h : Memory.wf m = true) (k : Nat) (bs : List Byte) :
    Memory.wf (memWriteN m k bs) = true := by
  induction bs generalizing m k with
  | nil => exact h
  | cons b bs ih => exact ih (Memory.wf_memWrite h k b) (k + 1)
theorem Memory.wf_filter {m : List Host.Cell} (h : Memory.wf m = true) (p : Host.Cell → Bool) : Memory.wf (m.filter p) = true := by
  induction m with
  | nil => rfl
  | cons e r ih =>
    obtain ⟨j, x⟩ := e
    obtain ⟨hx, ha, hr⟩ := Memory.wf_cons.mp h
    simp only [List.filter_cons]
    split
    · exact Memory.wf_cons.mpr ⟨hx, fun c hc => ha c (List.mem_filter.mp hc).1, ih hr⟩
    · exact ih hr
theorem Memory.wf_foldl_write {m : List Host.Cell} (h : Memory.wf m = true) (l : List α) (k : α → Nat) (b : α → Byte) :
    Memory.wf (l.foldl (fun t c => memWrite t (k c) (b c)) m) = true := by
  induction l generalizing m with
  | nil => exact h
  | cons c l ih => exact ih (Memory.wf_memWrite h _ _)

theorem Memory.wf_append {a b : List Host.Cell} (ha : Memory.wf a = true) (hb : Memory.wf b = true)
    (h : ∀ x ∈ a, ∀ y ∈ b, x.1 < y.1) : Memory.wf (a ++ b) = true := by
  induction a with
  | nil => exact hb
  | cons e r ih =>
    obtain ⟨j, x⟩ := e
    obtain ⟨hx, hj, hr⟩ := Memory.wf_cons.mp ha
    refine Memory.wf_cons.mpr ⟨hx, ?_, ih hr fun x hx y hy => h x (List.mem_cons_of_mem _ hx) y hy⟩
    intro c hc
    rcases List.mem_append.mp hc with hc | hc
    · exact hj c hc
    · exact h (j, x) (by simp) c hc

/-! ### Memory: what reads back -/

theorem memRead_above {k : Nat} {m : List Host.Cell} (h : Memory.above k m) : memRead m k = memDefault := by
  induction m with
  | nil => rfl
  | cons e r ih =>
    obtain ⟨j, x⟩ := e
    have hj : k < j := h (j, x) (by simp)
    have hr : Memory.above k r := fun c hc => h c (List.mem_cons_of_mem _ hc)
    rw [memRead, tget]
    simp only [show j ≠ k by omega, if_false]
    exact ih hr

/-- A read after a write of one byte. -/
theorem memRead_memWrite {m : List Host.Cell} (h : Memory.wf m = true) (k n : Nat) (b : Byte) :
    memRead (memWrite m k b) n = if n = k then b else memRead m n := by
  induction m with
  | nil =>
    simp only [memWrite]
    split
    · split
      · simp_all [memRead, tget]
      · rfl
    · split
      · simp_all [memRead, tget]
      · simp [memRead, tget, Ne.symm ‹_›]
  | cons e r ih =>
    obtain ⟨j, x⟩ := e
    obtain ⟨hx, ha, hr⟩ := Memory.wf_cons.mp h
    have hrd : ∀ y, memRead ((j, y) :: r) n = if j = n then y else memRead r n := fun y => rfl
    have hk : k < j → memRead ((j, x) :: r) k = memDefault := fun hlt => memRead_above (fun c hc => by
      rcases List.mem_cons.mp hc with rfl | hc
      · exact hlt
      · exact Nat.lt_trans hlt (ha c hc))
    simp only [memWrite]
    split
    · rename_i hlt
      split
      · rename_i hb
        split
        · rename_i hn; rw [hn, hk hlt, hb]
        · rfl
      · show tget ((k, b) :: (j, x) :: r) n memDefault = _
        rw [tget]
        by_cases hn : n = k
        · simp [hn]
        · simp [hn, Ne.symm hn]; rfl
    · split
      · rename_i hjk
        subst hjk
        split
        · rename_i hb
          by_cases hn : n = j
          · rw [if_pos hn, hn, hb]; exact memRead_above ha
          · rw [if_neg hn, hrd, if_neg (Ne.symm hn)]
        · rw [hrd, hrd]
          by_cases hn : n = j
          · simp [hn]
          · simp [hn, Ne.symm hn]
      · rename_i hlt hjk
        rw [show memRead ((j, x) :: memWrite r k b) n = if j = n then x else memRead (memWrite r k b) n from rfl, ih hr, hrd]
        by_cases hn : n = k
        · have : j ≠ n := by omega
          simp [hn, hjk]
        · simp [hn]

/-- A write of bytes leaves every other byte. -/
theorem memRead_memWriteN_outside {m : List Host.Cell} (h : Memory.wf m = true) (k n : Nat) (bs : List Byte)
    (ho : n < k ∨ k + bs.length ≤ n) : memRead (memWriteN m k bs) n = memRead m n := by
  induction bs generalizing m k with
  | nil => rfl
  | cons b bs ih =>
    simp only [List.length_cons] at ho
    rw [memWriteN, ih (Memory.wf_memWrite h k b) (k + 1) (by omega), memRead_memWrite h, if_neg (by omega)]
/-- Each byte written reads back. -/
theorem memRead_memWriteN {m : List Host.Cell} (h : Memory.wf m = true) (k i : Nat) (bs : List Byte) (hi : i < bs.length) :
    memRead (memWriteN m k bs) (k + i) = bs[i] := by
  induction bs generalizing m k i with
  | nil => simp at hi
  | cons b bs ih =>
    rw [memWriteN]
    cases i with
    | zero =>
      rw [memRead_memWriteN_outside (Memory.wf_memWrite h k b) _ _ _ (by omega), Nat.add_zero, memRead_memWrite h]; simp
    | succ i =>
      rw [show k + (i + 1) = k + 1 + i by omega, ih (Memory.wf_memWrite h k b) (k + 1) i (by simpa using hi)]; simp
theorem memReadN_length (m : List Host.Cell) (k n : Nat) : (memReadN m k n).length = n := by
  induction n generalizing k with
  | zero => rfl
  | succ n ih => simp [memReadN, ih]
/-- The bytes written read back as they were. -/
theorem memReadN_memWriteN {m : List Host.Cell} (h : Memory.wf m = true) (k : Nat) (bs : List Byte) :
    memReadN (memWriteN m k bs) k bs.length = bs := by
  induction bs generalizing m k with
  | nil => rfl
  | cons b bs ih =>
    rw [List.length_cons, memReadN, memWriteN, ih (Memory.wf_memWrite h k b),
      memRead_memWriteN_outside (Memory.wf_memWrite h k b) _ _ _ (by omega), memRead_memWrite h, if_pos rfl]
theorem leBytes_length (n v : Nat) : (leBytes n v).length = n := by
  induction n generalizing v with
  | zero => rfl
  | succ n ih => simp [leBytes, ih]
theorem leNat_leBytes (n v : Nat) : leNat (leBytes n v) = v % 256 ^ n := by
  induction n generalizing v with
  | zero => simp [leBytes, leNat, Nat.mod_one]
  | succ n ih =>
    rw [leBytes, leNat, ih, BitVec.toNat_ofNat, Nat.pow_succ' (n := n), Nat.mod_mul]
/-- R1: a word written reads back. -/
theorem State.readW_writeW (s : State) (h : Memory.wf s.mem = true) (l : Loc) (v : W64) : (s.writeW l v).readW l = v := by
  have hl := leBytes_length 8 v.toNat
  have e := memReadN_memWriteN h l.key (leBytes 8 v.toNat)
  rw [hl] at e
  show BitVec.ofNat 64 (leNat (memReadN (memWriteN s.mem l.key (leBytes 8 v.toNat)) l.key 8)) = v
  rw [e, leNat_leBytes]
  apply BitVec.eq_of_toNat_eq
  have := v.isLt
  rw [BitVec.toNat_ofNat]; omega

end Sys2Proof.Machine
end

