-- ==== Sys2Proof/Laws/State.lean ====
section
/-!
SUPPORT. What each named update of the state leaves as it was, field by field, and the sources of a bundle after each of them.
-/
namespace Sys2Proof.Machine
open Sys2Proof

/-! ### `State.setCore` -/

@[simp] theorem State.setCore_clusters (s : State) (n : Nat) (c : Core) : (s.setCore n c).clusters = s.clusters := rfl
@[simp] theorem State.setCore_slices (s : State) (n : Nat) (c : Core) : (s.setCore n c).slices = s.slices := rfl
@[simp] theorem State.setCore_parts (s : State) (n : Nat) (c : Core) : (s.setCore n c).parts = s.parts := rfl
@[simp] theorem State.setCore_islands (s : State) (n : Nat) (c : Core) : (s.setCore n c).islands = s.islands := rfl
@[simp] theorem State.setCore_mem (s : State) (n : Nat) (c : Core) : (s.setCore n c).mem = s.mem := rfl
@[simp] theorem State.setCore_fe (s : State) (n : Nat) (c : Core) : (s.setCore n c).fe = s.fe := rfl
@[simp] theorem State.setCore_sbits (s : State) (n : Nat) (c : Core) : (s.setCore n c).sbits = s.sbits := rfl
@[simp] theorem State.setCore_retry (s : State) (n : Nat) (c : Core) : (s.setCore n c).retry = s.retry := rfl
@[simp] theorem State.setCore_net (s : State) (n : Nat) (c : Core) : (s.setCore n c).net = s.net := rfl
@[simp] theorem State.setCore_reorder (s : State) (n : Nat) (c : Core) : (s.setCore n c).reorder = s.reorder := rfl
@[simp] theorem State.setCore_arrived (s : State) (n : Nat) (c : Core) : (s.setCore n c).arrived = s.arrived := rfl
@[simp] theorem State.setCore_sendSeq (s : State) (n : Nat) (c : Core) : (s.setCore n c).sendSeq = s.sendSeq := rfl
@[simp] theorem State.setCore_recvSeq (s : State) (n : Nat) (c : Core) : (s.setCore n c).recvSeq = s.recvSeq := rfl
@[simp] theorem State.setCore_failed (s : State) (n : Nat) (c : Core) : (s.setCore n c).failed = s.failed := rfl
@[simp] theorem State.setCore_dlt (s : State) (n : Nat) (c : Core) : (s.setCore n c).dlt = s.dlt := rfl
@[simp] theorem State.setCore_devid (s : State) (n : Nat) (c : Core) : (s.setCore n c).devid = s.devid := rfl
@[simp] theorem State.setCore_devidSet (s : State) (n : Nat) (c : Core) : (s.setCore n c).devidSet = s.devidSet := rfl
@[simp] theorem State.setCore_keys (s : State) (n : Nat) (c : Core) : (s.setCore n c).keys = s.keys := rfl
@[simp] theorem State.setCore_retired (s : State) (n : Nat) (c : Core) : (s.setCore n c).retired = s.retired := rfl
@[simp] theorem State.setCore_jobs (s : State) (n : Nat) (c : Core) : (s.setCore n c).jobs = s.jobs := rfl
@[simp] theorem State.setCore_gangs (s : State) (n : Nat) (c : Core) : (s.setCore n c).gangs = s.gangs := rfl
@[simp] theorem State.setCore_fabSeq (s : State) (n : Nat) (c : Core) : (s.setCore n c).fabSeq = s.fabSeq := rfl
@[simp] theorem State.setCore_fabOut (s : State) (n : Nat) (c : Core) : (s.setCore n c).fabOut = s.fabOut := rfl
@[simp] theorem State.setCore_fabCredits (s : State) (n : Nat) (c : Core) : (s.setCore n c).fabCredits = s.fabCredits := rfl
@[simp] theorem State.setCore_fabRecv (s : State) (n : Nat) (c : Core) : (s.setCore n c).fabRecv = s.fabRecv := rfl
@[simp] theorem State.setCore_fabIn (s : State) (n : Nat) (c : Core) : (s.setCore n c).fabIn = s.fabIn := rfl
@[simp] theorem State.setCore_fabOpen (s : State) (n : Nat) (c : Core) : (s.setCore n c).fabOpen = s.fabOpen := rfl
@[simp] theorem State.setCore_switchBuf (s : State) (n : Nat) (c : Core) : (s.setCore n c).switchBuf = s.switchBuf := rfl
@[simp] theorem State.setCore_portsDown (s : State) (n : Nat) (c : Core) : (s.setCore n c).portsDown = s.portsDown := rfl
@[simp] theorem State.setCore_winLg (s : State) (n : Nat) (c : Core) : (s.setCore n c).winLg = s.winLg := rfl
@[simp] theorem State.setCore_hostQ (s : State) (n : Nat) (c : Core) : (s.setCore n c).hostQ = s.hostQ := rfl
@[simp] theorem State.setCore_hostOpen (s : State) (n : Nat) (c : Core) : (s.setCore n c).hostOpen = s.hostOpen := rfl
@[simp] theorem State.setCore_hostDone (s : State) (n : Nat) (c : Core) : (s.setCore n c).hostDone = s.hostDone := rfl
@[simp] theorem State.setCore_hostUr (s : State) (n : Nat) (c : Core) : (s.setCore n c).hostUr = s.hostUr := rfl
@[simp] theorem State.setCore_msi (s : State) (n : Nat) (c : Core) : (s.setCore n c).msi = s.msi := rfl
@[simp] theorem State.setCore_msix (s : State) (n : Nat) (c : Core) : (s.setCore n c).msix = s.msix := rfl
@[simp] theorem State.setCore_boot (s : State) (n : Nat) (c : Core) : (s.setCore n c).boot = s.boot := rfl
@[simp] theorem State.setCore_mailbox (s : State) (n : Nat) (c : Core) : (s.setCore n c).mailbox = s.mailbox := rfl
@[simp] theorem State.setCore_flash (s : State) (n : Nat) (c : Core) : (s.setCore n c).flash = s.flash := rfl
@[simp] theorem State.setCore_spdm (s : State) (n : Nat) (c : Core) : (s.setCore n c).spdm = s.spdm := rfl
@[simp] theorem State.setCore_power (s : State) (n : Nat) (c : Core) : (s.setCore n c).power = s.power := rfl
@[simp] theorem State.setCore_time (s : State) (n : Nat) (c : Core) : (s.setCore n c).time = s.time := rfl
@[simp] theorem State.setCore_cur (s : State) (n : Nat) (c : Core) : (s.setCore n c).cur = s.cur := rfl
@[simp] theorem State.setCore_agenda (s : State) (n : Nat) (c : Core) : (s.setCore n c).agenda = s.agenda := rfl
@[simp] theorem State.setCore_auto (s : State) (n : Nat) (c : Core) : (s.setCore n c).auto = s.auto := rfl
@[simp] theorem State.setCore_freeCtr (s : State) (n : Nat) (c : Core) : (s.setCore n c).freeCtr = s.freeCtr := rfl
@[simp] theorem State.setCore_token (s : State) (n : Nat) (c : Core) : (s.setCore n c).token = s.token := rfl
@[simp] theorem State.setCore_g (s : State) (n : Nat) (c : Core) (r : GR) : (s.setCore n c).g r = s.g r := rfl
@[simp] theorem State.setCore_gS (s : State) (n : Nat) (c : Core) (r : GR) : (s.setCore n c).gS r = s.gS r := rfl
@[simp] theorem State.setCore_gq (s : State) (n : Nat) (c : Core) (r : GR) : (s.setCore n c).gq r = s.gq r := rfl
@[simp] theorem State.setCore_pr (s : State) (n : Nat) (c : Core) (q : PR) : (s.setCore n c).pr q = s.pr q := rfl
@[simp] theorem State.setCore_mr (s : State) (n : Nat) (c : Core) (q : MR) : (s.setCore n c).mr q = s.mr q := rfl
@[simp] theorem State.setCore_vr (s : State) (n : Nat) (c : Core) (q : VR) : (s.setCore n c).vr q = s.vr q := rfl

/-! ### `State.setCluster` -/

@[simp] theorem State.setCluster_cores (s : State) (n : Nat) (c : Cluster) : (s.setCluster n c).cores = s.cores := rfl
@[simp] theorem State.setCluster_slices (s : State) (n : Nat) (c : Cluster) : (s.setCluster n c).slices = s.slices := rfl
@[simp] theorem State.setCluster_parts (s : State) (n : Nat) (c : Cluster) : (s.setCluster n c).parts = s.parts := rfl
@[simp] theorem State.setCluster_islands (s : State) (n : Nat) (c : Cluster) : (s.setCluster n c).islands = s.islands := rfl
@[simp] theorem State.setCluster_mem (s : State) (n : Nat) (c : Cluster) : (s.setCluster n c).mem = s.mem := rfl
@[simp] theorem State.setCluster_fe (s : State) (n : Nat) (c : Cluster) : (s.setCluster n c).fe = s.fe := rfl
@[simp] theorem State.setCluster_sbits (s : State) (n : Nat) (c : Cluster) : (s.setCluster n c).sbits = s.sbits := rfl
@[simp] theorem State.setCluster_retry (s : State) (n : Nat) (c : Cluster) : (s.setCluster n c).retry = s.retry := rfl
@[simp] theorem State.setCluster_net (s : State) (n : Nat) (c : Cluster) : (s.setCluster n c).net = s.net := rfl
@[simp] theorem State.setCluster_reorder (s : State) (n : Nat) (c : Cluster) : (s.setCluster n c).reorder = s.reorder := rfl
@[simp] theorem State.setCluster_arrived (s : State) (n : Nat) (c : Cluster) : (s.setCluster n c).arrived = s.arrived := rfl
@[simp] theorem State.setCluster_sendSeq (s : State) (n : Nat) (c : Cluster) : (s.setCluster n c).sendSeq = s.sendSeq := rfl
@[simp] theorem State.setCluster_recvSeq (s : State) (n : Nat) (c : Cluster) : (s.setCluster n c).recvSeq = s.recvSeq := rfl
@[simp] theorem State.setCluster_failed (s : State) (n : Nat) (c : Cluster) : (s.setCluster n c).failed = s.failed := rfl
@[simp] theorem State.setCluster_dlt (s : State) (n : Nat) (c : Cluster) : (s.setCluster n c).dlt = s.dlt := rfl
@[simp] theorem State.setCluster_devid (s : State) (n : Nat) (c : Cluster) : (s.setCluster n c).devid = s.devid := rfl
@[simp] theorem State.setCluster_devidSet (s : State) (n : Nat) (c : Cluster) : (s.setCluster n c).devidSet = s.devidSet := rfl
@[simp] theorem State.setCluster_keys (s : State) (n : Nat) (c : Cluster) : (s.setCluster n c).keys = s.keys := rfl
@[simp] theorem State.setCluster_retired (s : State) (n : Nat) (c : Cluster) : (s.setCluster n c).retired = s.retired := rfl
@[simp] theorem State.setCluster_jobs (s : State) (n : Nat) (c : Cluster) : (s.setCluster n c).jobs = s.jobs := rfl
@[simp] theorem State.setCluster_gangs (s : State) (n : Nat) (c : Cluster) : (s.setCluster n c).gangs = s.gangs := rfl
@[simp] theorem State.setCluster_fabSeq (s : State) (n : Nat) (c : Cluster) : (s.setCluster n c).fabSeq = s.fabSeq := rfl
@[simp] theorem State.setCluster_fabOut (s : State) (n : Nat) (c : Cluster) : (s.setCluster n c).fabOut = s.fabOut := rfl
@[simp] theorem State.setCluster_fabCredits (s : State) (n : Nat) (c : Cluster) : (s.setCluster n c).fabCredits = s.fabCredits := rfl
@[simp] theorem State.setCluster_fabRecv (s : State) (n : Nat) (c : Cluster) : (s.setCluster n c).fabRecv = s.fabRecv := rfl
@[simp] theorem State.setCluster_fabIn (s : State) (n : Nat) (c : Cluster) : (s.setCluster n c).fabIn = s.fabIn := rfl
@[simp] theorem State.setCluster_fabOpen (s : State) (n : Nat) (c : Cluster) : (s.setCluster n c).fabOpen = s.fabOpen := rfl
@[simp] theorem State.setCluster_switchBuf (s : State) (n : Nat) (c : Cluster) : (s.setCluster n c).switchBuf = s.switchBuf := rfl
@[simp] theorem State.setCluster_portsDown (s : State) (n : Nat) (c : Cluster) : (s.setCluster n c).portsDown = s.portsDown := rfl
@[simp] theorem State.setCluster_winLg (s : State) (n : Nat) (c : Cluster) : (s.setCluster n c).winLg = s.winLg := rfl
@[simp] theorem State.setCluster_hostQ (s : State) (n : Nat) (c : Cluster) : (s.setCluster n c).hostQ = s.hostQ := rfl
@[simp] theorem State.setCluster_hostOpen (s : State) (n : Nat) (c : Cluster) : (s.setCluster n c).hostOpen = s.hostOpen := rfl
@[simp] theorem State.setCluster_hostDone (s : State) (n : Nat) (c : Cluster) : (s.setCluster n c).hostDone = s.hostDone := rfl
@[simp] theorem State.setCluster_hostUr (s : State) (n : Nat) (c : Cluster) : (s.setCluster n c).hostUr = s.hostUr := rfl
@[simp] theorem State.setCluster_msi (s : State) (n : Nat) (c : Cluster) : (s.setCluster n c).msi = s.msi := rfl
@[simp] theorem State.setCluster_msix (s : State) (n : Nat) (c : Cluster) : (s.setCluster n c).msix = s.msix := rfl
@[simp] theorem State.setCluster_boot (s : State) (n : Nat) (c : Cluster) : (s.setCluster n c).boot = s.boot := rfl
@[simp] theorem State.setCluster_mailbox (s : State) (n : Nat) (c : Cluster) : (s.setCluster n c).mailbox = s.mailbox := rfl
@[simp] theorem State.setCluster_flash (s : State) (n : Nat) (c : Cluster) : (s.setCluster n c).flash = s.flash := rfl
@[simp] theorem State.setCluster_spdm (s : State) (n : Nat) (c : Cluster) : (s.setCluster n c).spdm = s.spdm := rfl
@[simp] theorem State.setCluster_power (s : State) (n : Nat) (c : Cluster) : (s.setCluster n c).power = s.power := rfl
@[simp] theorem State.setCluster_time (s : State) (n : Nat) (c : Cluster) : (s.setCluster n c).time = s.time := rfl
@[simp] theorem State.setCluster_cur (s : State) (n : Nat) (c : Cluster) : (s.setCluster n c).cur = s.cur := rfl
@[simp] theorem State.setCluster_agenda (s : State) (n : Nat) (c : Cluster) : (s.setCluster n c).agenda = s.agenda := rfl
@[simp] theorem State.setCluster_auto (s : State) (n : Nat) (c : Cluster) : (s.setCluster n c).auto = s.auto := rfl
@[simp] theorem State.setCluster_freeCtr (s : State) (n : Nat) (c : Cluster) : (s.setCluster n c).freeCtr = s.freeCtr := rfl
@[simp] theorem State.setCluster_token (s : State) (n : Nat) (c : Cluster) : (s.setCluster n c).token = s.token := rfl
@[simp] theorem State.setCluster_g (s : State) (n : Nat) (c : Cluster) (r : GR) : (s.setCluster n c).g r = s.g r := rfl
@[simp] theorem State.setCluster_gS (s : State) (n : Nat) (c : Cluster) (r : GR) : (s.setCluster n c).gS r = s.gS r := rfl
@[simp] theorem State.setCluster_gq (s : State) (n : Nat) (c : Cluster) (r : GR) : (s.setCluster n c).gq r = s.gq r := rfl
@[simp] theorem State.setCluster_pr (s : State) (n : Nat) (c : Cluster) (q : PR) : (s.setCluster n c).pr q = s.pr q := rfl
@[simp] theorem State.setCluster_mr (s : State) (n : Nat) (c : Cluster) (q : MR) : (s.setCluster n c).mr q = s.mr q := rfl
@[simp] theorem State.setCluster_vr (s : State) (n : Nat) (c : Cluster) (q : VR) : (s.setCluster n c).vr q = s.vr q := rfl

/-! ### `State.setSlice` -/

@[simp] theorem State.setSlice_cores (s : State) (n : Nat) (c : Slice) : (s.setSlice n c).cores = s.cores := rfl
@[simp] theorem State.setSlice_clusters (s : State) (n : Nat) (c : Slice) : (s.setSlice n c).clusters = s.clusters := rfl
@[simp] theorem State.setSlice_parts (s : State) (n : Nat) (c : Slice) : (s.setSlice n c).parts = s.parts := rfl
@[simp] theorem State.setSlice_islands (s : State) (n : Nat) (c : Slice) : (s.setSlice n c).islands = s.islands := rfl
@[simp] theorem State.setSlice_mem (s : State) (n : Nat) (c : Slice) : (s.setSlice n c).mem = s.mem := rfl
@[simp] theorem State.setSlice_fe (s : State) (n : Nat) (c : Slice) : (s.setSlice n c).fe = s.fe := rfl
@[simp] theorem State.setSlice_sbits (s : State) (n : Nat) (c : Slice) : (s.setSlice n c).sbits = s.sbits := rfl
@[simp] theorem State.setSlice_retry (s : State) (n : Nat) (c : Slice) : (s.setSlice n c).retry = s.retry := rfl
@[simp] theorem State.setSlice_net (s : State) (n : Nat) (c : Slice) : (s.setSlice n c).net = s.net := rfl
@[simp] theorem State.setSlice_reorder (s : State) (n : Nat) (c : Slice) : (s.setSlice n c).reorder = s.reorder := rfl
@[simp] theorem State.setSlice_arrived (s : State) (n : Nat) (c : Slice) : (s.setSlice n c).arrived = s.arrived := rfl
@[simp] theorem State.setSlice_sendSeq (s : State) (n : Nat) (c : Slice) : (s.setSlice n c).sendSeq = s.sendSeq := rfl
@[simp] theorem State.setSlice_recvSeq (s : State) (n : Nat) (c : Slice) : (s.setSlice n c).recvSeq = s.recvSeq := rfl
@[simp] theorem State.setSlice_failed (s : State) (n : Nat) (c : Slice) : (s.setSlice n c).failed = s.failed := rfl
@[simp] theorem State.setSlice_dlt (s : State) (n : Nat) (c : Slice) : (s.setSlice n c).dlt = s.dlt := rfl
@[simp] theorem State.setSlice_devid (s : State) (n : Nat) (c : Slice) : (s.setSlice n c).devid = s.devid := rfl
@[simp] theorem State.setSlice_devidSet (s : State) (n : Nat) (c : Slice) : (s.setSlice n c).devidSet = s.devidSet := rfl
@[simp] theorem State.setSlice_keys (s : State) (n : Nat) (c : Slice) : (s.setSlice n c).keys = s.keys := rfl
@[simp] theorem State.setSlice_retired (s : State) (n : Nat) (c : Slice) : (s.setSlice n c).retired = s.retired := rfl
@[simp] theorem State.setSlice_jobs (s : State) (n : Nat) (c : Slice) : (s.setSlice n c).jobs = s.jobs := rfl
@[simp] theorem State.setSlice_gangs (s : State) (n : Nat) (c : Slice) : (s.setSlice n c).gangs = s.gangs := rfl
@[simp] theorem State.setSlice_fabSeq (s : State) (n : Nat) (c : Slice) : (s.setSlice n c).fabSeq = s.fabSeq := rfl
@[simp] theorem State.setSlice_fabOut (s : State) (n : Nat) (c : Slice) : (s.setSlice n c).fabOut = s.fabOut := rfl
@[simp] theorem State.setSlice_fabCredits (s : State) (n : Nat) (c : Slice) : (s.setSlice n c).fabCredits = s.fabCredits := rfl
@[simp] theorem State.setSlice_fabRecv (s : State) (n : Nat) (c : Slice) : (s.setSlice n c).fabRecv = s.fabRecv := rfl
@[simp] theorem State.setSlice_fabIn (s : State) (n : Nat) (c : Slice) : (s.setSlice n c).fabIn = s.fabIn := rfl
@[simp] theorem State.setSlice_fabOpen (s : State) (n : Nat) (c : Slice) : (s.setSlice n c).fabOpen = s.fabOpen := rfl
@[simp] theorem State.setSlice_switchBuf (s : State) (n : Nat) (c : Slice) : (s.setSlice n c).switchBuf = s.switchBuf := rfl
@[simp] theorem State.setSlice_portsDown (s : State) (n : Nat) (c : Slice) : (s.setSlice n c).portsDown = s.portsDown := rfl
@[simp] theorem State.setSlice_winLg (s : State) (n : Nat) (c : Slice) : (s.setSlice n c).winLg = s.winLg := rfl
@[simp] theorem State.setSlice_hostQ (s : State) (n : Nat) (c : Slice) : (s.setSlice n c).hostQ = s.hostQ := rfl
@[simp] theorem State.setSlice_hostOpen (s : State) (n : Nat) (c : Slice) : (s.setSlice n c).hostOpen = s.hostOpen := rfl
@[simp] theorem State.setSlice_hostDone (s : State) (n : Nat) (c : Slice) : (s.setSlice n c).hostDone = s.hostDone := rfl
@[simp] theorem State.setSlice_hostUr (s : State) (n : Nat) (c : Slice) : (s.setSlice n c).hostUr = s.hostUr := rfl
@[simp] theorem State.setSlice_msi (s : State) (n : Nat) (c : Slice) : (s.setSlice n c).msi = s.msi := rfl
@[simp] theorem State.setSlice_msix (s : State) (n : Nat) (c : Slice) : (s.setSlice n c).msix = s.msix := rfl
@[simp] theorem State.setSlice_boot (s : State) (n : Nat) (c : Slice) : (s.setSlice n c).boot = s.boot := rfl
@[simp] theorem State.setSlice_mailbox (s : State) (n : Nat) (c : Slice) : (s.setSlice n c).mailbox = s.mailbox := rfl
@[simp] theorem State.setSlice_flash (s : State) (n : Nat) (c : Slice) : (s.setSlice n c).flash = s.flash := rfl
@[simp] theorem State.setSlice_spdm (s : State) (n : Nat) (c : Slice) : (s.setSlice n c).spdm = s.spdm := rfl
@[simp] theorem State.setSlice_power (s : State) (n : Nat) (c : Slice) : (s.setSlice n c).power = s.power := rfl
@[simp] theorem State.setSlice_time (s : State) (n : Nat) (c : Slice) : (s.setSlice n c).time = s.time := rfl
@[simp] theorem State.setSlice_cur (s : State) (n : Nat) (c : Slice) : (s.setSlice n c).cur = s.cur := rfl
@[simp] theorem State.setSlice_agenda (s : State) (n : Nat) (c : Slice) : (s.setSlice n c).agenda = s.agenda := rfl
@[simp] theorem State.setSlice_auto (s : State) (n : Nat) (c : Slice) : (s.setSlice n c).auto = s.auto := rfl
@[simp] theorem State.setSlice_freeCtr (s : State) (n : Nat) (c : Slice) : (s.setSlice n c).freeCtr = s.freeCtr := rfl
@[simp] theorem State.setSlice_token (s : State) (n : Nat) (c : Slice) : (s.setSlice n c).token = s.token := rfl
@[simp] theorem State.setSlice_g (s : State) (n : Nat) (c : Slice) (r : GR) : (s.setSlice n c).g r = s.g r := rfl
@[simp] theorem State.setSlice_gS (s : State) (n : Nat) (c : Slice) (r : GR) : (s.setSlice n c).gS r = s.gS r := rfl
@[simp] theorem State.setSlice_gq (s : State) (n : Nat) (c : Slice) (r : GR) : (s.setSlice n c).gq r = s.gq r := rfl
@[simp] theorem State.setSlice_pr (s : State) (n : Nat) (c : Slice) (q : PR) : (s.setSlice n c).pr q = s.pr q := rfl
@[simp] theorem State.setSlice_mr (s : State) (n : Nat) (c : Slice) (q : MR) : (s.setSlice n c).mr q = s.mr q := rfl
@[simp] theorem State.setSlice_vr (s : State) (n : Nat) (c : Slice) (q : VR) : (s.setSlice n c).vr q = s.vr q := rfl

/-! ### `State.setPartn` -/

@[simp] theorem State.setPartn_cores (s : State) (n : Nat) (p : Partition) : (s.setPartn n p).cores = s.cores := rfl
@[simp] theorem State.setPartn_clusters (s : State) (n : Nat) (p : Partition) : (s.setPartn n p).clusters = s.clusters := rfl
@[simp] theorem State.setPartn_slices (s : State) (n : Nat) (p : Partition) : (s.setPartn n p).slices = s.slices := rfl
@[simp] theorem State.setPartn_islands (s : State) (n : Nat) (p : Partition) : (s.setPartn n p).islands = s.islands := rfl
@[simp] theorem State.setPartn_mem (s : State) (n : Nat) (p : Partition) : (s.setPartn n p).mem = s.mem := rfl
@[simp] theorem State.setPartn_fe (s : State) (n : Nat) (p : Partition) : (s.setPartn n p).fe = s.fe := rfl
@[simp] theorem State.setPartn_sbits (s : State) (n : Nat) (p : Partition) : (s.setPartn n p).sbits = s.sbits := rfl
@[simp] theorem State.setPartn_retry (s : State) (n : Nat) (p : Partition) : (s.setPartn n p).retry = s.retry := rfl
@[simp] theorem State.setPartn_net (s : State) (n : Nat) (p : Partition) : (s.setPartn n p).net = s.net := rfl
@[simp] theorem State.setPartn_reorder (s : State) (n : Nat) (p : Partition) : (s.setPartn n p).reorder = s.reorder := rfl
@[simp] theorem State.setPartn_arrived (s : State) (n : Nat) (p : Partition) : (s.setPartn n p).arrived = s.arrived := rfl
@[simp] theorem State.setPartn_sendSeq (s : State) (n : Nat) (p : Partition) : (s.setPartn n p).sendSeq = s.sendSeq := rfl
@[simp] theorem State.setPartn_recvSeq (s : State) (n : Nat) (p : Partition) : (s.setPartn n p).recvSeq = s.recvSeq := rfl
@[simp] theorem State.setPartn_failed (s : State) (n : Nat) (p : Partition) : (s.setPartn n p).failed = s.failed := rfl
@[simp] theorem State.setPartn_dlt (s : State) (n : Nat) (p : Partition) : (s.setPartn n p).dlt = s.dlt := rfl
@[simp] theorem State.setPartn_devid (s : State) (n : Nat) (p : Partition) : (s.setPartn n p).devid = s.devid := rfl
@[simp] theorem State.setPartn_devidSet (s : State) (n : Nat) (p : Partition) : (s.setPartn n p).devidSet = s.devidSet := rfl
@[simp] theorem State.setPartn_keys (s : State) (n : Nat) (p : Partition) : (s.setPartn n p).keys = s.keys := rfl
@[simp] theorem State.setPartn_retired (s : State) (n : Nat) (p : Partition) : (s.setPartn n p).retired = s.retired := rfl
@[simp] theorem State.setPartn_jobs (s : State) (n : Nat) (p : Partition) : (s.setPartn n p).jobs = s.jobs := rfl
@[simp] theorem State.setPartn_gangs (s : State) (n : Nat) (p : Partition) : (s.setPartn n p).gangs = s.gangs := rfl
@[simp] theorem State.setPartn_fabSeq (s : State) (n : Nat) (p : Partition) : (s.setPartn n p).fabSeq = s.fabSeq := rfl
@[simp] theorem State.setPartn_fabOut (s : State) (n : Nat) (p : Partition) : (s.setPartn n p).fabOut = s.fabOut := rfl
@[simp] theorem State.setPartn_fabCredits (s : State) (n : Nat) (p : Partition) : (s.setPartn n p).fabCredits = s.fabCredits := rfl
@[simp] theorem State.setPartn_fabRecv (s : State) (n : Nat) (p : Partition) : (s.setPartn n p).fabRecv = s.fabRecv := rfl
@[simp] theorem State.setPartn_fabIn (s : State) (n : Nat) (p : Partition) : (s.setPartn n p).fabIn = s.fabIn := rfl
@[simp] theorem State.setPartn_fabOpen (s : State) (n : Nat) (p : Partition) : (s.setPartn n p).fabOpen = s.fabOpen := rfl
@[simp] theorem State.setPartn_switchBuf (s : State) (n : Nat) (p : Partition) : (s.setPartn n p).switchBuf = s.switchBuf := rfl
@[simp] theorem State.setPartn_portsDown (s : State) (n : Nat) (p : Partition) : (s.setPartn n p).portsDown = s.portsDown := rfl
@[simp] theorem State.setPartn_winLg (s : State) (n : Nat) (p : Partition) : (s.setPartn n p).winLg = s.winLg := rfl
@[simp] theorem State.setPartn_hostQ (s : State) (n : Nat) (p : Partition) : (s.setPartn n p).hostQ = s.hostQ := rfl
@[simp] theorem State.setPartn_hostOpen (s : State) (n : Nat) (p : Partition) : (s.setPartn n p).hostOpen = s.hostOpen := rfl
@[simp] theorem State.setPartn_hostDone (s : State) (n : Nat) (p : Partition) : (s.setPartn n p).hostDone = s.hostDone := rfl
@[simp] theorem State.setPartn_hostUr (s : State) (n : Nat) (p : Partition) : (s.setPartn n p).hostUr = s.hostUr := rfl
@[simp] theorem State.setPartn_msi (s : State) (n : Nat) (p : Partition) : (s.setPartn n p).msi = s.msi := rfl
@[simp] theorem State.setPartn_msix (s : State) (n : Nat) (p : Partition) : (s.setPartn n p).msix = s.msix := rfl
@[simp] theorem State.setPartn_boot (s : State) (n : Nat) (p : Partition) : (s.setPartn n p).boot = s.boot := rfl
@[simp] theorem State.setPartn_mailbox (s : State) (n : Nat) (p : Partition) : (s.setPartn n p).mailbox = s.mailbox := rfl
@[simp] theorem State.setPartn_flash (s : State) (n : Nat) (p : Partition) : (s.setPartn n p).flash = s.flash := rfl
@[simp] theorem State.setPartn_spdm (s : State) (n : Nat) (p : Partition) : (s.setPartn n p).spdm = s.spdm := rfl
@[simp] theorem State.setPartn_power (s : State) (n : Nat) (p : Partition) : (s.setPartn n p).power = s.power := rfl
@[simp] theorem State.setPartn_time (s : State) (n : Nat) (p : Partition) : (s.setPartn n p).time = s.time := rfl
@[simp] theorem State.setPartn_cur (s : State) (n : Nat) (p : Partition) : (s.setPartn n p).cur = s.cur := rfl
@[simp] theorem State.setPartn_agenda (s : State) (n : Nat) (p : Partition) : (s.setPartn n p).agenda = s.agenda := rfl
@[simp] theorem State.setPartn_auto (s : State) (n : Nat) (p : Partition) : (s.setPartn n p).auto = s.auto := rfl
@[simp] theorem State.setPartn_freeCtr (s : State) (n : Nat) (p : Partition) : (s.setPartn n p).freeCtr = s.freeCtr := rfl
@[simp] theorem State.setPartn_token (s : State) (n : Nat) (p : Partition) : (s.setPartn n p).token = s.token := rfl
@[simp] theorem State.setPartn_g (s : State) (n : Nat) (p : Partition) (r : GR) : (s.setPartn n p).g r = s.g r := rfl
@[simp] theorem State.setPartn_gS (s : State) (n : Nat) (p : Partition) (r : GR) : (s.setPartn n p).gS r = s.gS r := rfl
@[simp] theorem State.setPartn_gq (s : State) (n : Nat) (p : Partition) (r : GR) : (s.setPartn n p).gq r = s.gq r := rfl
@[simp] theorem State.setPartn_pr (s : State) (n : Nat) (p : Partition) (q : PR) : (s.setPartn n p).pr q = s.pr q := rfl
@[simp] theorem State.setPartn_mr (s : State) (n : Nat) (p : Partition) (q : MR) : (s.setPartn n p).mr q = s.mr q := rfl
@[simp] theorem State.setPartn_vr (s : State) (n : Nat) (p : Partition) (q : VR) : (s.setPartn n p).vr q = s.vr q := rfl

/-! ### `State.setSlot` -/

@[simp] theorem State.setSlot_clusters (s : State) (c k : Nat) (x : Slot) : (s.setSlot c k x).clusters = s.clusters := rfl
@[simp] theorem State.setSlot_slices (s : State) (c k : Nat) (x : Slot) : (s.setSlot c k x).slices = s.slices := rfl
@[simp] theorem State.setSlot_parts (s : State) (c k : Nat) (x : Slot) : (s.setSlot c k x).parts = s.parts := rfl
@[simp] theorem State.setSlot_islands (s : State) (c k : Nat) (x : Slot) : (s.setSlot c k x).islands = s.islands := rfl
@[simp] theorem State.setSlot_mem (s : State) (c k : Nat) (x : Slot) : (s.setSlot c k x).mem = s.mem := rfl
@[simp] theorem State.setSlot_fe (s : State) (c k : Nat) (x : Slot) : (s.setSlot c k x).fe = s.fe := rfl
@[simp] theorem State.setSlot_sbits (s : State) (c k : Nat) (x : Slot) : (s.setSlot c k x).sbits = s.sbits := rfl
@[simp] theorem State.setSlot_retry (s : State) (c k : Nat) (x : Slot) : (s.setSlot c k x).retry = s.retry := rfl
@[simp] theorem State.setSlot_net (s : State) (c k : Nat) (x : Slot) : (s.setSlot c k x).net = s.net := rfl
@[simp] theorem State.setSlot_reorder (s : State) (c k : Nat) (x : Slot) : (s.setSlot c k x).reorder = s.reorder := rfl
@[simp] theorem State.setSlot_arrived (s : State) (c k : Nat) (x : Slot) : (s.setSlot c k x).arrived = s.arrived := rfl
@[simp] theorem State.setSlot_sendSeq (s : State) (c k : Nat) (x : Slot) : (s.setSlot c k x).sendSeq = s.sendSeq := rfl
@[simp] theorem State.setSlot_recvSeq (s : State) (c k : Nat) (x : Slot) : (s.setSlot c k x).recvSeq = s.recvSeq := rfl
@[simp] theorem State.setSlot_failed (s : State) (c k : Nat) (x : Slot) : (s.setSlot c k x).failed = s.failed := rfl
@[simp] theorem State.setSlot_dlt (s : State) (c k : Nat) (x : Slot) : (s.setSlot c k x).dlt = s.dlt := rfl
@[simp] theorem State.setSlot_devid (s : State) (c k : Nat) (x : Slot) : (s.setSlot c k x).devid = s.devid := rfl
@[simp] theorem State.setSlot_devidSet (s : State) (c k : Nat) (x : Slot) : (s.setSlot c k x).devidSet = s.devidSet := rfl
@[simp] theorem State.setSlot_keys (s : State) (c k : Nat) (x : Slot) : (s.setSlot c k x).keys = s.keys := rfl
@[simp] theorem State.setSlot_retired (s : State) (c k : Nat) (x : Slot) : (s.setSlot c k x).retired = s.retired := rfl
@[simp] theorem State.setSlot_jobs (s : State) (c k : Nat) (x : Slot) : (s.setSlot c k x).jobs = s.jobs := rfl
@[simp] theorem State.setSlot_gangs (s : State) (c k : Nat) (x : Slot) : (s.setSlot c k x).gangs = s.gangs := rfl
@[simp] theorem State.setSlot_fabSeq (s : State) (c k : Nat) (x : Slot) : (s.setSlot c k x).fabSeq = s.fabSeq := rfl
@[simp] theorem State.setSlot_fabOut (s : State) (c k : Nat) (x : Slot) : (s.setSlot c k x).fabOut = s.fabOut := rfl
@[simp] theorem State.setSlot_fabCredits (s : State) (c k : Nat) (x : Slot) : (s.setSlot c k x).fabCredits = s.fabCredits := rfl
@[simp] theorem State.setSlot_fabRecv (s : State) (c k : Nat) (x : Slot) : (s.setSlot c k x).fabRecv = s.fabRecv := rfl
@[simp] theorem State.setSlot_fabIn (s : State) (c k : Nat) (x : Slot) : (s.setSlot c k x).fabIn = s.fabIn := rfl
@[simp] theorem State.setSlot_fabOpen (s : State) (c k : Nat) (x : Slot) : (s.setSlot c k x).fabOpen = s.fabOpen := rfl
@[simp] theorem State.setSlot_switchBuf (s : State) (c k : Nat) (x : Slot) : (s.setSlot c k x).switchBuf = s.switchBuf := rfl
@[simp] theorem State.setSlot_portsDown (s : State) (c k : Nat) (x : Slot) : (s.setSlot c k x).portsDown = s.portsDown := rfl
@[simp] theorem State.setSlot_winLg (s : State) (c k : Nat) (x : Slot) : (s.setSlot c k x).winLg = s.winLg := rfl
@[simp] theorem State.setSlot_hostQ (s : State) (c k : Nat) (x : Slot) : (s.setSlot c k x).hostQ = s.hostQ := rfl
@[simp] theorem State.setSlot_hostOpen (s : State) (c k : Nat) (x : Slot) : (s.setSlot c k x).hostOpen = s.hostOpen := rfl
@[simp] theorem State.setSlot_hostDone (s : State) (c k : Nat) (x : Slot) : (s.setSlot c k x).hostDone = s.hostDone := rfl
@[simp] theorem State.setSlot_hostUr (s : State) (c k : Nat) (x : Slot) : (s.setSlot c k x).hostUr = s.hostUr := rfl
@[simp] theorem State.setSlot_msi (s : State) (c k : Nat) (x : Slot) : (s.setSlot c k x).msi = s.msi := rfl
@[simp] theorem State.setSlot_msix (s : State) (c k : Nat) (x : Slot) : (s.setSlot c k x).msix = s.msix := rfl
@[simp] theorem State.setSlot_boot (s : State) (c k : Nat) (x : Slot) : (s.setSlot c k x).boot = s.boot := rfl
@[simp] theorem State.setSlot_mailbox (s : State) (c k : Nat) (x : Slot) : (s.setSlot c k x).mailbox = s.mailbox := rfl
@[simp] theorem State.setSlot_flash (s : State) (c k : Nat) (x : Slot) : (s.setSlot c k x).flash = s.flash := rfl
@[simp] theorem State.setSlot_spdm (s : State) (c k : Nat) (x : Slot) : (s.setSlot c k x).spdm = s.spdm := rfl
@[simp] theorem State.setSlot_power (s : State) (c k : Nat) (x : Slot) : (s.setSlot c k x).power = s.power := rfl
@[simp] theorem State.setSlot_time (s : State) (c k : Nat) (x : Slot) : (s.setSlot c k x).time = s.time := rfl
@[simp] theorem State.setSlot_cur (s : State) (c k : Nat) (x : Slot) : (s.setSlot c k x).cur = s.cur := rfl
@[simp] theorem State.setSlot_agenda (s : State) (c k : Nat) (x : Slot) : (s.setSlot c k x).agenda = s.agenda := rfl
@[simp] theorem State.setSlot_auto (s : State) (c k : Nat) (x : Slot) : (s.setSlot c k x).auto = s.auto := rfl
@[simp] theorem State.setSlot_freeCtr (s : State) (c k : Nat) (x : Slot) : (s.setSlot c k x).freeCtr = s.freeCtr := rfl
@[simp] theorem State.setSlot_token (s : State) (c k : Nat) (x : Slot) : (s.setSlot c k x).token = s.token := rfl
@[simp] theorem State.setSlot_g (s : State) (c k : Nat) (x : Slot) (r : GR) : (s.setSlot c k x).g r = s.g r := rfl
@[simp] theorem State.setSlot_gS (s : State) (c k : Nat) (x : Slot) (r : GR) : (s.setSlot c k x).gS r = s.gS r := rfl
@[simp] theorem State.setSlot_gq (s : State) (c k : Nat) (x : Slot) (r : GR) : (s.setSlot c k x).gq r = s.gq r := rfl
@[simp] theorem State.setSlot_pr (s : State) (c k : Nat) (x : Slot) (q : PR) : (s.setSlot c k x).pr q = s.pr q := rfl
@[simp] theorem State.setSlot_mr (s : State) (c k : Nat) (x : Slot) (q : MR) : (s.setSlot c k x).mr q = s.mr q := rfl
@[simp] theorem State.setSlot_vr (s : State) (c k : Nat) (x : Slot) (q : VR) : (s.setSlot c k x).vr q = s.vr q := rfl

/-! ### `State.setStrandOf` -/

@[simp] theorem State.setStrandOf_clusters (s : State) (c k : Nat) (x : Strand) : (s.setStrandOf c k x).clusters = s.clusters := rfl
@[simp] theorem State.setStrandOf_slices (s : State) (c k : Nat) (x : Strand) : (s.setStrandOf c k x).slices = s.slices := rfl
@[simp] theorem State.setStrandOf_parts (s : State) (c k : Nat) (x : Strand) : (s.setStrandOf c k x).parts = s.parts := rfl
@[simp] theorem State.setStrandOf_islands (s : State) (c k : Nat) (x : Strand) : (s.setStrandOf c k x).islands = s.islands := rfl
@[simp] theorem State.setStrandOf_mem (s : State) (c k : Nat) (x : Strand) : (s.setStrandOf c k x).mem = s.mem := rfl
@[simp] theorem State.setStrandOf_fe (s : State) (c k : Nat) (x : Strand) : (s.setStrandOf c k x).fe = s.fe := rfl
@[simp] theorem State.setStrandOf_sbits (s : State) (c k : Nat) (x : Strand) : (s.setStrandOf c k x).sbits = s.sbits := rfl
@[simp] theorem State.setStrandOf_retry (s : State) (c k : Nat) (x : Strand) : (s.setStrandOf c k x).retry = s.retry := rfl
@[simp] theorem State.setStrandOf_net (s : State) (c k : Nat) (x : Strand) : (s.setStrandOf c k x).net = s.net := rfl
@[simp] theorem State.setStrandOf_reorder (s : State) (c k : Nat) (x : Strand) : (s.setStrandOf c k x).reorder = s.reorder := rfl
@[simp] theorem State.setStrandOf_arrived (s : State) (c k : Nat) (x : Strand) : (s.setStrandOf c k x).arrived = s.arrived := rfl
@[simp] theorem State.setStrandOf_sendSeq (s : State) (c k : Nat) (x : Strand) : (s.setStrandOf c k x).sendSeq = s.sendSeq := rfl
@[simp] theorem State.setStrandOf_recvSeq (s : State) (c k : Nat) (x : Strand) : (s.setStrandOf c k x).recvSeq = s.recvSeq := rfl
@[simp] theorem State.setStrandOf_failed (s : State) (c k : Nat) (x : Strand) : (s.setStrandOf c k x).failed = s.failed := rfl
@[simp] theorem State.setStrandOf_dlt (s : State) (c k : Nat) (x : Strand) : (s.setStrandOf c k x).dlt = s.dlt := rfl
@[simp] theorem State.setStrandOf_devid (s : State) (c k : Nat) (x : Strand) : (s.setStrandOf c k x).devid = s.devid := rfl
@[simp] theorem State.setStrandOf_devidSet (s : State) (c k : Nat) (x : Strand) : (s.setStrandOf c k x).devidSet = s.devidSet := rfl
@[simp] theorem State.setStrandOf_keys (s : State) (c k : Nat) (x : Strand) : (s.setStrandOf c k x).keys = s.keys := rfl
@[simp] theorem State.setStrandOf_retired (s : State) (c k : Nat) (x : Strand) : (s.setStrandOf c k x).retired = s.retired := rfl
@[simp] theorem State.setStrandOf_jobs (s : State) (c k : Nat) (x : Strand) : (s.setStrandOf c k x).jobs = s.jobs := rfl
@[simp] theorem State.setStrandOf_gangs (s : State) (c k : Nat) (x : Strand) : (s.setStrandOf c k x).gangs = s.gangs := rfl
@[simp] theorem State.setStrandOf_fabSeq (s : State) (c k : Nat) (x : Strand) : (s.setStrandOf c k x).fabSeq = s.fabSeq := rfl
@[simp] theorem State.setStrandOf_fabOut (s : State) (c k : Nat) (x : Strand) : (s.setStrandOf c k x).fabOut = s.fabOut := rfl
@[simp] theorem State.setStrandOf_fabCredits (s : State) (c k : Nat) (x : Strand) : (s.setStrandOf c k x).fabCredits = s.fabCredits := rfl
@[simp] theorem State.setStrandOf_fabRecv (s : State) (c k : Nat) (x : Strand) : (s.setStrandOf c k x).fabRecv = s.fabRecv := rfl
@[simp] theorem State.setStrandOf_fabIn (s : State) (c k : Nat) (x : Strand) : (s.setStrandOf c k x).fabIn = s.fabIn := rfl
@[simp] theorem State.setStrandOf_fabOpen (s : State) (c k : Nat) (x : Strand) : (s.setStrandOf c k x).fabOpen = s.fabOpen := rfl
@[simp] theorem State.setStrandOf_switchBuf (s : State) (c k : Nat) (x : Strand) : (s.setStrandOf c k x).switchBuf = s.switchBuf := rfl
@[simp] theorem State.setStrandOf_portsDown (s : State) (c k : Nat) (x : Strand) : (s.setStrandOf c k x).portsDown = s.portsDown := rfl
@[simp] theorem State.setStrandOf_winLg (s : State) (c k : Nat) (x : Strand) : (s.setStrandOf c k x).winLg = s.winLg := rfl
@[simp] theorem State.setStrandOf_hostQ (s : State) (c k : Nat) (x : Strand) : (s.setStrandOf c k x).hostQ = s.hostQ := rfl
@[simp] theorem State.setStrandOf_hostOpen (s : State) (c k : Nat) (x : Strand) : (s.setStrandOf c k x).hostOpen = s.hostOpen := rfl
@[simp] theorem State.setStrandOf_hostDone (s : State) (c k : Nat) (x : Strand) : (s.setStrandOf c k x).hostDone = s.hostDone := rfl
@[simp] theorem State.setStrandOf_hostUr (s : State) (c k : Nat) (x : Strand) : (s.setStrandOf c k x).hostUr = s.hostUr := rfl
@[simp] theorem State.setStrandOf_msi (s : State) (c k : Nat) (x : Strand) : (s.setStrandOf c k x).msi = s.msi := rfl
@[simp] theorem State.setStrandOf_msix (s : State) (c k : Nat) (x : Strand) : (s.setStrandOf c k x).msix = s.msix := rfl
@[simp] theorem State.setStrandOf_boot (s : State) (c k : Nat) (x : Strand) : (s.setStrandOf c k x).boot = s.boot := rfl
@[simp] theorem State.setStrandOf_mailbox (s : State) (c k : Nat) (x : Strand) : (s.setStrandOf c k x).mailbox = s.mailbox := rfl
@[simp] theorem State.setStrandOf_flash (s : State) (c k : Nat) (x : Strand) : (s.setStrandOf c k x).flash = s.flash := rfl
@[simp] theorem State.setStrandOf_spdm (s : State) (c k : Nat) (x : Strand) : (s.setStrandOf c k x).spdm = s.spdm := rfl
@[simp] theorem State.setStrandOf_power (s : State) (c k : Nat) (x : Strand) : (s.setStrandOf c k x).power = s.power := rfl
@[simp] theorem State.setStrandOf_time (s : State) (c k : Nat) (x : Strand) : (s.setStrandOf c k x).time = s.time := rfl
@[simp] theorem State.setStrandOf_cur (s : State) (c k : Nat) (x : Strand) : (s.setStrandOf c k x).cur = s.cur := rfl
@[simp] theorem State.setStrandOf_agenda (s : State) (c k : Nat) (x : Strand) : (s.setStrandOf c k x).agenda = s.agenda := rfl
@[simp] theorem State.setStrandOf_auto (s : State) (c k : Nat) (x : Strand) : (s.setStrandOf c k x).auto = s.auto := rfl
@[simp] theorem State.setStrandOf_freeCtr (s : State) (c k : Nat) (x : Strand) : (s.setStrandOf c k x).freeCtr = s.freeCtr := rfl
@[simp] theorem State.setStrandOf_token (s : State) (c k : Nat) (x : Strand) : (s.setStrandOf c k x).token = s.token := rfl
@[simp] theorem State.setStrandOf_g (s : State) (c k : Nat) (x : Strand) (r : GR) : (s.setStrandOf c k x).g r = s.g r := rfl
@[simp] theorem State.setStrandOf_gS (s : State) (c k : Nat) (x : Strand) (r : GR) : (s.setStrandOf c k x).gS r = s.gS r := rfl
@[simp] theorem State.setStrandOf_gq (s : State) (c k : Nat) (x : Strand) (r : GR) : (s.setStrandOf c k x).gq r = s.gq r := rfl
@[simp] theorem State.setStrandOf_pr (s : State) (c k : Nat) (x : Strand) (q : PR) : (s.setStrandOf c k x).pr q = s.pr q := rfl
@[simp] theorem State.setStrandOf_mr (s : State) (c k : Nat) (x : Strand) (q : MR) : (s.setStrandOf c k x).mr q = s.mr q := rfl
@[simp] theorem State.setStrandOf_vr (s : State) (c k : Nat) (x : Strand) (q : VR) : (s.setStrandOf c k x).vr q = s.vr q := rfl

/-! ### `State.setStrand` -/

@[simp] theorem State.setStrand_clusters (s : State) (x : Strand) : (s.setStrand x).clusters = s.clusters := rfl
@[simp] theorem State.setStrand_slices (s : State) (x : Strand) : (s.setStrand x).slices = s.slices := rfl
@[simp] theorem State.setStrand_parts (s : State) (x : Strand) : (s.setStrand x).parts = s.parts := rfl
@[simp] theorem State.setStrand_islands (s : State) (x : Strand) : (s.setStrand x).islands = s.islands := rfl
@[simp] theorem State.setStrand_mem (s : State) (x : Strand) : (s.setStrand x).mem = s.mem := rfl
@[simp] theorem State.setStrand_fe (s : State) (x : Strand) : (s.setStrand x).fe = s.fe := rfl
@[simp] theorem State.setStrand_sbits (s : State) (x : Strand) : (s.setStrand x).sbits = s.sbits := rfl
@[simp] theorem State.setStrand_retry (s : State) (x : Strand) : (s.setStrand x).retry = s.retry := rfl
@[simp] theorem State.setStrand_net (s : State) (x : Strand) : (s.setStrand x).net = s.net := rfl
@[simp] theorem State.setStrand_reorder (s : State) (x : Strand) : (s.setStrand x).reorder = s.reorder := rfl
@[simp] theorem State.setStrand_arrived (s : State) (x : Strand) : (s.setStrand x).arrived = s.arrived := rfl
@[simp] theorem State.setStrand_sendSeq (s : State) (x : Strand) : (s.setStrand x).sendSeq = s.sendSeq := rfl
@[simp] theorem State.setStrand_recvSeq (s : State) (x : Strand) : (s.setStrand x).recvSeq = s.recvSeq := rfl
@[simp] theorem State.setStrand_failed (s : State) (x : Strand) : (s.setStrand x).failed = s.failed := rfl
@[simp] theorem State.setStrand_dlt (s : State) (x : Strand) : (s.setStrand x).dlt = s.dlt := rfl
@[simp] theorem State.setStrand_devid (s : State) (x : Strand) : (s.setStrand x).devid = s.devid := rfl
@[simp] theorem State.setStrand_devidSet (s : State) (x : Strand) : (s.setStrand x).devidSet = s.devidSet := rfl
@[simp] theorem State.setStrand_keys (s : State) (x : Strand) : (s.setStrand x).keys = s.keys := rfl
@[simp] theorem State.setStrand_retired (s : State) (x : Strand) : (s.setStrand x).retired = s.retired := rfl
@[simp] theorem State.setStrand_jobs (s : State) (x : Strand) : (s.setStrand x).jobs = s.jobs := rfl
@[simp] theorem State.setStrand_gangs (s : State) (x : Strand) : (s.setStrand x).gangs = s.gangs := rfl
@[simp] theorem State.setStrand_fabSeq (s : State) (x : Strand) : (s.setStrand x).fabSeq = s.fabSeq := rfl
@[simp] theorem State.setStrand_fabOut (s : State) (x : Strand) : (s.setStrand x).fabOut = s.fabOut := rfl
@[simp] theorem State.setStrand_fabCredits (s : State) (x : Strand) : (s.setStrand x).fabCredits = s.fabCredits := rfl
@[simp] theorem State.setStrand_fabRecv (s : State) (x : Strand) : (s.setStrand x).fabRecv = s.fabRecv := rfl
@[simp] theorem State.setStrand_fabIn (s : State) (x : Strand) : (s.setStrand x).fabIn = s.fabIn := rfl
@[simp] theorem State.setStrand_fabOpen (s : State) (x : Strand) : (s.setStrand x).fabOpen = s.fabOpen := rfl
@[simp] theorem State.setStrand_switchBuf (s : State) (x : Strand) : (s.setStrand x).switchBuf = s.switchBuf := rfl
@[simp] theorem State.setStrand_portsDown (s : State) (x : Strand) : (s.setStrand x).portsDown = s.portsDown := rfl
@[simp] theorem State.setStrand_winLg (s : State) (x : Strand) : (s.setStrand x).winLg = s.winLg := rfl
@[simp] theorem State.setStrand_hostQ (s : State) (x : Strand) : (s.setStrand x).hostQ = s.hostQ := rfl
@[simp] theorem State.setStrand_hostOpen (s : State) (x : Strand) : (s.setStrand x).hostOpen = s.hostOpen := rfl
@[simp] theorem State.setStrand_hostDone (s : State) (x : Strand) : (s.setStrand x).hostDone = s.hostDone := rfl
@[simp] theorem State.setStrand_hostUr (s : State) (x : Strand) : (s.setStrand x).hostUr = s.hostUr := rfl
@[simp] theorem State.setStrand_msi (s : State) (x : Strand) : (s.setStrand x).msi = s.msi := rfl
@[simp] theorem State.setStrand_msix (s : State) (x : Strand) : (s.setStrand x).msix = s.msix := rfl
@[simp] theorem State.setStrand_boot (s : State) (x : Strand) : (s.setStrand x).boot = s.boot := rfl
@[simp] theorem State.setStrand_mailbox (s : State) (x : Strand) : (s.setStrand x).mailbox = s.mailbox := rfl
@[simp] theorem State.setStrand_flash (s : State) (x : Strand) : (s.setStrand x).flash = s.flash := rfl
@[simp] theorem State.setStrand_spdm (s : State) (x : Strand) : (s.setStrand x).spdm = s.spdm := rfl
@[simp] theorem State.setStrand_power (s : State) (x : Strand) : (s.setStrand x).power = s.power := rfl
@[simp] theorem State.setStrand_time (s : State) (x : Strand) : (s.setStrand x).time = s.time := rfl
@[simp] theorem State.setStrand_cur (s : State) (x : Strand) : (s.setStrand x).cur = s.cur := rfl
@[simp] theorem State.setStrand_agenda (s : State) (x : Strand) : (s.setStrand x).agenda = s.agenda := rfl
@[simp] theorem State.setStrand_auto (s : State) (x : Strand) : (s.setStrand x).auto = s.auto := rfl
@[simp] theorem State.setStrand_freeCtr (s : State) (x : Strand) : (s.setStrand x).freeCtr = s.freeCtr := rfl
@[simp] theorem State.setStrand_token (s : State) (x : Strand) : (s.setStrand x).token = s.token := rfl
@[simp] theorem State.setStrand_g (s : State) (x : Strand) (r : GR) : (s.setStrand x).g r = s.g r := rfl
@[simp] theorem State.setStrand_gS (s : State) (x : Strand) (r : GR) : (s.setStrand x).gS r = s.gS r := rfl
@[simp] theorem State.setStrand_gq (s : State) (x : Strand) (r : GR) : (s.setStrand x).gq r = s.gq r := rfl
@[simp] theorem State.setStrand_pr (s : State) (x : Strand) (q : PR) : (s.setStrand x).pr q = s.pr q := rfl
@[simp] theorem State.setStrand_mr (s : State) (x : Strand) (q : MR) : (s.setStrand x).mr q = s.mr q := rfl
@[simp] theorem State.setStrand_vr (s : State) (x : Strand) (q : VR) : (s.setStrand x).vr q = s.vr q := rfl

/-! ### `State.modStrand` -/

@[simp] theorem State.modStrand_clusters (s : State) (f : Strand → Strand) : (s.modStrand f).clusters = s.clusters := rfl
@[simp] theorem State.modStrand_slices (s : State) (f : Strand → Strand) : (s.modStrand f).slices = s.slices := rfl
@[simp] theorem State.modStrand_parts (s : State) (f : Strand → Strand) : (s.modStrand f).parts = s.parts := rfl
@[simp] theorem State.modStrand_islands (s : State) (f : Strand → Strand) : (s.modStrand f).islands = s.islands := rfl
@[simp] theorem State.modStrand_mem (s : State) (f : Strand → Strand) : (s.modStrand f).mem = s.mem := rfl
@[simp] theorem State.modStrand_fe (s : State) (f : Strand → Strand) : (s.modStrand f).fe = s.fe := rfl
@[simp] theorem State.modStrand_sbits (s : State) (f : Strand → Strand) : (s.modStrand f).sbits = s.sbits := rfl
@[simp] theorem State.modStrand_retry (s : State) (f : Strand → Strand) : (s.modStrand f).retry = s.retry := rfl
@[simp] theorem State.modStrand_net (s : State) (f : Strand → Strand) : (s.modStrand f).net = s.net := rfl
@[simp] theorem State.modStrand_reorder (s : State) (f : Strand → Strand) : (s.modStrand f).reorder = s.reorder := rfl
@[simp] theorem State.modStrand_arrived (s : State) (f : Strand → Strand) : (s.modStrand f).arrived = s.arrived := rfl
@[simp] theorem State.modStrand_sendSeq (s : State) (f : Strand → Strand) : (s.modStrand f).sendSeq = s.sendSeq := rfl
@[simp] theorem State.modStrand_recvSeq (s : State) (f : Strand → Strand) : (s.modStrand f).recvSeq = s.recvSeq := rfl
@[simp] theorem State.modStrand_failed (s : State) (f : Strand → Strand) : (s.modStrand f).failed = s.failed := rfl
@[simp] theorem State.modStrand_dlt (s : State) (f : Strand → Strand) : (s.modStrand f).dlt = s.dlt := rfl
@[simp] theorem State.modStrand_devid (s : State) (f : Strand → Strand) : (s.modStrand f).devid = s.devid := rfl
@[simp] theorem State.modStrand_devidSet (s : State) (f : Strand → Strand) : (s.modStrand f).devidSet = s.devidSet := rfl
@[simp] theorem State.modStrand_keys (s : State) (f : Strand → Strand) : (s.modStrand f).keys = s.keys := rfl
@[simp] theorem State.modStrand_retired (s : State) (f : Strand → Strand) : (s.modStrand f).retired = s.retired := rfl
@[simp] theorem State.modStrand_jobs (s : State) (f : Strand → Strand) : (s.modStrand f).jobs = s.jobs := rfl
@[simp] theorem State.modStrand_gangs (s : State) (f : Strand → Strand) : (s.modStrand f).gangs = s.gangs := rfl
@[simp] theorem State.modStrand_fabSeq (s : State) (f : Strand → Strand) : (s.modStrand f).fabSeq = s.fabSeq := rfl
@[simp] theorem State.modStrand_fabOut (s : State) (f : Strand → Strand) : (s.modStrand f).fabOut = s.fabOut := rfl
@[simp] theorem State.modStrand_fabCredits (s : State) (f : Strand → Strand) : (s.modStrand f).fabCredits = s.fabCredits := rfl
@[simp] theorem State.modStrand_fabRecv (s : State) (f : Strand → Strand) : (s.modStrand f).fabRecv = s.fabRecv := rfl
@[simp] theorem State.modStrand_fabIn (s : State) (f : Strand → Strand) : (s.modStrand f).fabIn = s.fabIn := rfl
@[simp] theorem State.modStrand_fabOpen (s : State) (f : Strand → Strand) : (s.modStrand f).fabOpen = s.fabOpen := rfl
@[simp] theorem State.modStrand_switchBuf (s : State) (f : Strand → Strand) : (s.modStrand f).switchBuf = s.switchBuf := rfl
@[simp] theorem State.modStrand_portsDown (s : State) (f : Strand → Strand) : (s.modStrand f).portsDown = s.portsDown := rfl
@[simp] theorem State.modStrand_winLg (s : State) (f : Strand → Strand) : (s.modStrand f).winLg = s.winLg := rfl
@[simp] theorem State.modStrand_hostQ (s : State) (f : Strand → Strand) : (s.modStrand f).hostQ = s.hostQ := rfl
@[simp] theorem State.modStrand_hostOpen (s : State) (f : Strand → Strand) : (s.modStrand f).hostOpen = s.hostOpen := rfl
@[simp] theorem State.modStrand_hostDone (s : State) (f : Strand → Strand) : (s.modStrand f).hostDone = s.hostDone := rfl
@[simp] theorem State.modStrand_hostUr (s : State) (f : Strand → Strand) : (s.modStrand f).hostUr = s.hostUr := rfl
@[simp] theorem State.modStrand_msi (s : State) (f : Strand → Strand) : (s.modStrand f).msi = s.msi := rfl
@[simp] theorem State.modStrand_msix (s : State) (f : Strand → Strand) : (s.modStrand f).msix = s.msix := rfl
@[simp] theorem State.modStrand_boot (s : State) (f : Strand → Strand) : (s.modStrand f).boot = s.boot := rfl
@[simp] theorem State.modStrand_mailbox (s : State) (f : Strand → Strand) : (s.modStrand f).mailbox = s.mailbox := rfl
@[simp] theorem State.modStrand_flash (s : State) (f : Strand → Strand) : (s.modStrand f).flash = s.flash := rfl
@[simp] theorem State.modStrand_spdm (s : State) (f : Strand → Strand) : (s.modStrand f).spdm = s.spdm := rfl
@[simp] theorem State.modStrand_power (s : State) (f : Strand → Strand) : (s.modStrand f).power = s.power := rfl
@[simp] theorem State.modStrand_time (s : State) (f : Strand → Strand) : (s.modStrand f).time = s.time := rfl
@[simp] theorem State.modStrand_cur (s : State) (f : Strand → Strand) : (s.modStrand f).cur = s.cur := rfl
@[simp] theorem State.modStrand_agenda (s : State) (f : Strand → Strand) : (s.modStrand f).agenda = s.agenda := rfl
@[simp] theorem State.modStrand_auto (s : State) (f : Strand → Strand) : (s.modStrand f).auto = s.auto := rfl
@[simp] theorem State.modStrand_freeCtr (s : State) (f : Strand → Strand) : (s.modStrand f).freeCtr = s.freeCtr := rfl
@[simp] theorem State.modStrand_token (s : State) (f : Strand → Strand) : (s.modStrand f).token = s.token := rfl
@[simp] theorem State.modStrand_g (s : State) (f : Strand → Strand) (r : GR) : (s.modStrand f).g r = s.g r := rfl
@[simp] theorem State.modStrand_gS (s : State) (f : Strand → Strand) (r : GR) : (s.modStrand f).gS r = s.gS r := rfl
@[simp] theorem State.modStrand_gq (s : State) (f : Strand → Strand) (r : GR) : (s.modStrand f).gq r = s.gq r := rfl
@[simp] theorem State.modStrand_pr (s : State) (f : Strand → Strand) (q : PR) : (s.modStrand f).pr q = s.pr q := rfl
@[simp] theorem State.modStrand_mr (s : State) (f : Strand → Strand) (q : MR) : (s.modStrand f).mr q = s.mr q := rfl
@[simp] theorem State.modStrand_vr (s : State) (f : Strand → Strand) (q : VR) : (s.modStrand f).vr q = s.vr q := rfl

/-! ### `State.flow` -/

@[simp] theorem State.flow_cores (s : State) (f : Flow) : (s.flow f).cores = s.cores := rfl
@[simp] theorem State.flow_clusters (s : State) (f : Flow) : (s.flow f).clusters = s.clusters := rfl
@[simp] theorem State.flow_slices (s : State) (f : Flow) : (s.flow f).slices = s.slices := rfl
@[simp] theorem State.flow_parts (s : State) (f : Flow) : (s.flow f).parts = s.parts := rfl
@[simp] theorem State.flow_islands (s : State) (f : Flow) : (s.flow f).islands = s.islands := rfl
@[simp] theorem State.flow_mem (s : State) (f : Flow) : (s.flow f).mem = s.mem := rfl
@[simp] theorem State.flow_fe (s : State) (f : Flow) : (s.flow f).fe = s.fe := rfl
@[simp] theorem State.flow_sbits (s : State) (f : Flow) : (s.flow f).sbits = s.sbits := rfl
@[simp] theorem State.flow_retry (s : State) (f : Flow) : (s.flow f).retry = s.retry := rfl
@[simp] theorem State.flow_net (s : State) (f : Flow) : (s.flow f).net = s.net := rfl
@[simp] theorem State.flow_reorder (s : State) (f : Flow) : (s.flow f).reorder = s.reorder := rfl
@[simp] theorem State.flow_arrived (s : State) (f : Flow) : (s.flow f).arrived = s.arrived := rfl
@[simp] theorem State.flow_sendSeq (s : State) (f : Flow) : (s.flow f).sendSeq = s.sendSeq := rfl
@[simp] theorem State.flow_recvSeq (s : State) (f : Flow) : (s.flow f).recvSeq = s.recvSeq := rfl
@[simp] theorem State.flow_failed (s : State) (f : Flow) : (s.flow f).failed = s.failed := rfl
@[simp] theorem State.flow_dlt (s : State) (f : Flow) : (s.flow f).dlt = s.dlt := rfl
@[simp] theorem State.flow_devid (s : State) (f : Flow) : (s.flow f).devid = s.devid := rfl
@[simp] theorem State.flow_devidSet (s : State) (f : Flow) : (s.flow f).devidSet = s.devidSet := rfl
@[simp] theorem State.flow_keys (s : State) (f : Flow) : (s.flow f).keys = s.keys := rfl
@[simp] theorem State.flow_retired (s : State) (f : Flow) : (s.flow f).retired = s.retired := rfl
@[simp] theorem State.flow_jobs (s : State) (f : Flow) : (s.flow f).jobs = s.jobs := rfl
@[simp] theorem State.flow_gangs (s : State) (f : Flow) : (s.flow f).gangs = s.gangs := rfl
@[simp] theorem State.flow_fabSeq (s : State) (f : Flow) : (s.flow f).fabSeq = s.fabSeq := rfl
@[simp] theorem State.flow_fabOut (s : State) (f : Flow) : (s.flow f).fabOut = s.fabOut := rfl
@[simp] theorem State.flow_fabCredits (s : State) (f : Flow) : (s.flow f).fabCredits = s.fabCredits := rfl
@[simp] theorem State.flow_fabRecv (s : State) (f : Flow) : (s.flow f).fabRecv = s.fabRecv := rfl
@[simp] theorem State.flow_fabIn (s : State) (f : Flow) : (s.flow f).fabIn = s.fabIn := rfl
@[simp] theorem State.flow_fabOpen (s : State) (f : Flow) : (s.flow f).fabOpen = s.fabOpen := rfl
@[simp] theorem State.flow_switchBuf (s : State) (f : Flow) : (s.flow f).switchBuf = s.switchBuf := rfl
@[simp] theorem State.flow_portsDown (s : State) (f : Flow) : (s.flow f).portsDown = s.portsDown := rfl
@[simp] theorem State.flow_winLg (s : State) (f : Flow) : (s.flow f).winLg = s.winLg := rfl
@[simp] theorem State.flow_hostQ (s : State) (f : Flow) : (s.flow f).hostQ = s.hostQ := rfl
@[simp] theorem State.flow_hostOpen (s : State) (f : Flow) : (s.flow f).hostOpen = s.hostOpen := rfl
@[simp] theorem State.flow_hostDone (s : State) (f : Flow) : (s.flow f).hostDone = s.hostDone := rfl
@[simp] theorem State.flow_hostUr (s : State) (f : Flow) : (s.flow f).hostUr = s.hostUr := rfl
@[simp] theorem State.flow_msi (s : State) (f : Flow) : (s.flow f).msi = s.msi := rfl
@[simp] theorem State.flow_msix (s : State) (f : Flow) : (s.flow f).msix = s.msix := rfl
@[simp] theorem State.flow_boot (s : State) (f : Flow) : (s.flow f).boot = s.boot := rfl
@[simp] theorem State.flow_mailbox (s : State) (f : Flow) : (s.flow f).mailbox = s.mailbox := rfl
@[simp] theorem State.flow_flash (s : State) (f : Flow) : (s.flow f).flash = s.flash := rfl
@[simp] theorem State.flow_spdm (s : State) (f : Flow) : (s.flow f).spdm = s.spdm := rfl
@[simp] theorem State.flow_power (s : State) (f : Flow) : (s.flow f).power = s.power := rfl
@[simp] theorem State.flow_time (s : State) (f : Flow) : (s.flow f).time = s.time := rfl
@[simp] theorem State.flow_agenda (s : State) (f : Flow) : (s.flow f).agenda = s.agenda := rfl
@[simp] theorem State.flow_auto (s : State) (f : Flow) : (s.flow f).auto = s.auto := rfl
@[simp] theorem State.flow_freeCtr (s : State) (f : Flow) : (s.flow f).freeCtr = s.freeCtr := rfl
@[simp] theorem State.flow_token (s : State) (f : Flow) : (s.flow f).token = s.token := rfl
@[simp] theorem State.flow_cur_core (s : State) (f : Flow) : (s.flow f).cur.core = s.cur.core := rfl
@[simp] theorem State.flow_cur_slot (s : State) (f : Flow) : (s.flow f).cur.slot = s.cur.slot := rfl
@[simp] theorem State.flow_cur_pc (s : State) (f : Flow) : (s.flow f).cur.pc = s.cur.pc := rfl
@[simp] theorem State.flow_cur_cword (s : State) (f : Flow) : (s.flow f).cur.cword = s.cur.cword := rfl
@[simp] theorem State.flow_cur_aword (s : State) (f : Flow) : (s.flow f).cur.aword = s.cur.aword := rfl
@[simp] theorem State.flow_cur_len (s : State) (f : Flow) : (s.flow f).cur.len = s.cur.len := rfl
@[simp] theorem State.flow_cur_pre (s : State) (f : Flow) : (s.flow f).cur.pre = s.cur.pre := rfl
@[simp] theorem State.flow_cur_qi (s : State) (f : Flow) : (s.flow f).cur.qi = s.cur.qi := rfl
@[simp] theorem State.flow_cur_isA (s : State) (f : Flow) : (s.flow f).cur.isA = s.cur.isA := rfl
@[simp] theorem State.flow_g (s : State) (f : Flow) (r : GR) : (s.flow f).g r = s.g r := rfl
@[simp] theorem State.flow_gS (s : State) (f : Flow) (r : GR) : (s.flow f).gS r = s.gS r := rfl
@[simp] theorem State.flow_gq (s : State) (f : Flow) (r : GR) : (s.flow f).gq r = s.gq r := rfl
@[simp] theorem State.flow_pr (s : State) (f : Flow) (q : PR) : (s.flow f).pr q = s.pr q := rfl
@[simp] theorem State.flow_mr (s : State) (f : Flow) (q : MR) : (s.flow f).mr q = s.mr q := rfl
@[simp] theorem State.flow_vr (s : State) (f : Flow) (q : VR) : (s.flow f).vr q = s.vr q := rfl

/-! ### `State.writeAt` -/

@[simp] theorem State.writeAt_cores (s : State) (l : Loc) (bs : List Byte) : (s.writeAt l bs).cores = s.cores := rfl
@[simp] theorem State.writeAt_clusters (s : State) (l : Loc) (bs : List Byte) : (s.writeAt l bs).clusters = s.clusters := rfl
@[simp] theorem State.writeAt_slices (s : State) (l : Loc) (bs : List Byte) : (s.writeAt l bs).slices = s.slices := rfl
@[simp] theorem State.writeAt_parts (s : State) (l : Loc) (bs : List Byte) : (s.writeAt l bs).parts = s.parts := rfl
@[simp] theorem State.writeAt_islands (s : State) (l : Loc) (bs : List Byte) : (s.writeAt l bs).islands = s.islands := rfl
@[simp] theorem State.writeAt_fe (s : State) (l : Loc) (bs : List Byte) : (s.writeAt l bs).fe = s.fe := rfl
@[simp] theorem State.writeAt_sbits (s : State) (l : Loc) (bs : List Byte) : (s.writeAt l bs).sbits = s.sbits := rfl
@[simp] theorem State.writeAt_retry (s : State) (l : Loc) (bs : List Byte) : (s.writeAt l bs).retry = s.retry := rfl
@[simp] theorem State.writeAt_net (s : State) (l : Loc) (bs : List Byte) : (s.writeAt l bs).net = s.net := rfl
@[simp] theorem State.writeAt_reorder (s : State) (l : Loc) (bs : List Byte) : (s.writeAt l bs).reorder = s.reorder := rfl
@[simp] theorem State.writeAt_arrived (s : State) (l : Loc) (bs : List Byte) : (s.writeAt l bs).arrived = s.arrived := rfl
@[simp] theorem State.writeAt_sendSeq (s : State) (l : Loc) (bs : List Byte) : (s.writeAt l bs).sendSeq = s.sendSeq := rfl
@[simp] theorem State.writeAt_recvSeq (s : State) (l : Loc) (bs : List Byte) : (s.writeAt l bs).recvSeq = s.recvSeq := rfl
@[simp] theorem State.writeAt_failed (s : State) (l : Loc) (bs : List Byte) : (s.writeAt l bs).failed = s.failed := rfl
@[simp] theorem State.writeAt_dlt (s : State) (l : Loc) (bs : List Byte) : (s.writeAt l bs).dlt = s.dlt := rfl
@[simp] theorem State.writeAt_devid (s : State) (l : Loc) (bs : List Byte) : (s.writeAt l bs).devid = s.devid := rfl
@[simp] theorem State.writeAt_devidSet (s : State) (l : Loc) (bs : List Byte) : (s.writeAt l bs).devidSet = s.devidSet := rfl
@[simp] theorem State.writeAt_keys (s : State) (l : Loc) (bs : List Byte) : (s.writeAt l bs).keys = s.keys := rfl
@[simp] theorem State.writeAt_retired (s : State) (l : Loc) (bs : List Byte) : (s.writeAt l bs).retired = s.retired := rfl
@[simp] theorem State.writeAt_jobs (s : State) (l : Loc) (bs : List Byte) : (s.writeAt l bs).jobs = s.jobs := rfl
@[simp] theorem State.writeAt_gangs (s : State) (l : Loc) (bs : List Byte) : (s.writeAt l bs).gangs = s.gangs := rfl
@[simp] theorem State.writeAt_fabSeq (s : State) (l : Loc) (bs : List Byte) : (s.writeAt l bs).fabSeq = s.fabSeq := rfl
@[simp] theorem State.writeAt_fabOut (s : State) (l : Loc) (bs : List Byte) : (s.writeAt l bs).fabOut = s.fabOut := rfl
@[simp] theorem State.writeAt_fabCredits (s : State) (l : Loc) (bs : List Byte) : (s.writeAt l bs).fabCredits = s.fabCredits := rfl
@[simp] theorem State.writeAt_fabRecv (s : State) (l : Loc) (bs : List Byte) : (s.writeAt l bs).fabRecv = s.fabRecv := rfl
@[simp] theorem State.writeAt_fabIn (s : State) (l : Loc) (bs : List Byte) : (s.writeAt l bs).fabIn = s.fabIn := rfl
@[simp] theorem State.writeAt_fabOpen (s : State) (l : Loc) (bs : List Byte) : (s.writeAt l bs).fabOpen = s.fabOpen := rfl
@[simp] theorem State.writeAt_switchBuf (s : State) (l : Loc) (bs : List Byte) : (s.writeAt l bs).switchBuf = s.switchBuf := rfl
@[simp] theorem State.writeAt_portsDown (s : State) (l : Loc) (bs : List Byte) : (s.writeAt l bs).portsDown = s.portsDown := rfl
@[simp] theorem State.writeAt_winLg (s : State) (l : Loc) (bs : List Byte) : (s.writeAt l bs).winLg = s.winLg := rfl
@[simp] theorem State.writeAt_hostQ (s : State) (l : Loc) (bs : List Byte) : (s.writeAt l bs).hostQ = s.hostQ := rfl
@[simp] theorem State.writeAt_hostOpen (s : State) (l : Loc) (bs : List Byte) : (s.writeAt l bs).hostOpen = s.hostOpen := rfl
@[simp] theorem State.writeAt_hostDone (s : State) (l : Loc) (bs : List Byte) : (s.writeAt l bs).hostDone = s.hostDone := rfl
@[simp] theorem State.writeAt_hostUr (s : State) (l : Loc) (bs : List Byte) : (s.writeAt l bs).hostUr = s.hostUr := rfl
@[simp] theorem State.writeAt_msi (s : State) (l : Loc) (bs : List Byte) : (s.writeAt l bs).msi = s.msi := rfl
@[simp] theorem State.writeAt_msix (s : State) (l : Loc) (bs : List Byte) : (s.writeAt l bs).msix = s.msix := rfl
@[simp] theorem State.writeAt_boot (s : State) (l : Loc) (bs : List Byte) : (s.writeAt l bs).boot = s.boot := rfl
@[simp] theorem State.writeAt_mailbox (s : State) (l : Loc) (bs : List Byte) : (s.writeAt l bs).mailbox = s.mailbox := rfl
@[simp] theorem State.writeAt_flash (s : State) (l : Loc) (bs : List Byte) : (s.writeAt l bs).flash = s.flash := rfl
@[simp] theorem State.writeAt_spdm (s : State) (l : Loc) (bs : List Byte) : (s.writeAt l bs).spdm = s.spdm := rfl
@[simp] theorem State.writeAt_power (s : State) (l : Loc) (bs : List Byte) : (s.writeAt l bs).power = s.power := rfl
@[simp] theorem State.writeAt_time (s : State) (l : Loc) (bs : List Byte) : (s.writeAt l bs).time = s.time := rfl
@[simp] theorem State.writeAt_cur (s : State) (l : Loc) (bs : List Byte) : (s.writeAt l bs).cur = s.cur := rfl
@[simp] theorem State.writeAt_agenda (s : State) (l : Loc) (bs : List Byte) : (s.writeAt l bs).agenda = s.agenda := rfl
@[simp] theorem State.writeAt_auto (s : State) (l : Loc) (bs : List Byte) : (s.writeAt l bs).auto = s.auto := rfl
@[simp] theorem State.writeAt_freeCtr (s : State) (l : Loc) (bs : List Byte) : (s.writeAt l bs).freeCtr = s.freeCtr := rfl
@[simp] theorem State.writeAt_token (s : State) (l : Loc) (bs : List Byte) : (s.writeAt l bs).token = s.token := rfl
@[simp] theorem State.writeAt_g (s : State) (l : Loc) (bs : List Byte) (r : GR) : (s.writeAt l bs).g r = s.g r := rfl
@[simp] theorem State.writeAt_gS (s : State) (l : Loc) (bs : List Byte) (r : GR) : (s.writeAt l bs).gS r = s.gS r := rfl
@[simp] theorem State.writeAt_gq (s : State) (l : Loc) (bs : List Byte) (r : GR) : (s.writeAt l bs).gq r = s.gq r := rfl
@[simp] theorem State.writeAt_pr (s : State) (l : Loc) (bs : List Byte) (q : PR) : (s.writeAt l bs).pr q = s.pr q := rfl
@[simp] theorem State.writeAt_mr (s : State) (l : Loc) (bs : List Byte) (q : MR) : (s.writeAt l bs).mr q = s.mr q := rfl
@[simp] theorem State.writeAt_vr (s : State) (l : Loc) (bs : List Byte) (q : VR) : (s.writeAt l bs).vr q = s.vr q := rfl

/-! ### `State.writeW` -/

@[simp] theorem State.writeW_cores (s : State) (l : Loc) (v : W64) : (s.writeW l v).cores = s.cores := rfl
@[simp] theorem State.writeW_clusters (s : State) (l : Loc) (v : W64) : (s.writeW l v).clusters = s.clusters := rfl
@[simp] theorem State.writeW_slices (s : State) (l : Loc) (v : W64) : (s.writeW l v).slices = s.slices := rfl
@[simp] theorem State.writeW_parts (s : State) (l : Loc) (v : W64) : (s.writeW l v).parts = s.parts := rfl
@[simp] theorem State.writeW_islands (s : State) (l : Loc) (v : W64) : (s.writeW l v).islands = s.islands := rfl
@[simp] theorem State.writeW_fe (s : State) (l : Loc) (v : W64) : (s.writeW l v).fe = s.fe := rfl
@[simp] theorem State.writeW_sbits (s : State) (l : Loc) (v : W64) : (s.writeW l v).sbits = s.sbits := rfl
@[simp] theorem State.writeW_retry (s : State) (l : Loc) (v : W64) : (s.writeW l v).retry = s.retry := rfl
@[simp] theorem State.writeW_net (s : State) (l : Loc) (v : W64) : (s.writeW l v).net = s.net := rfl
@[simp] theorem State.writeW_reorder (s : State) (l : Loc) (v : W64) : (s.writeW l v).reorder = s.reorder := rfl
@[simp] theorem State.writeW_arrived (s : State) (l : Loc) (v : W64) : (s.writeW l v).arrived = s.arrived := rfl
@[simp] theorem State.writeW_sendSeq (s : State) (l : Loc) (v : W64) : (s.writeW l v).sendSeq = s.sendSeq := rfl
@[simp] theorem State.writeW_recvSeq (s : State) (l : Loc) (v : W64) : (s.writeW l v).recvSeq = s.recvSeq := rfl
@[simp] theorem State.writeW_failed (s : State) (l : Loc) (v : W64) : (s.writeW l v).failed = s.failed := rfl
@[simp] theorem State.writeW_dlt (s : State) (l : Loc) (v : W64) : (s.writeW l v).dlt = s.dlt := rfl
@[simp] theorem State.writeW_devid (s : State) (l : Loc) (v : W64) : (s.writeW l v).devid = s.devid := rfl
@[simp] theorem State.writeW_devidSet (s : State) (l : Loc) (v : W64) : (s.writeW l v).devidSet = s.devidSet := rfl
@[simp] theorem State.writeW_keys (s : State) (l : Loc) (v : W64) : (s.writeW l v).keys = s.keys := rfl
@[simp] theorem State.writeW_retired (s : State) (l : Loc) (v : W64) : (s.writeW l v).retired = s.retired := rfl
@[simp] theorem State.writeW_jobs (s : State) (l : Loc) (v : W64) : (s.writeW l v).jobs = s.jobs := rfl
@[simp] theorem State.writeW_gangs (s : State) (l : Loc) (v : W64) : (s.writeW l v).gangs = s.gangs := rfl
@[simp] theorem State.writeW_fabSeq (s : State) (l : Loc) (v : W64) : (s.writeW l v).fabSeq = s.fabSeq := rfl
@[simp] theorem State.writeW_fabOut (s : State) (l : Loc) (v : W64) : (s.writeW l v).fabOut = s.fabOut := rfl
@[simp] theorem State.writeW_fabCredits (s : State) (l : Loc) (v : W64) : (s.writeW l v).fabCredits = s.fabCredits := rfl
@[simp] theorem State.writeW_fabRecv (s : State) (l : Loc) (v : W64) : (s.writeW l v).fabRecv = s.fabRecv := rfl
@[simp] theorem State.writeW_fabIn (s : State) (l : Loc) (v : W64) : (s.writeW l v).fabIn = s.fabIn := rfl
@[simp] theorem State.writeW_fabOpen (s : State) (l : Loc) (v : W64) : (s.writeW l v).fabOpen = s.fabOpen := rfl
@[simp] theorem State.writeW_switchBuf (s : State) (l : Loc) (v : W64) : (s.writeW l v).switchBuf = s.switchBuf := rfl
@[simp] theorem State.writeW_portsDown (s : State) (l : Loc) (v : W64) : (s.writeW l v).portsDown = s.portsDown := rfl
@[simp] theorem State.writeW_winLg (s : State) (l : Loc) (v : W64) : (s.writeW l v).winLg = s.winLg := rfl
@[simp] theorem State.writeW_hostQ (s : State) (l : Loc) (v : W64) : (s.writeW l v).hostQ = s.hostQ := rfl
@[simp] theorem State.writeW_hostOpen (s : State) (l : Loc) (v : W64) : (s.writeW l v).hostOpen = s.hostOpen := rfl
@[simp] theorem State.writeW_hostDone (s : State) (l : Loc) (v : W64) : (s.writeW l v).hostDone = s.hostDone := rfl
@[simp] theorem State.writeW_hostUr (s : State) (l : Loc) (v : W64) : (s.writeW l v).hostUr = s.hostUr := rfl
@[simp] theorem State.writeW_msi (s : State) (l : Loc) (v : W64) : (s.writeW l v).msi = s.msi := rfl
@[simp] theorem State.writeW_msix (s : State) (l : Loc) (v : W64) : (s.writeW l v).msix = s.msix := rfl
@[simp] theorem State.writeW_boot (s : State) (l : Loc) (v : W64) : (s.writeW l v).boot = s.boot := rfl
@[simp] theorem State.writeW_mailbox (s : State) (l : Loc) (v : W64) : (s.writeW l v).mailbox = s.mailbox := rfl
@[simp] theorem State.writeW_flash (s : State) (l : Loc) (v : W64) : (s.writeW l v).flash = s.flash := rfl
@[simp] theorem State.writeW_spdm (s : State) (l : Loc) (v : W64) : (s.writeW l v).spdm = s.spdm := rfl
@[simp] theorem State.writeW_power (s : State) (l : Loc) (v : W64) : (s.writeW l v).power = s.power := rfl
@[simp] theorem State.writeW_time (s : State) (l : Loc) (v : W64) : (s.writeW l v).time = s.time := rfl
@[simp] theorem State.writeW_cur (s : State) (l : Loc) (v : W64) : (s.writeW l v).cur = s.cur := rfl
@[simp] theorem State.writeW_agenda (s : State) (l : Loc) (v : W64) : (s.writeW l v).agenda = s.agenda := rfl
@[simp] theorem State.writeW_auto (s : State) (l : Loc) (v : W64) : (s.writeW l v).auto = s.auto := rfl
@[simp] theorem State.writeW_freeCtr (s : State) (l : Loc) (v : W64) : (s.writeW l v).freeCtr = s.freeCtr := rfl
@[simp] theorem State.writeW_token (s : State) (l : Loc) (v : W64) : (s.writeW l v).token = s.token := rfl
@[simp] theorem State.writeW_g (s : State) (l : Loc) (v : W64) (r : GR) : (s.writeW l v).g r = s.g r := rfl
@[simp] theorem State.writeW_gS (s : State) (l : Loc) (v : W64) (r : GR) : (s.writeW l v).gS r = s.gS r := rfl
@[simp] theorem State.writeW_gq (s : State) (l : Loc) (v : W64) (r : GR) : (s.writeW l v).gq r = s.gq r := rfl
@[simp] theorem State.writeW_pr (s : State) (l : Loc) (v : W64) (q : PR) : (s.writeW l v).pr q = s.pr q := rfl
@[simp] theorem State.writeW_mr (s : State) (l : Loc) (v : W64) (q : MR) : (s.writeW l v).mr q = s.mr q := rfl
@[simp] theorem State.writeW_vr (s : State) (l : Loc) (v : W64) (q : VR) : (s.writeW l v).vr q = s.vr q := rfl

/-! ### `State.setFull` -/

@[simp] theorem State.setFull_cores (s : State) (l : Loc) (b : Bool) : (s.setFull l b).cores = s.cores := rfl
@[simp] theorem State.setFull_clusters (s : State) (l : Loc) (b : Bool) : (s.setFull l b).clusters = s.clusters := rfl
@[simp] theorem State.setFull_slices (s : State) (l : Loc) (b : Bool) : (s.setFull l b).slices = s.slices := rfl
@[simp] theorem State.setFull_parts (s : State) (l : Loc) (b : Bool) : (s.setFull l b).parts = s.parts := rfl
@[simp] theorem State.setFull_islands (s : State) (l : Loc) (b : Bool) : (s.setFull l b).islands = s.islands := rfl
@[simp] theorem State.setFull_mem (s : State) (l : Loc) (b : Bool) : (s.setFull l b).mem = s.mem := rfl
@[simp] theorem State.setFull_sbits (s : State) (l : Loc) (b : Bool) : (s.setFull l b).sbits = s.sbits := rfl
@[simp] theorem State.setFull_retry (s : State) (l : Loc) (b : Bool) : (s.setFull l b).retry = s.retry := rfl
@[simp] theorem State.setFull_net (s : State) (l : Loc) (b : Bool) : (s.setFull l b).net = s.net := rfl
@[simp] theorem State.setFull_reorder (s : State) (l : Loc) (b : Bool) : (s.setFull l b).reorder = s.reorder := rfl
@[simp] theorem State.setFull_arrived (s : State) (l : Loc) (b : Bool) : (s.setFull l b).arrived = s.arrived := rfl
@[simp] theorem State.setFull_sendSeq (s : State) (l : Loc) (b : Bool) : (s.setFull l b).sendSeq = s.sendSeq := rfl
@[simp] theorem State.setFull_recvSeq (s : State) (l : Loc) (b : Bool) : (s.setFull l b).recvSeq = s.recvSeq := rfl
@[simp] theorem State.setFull_failed (s : State) (l : Loc) (b : Bool) : (s.setFull l b).failed = s.failed := rfl
@[simp] theorem State.setFull_dlt (s : State) (l : Loc) (b : Bool) : (s.setFull l b).dlt = s.dlt := rfl
@[simp] theorem State.setFull_devid (s : State) (l : Loc) (b : Bool) : (s.setFull l b).devid = s.devid := rfl
@[simp] theorem State.setFull_devidSet (s : State) (l : Loc) (b : Bool) : (s.setFull l b).devidSet = s.devidSet := rfl
@[simp] theorem State.setFull_keys (s : State) (l : Loc) (b : Bool) : (s.setFull l b).keys = s.keys := rfl
@[simp] theorem State.setFull_retired (s : State) (l : Loc) (b : Bool) : (s.setFull l b).retired = s.retired := rfl
@[simp] theorem State.setFull_jobs (s : State) (l : Loc) (b : Bool) : (s.setFull l b).jobs = s.jobs := rfl
@[simp] theorem State.setFull_gangs (s : State) (l : Loc) (b : Bool) : (s.setFull l b).gangs = s.gangs := rfl
@[simp] theorem State.setFull_fabSeq (s : State) (l : Loc) (b : Bool) : (s.setFull l b).fabSeq = s.fabSeq := rfl
@[simp] theorem State.setFull_fabOut (s : State) (l : Loc) (b : Bool) : (s.setFull l b).fabOut = s.fabOut := rfl
@[simp] theorem State.setFull_fabCredits (s : State) (l : Loc) (b : Bool) : (s.setFull l b).fabCredits = s.fabCredits := rfl
@[simp] theorem State.setFull_fabRecv (s : State) (l : Loc) (b : Bool) : (s.setFull l b).fabRecv = s.fabRecv := rfl
@[simp] theorem State.setFull_fabIn (s : State) (l : Loc) (b : Bool) : (s.setFull l b).fabIn = s.fabIn := rfl
@[simp] theorem State.setFull_fabOpen (s : State) (l : Loc) (b : Bool) : (s.setFull l b).fabOpen = s.fabOpen := rfl
@[simp] theorem State.setFull_switchBuf (s : State) (l : Loc) (b : Bool) : (s.setFull l b).switchBuf = s.switchBuf := rfl
@[simp] theorem State.setFull_portsDown (s : State) (l : Loc) (b : Bool) : (s.setFull l b).portsDown = s.portsDown := rfl
@[simp] theorem State.setFull_winLg (s : State) (l : Loc) (b : Bool) : (s.setFull l b).winLg = s.winLg := rfl
@[simp] theorem State.setFull_hostQ (s : State) (l : Loc) (b : Bool) : (s.setFull l b).hostQ = s.hostQ := rfl
@[simp] theorem State.setFull_hostOpen (s : State) (l : Loc) (b : Bool) : (s.setFull l b).hostOpen = s.hostOpen := rfl
@[simp] theorem State.setFull_hostDone (s : State) (l : Loc) (b : Bool) : (s.setFull l b).hostDone = s.hostDone := rfl
@[simp] theorem State.setFull_hostUr (s : State) (l : Loc) (b : Bool) : (s.setFull l b).hostUr = s.hostUr := rfl
@[simp] theorem State.setFull_msi (s : State) (l : Loc) (b : Bool) : (s.setFull l b).msi = s.msi := rfl
@[simp] theorem State.setFull_msix (s : State) (l : Loc) (b : Bool) : (s.setFull l b).msix = s.msix := rfl
@[simp] theorem State.setFull_boot (s : State) (l : Loc) (b : Bool) : (s.setFull l b).boot = s.boot := rfl
@[simp] theorem State.setFull_mailbox (s : State) (l : Loc) (b : Bool) : (s.setFull l b).mailbox = s.mailbox := rfl
@[simp] theorem State.setFull_flash (s : State) (l : Loc) (b : Bool) : (s.setFull l b).flash = s.flash := rfl
@[simp] theorem State.setFull_spdm (s : State) (l : Loc) (b : Bool) : (s.setFull l b).spdm = s.spdm := rfl
@[simp] theorem State.setFull_power (s : State) (l : Loc) (b : Bool) : (s.setFull l b).power = s.power := rfl
@[simp] theorem State.setFull_time (s : State) (l : Loc) (b : Bool) : (s.setFull l b).time = s.time := rfl
@[simp] theorem State.setFull_cur (s : State) (l : Loc) (b : Bool) : (s.setFull l b).cur = s.cur := rfl
@[simp] theorem State.setFull_agenda (s : State) (l : Loc) (b : Bool) : (s.setFull l b).agenda = s.agenda := rfl
@[simp] theorem State.setFull_auto (s : State) (l : Loc) (b : Bool) : (s.setFull l b).auto = s.auto := rfl
@[simp] theorem State.setFull_freeCtr (s : State) (l : Loc) (b : Bool) : (s.setFull l b).freeCtr = s.freeCtr := rfl
@[simp] theorem State.setFull_token (s : State) (l : Loc) (b : Bool) : (s.setFull l b).token = s.token := rfl
@[simp] theorem State.setFull_g (s : State) (l : Loc) (b : Bool) (r : GR) : (s.setFull l b).g r = s.g r := rfl
@[simp] theorem State.setFull_gS (s : State) (l : Loc) (b : Bool) (r : GR) : (s.setFull l b).gS r = s.gS r := rfl
@[simp] theorem State.setFull_gq (s : State) (l : Loc) (b : Bool) (r : GR) : (s.setFull l b).gq r = s.gq r := rfl
@[simp] theorem State.setFull_pr (s : State) (l : Loc) (b : Bool) (q : PR) : (s.setFull l b).pr q = s.pr q := rfl
@[simp] theorem State.setFull_mr (s : State) (l : Loc) (b : Bool) (q : MR) : (s.setFull l b).mr q = s.mr q := rfl
@[simp] theorem State.setFull_vr (s : State) (l : Loc) (b : Bool) (q : VR) : (s.setFull l b).vr q = s.vr q := rfl

/-! ### `State.setWordS` -/

@[simp] theorem State.setWordS_cores (s : State) (l : Loc) (b : Bool) : (s.setWordS l b).cores = s.cores := rfl
@[simp] theorem State.setWordS_clusters (s : State) (l : Loc) (b : Bool) : (s.setWordS l b).clusters = s.clusters := rfl
@[simp] theorem State.setWordS_slices (s : State) (l : Loc) (b : Bool) : (s.setWordS l b).slices = s.slices := rfl
@[simp] theorem State.setWordS_parts (s : State) (l : Loc) (b : Bool) : (s.setWordS l b).parts = s.parts := rfl
@[simp] theorem State.setWordS_islands (s : State) (l : Loc) (b : Bool) : (s.setWordS l b).islands = s.islands := rfl
@[simp] theorem State.setWordS_mem (s : State) (l : Loc) (b : Bool) : (s.setWordS l b).mem = s.mem := rfl
@[simp] theorem State.setWordS_fe (s : State) (l : Loc) (b : Bool) : (s.setWordS l b).fe = s.fe := rfl
@[simp] theorem State.setWordS_retry (s : State) (l : Loc) (b : Bool) : (s.setWordS l b).retry = s.retry := rfl
@[simp] theorem State.setWordS_net (s : State) (l : Loc) (b : Bool) : (s.setWordS l b).net = s.net := rfl
@[simp] theorem State.setWordS_reorder (s : State) (l : Loc) (b : Bool) : (s.setWordS l b).reorder = s.reorder := rfl
@[simp] theorem State.setWordS_arrived (s : State) (l : Loc) (b : Bool) : (s.setWordS l b).arrived = s.arrived := rfl
@[simp] theorem State.setWordS_sendSeq (s : State) (l : Loc) (b : Bool) : (s.setWordS l b).sendSeq = s.sendSeq := rfl
@[simp] theorem State.setWordS_recvSeq (s : State) (l : Loc) (b : Bool) : (s.setWordS l b).recvSeq = s.recvSeq := rfl
@[simp] theorem State.setWordS_failed (s : State) (l : Loc) (b : Bool) : (s.setWordS l b).failed = s.failed := rfl
@[simp] theorem State.setWordS_dlt (s : State) (l : Loc) (b : Bool) : (s.setWordS l b).dlt = s.dlt := rfl
@[simp] theorem State.setWordS_devid (s : State) (l : Loc) (b : Bool) : (s.setWordS l b).devid = s.devid := rfl
@[simp] theorem State.setWordS_devidSet (s : State) (l : Loc) (b : Bool) : (s.setWordS l b).devidSet = s.devidSet := rfl
@[simp] theorem State.setWordS_keys (s : State) (l : Loc) (b : Bool) : (s.setWordS l b).keys = s.keys := rfl
@[simp] theorem State.setWordS_retired (s : State) (l : Loc) (b : Bool) : (s.setWordS l b).retired = s.retired := rfl
@[simp] theorem State.setWordS_jobs (s : State) (l : Loc) (b : Bool) : (s.setWordS l b).jobs = s.jobs := rfl
@[simp] theorem State.setWordS_gangs (s : State) (l : Loc) (b : Bool) : (s.setWordS l b).gangs = s.gangs := rfl
@[simp] theorem State.setWordS_fabSeq (s : State) (l : Loc) (b : Bool) : (s.setWordS l b).fabSeq = s.fabSeq := rfl
@[simp] theorem State.setWordS_fabOut (s : State) (l : Loc) (b : Bool) : (s.setWordS l b).fabOut = s.fabOut := rfl
@[simp] theorem State.setWordS_fabCredits (s : State) (l : Loc) (b : Bool) : (s.setWordS l b).fabCredits = s.fabCredits := rfl
@[simp] theorem State.setWordS_fabRecv (s : State) (l : Loc) (b : Bool) : (s.setWordS l b).fabRecv = s.fabRecv := rfl
@[simp] theorem State.setWordS_fabIn (s : State) (l : Loc) (b : Bool) : (s.setWordS l b).fabIn = s.fabIn := rfl
@[simp] theorem State.setWordS_fabOpen (s : State) (l : Loc) (b : Bool) : (s.setWordS l b).fabOpen = s.fabOpen := rfl
@[simp] theorem State.setWordS_switchBuf (s : State) (l : Loc) (b : Bool) : (s.setWordS l b).switchBuf = s.switchBuf := rfl
@[simp] theorem State.setWordS_portsDown (s : State) (l : Loc) (b : Bool) : (s.setWordS l b).portsDown = s.portsDown := rfl
@[simp] theorem State.setWordS_winLg (s : State) (l : Loc) (b : Bool) : (s.setWordS l b).winLg = s.winLg := rfl
@[simp] theorem State.setWordS_hostQ (s : State) (l : Loc) (b : Bool) : (s.setWordS l b).hostQ = s.hostQ := rfl
@[simp] theorem State.setWordS_hostOpen (s : State) (l : Loc) (b : Bool) : (s.setWordS l b).hostOpen = s.hostOpen := rfl
@[simp] theorem State.setWordS_hostDone (s : State) (l : Loc) (b : Bool) : (s.setWordS l b).hostDone = s.hostDone := rfl
@[simp] theorem State.setWordS_hostUr (s : State) (l : Loc) (b : Bool) : (s.setWordS l b).hostUr = s.hostUr := rfl
@[simp] theorem State.setWordS_msi (s : State) (l : Loc) (b : Bool) : (s.setWordS l b).msi = s.msi := rfl
@[simp] theorem State.setWordS_msix (s : State) (l : Loc) (b : Bool) : (s.setWordS l b).msix = s.msix := rfl
@[simp] theorem State.setWordS_boot (s : State) (l : Loc) (b : Bool) : (s.setWordS l b).boot = s.boot := rfl
@[simp] theorem State.setWordS_mailbox (s : State) (l : Loc) (b : Bool) : (s.setWordS l b).mailbox = s.mailbox := rfl
@[simp] theorem State.setWordS_flash (s : State) (l : Loc) (b : Bool) : (s.setWordS l b).flash = s.flash := rfl
@[simp] theorem State.setWordS_spdm (s : State) (l : Loc) (b : Bool) : (s.setWordS l b).spdm = s.spdm := rfl
@[simp] theorem State.setWordS_power (s : State) (l : Loc) (b : Bool) : (s.setWordS l b).power = s.power := rfl
@[simp] theorem State.setWordS_time (s : State) (l : Loc) (b : Bool) : (s.setWordS l b).time = s.time := rfl
@[simp] theorem State.setWordS_cur (s : State) (l : Loc) (b : Bool) : (s.setWordS l b).cur = s.cur := rfl
@[simp] theorem State.setWordS_agenda (s : State) (l : Loc) (b : Bool) : (s.setWordS l b).agenda = s.agenda := rfl
@[simp] theorem State.setWordS_auto (s : State) (l : Loc) (b : Bool) : (s.setWordS l b).auto = s.auto := rfl
@[simp] theorem State.setWordS_freeCtr (s : State) (l : Loc) (b : Bool) : (s.setWordS l b).freeCtr = s.freeCtr := rfl
@[simp] theorem State.setWordS_token (s : State) (l : Loc) (b : Bool) : (s.setWordS l b).token = s.token := rfl
@[simp] theorem State.setWordS_g (s : State) (l : Loc) (b : Bool) (r : GR) : (s.setWordS l b).g r = s.g r := rfl
@[simp] theorem State.setWordS_gS (s : State) (l : Loc) (b : Bool) (r : GR) : (s.setWordS l b).gS r = s.gS r := rfl
@[simp] theorem State.setWordS_gq (s : State) (l : Loc) (b : Bool) (r : GR) : (s.setWordS l b).gq r = s.gq r := rfl
@[simp] theorem State.setWordS_pr (s : State) (l : Loc) (b : Bool) (q : PR) : (s.setWordS l b).pr q = s.pr q := rfl
@[simp] theorem State.setWordS_mr (s : State) (l : Loc) (b : Bool) (q : MR) : (s.setWordS l b).mr q = s.mr q := rfl
@[simp] theorem State.setWordS_vr (s : State) (l : Loc) (b : Bool) (q : VR) : (s.setWordS l b).vr q = s.vr q := rfl

/-! ### `State.send` -/

@[simp] theorem State.send_cores (s : State) (a b : Node) (n : Nat) (ch : Chan) (y : Body) : (s.send a b n ch y).cores = s.cores := rfl
@[simp] theorem State.send_clusters (s : State) (a b : Node) (n : Nat) (ch : Chan) (y : Body) : (s.send a b n ch y).clusters = s.clusters := rfl
@[simp] theorem State.send_slices (s : State) (a b : Node) (n : Nat) (ch : Chan) (y : Body) : (s.send a b n ch y).slices = s.slices := rfl
@[simp] theorem State.send_parts (s : State) (a b : Node) (n : Nat) (ch : Chan) (y : Body) : (s.send a b n ch y).parts = s.parts := rfl
@[simp] theorem State.send_islands (s : State) (a b : Node) (n : Nat) (ch : Chan) (y : Body) : (s.send a b n ch y).islands = s.islands := rfl
@[simp] theorem State.send_mem (s : State) (a b : Node) (n : Nat) (ch : Chan) (y : Body) : (s.send a b n ch y).mem = s.mem := rfl
@[simp] theorem State.send_fe (s : State) (a b : Node) (n : Nat) (ch : Chan) (y : Body) : (s.send a b n ch y).fe = s.fe := rfl
@[simp] theorem State.send_sbits (s : State) (a b : Node) (n : Nat) (ch : Chan) (y : Body) : (s.send a b n ch y).sbits = s.sbits := rfl
@[simp] theorem State.send_retry (s : State) (a b : Node) (n : Nat) (ch : Chan) (y : Body) : (s.send a b n ch y).retry = s.retry := rfl
@[simp] theorem State.send_reorder (s : State) (a b : Node) (n : Nat) (ch : Chan) (y : Body) : (s.send a b n ch y).reorder = s.reorder := rfl
@[simp] theorem State.send_arrived (s : State) (a b : Node) (n : Nat) (ch : Chan) (y : Body) : (s.send a b n ch y).arrived = s.arrived := rfl
@[simp] theorem State.send_recvSeq (s : State) (a b : Node) (n : Nat) (ch : Chan) (y : Body) : (s.send a b n ch y).recvSeq = s.recvSeq := rfl
@[simp] theorem State.send_failed (s : State) (a b : Node) (n : Nat) (ch : Chan) (y : Body) : (s.send a b n ch y).failed = s.failed := rfl
@[simp] theorem State.send_dlt (s : State) (a b : Node) (n : Nat) (ch : Chan) (y : Body) : (s.send a b n ch y).dlt = s.dlt := rfl
@[simp] theorem State.send_devid (s : State) (a b : Node) (n : Nat) (ch : Chan) (y : Body) : (s.send a b n ch y).devid = s.devid := rfl
@[simp] theorem State.send_devidSet (s : State) (a b : Node) (n : Nat) (ch : Chan) (y : Body) : (s.send a b n ch y).devidSet = s.devidSet := rfl
@[simp] theorem State.send_keys (s : State) (a b : Node) (n : Nat) (ch : Chan) (y : Body) : (s.send a b n ch y).keys = s.keys := rfl
@[simp] theorem State.send_retired (s : State) (a b : Node) (n : Nat) (ch : Chan) (y : Body) : (s.send a b n ch y).retired = s.retired := rfl
@[simp] theorem State.send_jobs (s : State) (a b : Node) (n : Nat) (ch : Chan) (y : Body) : (s.send a b n ch y).jobs = s.jobs := rfl
@[simp] theorem State.send_gangs (s : State) (a b : Node) (n : Nat) (ch : Chan) (y : Body) : (s.send a b n ch y).gangs = s.gangs := rfl
@[simp] theorem State.send_fabSeq (s : State) (a b : Node) (n : Nat) (ch : Chan) (y : Body) : (s.send a b n ch y).fabSeq = s.fabSeq := rfl
@[simp] theorem State.send_fabOut (s : State) (a b : Node) (n : Nat) (ch : Chan) (y : Body) : (s.send a b n ch y).fabOut = s.fabOut := rfl
@[simp] theorem State.send_fabCredits (s : State) (a b : Node) (n : Nat) (ch : Chan) (y : Body) : (s.send a b n ch y).fabCredits = s.fabCredits := rfl
@[simp] theorem State.send_fabRecv (s : State) (a b : Node) (n : Nat) (ch : Chan) (y : Body) : (s.send a b n ch y).fabRecv = s.fabRecv := rfl
@[simp] theorem State.send_fabIn (s : State) (a b : Node) (n : Nat) (ch : Chan) (y : Body) : (s.send a b n ch y).fabIn = s.fabIn := rfl
@[simp] theorem State.send_fabOpen (s : State) (a b : Node) (n : Nat) (ch : Chan) (y : Body) : (s.send a b n ch y).fabOpen = s.fabOpen := rfl
@[simp] theorem State.send_switchBuf (s : State) (a b : Node) (n : Nat) (ch : Chan) (y : Body) : (s.send a b n ch y).switchBuf = s.switchBuf := rfl
@[simp] theorem State.send_portsDown (s : State) (a b : Node) (n : Nat) (ch : Chan) (y : Body) : (s.send a b n ch y).portsDown = s.portsDown := rfl
@[simp] theorem State.send_winLg (s : State) (a b : Node) (n : Nat) (ch : Chan) (y : Body) : (s.send a b n ch y).winLg = s.winLg := rfl
@[simp] theorem State.send_hostQ (s : State) (a b : Node) (n : Nat) (ch : Chan) (y : Body) : (s.send a b n ch y).hostQ = s.hostQ := rfl
@[simp] theorem State.send_hostOpen (s : State) (a b : Node) (n : Nat) (ch : Chan) (y : Body) : (s.send a b n ch y).hostOpen = s.hostOpen := rfl
@[simp] theorem State.send_hostDone (s : State) (a b : Node) (n : Nat) (ch : Chan) (y : Body) : (s.send a b n ch y).hostDone = s.hostDone := rfl
@[simp] theorem State.send_hostUr (s : State) (a b : Node) (n : Nat) (ch : Chan) (y : Body) : (s.send a b n ch y).hostUr = s.hostUr := rfl
@[simp] theorem State.send_msi (s : State) (a b : Node) (n : Nat) (ch : Chan) (y : Body) : (s.send a b n ch y).msi = s.msi := rfl
@[simp] theorem State.send_msix (s : State) (a b : Node) (n : Nat) (ch : Chan) (y : Body) : (s.send a b n ch y).msix = s.msix := rfl
@[simp] theorem State.send_boot (s : State) (a b : Node) (n : Nat) (ch : Chan) (y : Body) : (s.send a b n ch y).boot = s.boot := rfl
@[simp] theorem State.send_mailbox (s : State) (a b : Node) (n : Nat) (ch : Chan) (y : Body) : (s.send a b n ch y).mailbox = s.mailbox := rfl
@[simp] theorem State.send_flash (s : State) (a b : Node) (n : Nat) (ch : Chan) (y : Body) : (s.send a b n ch y).flash = s.flash := rfl
@[simp] theorem State.send_spdm (s : State) (a b : Node) (n : Nat) (ch : Chan) (y : Body) : (s.send a b n ch y).spdm = s.spdm := rfl
@[simp] theorem State.send_power (s : State) (a b : Node) (n : Nat) (ch : Chan) (y : Body) : (s.send a b n ch y).power = s.power := rfl
@[simp] theorem State.send_time (s : State) (a b : Node) (n : Nat) (ch : Chan) (y : Body) : (s.send a b n ch y).time = s.time := rfl
@[simp] theorem State.send_cur (s : State) (a b : Node) (n : Nat) (ch : Chan) (y : Body) : (s.send a b n ch y).cur = s.cur := rfl
@[simp] theorem State.send_agenda (s : State) (a b : Node) (n : Nat) (ch : Chan) (y : Body) : (s.send a b n ch y).agenda = s.agenda := rfl
@[simp] theorem State.send_auto (s : State) (a b : Node) (n : Nat) (ch : Chan) (y : Body) : (s.send a b n ch y).auto = s.auto := rfl
@[simp] theorem State.send_freeCtr (s : State) (a b : Node) (n : Nat) (ch : Chan) (y : Body) : (s.send a b n ch y).freeCtr = s.freeCtr := rfl
@[simp] theorem State.send_g (s : State) (a b : Node) (n : Nat) (ch : Chan) (y : Body) (r : GR) : (s.send a b n ch y).g r = s.g r := rfl
@[simp] theorem State.send_gS (s : State) (a b : Node) (n : Nat) (ch : Chan) (y : Body) (r : GR) : (s.send a b n ch y).gS r = s.gS r := rfl
@[simp] theorem State.send_gq (s : State) (a b : Node) (n : Nat) (ch : Chan) (y : Body) (r : GR) : (s.send a b n ch y).gq r = s.gq r := rfl
@[simp] theorem State.send_pr (s : State) (a b : Node) (n : Nat) (ch : Chan) (y : Body) (q : PR) : (s.send a b n ch y).pr q = s.pr q := rfl
@[simp] theorem State.send_mr (s : State) (a b : Node) (n : Nat) (ch : Chan) (y : Body) (q : MR) : (s.send a b n ch y).mr q = s.mr q := rfl
@[simp] theorem State.send_vr (s : State) (a b : Node) (n : Nat) (ch : Chan) (y : Body) (q : VR) : (s.send a b n ch y).vr q = s.vr q := rfl

/-! ### `State.park` -/

@[simp] theorem State.park_clusters (s : State) (h : Hold) : (s.park h).clusters = s.clusters := rfl
@[simp] theorem State.park_slices (s : State) (h : Hold) : (s.park h).slices = s.slices := rfl
@[simp] theorem State.park_parts (s : State) (h : Hold) : (s.park h).parts = s.parts := rfl
@[simp] theorem State.park_islands (s : State) (h : Hold) : (s.park h).islands = s.islands := rfl
@[simp] theorem State.park_mem (s : State) (h : Hold) : (s.park h).mem = s.mem := rfl
@[simp] theorem State.park_fe (s : State) (h : Hold) : (s.park h).fe = s.fe := rfl
@[simp] theorem State.park_sbits (s : State) (h : Hold) : (s.park h).sbits = s.sbits := rfl
@[simp] theorem State.park_retry (s : State) (h : Hold) : (s.park h).retry = s.retry := rfl
@[simp] theorem State.park_net (s : State) (h : Hold) : (s.park h).net = s.net := rfl
@[simp] theorem State.park_reorder (s : State) (h : Hold) : (s.park h).reorder = s.reorder := rfl
@[simp] theorem State.park_arrived (s : State) (h : Hold) : (s.park h).arrived = s.arrived := rfl
@[simp] theorem State.park_sendSeq (s : State) (h : Hold) : (s.park h).sendSeq = s.sendSeq := rfl
@[simp] theorem State.park_recvSeq (s : State) (h : Hold) : (s.park h).recvSeq = s.recvSeq := rfl
@[simp] theorem State.park_failed (s : State) (h : Hold) : (s.park h).failed = s.failed := rfl
@[simp] theorem State.park_dlt (s : State) (h : Hold) : (s.park h).dlt = s.dlt := rfl
@[simp] theorem State.park_devid (s : State) (h : Hold) : (s.park h).devid = s.devid := rfl
@[simp] theorem State.park_devidSet (s : State) (h : Hold) : (s.park h).devidSet = s.devidSet := rfl
@[simp] theorem State.park_keys (s : State) (h : Hold) : (s.park h).keys = s.keys := rfl
@[simp] theorem State.park_retired (s : State) (h : Hold) : (s.park h).retired = s.retired := rfl
@[simp] theorem State.park_jobs (s : State) (h : Hold) : (s.park h).jobs = s.jobs := rfl
@[simp] theorem State.park_gangs (s : State) (h : Hold) : (s.park h).gangs = s.gangs := rfl
@[simp] theorem State.park_fabSeq (s : State) (h : Hold) : (s.park h).fabSeq = s.fabSeq := rfl
@[simp] theorem State.park_fabOut (s : State) (h : Hold) : (s.park h).fabOut = s.fabOut := rfl
@[simp] theorem State.park_fabCredits (s : State) (h : Hold) : (s.park h).fabCredits = s.fabCredits := rfl
@[simp] theorem State.park_fabRecv (s : State) (h : Hold) : (s.park h).fabRecv = s.fabRecv := rfl
@[simp] theorem State.park_fabIn (s : State) (h : Hold) : (s.park h).fabIn = s.fabIn := rfl
@[simp] theorem State.park_fabOpen (s : State) (h : Hold) : (s.park h).fabOpen = s.fabOpen := rfl
@[simp] theorem State.park_switchBuf (s : State) (h : Hold) : (s.park h).switchBuf = s.switchBuf := rfl
@[simp] theorem State.park_portsDown (s : State) (h : Hold) : (s.park h).portsDown = s.portsDown := rfl
@[simp] theorem State.park_winLg (s : State) (h : Hold) : (s.park h).winLg = s.winLg := rfl
@[simp] theorem State.park_hostQ (s : State) (h : Hold) : (s.park h).hostQ = s.hostQ := rfl
@[simp] theorem State.park_hostOpen (s : State) (h : Hold) : (s.park h).hostOpen = s.hostOpen := rfl
@[simp] theorem State.park_hostDone (s : State) (h : Hold) : (s.park h).hostDone = s.hostDone := rfl
@[simp] theorem State.park_hostUr (s : State) (h : Hold) : (s.park h).hostUr = s.hostUr := rfl
@[simp] theorem State.park_msi (s : State) (h : Hold) : (s.park h).msi = s.msi := rfl
@[simp] theorem State.park_msix (s : State) (h : Hold) : (s.park h).msix = s.msix := rfl
@[simp] theorem State.park_boot (s : State) (h : Hold) : (s.park h).boot = s.boot := rfl
@[simp] theorem State.park_mailbox (s : State) (h : Hold) : (s.park h).mailbox = s.mailbox := rfl
@[simp] theorem State.park_flash (s : State) (h : Hold) : (s.park h).flash = s.flash := rfl
@[simp] theorem State.park_spdm (s : State) (h : Hold) : (s.park h).spdm = s.spdm := rfl
@[simp] theorem State.park_power (s : State) (h : Hold) : (s.park h).power = s.power := rfl
@[simp] theorem State.park_time (s : State) (h : Hold) : (s.park h).time = s.time := rfl
@[simp] theorem State.park_agenda (s : State) (h : Hold) : (s.park h).agenda = s.agenda := rfl
@[simp] theorem State.park_auto (s : State) (h : Hold) : (s.park h).auto = s.auto := rfl
@[simp] theorem State.park_freeCtr (s : State) (h : Hold) : (s.park h).freeCtr = s.freeCtr := rfl
@[simp] theorem State.park_token (s : State) (h : Hold) : (s.park h).token = s.token := rfl
@[simp] theorem State.park_cur_core (s : State) (h : Hold) : (s.park h).cur.core = s.cur.core := rfl
@[simp] theorem State.park_cur_slot (s : State) (h : Hold) : (s.park h).cur.slot = s.cur.slot := rfl
@[simp] theorem State.park_cur_pc (s : State) (h : Hold) : (s.park h).cur.pc = s.cur.pc := rfl
@[simp] theorem State.park_cur_cword (s : State) (h : Hold) : (s.park h).cur.cword = s.cur.cword := rfl
@[simp] theorem State.park_cur_aword (s : State) (h : Hold) : (s.park h).cur.aword = s.cur.aword := rfl
@[simp] theorem State.park_cur_len (s : State) (h : Hold) : (s.park h).cur.len = s.cur.len := rfl
@[simp] theorem State.park_cur_pre (s : State) (h : Hold) : (s.park h).cur.pre = s.cur.pre := rfl
@[simp] theorem State.park_cur_qi (s : State) (h : Hold) : (s.park h).cur.qi = s.cur.qi := rfl
@[simp] theorem State.park_cur_isA (s : State) (h : Hold) : (s.park h).cur.isA = s.cur.isA := rfl
@[simp] theorem State.park_g (s : State) (h : Hold) (r : GR) : (s.park h).g r = s.g r := rfl
@[simp] theorem State.park_gS (s : State) (h : Hold) (r : GR) : (s.park h).gS r = s.gS r := rfl
@[simp] theorem State.park_gq (s : State) (h : Hold) (r : GR) : (s.park h).gq r = s.gq r := rfl
@[simp] theorem State.park_pr (s : State) (h : Hold) (q : PR) : (s.park h).pr q = s.pr q := rfl
@[simp] theorem State.park_mr (s : State) (h : Hold) (q : MR) : (s.park h).mr q = s.mr q := rfl
@[simp] theorem State.park_vr (s : State) (h : Hold) (q : VR) : (s.park h).vr q = s.vr q := rfl

/-! ### `State.wait` -/

@[simp] theorem State.wait_clusters (s : State) (h : Hold) : (s.wait h).clusters = s.clusters := rfl
@[simp] theorem State.wait_slices (s : State) (h : Hold) : (s.wait h).slices = s.slices := rfl
@[simp] theorem State.wait_parts (s : State) (h : Hold) : (s.wait h).parts = s.parts := rfl
@[simp] theorem State.wait_islands (s : State) (h : Hold) : (s.wait h).islands = s.islands := rfl
@[simp] theorem State.wait_mem (s : State) (h : Hold) : (s.wait h).mem = s.mem := rfl
@[simp] theorem State.wait_fe (s : State) (h : Hold) : (s.wait h).fe = s.fe := rfl
@[simp] theorem State.wait_sbits (s : State) (h : Hold) : (s.wait h).sbits = s.sbits := rfl
@[simp] theorem State.wait_retry (s : State) (h : Hold) : (s.wait h).retry = s.retry := rfl
@[simp] theorem State.wait_net (s : State) (h : Hold) : (s.wait h).net = s.net := rfl
@[simp] theorem State.wait_reorder (s : State) (h : Hold) : (s.wait h).reorder = s.reorder := rfl
@[simp] theorem State.wait_arrived (s : State) (h : Hold) : (s.wait h).arrived = s.arrived := rfl
@[simp] theorem State.wait_sendSeq (s : State) (h : Hold) : (s.wait h).sendSeq = s.sendSeq := rfl
@[simp] theorem State.wait_recvSeq (s : State) (h : Hold) : (s.wait h).recvSeq = s.recvSeq := rfl
@[simp] theorem State.wait_failed (s : State) (h : Hold) : (s.wait h).failed = s.failed := rfl
@[simp] theorem State.wait_dlt (s : State) (h : Hold) : (s.wait h).dlt = s.dlt := rfl
@[simp] theorem State.wait_devid (s : State) (h : Hold) : (s.wait h).devid = s.devid := rfl
@[simp] theorem State.wait_devidSet (s : State) (h : Hold) : (s.wait h).devidSet = s.devidSet := rfl
@[simp] theorem State.wait_keys (s : State) (h : Hold) : (s.wait h).keys = s.keys := rfl
@[simp] theorem State.wait_retired (s : State) (h : Hold) : (s.wait h).retired = s.retired := rfl
@[simp] theorem State.wait_jobs (s : State) (h : Hold) : (s.wait h).jobs = s.jobs := rfl
@[simp] theorem State.wait_gangs (s : State) (h : Hold) : (s.wait h).gangs = s.gangs := rfl
@[simp] theorem State.wait_fabSeq (s : State) (h : Hold) : (s.wait h).fabSeq = s.fabSeq := rfl
@[simp] theorem State.wait_fabOut (s : State) (h : Hold) : (s.wait h).fabOut = s.fabOut := rfl
@[simp] theorem State.wait_fabCredits (s : State) (h : Hold) : (s.wait h).fabCredits = s.fabCredits := rfl
@[simp] theorem State.wait_fabRecv (s : State) (h : Hold) : (s.wait h).fabRecv = s.fabRecv := rfl
@[simp] theorem State.wait_fabIn (s : State) (h : Hold) : (s.wait h).fabIn = s.fabIn := rfl
@[simp] theorem State.wait_fabOpen (s : State) (h : Hold) : (s.wait h).fabOpen = s.fabOpen := rfl
@[simp] theorem State.wait_switchBuf (s : State) (h : Hold) : (s.wait h).switchBuf = s.switchBuf := rfl
@[simp] theorem State.wait_portsDown (s : State) (h : Hold) : (s.wait h).portsDown = s.portsDown := rfl
@[simp] theorem State.wait_winLg (s : State) (h : Hold) : (s.wait h).winLg = s.winLg := rfl
@[simp] theorem State.wait_hostQ (s : State) (h : Hold) : (s.wait h).hostQ = s.hostQ := rfl
@[simp] theorem State.wait_hostOpen (s : State) (h : Hold) : (s.wait h).hostOpen = s.hostOpen := rfl
@[simp] theorem State.wait_hostDone (s : State) (h : Hold) : (s.wait h).hostDone = s.hostDone := rfl
@[simp] theorem State.wait_hostUr (s : State) (h : Hold) : (s.wait h).hostUr = s.hostUr := rfl
@[simp] theorem State.wait_msi (s : State) (h : Hold) : (s.wait h).msi = s.msi := rfl
@[simp] theorem State.wait_msix (s : State) (h : Hold) : (s.wait h).msix = s.msix := rfl
@[simp] theorem State.wait_boot (s : State) (h : Hold) : (s.wait h).boot = s.boot := rfl
@[simp] theorem State.wait_mailbox (s : State) (h : Hold) : (s.wait h).mailbox = s.mailbox := rfl
@[simp] theorem State.wait_flash (s : State) (h : Hold) : (s.wait h).flash = s.flash := rfl
@[simp] theorem State.wait_spdm (s : State) (h : Hold) : (s.wait h).spdm = s.spdm := rfl
@[simp] theorem State.wait_power (s : State) (h : Hold) : (s.wait h).power = s.power := rfl
@[simp] theorem State.wait_time (s : State) (h : Hold) : (s.wait h).time = s.time := rfl
@[simp] theorem State.wait_agenda (s : State) (h : Hold) : (s.wait h).agenda = s.agenda := rfl
@[simp] theorem State.wait_auto (s : State) (h : Hold) : (s.wait h).auto = s.auto := rfl
@[simp] theorem State.wait_freeCtr (s : State) (h : Hold) : (s.wait h).freeCtr = s.freeCtr := rfl
@[simp] theorem State.wait_token (s : State) (h : Hold) : (s.wait h).token = s.token := rfl
@[simp] theorem State.wait_cur_core (s : State) (h : Hold) : (s.wait h).cur.core = s.cur.core := rfl
@[simp] theorem State.wait_cur_slot (s : State) (h : Hold) : (s.wait h).cur.slot = s.cur.slot := rfl
@[simp] theorem State.wait_cur_pc (s : State) (h : Hold) : (s.wait h).cur.pc = s.cur.pc := rfl
@[simp] theorem State.wait_cur_cword (s : State) (h : Hold) : (s.wait h).cur.cword = s.cur.cword := rfl
@[simp] theorem State.wait_cur_aword (s : State) (h : Hold) : (s.wait h).cur.aword = s.cur.aword := rfl
@[simp] theorem State.wait_cur_len (s : State) (h : Hold) : (s.wait h).cur.len = s.cur.len := rfl
@[simp] theorem State.wait_cur_pre (s : State) (h : Hold) : (s.wait h).cur.pre = s.cur.pre := rfl
@[simp] theorem State.wait_cur_qi (s : State) (h : Hold) : (s.wait h).cur.qi = s.cur.qi := rfl
@[simp] theorem State.wait_cur_isA (s : State) (h : Hold) : (s.wait h).cur.isA = s.cur.isA := rfl
@[simp] theorem State.wait_g (s : State) (h : Hold) (r : GR) : (s.wait h).g r = s.g r := rfl
@[simp] theorem State.wait_gS (s : State) (h : Hold) (r : GR) : (s.wait h).gS r = s.gS r := rfl
@[simp] theorem State.wait_gq (s : State) (h : Hold) (r : GR) : (s.wait h).gq r = s.gq r := rfl
@[simp] theorem State.wait_pr (s : State) (h : Hold) (q : PR) : (s.wait h).pr q = s.pr q := rfl
@[simp] theorem State.wait_mr (s : State) (h : Hold) (q : MR) : (s.wait h).mr q = s.mr q := rfl
@[simp] theorem State.wait_vr (s : State) (h : Hold) (q : VR) : (s.wait h).vr q = s.vr q := rfl

/-! ### `State.parkAfter` -/

@[simp] theorem State.parkAfter_clusters (s : State) (h : Hold) : (s.parkAfter h).clusters = s.clusters := rfl
@[simp] theorem State.parkAfter_slices (s : State) (h : Hold) : (s.parkAfter h).slices = s.slices := rfl
@[simp] theorem State.parkAfter_parts (s : State) (h : Hold) : (s.parkAfter h).parts = s.parts := rfl
@[simp] theorem State.parkAfter_islands (s : State) (h : Hold) : (s.parkAfter h).islands = s.islands := rfl
@[simp] theorem State.parkAfter_mem (s : State) (h : Hold) : (s.parkAfter h).mem = s.mem := rfl
@[simp] theorem State.parkAfter_fe (s : State) (h : Hold) : (s.parkAfter h).fe = s.fe := rfl
@[simp] theorem State.parkAfter_sbits (s : State) (h : Hold) : (s.parkAfter h).sbits = s.sbits := rfl
@[simp] theorem State.parkAfter_retry (s : State) (h : Hold) : (s.parkAfter h).retry = s.retry := rfl
@[simp] theorem State.parkAfter_net (s : State) (h : Hold) : (s.parkAfter h).net = s.net := rfl
@[simp] theorem State.parkAfter_reorder (s : State) (h : Hold) : (s.parkAfter h).reorder = s.reorder := rfl
@[simp] theorem State.parkAfter_arrived (s : State) (h : Hold) : (s.parkAfter h).arrived = s.arrived := rfl
@[simp] theorem State.parkAfter_sendSeq (s : State) (h : Hold) : (s.parkAfter h).sendSeq = s.sendSeq := rfl
@[simp] theorem State.parkAfter_recvSeq (s : State) (h : Hold) : (s.parkAfter h).recvSeq = s.recvSeq := rfl
@[simp] theorem State.parkAfter_failed (s : State) (h : Hold) : (s.parkAfter h).failed = s.failed := rfl
@[simp] theorem State.parkAfter_dlt (s : State) (h : Hold) : (s.parkAfter h).dlt = s.dlt := rfl
@[simp] theorem State.parkAfter_devid (s : State) (h : Hold) : (s.parkAfter h).devid = s.devid := rfl
@[simp] theorem State.parkAfter_devidSet (s : State) (h : Hold) : (s.parkAfter h).devidSet = s.devidSet := rfl
@[simp] theorem State.parkAfter_keys (s : State) (h : Hold) : (s.parkAfter h).keys = s.keys := rfl
@[simp] theorem State.parkAfter_retired (s : State) (h : Hold) : (s.parkAfter h).retired = s.retired := rfl
@[simp] theorem State.parkAfter_jobs (s : State) (h : Hold) : (s.parkAfter h).jobs = s.jobs := rfl
@[simp] theorem State.parkAfter_gangs (s : State) (h : Hold) : (s.parkAfter h).gangs = s.gangs := rfl
@[simp] theorem State.parkAfter_fabSeq (s : State) (h : Hold) : (s.parkAfter h).fabSeq = s.fabSeq := rfl
@[simp] theorem State.parkAfter_fabOut (s : State) (h : Hold) : (s.parkAfter h).fabOut = s.fabOut := rfl
@[simp] theorem State.parkAfter_fabCredits (s : State) (h : Hold) : (s.parkAfter h).fabCredits = s.fabCredits := rfl
@[simp] theorem State.parkAfter_fabRecv (s : State) (h : Hold) : (s.parkAfter h).fabRecv = s.fabRecv := rfl
@[simp] theorem State.parkAfter_fabIn (s : State) (h : Hold) : (s.parkAfter h).fabIn = s.fabIn := rfl
@[simp] theorem State.parkAfter_fabOpen (s : State) (h : Hold) : (s.parkAfter h).fabOpen = s.fabOpen := rfl
@[simp] theorem State.parkAfter_switchBuf (s : State) (h : Hold) : (s.parkAfter h).switchBuf = s.switchBuf := rfl
@[simp] theorem State.parkAfter_portsDown (s : State) (h : Hold) : (s.parkAfter h).portsDown = s.portsDown := rfl
@[simp] theorem State.parkAfter_winLg (s : State) (h : Hold) : (s.parkAfter h).winLg = s.winLg := rfl
@[simp] theorem State.parkAfter_hostQ (s : State) (h : Hold) : (s.parkAfter h).hostQ = s.hostQ := rfl
@[simp] theorem State.parkAfter_hostOpen (s : State) (h : Hold) : (s.parkAfter h).hostOpen = s.hostOpen := rfl
@[simp] theorem State.parkAfter_hostDone (s : State) (h : Hold) : (s.parkAfter h).hostDone = s.hostDone := rfl
@[simp] theorem State.parkAfter_hostUr (s : State) (h : Hold) : (s.parkAfter h).hostUr = s.hostUr := rfl
@[simp] theorem State.parkAfter_msi (s : State) (h : Hold) : (s.parkAfter h).msi = s.msi := rfl
@[simp] theorem State.parkAfter_msix (s : State) (h : Hold) : (s.parkAfter h).msix = s.msix := rfl
@[simp] theorem State.parkAfter_boot (s : State) (h : Hold) : (s.parkAfter h).boot = s.boot := rfl
@[simp] theorem State.parkAfter_mailbox (s : State) (h : Hold) : (s.parkAfter h).mailbox = s.mailbox := rfl
@[simp] theorem State.parkAfter_flash (s : State) (h : Hold) : (s.parkAfter h).flash = s.flash := rfl
@[simp] theorem State.parkAfter_spdm (s : State) (h : Hold) : (s.parkAfter h).spdm = s.spdm := rfl
@[simp] theorem State.parkAfter_power (s : State) (h : Hold) : (s.parkAfter h).power = s.power := rfl
@[simp] theorem State.parkAfter_time (s : State) (h : Hold) : (s.parkAfter h).time = s.time := rfl
@[simp] theorem State.parkAfter_cur (s : State) (h : Hold) : (s.parkAfter h).cur = s.cur := rfl
@[simp] theorem State.parkAfter_agenda (s : State) (h : Hold) : (s.parkAfter h).agenda = s.agenda := rfl
@[simp] theorem State.parkAfter_auto (s : State) (h : Hold) : (s.parkAfter h).auto = s.auto := rfl
@[simp] theorem State.parkAfter_freeCtr (s : State) (h : Hold) : (s.parkAfter h).freeCtr = s.freeCtr := rfl
@[simp] theorem State.parkAfter_token (s : State) (h : Hold) : (s.parkAfter h).token = s.token := rfl
@[simp] theorem State.parkAfter_g (s : State) (h : Hold) (r : GR) : (s.parkAfter h).g r = s.g r := rfl
@[simp] theorem State.parkAfter_gS (s : State) (h : Hold) (r : GR) : (s.parkAfter h).gS r = s.gS r := rfl
@[simp] theorem State.parkAfter_gq (s : State) (h : Hold) (r : GR) : (s.parkAfter h).gq r = s.gq r := rfl
@[simp] theorem State.parkAfter_pr (s : State) (h : Hold) (q : PR) : (s.parkAfter h).pr q = s.pr q := rfl
@[simp] theorem State.parkAfter_mr (s : State) (h : Hold) (q : MR) : (s.parkAfter h).mr q = s.mr q := rfl
@[simp] theorem State.parkAfter_vr (s : State) (h : Hold) (q : VR) : (s.parkAfter h).vr q = s.vr q := rfl

/-! ### `State.waitAfter` -/

@[simp] theorem State.waitAfter_clusters (s : State) (h : Hold) : (s.waitAfter h).clusters = s.clusters := rfl
@[simp] theorem State.waitAfter_slices (s : State) (h : Hold) : (s.waitAfter h).slices = s.slices := rfl
@[simp] theorem State.waitAfter_parts (s : State) (h : Hold) : (s.waitAfter h).parts = s.parts := rfl
@[simp] theorem State.waitAfter_islands (s : State) (h : Hold) : (s.waitAfter h).islands = s.islands := rfl
@[simp] theorem State.waitAfter_mem (s : State) (h : Hold) : (s.waitAfter h).mem = s.mem := rfl
@[simp] theorem State.waitAfter_fe (s : State) (h : Hold) : (s.waitAfter h).fe = s.fe := rfl
@[simp] theorem State.waitAfter_sbits (s : State) (h : Hold) : (s.waitAfter h).sbits = s.sbits := rfl
@[simp] theorem State.waitAfter_retry (s : State) (h : Hold) : (s.waitAfter h).retry = s.retry := rfl
@[simp] theorem State.waitAfter_net (s : State) (h : Hold) : (s.waitAfter h).net = s.net := rfl
@[simp] theorem State.waitAfter_reorder (s : State) (h : Hold) : (s.waitAfter h).reorder = s.reorder := rfl
@[simp] theorem State.waitAfter_arrived (s : State) (h : Hold) : (s.waitAfter h).arrived = s.arrived := rfl
@[simp] theorem State.waitAfter_sendSeq (s : State) (h : Hold) : (s.waitAfter h).sendSeq = s.sendSeq := rfl
@[simp] theorem State.waitAfter_recvSeq (s : State) (h : Hold) : (s.waitAfter h).recvSeq = s.recvSeq := rfl
@[simp] theorem State.waitAfter_failed (s : State) (h : Hold) : (s.waitAfter h).failed = s.failed := rfl
@[simp] theorem State.waitAfter_dlt (s : State) (h : Hold) : (s.waitAfter h).dlt = s.dlt := rfl
@[simp] theorem State.waitAfter_devid (s : State) (h : Hold) : (s.waitAfter h).devid = s.devid := rfl
@[simp] theorem State.waitAfter_devidSet (s : State) (h : Hold) : (s.waitAfter h).devidSet = s.devidSet := rfl
@[simp] theorem State.waitAfter_keys (s : State) (h : Hold) : (s.waitAfter h).keys = s.keys := rfl
@[simp] theorem State.waitAfter_retired (s : State) (h : Hold) : (s.waitAfter h).retired = s.retired := rfl
@[simp] theorem State.waitAfter_jobs (s : State) (h : Hold) : (s.waitAfter h).jobs = s.jobs := rfl
@[simp] theorem State.waitAfter_gangs (s : State) (h : Hold) : (s.waitAfter h).gangs = s.gangs := rfl
@[simp] theorem State.waitAfter_fabSeq (s : State) (h : Hold) : (s.waitAfter h).fabSeq = s.fabSeq := rfl
@[simp] theorem State.waitAfter_fabOut (s : State) (h : Hold) : (s.waitAfter h).fabOut = s.fabOut := rfl
@[simp] theorem State.waitAfter_fabCredits (s : State) (h : Hold) : (s.waitAfter h).fabCredits = s.fabCredits := rfl
@[simp] theorem State.waitAfter_fabRecv (s : State) (h : Hold) : (s.waitAfter h).fabRecv = s.fabRecv := rfl
@[simp] theorem State.waitAfter_fabIn (s : State) (h : Hold) : (s.waitAfter h).fabIn = s.fabIn := rfl
@[simp] theorem State.waitAfter_fabOpen (s : State) (h : Hold) : (s.waitAfter h).fabOpen = s.fabOpen := rfl
@[simp] theorem State.waitAfter_switchBuf (s : State) (h : Hold) : (s.waitAfter h).switchBuf = s.switchBuf := rfl
@[simp] theorem State.waitAfter_portsDown (s : State) (h : Hold) : (s.waitAfter h).portsDown = s.portsDown := rfl
@[simp] theorem State.waitAfter_winLg (s : State) (h : Hold) : (s.waitAfter h).winLg = s.winLg := rfl
@[simp] theorem State.waitAfter_hostQ (s : State) (h : Hold) : (s.waitAfter h).hostQ = s.hostQ := rfl
@[simp] theorem State.waitAfter_hostOpen (s : State) (h : Hold) : (s.waitAfter h).hostOpen = s.hostOpen := rfl
@[simp] theorem State.waitAfter_hostDone (s : State) (h : Hold) : (s.waitAfter h).hostDone = s.hostDone := rfl
@[simp] theorem State.waitAfter_hostUr (s : State) (h : Hold) : (s.waitAfter h).hostUr = s.hostUr := rfl
@[simp] theorem State.waitAfter_msi (s : State) (h : Hold) : (s.waitAfter h).msi = s.msi := rfl
@[simp] theorem State.waitAfter_msix (s : State) (h : Hold) : (s.waitAfter h).msix = s.msix := rfl
@[simp] theorem State.waitAfter_boot (s : State) (h : Hold) : (s.waitAfter h).boot = s.boot := rfl
@[simp] theorem State.waitAfter_mailbox (s : State) (h : Hold) : (s.waitAfter h).mailbox = s.mailbox := rfl
@[simp] theorem State.waitAfter_flash (s : State) (h : Hold) : (s.waitAfter h).flash = s.flash := rfl
@[simp] theorem State.waitAfter_spdm (s : State) (h : Hold) : (s.waitAfter h).spdm = s.spdm := rfl
@[simp] theorem State.waitAfter_power (s : State) (h : Hold) : (s.waitAfter h).power = s.power := rfl
@[simp] theorem State.waitAfter_time (s : State) (h : Hold) : (s.waitAfter h).time = s.time := rfl
@[simp] theorem State.waitAfter_cur (s : State) (h : Hold) : (s.waitAfter h).cur = s.cur := rfl
@[simp] theorem State.waitAfter_agenda (s : State) (h : Hold) : (s.waitAfter h).agenda = s.agenda := rfl
@[simp] theorem State.waitAfter_auto (s : State) (h : Hold) : (s.waitAfter h).auto = s.auto := rfl
@[simp] theorem State.waitAfter_freeCtr (s : State) (h : Hold) : (s.waitAfter h).freeCtr = s.freeCtr := rfl
@[simp] theorem State.waitAfter_token (s : State) (h : Hold) : (s.waitAfter h).token = s.token := rfl
@[simp] theorem State.waitAfter_g (s : State) (h : Hold) (r : GR) : (s.waitAfter h).g r = s.g r := rfl
@[simp] theorem State.waitAfter_gS (s : State) (h : Hold) (r : GR) : (s.waitAfter h).gS r = s.gS r := rfl
@[simp] theorem State.waitAfter_gq (s : State) (h : Hold) (r : GR) : (s.waitAfter h).gq r = s.gq r := rfl
@[simp] theorem State.waitAfter_pr (s : State) (h : Hold) (q : PR) : (s.waitAfter h).pr q = s.pr q := rfl
@[simp] theorem State.waitAfter_mr (s : State) (h : Hold) (q : MR) : (s.waitAfter h).mr q = s.mr q := rfl
@[simp] theorem State.waitAfter_vr (s : State) (h : Hold) (q : VR) : (s.waitAfter h).vr q = s.vr q := rfl

/-! ### `State.trapAt` -/

@[simp] theorem State.trapAt_clusters (s : State) (c k n : Nat) (v pc : W64) : (s.trapAt c k n v pc).clusters = s.clusters := rfl
@[simp] theorem State.trapAt_slices (s : State) (c k n : Nat) (v pc : W64) : (s.trapAt c k n v pc).slices = s.slices := rfl
@[simp] theorem State.trapAt_parts (s : State) (c k n : Nat) (v pc : W64) : (s.trapAt c k n v pc).parts = s.parts := rfl
@[simp] theorem State.trapAt_islands (s : State) (c k n : Nat) (v pc : W64) : (s.trapAt c k n v pc).islands = s.islands := rfl
@[simp] theorem State.trapAt_mem (s : State) (c k n : Nat) (v pc : W64) : (s.trapAt c k n v pc).mem = s.mem := rfl
@[simp] theorem State.trapAt_fe (s : State) (c k n : Nat) (v pc : W64) : (s.trapAt c k n v pc).fe = s.fe := rfl
@[simp] theorem State.trapAt_sbits (s : State) (c k n : Nat) (v pc : W64) : (s.trapAt c k n v pc).sbits = s.sbits := rfl
@[simp] theorem State.trapAt_retry (s : State) (c k n : Nat) (v pc : W64) : (s.trapAt c k n v pc).retry = s.retry := rfl
@[simp] theorem State.trapAt_net (s : State) (c k n : Nat) (v pc : W64) : (s.trapAt c k n v pc).net = s.net := rfl
@[simp] theorem State.trapAt_reorder (s : State) (c k n : Nat) (v pc : W64) : (s.trapAt c k n v pc).reorder = s.reorder := rfl
@[simp] theorem State.trapAt_arrived (s : State) (c k n : Nat) (v pc : W64) : (s.trapAt c k n v pc).arrived = s.arrived := rfl
@[simp] theorem State.trapAt_sendSeq (s : State) (c k n : Nat) (v pc : W64) : (s.trapAt c k n v pc).sendSeq = s.sendSeq := rfl
@[simp] theorem State.trapAt_recvSeq (s : State) (c k n : Nat) (v pc : W64) : (s.trapAt c k n v pc).recvSeq = s.recvSeq := rfl
@[simp] theorem State.trapAt_failed (s : State) (c k n : Nat) (v pc : W64) : (s.trapAt c k n v pc).failed = s.failed := rfl
@[simp] theorem State.trapAt_dlt (s : State) (c k n : Nat) (v pc : W64) : (s.trapAt c k n v pc).dlt = s.dlt := rfl
@[simp] theorem State.trapAt_devid (s : State) (c k n : Nat) (v pc : W64) : (s.trapAt c k n v pc).devid = s.devid := rfl
@[simp] theorem State.trapAt_devidSet (s : State) (c k n : Nat) (v pc : W64) : (s.trapAt c k n v pc).devidSet = s.devidSet := rfl
@[simp] theorem State.trapAt_keys (s : State) (c k n : Nat) (v pc : W64) : (s.trapAt c k n v pc).keys = s.keys := rfl
@[simp] theorem State.trapAt_retired (s : State) (c k n : Nat) (v pc : W64) : (s.trapAt c k n v pc).retired = s.retired := rfl
@[simp] theorem State.trapAt_jobs (s : State) (c k n : Nat) (v pc : W64) : (s.trapAt c k n v pc).jobs = s.jobs := rfl
@[simp] theorem State.trapAt_gangs (s : State) (c k n : Nat) (v pc : W64) : (s.trapAt c k n v pc).gangs = s.gangs := rfl
@[simp] theorem State.trapAt_fabSeq (s : State) (c k n : Nat) (v pc : W64) : (s.trapAt c k n v pc).fabSeq = s.fabSeq := rfl
@[simp] theorem State.trapAt_fabOut (s : State) (c k n : Nat) (v pc : W64) : (s.trapAt c k n v pc).fabOut = s.fabOut := rfl
@[simp] theorem State.trapAt_fabCredits (s : State) (c k n : Nat) (v pc : W64) : (s.trapAt c k n v pc).fabCredits = s.fabCredits := rfl
@[simp] theorem State.trapAt_fabRecv (s : State) (c k n : Nat) (v pc : W64) : (s.trapAt c k n v pc).fabRecv = s.fabRecv := rfl
@[simp] theorem State.trapAt_fabIn (s : State) (c k n : Nat) (v pc : W64) : (s.trapAt c k n v pc).fabIn = s.fabIn := rfl
@[simp] theorem State.trapAt_fabOpen (s : State) (c k n : Nat) (v pc : W64) : (s.trapAt c k n v pc).fabOpen = s.fabOpen := rfl
@[simp] theorem State.trapAt_switchBuf (s : State) (c k n : Nat) (v pc : W64) : (s.trapAt c k n v pc).switchBuf = s.switchBuf := rfl
@[simp] theorem State.trapAt_portsDown (s : State) (c k n : Nat) (v pc : W64) : (s.trapAt c k n v pc).portsDown = s.portsDown := rfl
@[simp] theorem State.trapAt_winLg (s : State) (c k n : Nat) (v pc : W64) : (s.trapAt c k n v pc).winLg = s.winLg := rfl
@[simp] theorem State.trapAt_hostQ (s : State) (c k n : Nat) (v pc : W64) : (s.trapAt c k n v pc).hostQ = s.hostQ := rfl
@[simp] theorem State.trapAt_hostOpen (s : State) (c k n : Nat) (v pc : W64) : (s.trapAt c k n v pc).hostOpen = s.hostOpen := rfl
@[simp] theorem State.trapAt_hostDone (s : State) (c k n : Nat) (v pc : W64) : (s.trapAt c k n v pc).hostDone = s.hostDone := rfl
@[simp] theorem State.trapAt_hostUr (s : State) (c k n : Nat) (v pc : W64) : (s.trapAt c k n v pc).hostUr = s.hostUr := rfl
@[simp] theorem State.trapAt_msi (s : State) (c k n : Nat) (v pc : W64) : (s.trapAt c k n v pc).msi = s.msi := rfl
@[simp] theorem State.trapAt_msix (s : State) (c k n : Nat) (v pc : W64) : (s.trapAt c k n v pc).msix = s.msix := rfl
@[simp] theorem State.trapAt_boot (s : State) (c k n : Nat) (v pc : W64) : (s.trapAt c k n v pc).boot = s.boot := rfl
@[simp] theorem State.trapAt_mailbox (s : State) (c k n : Nat) (v pc : W64) : (s.trapAt c k n v pc).mailbox = s.mailbox := rfl
@[simp] theorem State.trapAt_flash (s : State) (c k n : Nat) (v pc : W64) : (s.trapAt c k n v pc).flash = s.flash := rfl
@[simp] theorem State.trapAt_spdm (s : State) (c k n : Nat) (v pc : W64) : (s.trapAt c k n v pc).spdm = s.spdm := rfl
@[simp] theorem State.trapAt_power (s : State) (c k n : Nat) (v pc : W64) : (s.trapAt c k n v pc).power = s.power := rfl
@[simp] theorem State.trapAt_time (s : State) (c k n : Nat) (v pc : W64) : (s.trapAt c k n v pc).time = s.time := rfl
@[simp] theorem State.trapAt_cur (s : State) (c k n : Nat) (v pc : W64) : (s.trapAt c k n v pc).cur = s.cur := rfl
@[simp] theorem State.trapAt_agenda (s : State) (c k n : Nat) (v pc : W64) : (s.trapAt c k n v pc).agenda = s.agenda := rfl
@[simp] theorem State.trapAt_auto (s : State) (c k n : Nat) (v pc : W64) : (s.trapAt c k n v pc).auto = s.auto := rfl
@[simp] theorem State.trapAt_freeCtr (s : State) (c k n : Nat) (v pc : W64) : (s.trapAt c k n v pc).freeCtr = s.freeCtr := rfl
@[simp] theorem State.trapAt_token (s : State) (c k n : Nat) (v pc : W64) : (s.trapAt c k n v pc).token = s.token := rfl
@[simp] theorem State.trapAt_g (s : State) (c k n : Nat) (v pc : W64) (r : GR) : (s.trapAt c k n v pc).g r = s.g r := rfl
@[simp] theorem State.trapAt_gS (s : State) (c k n : Nat) (v pc : W64) (r : GR) : (s.trapAt c k n v pc).gS r = s.gS r := rfl
@[simp] theorem State.trapAt_gq (s : State) (c k n : Nat) (v pc : W64) (r : GR) : (s.trapAt c k n v pc).gq r = s.gq r := rfl
@[simp] theorem State.trapAt_pr (s : State) (c k n : Nat) (v pc : W64) (q : PR) : (s.trapAt c k n v pc).pr q = s.pr q := rfl
@[simp] theorem State.trapAt_mr (s : State) (c k n : Nat) (v pc : W64) (q : MR) : (s.trapAt c k n v pc).mr q = s.mr q := rfl
@[simp] theorem State.trapAt_vr (s : State) (c k n : Nat) (v pc : W64) (q : VR) : (s.trapAt c k n v pc).vr q = s.vr q := rfl

/-! ### `State.trap` -/

@[simp] theorem State.trap_clusters (s : State) (n : Nat) (v : W64) : (s.trap n v).clusters = s.clusters := rfl
@[simp] theorem State.trap_slices (s : State) (n : Nat) (v : W64) : (s.trap n v).slices = s.slices := rfl
@[simp] theorem State.trap_parts (s : State) (n : Nat) (v : W64) : (s.trap n v).parts = s.parts := rfl
@[simp] theorem State.trap_islands (s : State) (n : Nat) (v : W64) : (s.trap n v).islands = s.islands := rfl
@[simp] theorem State.trap_mem (s : State) (n : Nat) (v : W64) : (s.trap n v).mem = s.mem := rfl
@[simp] theorem State.trap_fe (s : State) (n : Nat) (v : W64) : (s.trap n v).fe = s.fe := rfl
@[simp] theorem State.trap_sbits (s : State) (n : Nat) (v : W64) : (s.trap n v).sbits = s.sbits := rfl
@[simp] theorem State.trap_retry (s : State) (n : Nat) (v : W64) : (s.trap n v).retry = s.retry := rfl
@[simp] theorem State.trap_net (s : State) (n : Nat) (v : W64) : (s.trap n v).net = s.net := rfl
@[simp] theorem State.trap_reorder (s : State) (n : Nat) (v : W64) : (s.trap n v).reorder = s.reorder := rfl
@[simp] theorem State.trap_arrived (s : State) (n : Nat) (v : W64) : (s.trap n v).arrived = s.arrived := rfl
@[simp] theorem State.trap_sendSeq (s : State) (n : Nat) (v : W64) : (s.trap n v).sendSeq = s.sendSeq := rfl
@[simp] theorem State.trap_recvSeq (s : State) (n : Nat) (v : W64) : (s.trap n v).recvSeq = s.recvSeq := rfl
@[simp] theorem State.trap_failed (s : State) (n : Nat) (v : W64) : (s.trap n v).failed = s.failed := rfl
@[simp] theorem State.trap_dlt (s : State) (n : Nat) (v : W64) : (s.trap n v).dlt = s.dlt := rfl
@[simp] theorem State.trap_devid (s : State) (n : Nat) (v : W64) : (s.trap n v).devid = s.devid := rfl
@[simp] theorem State.trap_devidSet (s : State) (n : Nat) (v : W64) : (s.trap n v).devidSet = s.devidSet := rfl
@[simp] theorem State.trap_keys (s : State) (n : Nat) (v : W64) : (s.trap n v).keys = s.keys := rfl
@[simp] theorem State.trap_retired (s : State) (n : Nat) (v : W64) : (s.trap n v).retired = s.retired := rfl
@[simp] theorem State.trap_jobs (s : State) (n : Nat) (v : W64) : (s.trap n v).jobs = s.jobs := rfl
@[simp] theorem State.trap_gangs (s : State) (n : Nat) (v : W64) : (s.trap n v).gangs = s.gangs := rfl
@[simp] theorem State.trap_fabSeq (s : State) (n : Nat) (v : W64) : (s.trap n v).fabSeq = s.fabSeq := rfl
@[simp] theorem State.trap_fabOut (s : State) (n : Nat) (v : W64) : (s.trap n v).fabOut = s.fabOut := rfl
@[simp] theorem State.trap_fabCredits (s : State) (n : Nat) (v : W64) : (s.trap n v).fabCredits = s.fabCredits := rfl
@[simp] theorem State.trap_fabRecv (s : State) (n : Nat) (v : W64) : (s.trap n v).fabRecv = s.fabRecv := rfl
@[simp] theorem State.trap_fabIn (s : State) (n : Nat) (v : W64) : (s.trap n v).fabIn = s.fabIn := rfl
@[simp] theorem State.trap_fabOpen (s : State) (n : Nat) (v : W64) : (s.trap n v).fabOpen = s.fabOpen := rfl
@[simp] theorem State.trap_switchBuf (s : State) (n : Nat) (v : W64) : (s.trap n v).switchBuf = s.switchBuf := rfl
@[simp] theorem State.trap_portsDown (s : State) (n : Nat) (v : W64) : (s.trap n v).portsDown = s.portsDown := rfl
@[simp] theorem State.trap_winLg (s : State) (n : Nat) (v : W64) : (s.trap n v).winLg = s.winLg := rfl
@[simp] theorem State.trap_hostQ (s : State) (n : Nat) (v : W64) : (s.trap n v).hostQ = s.hostQ := rfl
@[simp] theorem State.trap_hostOpen (s : State) (n : Nat) (v : W64) : (s.trap n v).hostOpen = s.hostOpen := rfl
@[simp] theorem State.trap_hostDone (s : State) (n : Nat) (v : W64) : (s.trap n v).hostDone = s.hostDone := rfl
@[simp] theorem State.trap_hostUr (s : State) (n : Nat) (v : W64) : (s.trap n v).hostUr = s.hostUr := rfl
@[simp] theorem State.trap_msi (s : State) (n : Nat) (v : W64) : (s.trap n v).msi = s.msi := rfl
@[simp] theorem State.trap_msix (s : State) (n : Nat) (v : W64) : (s.trap n v).msix = s.msix := rfl
@[simp] theorem State.trap_boot (s : State) (n : Nat) (v : W64) : (s.trap n v).boot = s.boot := rfl
@[simp] theorem State.trap_mailbox (s : State) (n : Nat) (v : W64) : (s.trap n v).mailbox = s.mailbox := rfl
@[simp] theorem State.trap_flash (s : State) (n : Nat) (v : W64) : (s.trap n v).flash = s.flash := rfl
@[simp] theorem State.trap_spdm (s : State) (n : Nat) (v : W64) : (s.trap n v).spdm = s.spdm := rfl
@[simp] theorem State.trap_power (s : State) (n : Nat) (v : W64) : (s.trap n v).power = s.power := rfl
@[simp] theorem State.trap_time (s : State) (n : Nat) (v : W64) : (s.trap n v).time = s.time := rfl
@[simp] theorem State.trap_agenda (s : State) (n : Nat) (v : W64) : (s.trap n v).agenda = s.agenda := rfl
@[simp] theorem State.trap_auto (s : State) (n : Nat) (v : W64) : (s.trap n v).auto = s.auto := rfl
@[simp] theorem State.trap_freeCtr (s : State) (n : Nat) (v : W64) : (s.trap n v).freeCtr = s.freeCtr := rfl
@[simp] theorem State.trap_token (s : State) (n : Nat) (v : W64) : (s.trap n v).token = s.token := rfl
@[simp] theorem State.trap_cur_core (s : State) (n : Nat) (v : W64) : (s.trap n v).cur.core = s.cur.core := rfl
@[simp] theorem State.trap_cur_slot (s : State) (n : Nat) (v : W64) : (s.trap n v).cur.slot = s.cur.slot := rfl
@[simp] theorem State.trap_cur_pc (s : State) (n : Nat) (v : W64) : (s.trap n v).cur.pc = s.cur.pc := rfl
@[simp] theorem State.trap_cur_cword (s : State) (n : Nat) (v : W64) : (s.trap n v).cur.cword = s.cur.cword := rfl
@[simp] theorem State.trap_cur_aword (s : State) (n : Nat) (v : W64) : (s.trap n v).cur.aword = s.cur.aword := rfl
@[simp] theorem State.trap_cur_len (s : State) (n : Nat) (v : W64) : (s.trap n v).cur.len = s.cur.len := rfl
@[simp] theorem State.trap_cur_pre (s : State) (n : Nat) (v : W64) : (s.trap n v).cur.pre = s.cur.pre := rfl
@[simp] theorem State.trap_cur_qi (s : State) (n : Nat) (v : W64) : (s.trap n v).cur.qi = s.cur.qi := rfl
@[simp] theorem State.trap_cur_isA (s : State) (n : Nat) (v : W64) : (s.trap n v).cur.isA = s.cur.isA := rfl
@[simp] theorem State.trap_g (s : State) (n : Nat) (v : W64) (r : GR) : (s.trap n v).g r = s.g r := rfl
@[simp] theorem State.trap_gS (s : State) (n : Nat) (v : W64) (r : GR) : (s.trap n v).gS r = s.gS r := rfl
@[simp] theorem State.trap_gq (s : State) (n : Nat) (v : W64) (r : GR) : (s.trap n v).gq r = s.gq r := rfl
@[simp] theorem State.trap_pr (s : State) (n : Nat) (v : W64) (q : PR) : (s.trap n v).pr q = s.pr q := rfl
@[simp] theorem State.trap_mr (s : State) (n : Nat) (v : W64) (q : MR) : (s.trap n v).mr q = s.mr q := rfl
@[simp] theorem State.trap_vr (s : State) (n : Nat) (v : W64) (q : VR) : (s.trap n v).vr q = s.vr q := rfl

/-! ### The value an update stores -/

@[simp] theorem State.flow_cur_flow (s : State) (f : Flow) : (s.flow f).cur.flow = f := rfl
@[simp] theorem State.trap_cur_flow (s : State) (n : Nat) (v : W64) : (s.trap n v).cur.flow = .trapped := rfl
@[simp] theorem State.park_cur_flow (s : State) (h : Hold) : (s.park h).cur.flow = .held := rfl
@[simp] theorem State.wait_cur_flow (s : State) (h : Hold) : (s.wait h).cur.flow = .held := rfl
@[simp] theorem State.flow_strand (s : State) (f : Flow) : (s.flow f).strand = s.strand := rfl
theorem State.setCore_cores (s : State) (n : Nat) (c : Core) : (s.setCore n c).cores = tset s.cores n c := rfl
theorem State.setPartn_parts (s : State) (n : Nat) (p : Partition) : (s.setPartn n p).parts = tset s.parts n p := rfl
theorem State.writeAt_mem (s : State) (l : Loc) (bs : List Byte) : (s.writeAt l bs).mem = memWriteN s.mem l.key bs := rfl

end Sys2Proof.Machine
end

