-- ==== Sys2Proof/Laws/Ops.lean ====
section
/-!
SUPPORT. The shared operations: what each of them comes to, said once.
-/
namespace Sys2Proof.Machine
open Sys2Proof

/-! ### The wrapper of every instruction (R7, R56, R101) -/

/-- What the wrapper can do: trap at the operand stage, have no effect with a false guard, or have the instruction's effect. -/
theorem checked_cases (f : Option (Nat × W64)) (g : Bool) (s : State) (eff : State → Res) :
    (∃ c v, f = some (c, v) ∧ checked f g s eff = .next (s.trap c v)) ∨
    (f = none ∧ g = false ∧ checked f g s eff = .next s) ∨ (f = none ∧ g = true ∧ checked f g s eff = eff s) := by
  cases f with
  | some p => exact .inl ⟨p.1, p.2, rfl, rfl⟩
  | none => cases g with
    | false => exact .inr (.inl ⟨rfl, rfl, rfl⟩)
    | true => exact .inr (.inr ⟨rfl, rfl, rfl⟩)
theorem runs_iff (i : Instr) (s : State) : runs i s = true ↔ operandFault i s = none ∧ Instr.guard s i = true := by
  simp [runs, Option.isNone_iff_eq_none]
/-- R101: an instruction that passes its checks and is selected has its effect. -/
theorem strandOp_runs {i : Instr} {s : State} (eff : State → Res) (h : runs i s = true) : strandOp i s eff = eff s := by
  obtain ⟨h1, h2⟩ := (runs_iff i s).mp h
  simp [strandOp, checked, h1, h2]
/-- R7: a guarded-off instruction has no effect. -/
theorem strandOp_off {i : Instr} {s : State} (eff : State → Res) (hf : operandFault i s = none) (hg : Instr.guard s i = false) :
    strandOp i s eff = .next s := by simp [strandOp, checked, hf, hg]
/-- R56: a fault of the decode or operand stage is taken whatever the guard selects. -/
theorem strandOp_fault {i : Instr} {s : State} {c : Nat} {v : W64} (eff : State → Res) (hf : operandFault i s = some (c, v)) :
    strandOp i s eff = .next (s.trap c v) := by simp [strandOp, checked, hf]
/-- The form of the wrapper for the instructions of the later families comes to the same. -/
theorem formOp_eq {i : Instr} {s : State} {wf : Bool} {u : Uses} {sp : Option (Nat × W64)} {g : Bool} (eff : State → Res)
    (hf : partsFault wf (Instr.privileged i) u sp s = operandFault i s) (hp : Instr.privileged i = false) (hg : g = Instr.guard s i) :
    formOp wf u sp g s eff = strandOp i s eff := by
  subst hg; rw [hp] at hf; simp only [formOp, strandOp, hf]

/-! ### Registers (R63 to R68) -/

/-- What a write of a scalar register can do. -/
theorem State.setGS_cases (s : State) (r : GR) (d : W64) (b : Bool) :
    (r = 0 ∧ s.setGS r d b = s) ∨
    (r = 29 ∧ (s.setGS r d b = s ∨ ∃ c, s.downstream s.cur.core s.strand = some c ∧
      s.setGS r d b = s.setCore c { s.core c with chain := (s.core c).chain ++ [{ w := d, gid := s.strand.gid.getD 0 }] })) ∨
    (r ≠ 0 ∧ r ≠ 29 ∧ s.setGS r d b = s.setStrand { s.strand with g := rset s.strand.g r { data := d, s := b, full := true } }) := by
  by_cases h0 : r = 0
  · exact .inl ⟨h0, by simp [State.setGS, h0]⟩
  · by_cases h9 : r = 29
    · subst h9
      refine .inr (.inl ⟨rfl, ?_⟩)
      cases hd : s.downstream s.cur.core s.strand with
      | none => exact .inl (by simp [State.setGS, hd])
      | some c => exact .inr ⟨c, rfl, by simp [State.setGS, hd]⟩
    · exact .inr (.inr ⟨h0, h9, by rw [State.setGS, if_neg h0, if_neg h9]; rfl⟩)
@[simp] theorem State.setGS_zero (s : State) (d : W64) (b : Bool) : s.setGS 0#5 d b = s := by simp [State.setGS]
@[simp] theorem State.setG_zero (s : State) (d : W64) : s.setG 0#5 d = s := by simp [State.setG]
@[simp] theorem State.setP_zero (s : State) (b : Bool) : s.setP 0#3 b = s := by simp [State.setP]
@[simp] theorem State.setM_zero (s : State) (w : W32) : s.setM 0#3 w = s := by simp [State.setM]
@[simp] theorem State.g_zero (s : State) : s.g 0#5 = 0 := rfl
@[simp] theorem State.gS_zero (s : State) : s.gS 0#5 = false := rfl
@[simp] theorem State.pr_zero (s : State) : s.pr 0#3 = true := rfl
@[simp] theorem State.mr_zero (s : State) : s.mr 0#3 = 0xFFFFFFFF := rfl
@[simp] theorem State.setGS_mem (s : State) (r : GR) (d : W64) (b : Bool) : (s.setGS r d b).mem = s.mem := by
  rcases s.setGS_cases r d b with ⟨-, h⟩ | ⟨-, h | ⟨c, -, h⟩⟩ | ⟨-, -, h⟩ <;> rw [h] <;> rfl
@[simp] theorem State.setGS_cur (s : State) (r : GR) (d : W64) (b : Bool) : (s.setGS r d b).cur = s.cur := by
  rcases s.setGS_cases r d b with ⟨-, h⟩ | ⟨-, h | ⟨c, -, h⟩⟩ | ⟨-, -, h⟩ <;> rw [h] <;> rfl
@[simp] theorem State.setG_mem (s : State) (r : GR) (d : W64) : (s.setG r d).mem = s.mem := s.setGS_mem r d false
@[simp] theorem State.setG_cur (s : State) (r : GR) (d : W64) : (s.setG r d).cur = s.cur := s.setGS_cur r d false
@[simp] theorem State.setQ_mem (s : State) (r : GR) (d : W128) : (s.setQ r d).mem = s.mem := by simp [State.setQ]
@[simp] theorem State.setQ_cur (s : State) (r : GR) (d : W128) : (s.setQ r d).cur = s.cur := by simp [State.setQ]
@[simp] theorem State.setP_mem (s : State) (p : PR) (b : Bool) : (s.setP p b).mem = s.mem := by unfold State.setP; split <;> rfl
@[simp] theorem State.setP_cur (s : State) (p : PR) (b : Bool) : (s.setP p b).cur = s.cur := by unfold State.setP; split <;> rfl
@[simp] theorem State.setM_mem (s : State) (m : MR) (w : W32) : (s.setM m w).mem = s.mem := by unfold State.setM; split <;> rfl
@[simp] theorem State.setM_cur (s : State) (m : MR) (w : W32) : (s.setM m w).cur = s.cur := by unfold State.setM; split <;> rfl
@[simp] theorem State.setV_mem (s : State) (v : VR) (x : VReg) : (s.setV v x).mem = s.mem := rfl
@[simp] theorem State.setV_cur (s : State) (v : VR) (x : VReg) : (s.setV v x).cur = s.cur := rfl
theorem setBit8_get (w : BitVec 8) (i : Nat) (b : Bool) (j : Nat) (hi : i < 8) :
    (setBit8 w i b).getLsbD j = if j = i then b else w.getLsbD j := by
  by_cases h : j = i
  · subst h; cases b <;> simp [setBit8, hi]
  · rcases Nat.lt_or_ge j 8 with h8 | h8
    · cases b <;> simp [setBit8, h, h8] <;> omega
    · rw [if_neg h, BitVec.getLsbD_of_ge _ _ h8, BitVec.getLsbD_of_ge _ _ h8]
/-- R63, R65: the register written, and no other, of the strand that issues. -/
theorem State.setGS_g (s : State) (r q : GR) (d : W64) (b : Bool) (h0 : r ≠ 0) (h9 : r ≠ 29) (hk : s.cur.slot < 16) :
    rget (s.setGS r d b).strand.g q = if q = r then { data := d, s := b, full := true } else rget s.strand.g q := by
  rcases s.setGS_cases r d b with ⟨h, -⟩ | ⟨h, -⟩ | ⟨-, -, h⟩
  · exact absurd h h0
  · exact absurd h h9
  · rw [h, State.strand_setStrand _ _ hk, rget_rset]

/-! ### Taking an exception, and the return from it (R73, R276, R227) -/

/-- R73: what trap entry leaves in the strand that issues. -/
theorem State.trap_strand (s : State) (c : Nat) (v : W64) (hk : s.cur.slot < 16) : (s.trap c v).strand = s.strand.enter c v s.cur.pc := by
  rw [State.trap, State.flow_strand, State.strand_setStrand _ _ hk]
@[simp] theorem Strand.enter_priv (x : Strand) (c : Nat) (v pc : W64) : (x.enter c v pc).priv = true := rfl
@[simp] theorem Strand.enter_pc (x : Strand) (c : Nat) (v pc : W64) : (x.enter c v pc).pc = x.x.vec := rfl
@[simp] theorem Strand.enter_cause (x : Strand) (c : Nat) (v pc : W64) : (x.enter c v pc).x.cause = BitVec.ofNat 64 c := rfl
@[simp] theorem Strand.enter_value (x : Strand) (c : Nat) (v pc : W64) : (x.enter c v pc).x.value = v := rfl
@[simp] theorem Strand.enter_xpc (x : Strand) (c : Nat) (v pc : W64) : (x.enter c v pc).x.pc = pc := rfl
@[simp] theorem Strand.enter_pp (x : Strand) (c : Nat) (v pc : W64) : (x.enter c v pc).x.pp = x.priv := rfl
@[simp] theorem Strand.enter_lv (x : Strand) (c : Nat) (v pc : W64) : (x.enter c v pc).x.lv = true := rfl
@[simp] theorem Strand.enter_checksOff (x : Strand) (c : Nat) (v pc : W64) : (x.enter c v pc).checksOff = true := rfl
@[simp] theorem Strand.enter_g (x : Strand) (c : Nat) (v pc : W64) : (x.enter c v pc).g = x.g := rfl
@[simp] theorem Strand.enter_p (x : Strand) (c : Nat) (v pc : W64) : (x.enter c v pc).p = x.p := rfl
@[simp] theorem Strand.enter_m (x : Strand) (c : Nat) (v pc : W64) : (x.enter c v pc).m = x.m := rfl
@[simp] theorem Strand.enter_v (x : Strand) (c : Nat) (v pc : W64) : (x.enter c v pc).v = x.v := rfl
@[simp] theorem Strand.enter_fcsr (x : Strand) (c : Nat) (v pc : W64) : (x.enter c v pc).fcsr = x.fcsr := rfl
@[simp] theorem Strand.leave_priv (x : Strand) : x.leave.priv = x.x.pp := rfl
@[simp] theorem Strand.leave_checksOff (x : Strand) : x.leave.checksOff = false := rfl
@[simp] theorem Strand.leave_g (x : Strand) : x.leave.g = x.g := by unfold Strand.leave; dsimp only; split <;> rfl

/-! ### Flags (R39, R123) -/

/-- What an instruction that may raise flags can do: trap before any write, or raise them and have its effect. -/
theorem State.withFlags_cases (s : State) (fl : Flags) (k : State → State) :
    (s.enabled fl ≠ 0 ∧ s.withFlags fl k = .next (s.trap 0x15 (fl.setWidth 64))) ∨ (s.enabled fl = 0 ∧ s.withFlags fl k = .next (k (s.raise fl))) := by
  by_cases h : s.enabled fl = 0
  · exact .inr ⟨h, by rw [State.withFlags, if_neg (not_not_intro h)]⟩
  · exact .inl ⟨h, by rw [State.withFlags, if_pos h]; rfl⟩

/-! ### Memory through a location -/

theorem State.writeAt_wf {s : State} (h : Memory.wf s.mem = true) (l : Loc) (bs : List Byte) : Memory.wf (s.writeAt l bs).mem = true :=
  Memory.wf_memWriteN h _ _
theorem State.readAt_writeAt {s : State} (h : Memory.wf s.mem = true) (l : Loc) (bs : List Byte) :
    (s.writeAt l bs).readAt l bs.length = bs := memReadN_memWriteN h _ _
/-- Every byte outside the bytes written reads as before. -/
theorem State.byteAt_writeAt {s : State} (h : Memory.wf s.mem = true) (l n : Loc) (bs : List Byte)
    (ho : n.key < l.key ∨ l.key + bs.length ≤ n.key) : (s.writeAt l bs).byteAt n = s.byteAt n :=
  memRead_memWriteN_outside h _ _ _ ho

/-! ### Steps of the device -/

theorem onUnit_true (r : Res) : onUnit true r = r := rfl
theorem onUnit_false (r : Res) : onUnit false r = .fault .noSuchUnit := rfl
/-- What an event of a core can do: name no core, find it stopped, or act. -/
theorem onCore_cases (c : Nat) (ok : Bool) (s : State) (r : Res) :
    ((Config.cores ≤ c ∨ ok = false) ∧ onCore c ok s r = .fault .noSuchUnit) ∨
    (c < Config.cores ∧ ok = true ∧ s.coreStopped c = true ∧ onCore c ok s r = .next s) ∨
    (c < Config.cores ∧ ok = true ∧ s.coreStopped c = false ∧ onCore c ok s r = r) := by
  by_cases h : c < Config.cores <;> cases ok <;> cases ho : s.coreStopped c <;>
    simp_all [onCore, onUnit, Nat.not_lt.mpr]
/-- The same of a cluster, a slice and a partition's front end. -/
theorem onCluster_cases (cl : Nat) (s : State) (r : Res) :
    (Config.clusters ≤ cl ∧ onCluster cl s r = .fault .noSuchUnit) ∨
    (cl < Config.clusters ∧ s.islandOff (islandOf cl) = true ∧ onCluster cl s r = .next s) ∨
    (cl < Config.clusters ∧ s.islandOff (islandOf cl) = false ∧ onCluster cl s r = r) := by
  by_cases h : cl < Config.clusters <;> cases ho : s.islandOff (islandOf cl) <;>
    simp_all [onCluster, onUnit, Nat.not_lt.mpr]
theorem onSlice_cases (n : Nat) (ok : Bool) (s : State) (r : Res) :
    ((Config.slices ≤ n ∨ ok = false) ∧ onSlice n ok s r = .fault .noSuchUnit) ∨
    (n < Config.slices ∧ ok = true ∧ s.islandOff (sliceIsland n) = true ∧ onSlice n ok s r = .next s) ∨
    (n < Config.slices ∧ ok = true ∧ s.islandOff (sliceIsland n) = false ∧ onSlice n ok s r = r) := by
  by_cases h : n < Config.slices <;> cases ok <;> cases ho : s.islandOff (sliceIsland n) <;>
    simp_all [onSlice, onUnit, Nat.not_lt.mpr]
theorem onPart_cases (p : Nat) (ok : Bool) (s : State) (r : Res) :
    ((64 ≤ p ∨ ok = false) ∧ onPart p ok s r = .fault .noSuchUnit) ∨
    (p < 64 ∧ ok = true ∧ s.frontOff p = true ∧ onPart p ok s r = .next s) ∨
    (p < 64 ∧ ok = true ∧ s.frontOff p = false ∧ onPart p ok s r = r) := by
  by_cases h : p < 64 <;> cases ok <;> cases ho : s.frontOff p <;>
    simp_all [onPart, onUnit, Nat.not_lt.mpr]
/-- A packet taken is one that had arrived, and only it is gone. -/
theorem State.takeArrived_some {s t : State} {id : Nat} {p : Packet} (h : s.takeArrived id = some (p, t)) :
    p ∈ s.arrived ∧ p.id = id ∧ t = { s with arrived := s.arrived.filter fun x => x.id != id } := by
  unfold State.takeArrived at h
  split at h
  · cases h
  · rename_i q hq
    split at h
    · cases h
    · split at h
      · split at h
        · cases h; exact ⟨List.mem_of_find?_eq_some hq, by simpa using List.find?_some hq, rfl⟩
        · cases h
      · cases h

end Sys2Proof.Machine
end

