-- ==== Sys2Proof/Laws/Canonical.lean ====
section
/-!
SUPPORT. Every operation on the memory keeps its canonical form (log 6): the operations on a list of cells, then those on the state.
-/
namespace Sys2Proof.Machine
open Sys2Proof

/-! ### Lists of cells -/

theorem Memory.wf_nil : Memory.wf [] = true := rfl
theorem Memory.wf_memMove {m : List Host.Cell} (h : Memory.wf m = true) (a b n : Nat) : Memory.wf (memMove m a b n) = true :=
  Memory.wf_foldl_write (Memory.wf_filter h _) _ _ _

/-- The cells of the bytes from place `i` of a range on. -/
theorem Memory.cells_above (k : Nat) (bs : List Byte) (i : Nat) :
    let l := (bs.zipIdx i).filterMap fun b => if b.1 = memDefault then none else some (k + b.2, b.1)
    Memory.wf l = true ∧ ∀ c ∈ l, k + i ≤ c.1 ∧ c.1 < k + i + bs.length := by
  induction bs generalizing i with
  | nil => exact ⟨rfl, by simp⟩
  | cons b bs ih =>
    obtain ⟨h1, h2⟩ := ih (i + 1)
    simp only [List.zipIdx_cons, List.filterMap_cons, List.length_cons]
    split
    · exact ⟨h1, fun c hc => by have := h2 c hc; omega⟩
    · rename_i hb
      split at hb
      · cases hb
      · rename_i x hx
        cases hb
        refine ⟨Memory.wf_cons.mpr ⟨hx, fun c hc => ?_, h1⟩, fun c hc => ?_⟩
        · have := h2 c hc; show k + i < c.1; omega
        · rcases List.mem_cons.mp hc with rfl | hc
          · show k + i ≤ k + i ∧ k + i < _; omega
          · have := h2 c hc; omega
theorem Memory.wf_cellsOf (k : Nat) (bs : List Byte) : Memory.wf (cellsOf k bs) = true := (Memory.cells_above k bs 0).1
theorem Memory.wf_memSplice {m : List Host.Cell} (h : Memory.wf m = true) (k : Nat) (bs : List Byte) :
    Memory.wf (memSplice m k bs) = true := by
  have hc := (Memory.cells_above k bs 0).2
  refine Memory.wf_append (Memory.wf_append (Memory.wf_filter h _) (Memory.wf_cellsOf k bs) ?_) (Memory.wf_filter h _) ?_
  · intro x hx y hy
    have h1 := of_decide_eq_true (List.mem_filter.mp hx).2
    have h2 := hc y hy
    omega
  · intro x hx y hy
    have h1 := of_decide_eq_true (List.mem_filter.mp hy).2
    rcases List.mem_append.mp hx with hx | hx
    · have h2 := of_decide_eq_true (List.mem_filter.mp hx).2
      omega
    · have h2 := hc x hx
      omega

/-! ### The state's memory -/

theorem State.writeW_wf {s : State} (h : Memory.wf s.mem = true) (l : Loc) (v : W64) : Memory.wf (s.writeW l v).mem = true :=
  State.writeAt_wf h _ _
theorem State.clearS_mem (s : State) (l : Loc) (n : Nat) : (s.clearS l n).mem = s.mem := by cases l <;> rfl
theorem State.dropReplicas_mem (s : State) (l : Loc) (n : Nat) : (s.dropReplicas l n).mem = s.mem := by
  cases l <;> try rfl
  rw [State.dropReplicas]; split <;> rfl
theorem State.homeWrite_wf {s : State} (h : Memory.wf s.mem = true) (l : Loc) (bs : List Byte) :
    Memory.wf (s.homeWrite l bs).mem = true := by
  rw [State.homeWrite, State.dropReplicas_mem, State.clearS_mem]; exact State.writeAt_wf h _ _
/-- A fold of operations that each keep the form keeps it. -/
theorem Memory.wf_fold {l : List α} {f : State → α → State} (hf : ∀ s a, Memory.wf s.mem = true → Memory.wf (f s a).mem = true)
    {s : State} (h : Memory.wf s.mem = true) : Memory.wf (l.foldl f s).mem = true := by
  induction l generalizing s with
  | nil => exact h
  | cons a l ih => exact ih (hf s a h)
theorem State.writeBack_wf {s : State} (h : Memory.wf s.mem = true) (cl part pa : Nat) (dirty : BitVec 64) (data : List Byte) :
    Memory.wf (s.writeBack cl part pa dirty data).mem = true := by
  dsimp only [State.writeBack, State.fresh]
  split
  · exact h
  · split
    · exact h
    · split
      · exact h
      · exact Memory.wf_fold (fun s i hs => by
          show Memory.wf (if dirty.getLsbD i then s.homeWrite (.hbm part (pa + i)) [data.getD i 0] else s).mem = true
          split
          · exact State.homeWrite_wf hs _ _
          · exact hs) h
theorem State.scrub_wf {s : State} (h : Memory.wf s.mem = true) (lo hi : Nat) : Memory.wf (s.scrub lo hi).mem = true :=
  Memory.wf_filter h _
theorem State.splice_wf {s : State} (h : Memory.wf s.mem = true) (k : Nat) (bs : List Byte) : Memory.wf (s.splice k bs).mem = true :=
  Memory.wf_memSplice h _ _
theorem State.mbPut_wf {s : State} (h : Memory.wf s.mem = true) (off : Nat) (bs : List Byte) : Memory.wf (s.mbPut off bs).mem = true :=
  Memory.wf_memWriteN h _ _
theorem placeWord_wf {s : State} (h : Memory.wf s.mem = true) (nbits w : Nat) : Memory.wf (placeWord s nbits w).mem = true :=
  Memory.wf_memWriteN h _ _

end Sys2Proof.Machine
end

