-- ==== Sys2Proof/Laws/Decode.lean ====
section
/-!
SUPPORT. A packed word gives back its fields and its major.
-/
namespace Sys2Proof.Laws
open Sys2Proof

/-- A field of a sum of fields: what stands above it is a multiple of `2 ^ (s + w)`, what stands below is less than `2 ^ s`. -/
theorem field_eq {s w n : Nat} (v : BitVec w) (hi lo : Nat) (hn : n = hi * 2 ^ (s + w) + v.toNat * 2 ^ s + lo) (hlo : lo < 2 ^ s)
    (hs : s + w ≤ 32) : (BitVec.ofNat 32 n).extractLsb' s w = v := by
  apply BitVec.eq_of_toNat_eq
  rw [BitVec.extractLsb'_toNat, BitVec.toNat_ofNat, Nat.shiftRight_eq_div_pow]
  have hv := v.isLt
  have hp : 0 < 2 ^ s := Nat.two_pow_pos s
  have h1 : n / 2 ^ s = hi * 2 ^ w + v.toNat := by
    rw [hn, Nat.pow_add, show hi * (2 ^ s * 2 ^ w) = (hi * 2 ^ w) * 2 ^ s by rw [Nat.mul_comm (2 ^ s), Nat.mul_assoc], ← Nat.add_mul,
      Nat.mul_comm, Nat.mul_add_div hp, Nat.div_eq_of_lt hlo, Nat.add_zero]
  have h2 : n % 2 ^ 32 / 2 ^ s % 2 ^ w = n / 2 ^ s % 2 ^ w := by
    have e : 2 ^ 32 = 2 ^ s * 2 ^ (32 - s) := by rw [← Nat.pow_add, Nat.add_sub_cancel' (by omega)]
    rw [e, Nat.mod_mul_right_div_self, Nat.mod_mod_of_dvd]
    exact Nat.pow_dvd_pow 2 (by omega)
  rw [h2, h1, Nat.mul_add_mod_self_right, Nat.mod_eq_of_lt hv]

theorem major_packCR (mj : BitVec 6) (f : FCR) : majorC (packCR mj f) = mj := by
  have hm := mj.isLt; have hd := f.d.isLt; have ha := f.a.isLt; have hb := f.b.isLt; have hpg := f.pg.isLt; have hpn := f.pn.isLt; have hfn := f.fn.isLt
  exact field_eq (s := 25) mj (1) (f.d.toNat * 1048576 + f.a.toNat * 32768 + f.b.toNat * 1024 + f.pg.toNat * 128 + f.pn.toNat * 64 + f.fn.toNat * 1) (by omega) (by omega) (by decide)
theorem unpackCR_pack (mj : BitVec 6) (f : FCR) : unpackCR (packCR mj f) = f := by
  have hm := mj.isLt; have hd := f.d.isLt; have ha := f.a.isLt; have hb := f.b.isLt; have hpg := f.pg.isLt; have hpn := f.pn.isLt; have hfn := f.fn.isLt
  have ed : (packCR mj f).extractLsb' 20 5 = f.d := field_eq (s := 20) f.d (64 + mj.toNat * 1) (f.a.toNat * 32768 + f.b.toNat * 1024 + f.pg.toNat * 128 + f.pn.toNat * 64 + f.fn.toNat * 1) (by omega) (by omega) (by decide)
  have ea : (packCR mj f).extractLsb' 15 5 = f.a := field_eq (s := 15) f.a (2048 + mj.toNat * 32 + f.d.toNat * 1) (f.b.toNat * 1024 + f.pg.toNat * 128 + f.pn.toNat * 64 + f.fn.toNat * 1) (by omega) (by omega) (by decide)
  have eb : (packCR mj f).extractLsb' 10 5 = f.b := field_eq (s := 10) f.b (65536 + mj.toNat * 1024 + f.d.toNat * 32 + f.a.toNat * 1) (f.pg.toNat * 128 + f.pn.toNat * 64 + f.fn.toNat * 1) (by omega) (by omega) (by decide)
  have epg : (packCR mj f).extractLsb' 7 3 = f.pg := field_eq (s := 7) f.pg (2097152 + mj.toNat * 32768 + f.d.toNat * 1024 + f.a.toNat * 32 + f.b.toNat * 1) (f.pn.toNat * 64 + f.fn.toNat * 1) (by omega) (by omega) (by decide)
  have epn : (packCR mj f).extractLsb' 6 1 = f.pn := field_eq (s := 6) f.pn (16777216 + mj.toNat * 262144 + f.d.toNat * 8192 + f.a.toNat * 256 + f.b.toNat * 8 + f.pg.toNat * 1) (f.fn.toNat * 1) (by omega) (by omega) (by decide)
  have efn : (packCR mj f).extractLsb' 0 6 = f.fn := field_eq (s := 0) f.fn (33554432 + mj.toNat * 524288 + f.d.toNat * 16384 + f.a.toNat * 512 + f.b.toNat * 16 + f.pg.toNat * 2 + f.pn.toNat * 1) (0) (by omega) (by omega) (by decide)
  simp only [unpackCR, ed, ea, eb, epg, epn, efn]

theorem major_packCI (mj : BitVec 6) (f : FCI) : majorC (packCI mj f) = mj := by
  have hm := mj.isLt; have hd := f.d.isLt; have ha := f.a.isLt; have hpg := f.pg.isLt; have himm := f.imm.isLt
  exact field_eq (s := 25) mj (1) (f.d.toNat * 1048576 + f.a.toNat * 32768 + f.pg.toNat * 4096 + f.imm.toNat * 1) (by omega) (by omega) (by decide)
theorem unpackCI_pack (mj : BitVec 6) (f : FCI) : unpackCI (packCI mj f) = f := by
  have hm := mj.isLt; have hd := f.d.isLt; have ha := f.a.isLt; have hpg := f.pg.isLt; have himm := f.imm.isLt
  have ed : (packCI mj f).extractLsb' 20 5 = f.d := field_eq (s := 20) f.d (64 + mj.toNat * 1) (f.a.toNat * 32768 + f.pg.toNat * 4096 + f.imm.toNat * 1) (by omega) (by omega) (by decide)
  have ea : (packCI mj f).extractLsb' 15 5 = f.a := field_eq (s := 15) f.a (2048 + mj.toNat * 32 + f.d.toNat * 1) (f.pg.toNat * 4096 + f.imm.toNat * 1) (by omega) (by omega) (by decide)
  have epg : (packCI mj f).extractLsb' 12 3 = f.pg := field_eq (s := 12) f.pg (65536 + mj.toNat * 1024 + f.d.toNat * 32 + f.a.toNat * 1) (f.imm.toNat * 1) (by omega) (by omega) (by decide)
  have eimm : (packCI mj f).extractLsb' 0 12 = f.imm := field_eq (s := 0) f.imm (524288 + mj.toNat * 8192 + f.d.toNat * 256 + f.a.toNat * 8 + f.pg.toNat * 1) (0) (by omega) (by omega) (by decide)
  simp only [unpackCI, ed, ea, epg, eimm]

theorem major_packCM (mj : BitVec 6) (f : FCM) : majorC (packCM mj f) = mj := by
  have hm := mj.isLt; have hs := f.s.isLt; have hb := f.b.isLt; have hpg := f.pg.isLt; have hsc := f.sc.isLt; have hoff := f.off.isLt
  exact field_eq (s := 25) mj (1) (f.s.toNat * 1048576 + f.b.toNat * 32768 + f.pg.toNat * 4096 + f.sc.toNat * 1024 + f.off.toNat * 1) (by omega) (by omega) (by decide)
theorem unpackCM_pack (mj : BitVec 6) (f : FCM) : unpackCM (packCM mj f) = f := by
  have hm := mj.isLt; have hs := f.s.isLt; have hb := f.b.isLt; have hpg := f.pg.isLt; have hsc := f.sc.isLt; have hoff := f.off.isLt
  have es : (packCM mj f).extractLsb' 20 5 = f.s := field_eq (s := 20) f.s (64 + mj.toNat * 1) (f.b.toNat * 32768 + f.pg.toNat * 4096 + f.sc.toNat * 1024 + f.off.toNat * 1) (by omega) (by omega) (by decide)
  have eb : (packCM mj f).extractLsb' 15 5 = f.b := field_eq (s := 15) f.b (2048 + mj.toNat * 32 + f.s.toNat * 1) (f.pg.toNat * 4096 + f.sc.toNat * 1024 + f.off.toNat * 1) (by omega) (by omega) (by decide)
  have epg : (packCM mj f).extractLsb' 12 3 = f.pg := field_eq (s := 12) f.pg (65536 + mj.toNat * 1024 + f.s.toNat * 32 + f.b.toNat * 1) (f.sc.toNat * 1024 + f.off.toNat * 1) (by omega) (by omega) (by decide)
  have esc : (packCM mj f).extractLsb' 10 2 = f.sc := field_eq (s := 10) f.sc (524288 + mj.toNat * 8192 + f.s.toNat * 256 + f.b.toNat * 8 + f.pg.toNat * 1) (f.off.toNat * 1) (by omega) (by omega) (by decide)
  have eoff : (packCM mj f).extractLsb' 0 10 = f.off := field_eq (s := 0) f.off (2097152 + mj.toNat * 32768 + f.s.toNat * 1024 + f.b.toNat * 32 + f.pg.toNat * 4 + f.sc.toNat * 1) (0) (by omega) (by omega) (by decide)
  simp only [unpackCM, es, eb, epg, esc, eoff]

theorem major_packCB (mj : BitVec 6) (f : FCB) : majorC (packCB mj f) = mj := by
  have hm := mj.isLt; have hpg := f.pg.isLt; have hpn := f.pn.isLt; have hoff := f.off.isLt
  exact field_eq (s := 25) mj (1) (f.pg.toNat * 4194304 + f.pn.toNat * 2097152 + f.off.toNat * 1) (by omega) (by omega) (by decide)
theorem unpackCB_pack (mj : BitVec 6) (f : FCB) : unpackCB (packCB mj f) = f := by
  have hm := mj.isLt; have hpg := f.pg.isLt; have hpn := f.pn.isLt; have hoff := f.off.isLt
  have epg : (packCB mj f).extractLsb' 22 3 = f.pg := field_eq (s := 22) f.pg (64 + mj.toNat * 1) (f.pn.toNat * 2097152 + f.off.toNat * 1) (by omega) (by omega) (by decide)
  have epn : (packCB mj f).extractLsb' 21 1 = f.pn := field_eq (s := 21) f.pn (512 + mj.toNat * 8 + f.pg.toNat * 1) (f.off.toNat * 1) (by omega) (by omega) (by decide)
  have eoff : (packCB mj f).extractLsb' 0 21 = f.off := field_eq (s := 0) f.off (1024 + mj.toNat * 16 + f.pg.toNat * 2 + f.pn.toNat * 1) (0) (by omega) (by omega) (by decide)
  simp only [unpackCB, epg, epn, eoff]

theorem major_packCX (mj : BitVec 6) (f : FCX) : majorC (packCX mj f) = mj := by
  have hm := mj.isLt; have ha := f.a.isLt; have hb := f.b.isLt; have hc := f.c.isLt; have hpg := f.pg.isLt; have hfl := f.fl.isLt; have hfn := f.fn.isLt
  exact field_eq (s := 25) mj (1) (f.a.toNat * 1048576 + f.b.toNat * 32768 + f.c.toNat * 1024 + f.pg.toNat * 128 + f.fl.toNat * 16 + f.fn.toNat * 1) (by omega) (by omega) (by decide)
theorem unpackCX_pack (mj : BitVec 6) (f : FCX) : unpackCX (packCX mj f) = f := by
  have hm := mj.isLt; have ha := f.a.isLt; have hb := f.b.isLt; have hc := f.c.isLt; have hpg := f.pg.isLt; have hfl := f.fl.isLt; have hfn := f.fn.isLt
  have ea : (packCX mj f).extractLsb' 20 5 = f.a := field_eq (s := 20) f.a (64 + mj.toNat * 1) (f.b.toNat * 32768 + f.c.toNat * 1024 + f.pg.toNat * 128 + f.fl.toNat * 16 + f.fn.toNat * 1) (by omega) (by omega) (by decide)
  have eb : (packCX mj f).extractLsb' 15 5 = f.b := field_eq (s := 15) f.b (2048 + mj.toNat * 32 + f.a.toNat * 1) (f.c.toNat * 1024 + f.pg.toNat * 128 + f.fl.toNat * 16 + f.fn.toNat * 1) (by omega) (by omega) (by decide)
  have ec : (packCX mj f).extractLsb' 10 5 = f.c := field_eq (s := 10) f.c (65536 + mj.toNat * 1024 + f.a.toNat * 32 + f.b.toNat * 1) (f.pg.toNat * 128 + f.fl.toNat * 16 + f.fn.toNat * 1) (by omega) (by omega) (by decide)
  have epg : (packCX mj f).extractLsb' 7 3 = f.pg := field_eq (s := 7) f.pg (2097152 + mj.toNat * 32768 + f.a.toNat * 1024 + f.b.toNat * 32 + f.c.toNat * 1) (f.fl.toNat * 16 + f.fn.toNat * 1) (by omega) (by omega) (by decide)
  have efl : (packCX mj f).extractLsb' 4 3 = f.fl := field_eq (s := 4) f.fl (16777216 + mj.toNat * 262144 + f.a.toNat * 8192 + f.b.toNat * 256 + f.c.toNat * 8 + f.pg.toNat * 1) (f.fn.toNat * 1) (by omega) (by omega) (by decide)
  have efn : (packCX mj f).extractLsb' 0 4 = f.fn := field_eq (s := 0) f.fn (134217728 + mj.toNat * 2097152 + f.a.toNat * 65536 + f.b.toNat * 2048 + f.c.toNat * 64 + f.pg.toNat * 8 + f.fl.toNat * 1) (0) (by omega) (by omega) (by decide)
  simp only [unpackCX, ea, eb, ec, epg, efl, efn]

theorem major_packAR (mj : BitVec 6) (f : FAR) : majorA (packAR mj f) = mj := by
  have hm := mj.isLt; have hd := f.d.isLt; have ha := f.a.isLt; have hb := f.b.isLt; have hc := f.c.isLt; have ht := f.t.isLt; have hpg := f.pg.isLt
  exact field_eq (s := 26) mj (0) (f.d.toNat * 2097152 + f.a.toNat * 65536 + f.b.toNat * 2048 + f.c.toNat * 64 + f.t.toNat * 8 + f.pg.toNat * 1) (by omega) (by omega) (by decide)
theorem unpackAR_pack (mj : BitVec 6) (f : FAR) : unpackAR (packAR mj f) = f := by
  have hm := mj.isLt; have hd := f.d.isLt; have ha := f.a.isLt; have hb := f.b.isLt; have hc := f.c.isLt; have ht := f.t.isLt; have hpg := f.pg.isLt
  have ed : (packAR mj f).extractLsb' 21 5 = f.d := field_eq (s := 21) f.d (mj.toNat * 1) (f.a.toNat * 65536 + f.b.toNat * 2048 + f.c.toNat * 64 + f.t.toNat * 8 + f.pg.toNat * 1) (by omega) (by omega) (by decide)
  have ea : (packAR mj f).extractLsb' 16 5 = f.a := field_eq (s := 16) f.a (mj.toNat * 32 + f.d.toNat * 1) (f.b.toNat * 2048 + f.c.toNat * 64 + f.t.toNat * 8 + f.pg.toNat * 1) (by omega) (by omega) (by decide)
  have eb : (packAR mj f).extractLsb' 11 5 = f.b := field_eq (s := 11) f.b (mj.toNat * 1024 + f.d.toNat * 32 + f.a.toNat * 1) (f.c.toNat * 64 + f.t.toNat * 8 + f.pg.toNat * 1) (by omega) (by omega) (by decide)
  have ec : (packAR mj f).extractLsb' 6 5 = f.c := field_eq (s := 6) f.c (mj.toNat * 32768 + f.d.toNat * 1024 + f.a.toNat * 32 + f.b.toNat * 1) (f.t.toNat * 8 + f.pg.toNat * 1) (by omega) (by omega) (by decide)
  have et : (packAR mj f).extractLsb' 3 3 = f.t := field_eq (s := 3) f.t (mj.toNat * 1048576 + f.d.toNat * 32768 + f.a.toNat * 1024 + f.b.toNat * 32 + f.c.toNat * 1) (f.pg.toNat * 1) (by omega) (by omega) (by decide)
  have epg : (packAR mj f).extractLsb' 0 3 = f.pg := field_eq (s := 0) f.pg (mj.toNat * 8388608 + f.d.toNat * 262144 + f.a.toNat * 8192 + f.b.toNat * 256 + f.c.toNat * 8 + f.t.toNat * 1) (0) (by omega) (by omega) (by decide)
  simp only [unpackAR, ed, ea, eb, ec, et, epg]

theorem major_packAI (mj : BitVec 6) (f : FAI) : majorA (packAI mj f) = mj := by
  have hm := mj.isLt; have hd := f.d.isLt; have ha := f.a.isLt; have himm := f.imm.isLt; have hpg := f.pg.isLt
  exact field_eq (s := 26) mj (0) (f.d.toNat * 2097152 + f.a.toNat * 65536 + f.imm.toNat * 8 + f.pg.toNat * 1) (by omega) (by omega) (by decide)
theorem unpackAI_pack (mj : BitVec 6) (f : FAI) : unpackAI (packAI mj f) = f := by
  have hm := mj.isLt; have hd := f.d.isLt; have ha := f.a.isLt; have himm := f.imm.isLt; have hpg := f.pg.isLt
  have ed : (packAI mj f).extractLsb' 21 5 = f.d := field_eq (s := 21) f.d (mj.toNat * 1) (f.a.toNat * 65536 + f.imm.toNat * 8 + f.pg.toNat * 1) (by omega) (by omega) (by decide)
  have ea : (packAI mj f).extractLsb' 16 5 = f.a := field_eq (s := 16) f.a (mj.toNat * 32 + f.d.toNat * 1) (f.imm.toNat * 8 + f.pg.toNat * 1) (by omega) (by omega) (by decide)
  have eimm : (packAI mj f).extractLsb' 3 13 = f.imm := field_eq (s := 3) f.imm (mj.toNat * 1024 + f.d.toNat * 32 + f.a.toNat * 1) (f.pg.toNat * 1) (by omega) (by omega) (by decide)
  have epg : (packAI mj f).extractLsb' 0 3 = f.pg := field_eq (s := 0) f.pg (mj.toNat * 8388608 + f.d.toNat * 262144 + f.a.toNat * 8192 + f.imm.toNat * 1) (0) (by omega) (by omega) (by decide)
  simp only [unpackAI, ed, ea, eimm, epg]

theorem major_packAM (mj : BitVec 6) (f : FAM) : majorA (packAM mj f) = mj := by
  have hm := mj.isLt; have hbf := f.bf.isLt; have hacc := f.acc.isLt; have hn := f.n.isLt; have hm := f.m.isLt; have hga := f.ga.isLt; have hgs := f.gs.isLt; have hfl := f.fl.isLt
  exact field_eq (s := 26) mj (0) (f.bf.toNat * 8388608 + f.acc.toNat * 1048576 + f.n.toNat * 16384 + f.m.toNat * 4096 + f.ga.toNat * 128 + f.gs.toNat * 4 + f.fl.toNat * 1) (by omega) (by omega) (by decide)
theorem unpackAM_pack (mj : BitVec 6) (f : FAM) : unpackAM (packAM mj f) = f := by
  have hm := mj.isLt; have hbf := f.bf.isLt; have hacc := f.acc.isLt; have hn := f.n.isLt; have hm := f.m.isLt; have hga := f.ga.isLt; have hgs := f.gs.isLt; have hfl := f.fl.isLt
  have ebf : (packAM mj f).extractLsb' 23 3 = f.bf := field_eq (s := 23) f.bf (mj.toNat * 1) (f.acc.toNat * 1048576 + f.n.toNat * 16384 + f.m.toNat * 4096 + f.ga.toNat * 128 + f.gs.toNat * 4 + f.fl.toNat * 1) (by omega) (by omega) (by decide)
  have eacc : (packAM mj f).extractLsb' 20 3 = f.acc := field_eq (s := 20) f.acc (mj.toNat * 8 + f.bf.toNat * 1) (f.n.toNat * 16384 + f.m.toNat * 4096 + f.ga.toNat * 128 + f.gs.toNat * 4 + f.fl.toNat * 1) (by omega) (by omega) (by decide)
  have en : (packAM mj f).extractLsb' 14 6 = f.n := field_eq (s := 14) f.n (mj.toNat * 64 + f.bf.toNat * 8 + f.acc.toNat * 1) (f.m.toNat * 4096 + f.ga.toNat * 128 + f.gs.toNat * 4 + f.fl.toNat * 1) (by omega) (by omega) (by decide)
  have em : (packAM mj f).extractLsb' 12 2 = f.m := field_eq (s := 12) f.m (mj.toNat * 4096 + f.bf.toNat * 512 + f.acc.toNat * 64 + f.n.toNat * 1) (f.ga.toNat * 128 + f.gs.toNat * 4 + f.fl.toNat * 1) (by omega) (by omega) (by decide)
  have ega : (packAM mj f).extractLsb' 7 5 = f.ga := field_eq (s := 7) f.ga (mj.toNat * 16384 + f.bf.toNat * 2048 + f.acc.toNat * 256 + f.n.toNat * 4 + f.m.toNat * 1) (f.gs.toNat * 4 + f.fl.toNat * 1) (by omega) (by omega) (by decide)
  have egs : (packAM mj f).extractLsb' 2 5 = f.gs := field_eq (s := 2) f.gs (mj.toNat * 524288 + f.bf.toNat * 65536 + f.acc.toNat * 8192 + f.n.toNat * 128 + f.m.toNat * 32 + f.ga.toNat * 1) (f.fl.toNat * 1) (by omega) (by omega) (by decide)
  have efl : (packAM mj f).extractLsb' 0 2 = f.fl := field_eq (s := 0) f.fl (mj.toNat * 16777216 + f.bf.toNat * 2097152 + f.acc.toNat * 262144 + f.n.toNat * 4096 + f.m.toNat * 1024 + f.ga.toNat * 32 + f.gs.toNat * 1) (0) (by omega) (by omega) (by decide)
  simp only [unpackAM, ebf, eacc, en, em, ega, egs, efl]

end Sys2Proof.Laws
end

