-- ==== Sys2Proof/Laws/Forms.lean ====
section
/-!
SUPPORT. The meanings written with `formOp` are those of the wrapper `strandOp`: their registers, special checks and guards are those
the operand tables give the instruction.
-/
namespace Sys2Proof.Machine
open Sys2Proof

theorem execVzip_eq (d : VR) (a : VR) (b : VR) (mg : MR) (s : State) : execVzip d a b mg s = strandOp (.vzip d a b mg) s ((zipOp d a b mg)) := rfl
theorem execVunzip_eq (d : VR) (a : VR) (mg : MR) (s : State) : execVunzip d a mg s = strandOp (.vunzip d a mg) s ((unzipOp d a mg)) := rfl
theorem execVbcast_eq (d : VR) (a : GR) (mg : MR) (s : State) : execVbcast d a mg s = strandOp (.vbcast d a mg) s ((bcastOp d a mg)) := rfl
theorem execVcompress_eq (d : VR) (a : VR) (mg : MR) (s : State) : execVcompress d a mg s = strandOp (.vcompress d a mg) s ((compressOp d a mg)) := rfl
theorem execVexpand_eq (d : VR) (a : VR) (mg : MR) (s : State) : execVexpand d a mg s = strandOp (.vexpand d a mg) s ((expandOp d a mg)) := rfl
theorem execVmov_eq (d : VR) (a : VR) (mg : MR) (s : State) : execVmov d a mg s = strandOp (.vmov d a mg) s ((vmovOp d a mg)) := rfl
theorem execVins_eq (d : VR) (a : GR) (b : GR) (mg : MR) (s : State) : execVins d a b mg s = strandOp (.vins d a b mg) s ((insOp d a b mg)) := rfl
theorem execVext_eq (d : GR) (a : VR) (b : GR) (mg : MR) (s : State) : execVext d a b mg s = strandOp (.vext d a b mg) s ((extOp d a b mg)) := rfl
theorem execRngh_eq (d : GR) (a : GR) (b : GR) (mg : MR) (s : State) : execRngh d a b mg s = strandOp (.rngh d a b mg) s ((rnghOp d a b)) := rfl
theorem execVrngh_eq (d : VR) (a : GR) (b : GR) (mg : MR) (s : State) : execVrngh d a b mg s = strandOp (.vrngh d a b mg) s ((vrnghOp d a b mg)) := rfl
theorem execVqmx_eq (fmt : NTy) (mode : RMode) (d : VR) (b : GR) (a : VR) (mg : MR) (s : State) : execVqmx fmt mode d b a mg s = strandOp (.vqmx fmt mode d b a mg) s ((vqmxOp fmt mode d b a mg)) := rfl
theorem execVdqmx_eq (fmt : NTy) (d : VR) (a : VR) (b : GR) (mg : MR) (s : State) : execVdqmx fmt d a b mg s = strandOp (.vdqmx fmt d a b mg) s ((vdqmxOp fmt d a b mg)) := rfl
theorem execVpack_eq (fmt : NTy) (mode : RMode) (d : VR) (a : VR) (mg : MR) (s : State) : execVpack fmt mode d a mg s = strandOp (.vpack fmt mode d a mg) s ((vpackOp fmt mode d a mg)) := rfl
theorem execMset_eq (sel : MSel) (a : GR) (pg : PR) (s : State) : execMset sel a pg s = strandOp (.mset sel a pg) s (fun s =>
    meOp (MSel.illegal sel (s.g a)) none .mset
      (fun t => t.modStrand fun x => { x with eng := x.eng.put sel (s.g a) }) s) := rfl
theorem execMzero_eq (k : BV3) (a : GR) (pg : PR) (s : State) : execMzero k a pg s = strandOp (.mzero k a pg) s (fun s =>
    let base := accBase s.cur.pre.eng k
    meOp (countBad (s.g a) base) none (.mzero base (s.g a).toNat) id s) := rfl
theorem execMlda_eq (sc : Scope) (k : BV3) (a : GR) (b : GR) (pg : PR) (s : State) : execMlda sc k a b pg s = strandOp (.mlda sc k a b pg) s (fun s =>
    let base := accBase s.cur.pre.eng k
    meOp (shapeBad (s.g b) 32 base) (if (s.g a).toNat % 4 ≠ 0 then some (0x09, s.g a) else none)
      (.mlda sc base (s.g a) (s.g b)) id s) := rfl
theorem execMsta_eq (fmt : FTy) (sc : Scope) (mode : RMode) (k : BV3) (a : GR) (b : GR) (pg : PR) (s : State) : execMsta fmt sc mode k a b pg s = strandOp (.msta fmt sc mode k a b pg) s (fun s =>
    let base := accBase s.cur.pre.eng k
    meOp (shapeBad (s.g b) (FTy.bits fmt) base) (if (s.g a).toNat % (FTy.fm fmt).bytes ≠ 0 then some (0x09, s.g a) else none)
      (.msta fmt sc mode base (s.g a) (s.g b) s.ovf) id s) := rfl
theorem execMseed_eq (a : GR) (pg : PR) (s : State) : execMseed a pg s = strandOp (.mseed a pg) s (fun s => meOp false none (.mseed (s.g a)) id s) := rfl
theorem execMring_eq (a : GR) (b : GR) (pg : PR) (s : State) : execMring a b pg s = strandOp (.mring a b pg) s (fun s =>
    let w := s.g b
    let units := field w.toNat 16 16
    let count := field w.toNat 0 6
    meOp (ringBad w) (firstBad [(decide ((s.g a).toNat % 64 ≠ 0), 0x09, s.g a),
        ((s.ownLmRange s.actor (s.g a) (units * 64 * count)).isNone, 0x08, s.g a)])
      (.mring (s.g a) units (field w.toNat 8 4) count) id s) := rfl
theorem execMwait_eq (pg : PR) (s : State) : execMwait pg s = strandOp (.mwait pg) s mwaitOp := rfl
theorem execMma_eq (fa : MxFmt) (fb : MxFmt) (k : BV3) (n : BV6) (m : BV2) (ga : GR) (gs : GR) (fl : MmaFl) (s : State) : execMma fa fb k n m ga gs fl s = strandOp (.mma fa fb k n m ga gs fl) s (fun s =>
    mmaOp (some (fa, fb)) k n m (s.g ga) (s.g gs) fl s) := rfl
theorem execMmaBf16_eq (k : BV3) (n : BV6) (m : BV2) (ga : GR) (fl : MmaFl) (s : State) : execMmaBf16 k n m ga fl s = strandOp (.mmaBf16 k n m ga fl) s (fun s =>
    mmaOp none k n m (s.g ga) 0 fl s) := rfl

end Sys2Proof.Machine
end

