-- ==== Sys2Proof/Laws/PerInstr.lean ====
section
/-!
SUPPORT. Statements made per instruction: the family `Encoding`, that decoding an instruction's word gives the instruction back.
-/
namespace Sys2Proof.Laws
open Sys2Proof

set_option linter.unusedSimpArgs false

theorem decodeC_ok {w : W32} {i : Instr} (h : rawDecodeC w = .ok i) (hw : i.wellFormed = true) : decodeC w = .ok i := by
  rw [decodeC, h]; simp [hw]
theorem decodeA_ok {w : W32} {i : Instr} (h : rawDecodeA w = .ok i) (hw : i.wellFormed = true) : decodeA w = .ok i := by
  rw [decodeA, h]; simp [hw]

/-! ### Codes and narrow fields -/

theorem low3_setWidth (p : BitVec 3) : low3 (p.setWidth 5) = some p := by revert p; decide
theorem low4_setWidth (n : BitVec 4) : low4 (n.setWidth 5) = some n := by revert n; decide
theorem b1_one (b : Bool) : (b1 b == 1) = b := by cases b <;> rfl
/-- Each code reads as what it was written for. -/
theorem codes :
    (∀ x : Scope, Scope.ofCode x.code = x) ∧
    (∀ x : XMode, XMode.ofCode x.code = x) ∧
    (∀ x : IntTy, IntTy.ofCode x.code = some x) ∧
    (∀ x : VTy, VTy.ofCode x.code = some x) ∧
    (∀ x : FTy, FTy.ofCode x.code = x) ∧
    (∀ x : NTy, NTy.ofCode x.code = x) ∧
    (∀ x : MTy, MTy.ofCode x.code = x) ∧
    (∀ x : BHW, BHW.ofCode x.code = some x) ∧
    (∀ x : MxFmt, MxFmt.ofCode x.code = some x) ∧
    (∀ x : MmaFl, MmaFl.ofCode x.code = some x) := by
  and_intros <;> intro x <;> cases x <;> rfl
theorem hi2_fields :
    (∀ (m : BV2) (b : BitVec 1), (hi2 m b).extractLsb' 1 2 = m) ∧
    (∀ (m : BV2) (b : Bool), (hi2 m (b1 b)).getLsbD 0 = b) ∧
    (∀ (m : BV2), (hi2 m 0).getLsbD 0 = false) := by decide
theorem two2_fields :
    (∀ (m l : BV2), (two2 m l).extractLsb' 2 2 = m) ∧
    (∀ (m l : BV2), (two2 m l).extractLsb' 0 2 = l) := by decide
theorem loopD_fields :
    (∀ (m : BV2) (k : Bool), (loopD m k).extractLsb' 3 2 = m) ∧
    (∀ (m : BV2) (k : Bool), (loopD m k).getLsbD 2 = k) ∧
    (∀ (m : BV2) (k : Bool), (loopD m k).extractLsb' 0 2 = 0) ∧
    (∀ (m : BV2), (loopD m false).extractLsb' 0 3 = 0) := by decide
theorem shImm_fields :
    (∀ (m : BV2) (n : BV6), (shImm m n).extractLsb' 11 2 = m) ∧
    (∀ (m : BV2) (n : BV6), (shImm m n).extractLsb' 6 5 = 0) ∧
    (∀ (m : BV2) (n : BV6), (shImm m n).extractLsb' 0 6 = n) := by decide
theorem append23 :
    (∀ (a : BV2) (k : BV3), (a ++ k).extractLsb' 3 2 = a) ∧
    (∀ (a : BV2) (k : BV3), (a ++ k).extractLsb' 0 3 = k) := by decide
theorem rMode_code (x : RMode) : RMode.of5 (x.code.setWidth 5) = some x := by cases x <;> decide
theorem wait_code (x : Wait) : Wait.ofFields x.kind x.cField = some x := by
  cases x with
  | unbounded => decide
  | bounded g => rfl
  | attempt p => revert p; decide
theorem tSel_code (x : TSel) : TSel.ofFields x.cField x.flField = some x := by
  cases x with
  | tag t => revert t; decide
  | all => decide
theorem mSel_code (x : MSel) : MSel.ofCode x.code = some x := by
  cases x with
  | acc k => revert k; decide
  | _ => decide

theorem append5 (n : BV15) : n.extractLsb' 10 5 ++ n.extractLsb' 5 5 ++ n.extractLsb' 0 5 = n := by
  apply BitVec.eq_of_getLsbD_eq
  intro i hi
  simp only [BitVec.getLsbD_append, BitVec.getLsbD_extractLsb']
  rcases Nat.lt_or_ge i 5 with h | h
  · simp [h]
  · rcases Nat.lt_or_ge (i - 5) 5 with h2 | h2
    · have e : 5 + (i - 5) = i := by omega
      simp [h2, e]; omega
    · have e : 10 + (i - 5 - 5) = i := by omega
      have h3 : i - 5 - 5 < 5 := by omega
      have h4 : ¬ i < 5 := by omega
      have h5 : ¬ i - 5 < 5 := by omega
      simp only [e, h3, h4, h5, if_false, decide_true, Bool.true_and]
theorem movh_k {k : BV3} {imm : Imm13} (h : movhOk k imm = true) : ((k.setWidth 5 : BitVec 5) == 0) = false := by
  have h0 : k ≠ 0 := by rintro rfl; simp [movhOk] at h
  clear h; revert k; decide

/-! ### The decoder after the major -/

theorem raw_C_00 (f : FCR) : rawDecodeC (packCR 0x00 f) = (decMisc f) := by
  unfold rawDecodeC; rw [major_packCR, unpackCR_pack]; rfl
theorem raw_C_01 (f : FCB) : rawDecodeC (packCB 0x01 f) = (.ok (.bp f.pg (f.pn == 1) f.off)) := by
  unfold rawDecodeC; rw [major_packCB, unpackCB_pack]; rfl
theorem raw_C_02 (f : FCI) : rawDecodeC (packCI 0x02 f) = (if f.d == 0 then .ok (.bz f.a f.pg f.imm) else .error .reservedField) := by
  unfold rawDecodeC; rw [major_packCI, unpackCI_pack]; rfl
theorem raw_C_03 (f : FCI) : rawDecodeC (packCI 0x03 f) = (if f.d == 0 then .ok (.bnz f.a f.pg f.imm) else .error .reservedField) := by
  unfold rawDecodeC; rw [major_packCI, unpackCI_pack]; rfl
theorem raw_C_04 (f : FCB) : rawDecodeC (packCB 0x04 f) = (.ok (.jal f.pg (f.pn == 1) f.off)) := by
  unfold rawDecodeC; rw [major_packCB, unpackCB_pack]; rfl
theorem raw_C_05 (f : FCI) : rawDecodeC (packCI 0x05 f) = (.ok (.jalr f.d f.a f.pg f.imm)) := by
  unfold rawDecodeC; rw [major_packCI, unpackCI_pack]; rfl
theorem raw_C_06 (f : FCR) : rawDecodeC (packCR 0x06 f) = (if f.d == 0 && f.b == 0 && f.fn == 0 then .ok (.ret f.a f.pg (f.pn == 1)) else .error .reservedField) := by
  unfold rawDecodeC; rw [major_packCR, unpackCR_pack]; rfl
theorem raw_C_08 (f : FCI) : rawDecodeC (packCI 0x08 f) = (decLoop f) := by
  unfold rawDecodeC; rw [major_packCI, unpackCI_pack]; rfl
theorem raw_C_09 (f : FCM) : rawDecodeC (packCM 0x09 f) = (.ok (.ldb f.s f.b f.pg (Scope.ofCode f.sc) f.off)) := by
  unfold rawDecodeC; rw [major_packCM, unpackCM_pack]; rfl
theorem raw_C_0A (f : FCM) : rawDecodeC (packCM 0x0A f) = (.ok (.ldbu f.s f.b f.pg (Scope.ofCode f.sc) f.off)) := by
  unfold rawDecodeC; rw [major_packCM, unpackCM_pack]; rfl
theorem raw_C_0B (f : FCM) : rawDecodeC (packCM 0x0B f) = (.ok (.ldh f.s f.b f.pg (Scope.ofCode f.sc) f.off)) := by
  unfold rawDecodeC; rw [major_packCM, unpackCM_pack]; rfl
theorem raw_C_0C (f : FCM) : rawDecodeC (packCM 0x0C f) = (.ok (.ldhu f.s f.b f.pg (Scope.ofCode f.sc) f.off)) := by
  unfold rawDecodeC; rw [major_packCM, unpackCM_pack]; rfl
theorem raw_C_0D (f : FCM) : rawDecodeC (packCM 0x0D f) = (.ok (.ldw f.s f.b f.pg (Scope.ofCode f.sc) f.off)) := by
  unfold rawDecodeC; rw [major_packCM, unpackCM_pack]; rfl
theorem raw_C_0E (f : FCM) : rawDecodeC (packCM 0x0E f) = (.ok (.ldwu f.s f.b f.pg (Scope.ofCode f.sc) f.off)) := by
  unfold rawDecodeC; rw [major_packCM, unpackCM_pack]; rfl
theorem raw_C_0F (f : FCM) : rawDecodeC (packCM 0x0F f) = (.ok (.ldd f.s f.b f.pg (Scope.ofCode f.sc) f.off)) := by
  unfold rawDecodeC; rw [major_packCM, unpackCM_pack]; rfl
theorem raw_C_10 (f : FCM) : rawDecodeC (packCM 0x10 f) = (.ok (.stb f.s f.b f.pg (Scope.ofCode f.sc) f.off)) := by
  unfold rawDecodeC; rw [major_packCM, unpackCM_pack]; rfl
theorem raw_C_11 (f : FCM) : rawDecodeC (packCM 0x11 f) = (.ok (.sth f.s f.b f.pg (Scope.ofCode f.sc) f.off)) := by
  unfold rawDecodeC; rw [major_packCM, unpackCM_pack]; rfl
theorem raw_C_12 (f : FCM) : rawDecodeC (packCM 0x12 f) = (.ok (.stw f.s f.b f.pg (Scope.ofCode f.sc) f.off)) := by
  unfold rawDecodeC; rw [major_packCM, unpackCM_pack]; rfl
theorem raw_C_13 (f : FCM) : rawDecodeC (packCM 0x13 f) = (.ok (.std f.s f.b f.pg (Scope.ofCode f.sc) f.off)) := by
  unfold rawDecodeC; rw [major_packCM, unpackCM_pack]; rfl
theorem raw_C_14 (f : FCX) : rawDecodeC (packCX 0x14 f) = (decXMem f) := by
  unfold rawDecodeC; rw [major_packCX, unpackCX_pack]; rfl
theorem raw_C_15 (f : FCX) : rawDecodeC (packCX 0x15 f) = (decSync f) := by
  unfold rawDecodeC; rw [major_packCX, unpackCX_pack]; rfl
theorem raw_C_16 (f : FCX) : rawDecodeC (packCX 0x16 f) = (decAtomic false f) := by
  unfold rawDecodeC; rw [major_packCX, unpackCX_pack]; rfl
theorem raw_C_17 (f : FCX) : rawDecodeC (packCX 0x17 f) = (decAtomic true f) := by
  unfold rawDecodeC; rw [major_packCX, unpackCX_pack]; rfl
theorem raw_C_18 (f : FCX) : rawDecodeC (packCX 0x18 f) = (decFence f) := by
  unfold rawDecodeC; rw [major_packCX, unpackCX_pack]; rfl
theorem raw_C_19 (f : FCM) : rawDecodeC (packCM 0x19 f) = (.ok (.vld f.s f.b f.pg (Scope.ofCode f.sc) f.off)) := by
  unfold rawDecodeC; rw [major_packCM, unpackCM_pack]; rfl
theorem raw_C_1A (f : FCM) : rawDecodeC (packCM 0x1A f) = (.ok (.vst f.s f.b f.pg (Scope.ofCode f.sc) f.off)) := by
  unfold rawDecodeC; rw [major_packCM, unpackCM_pack]; rfl
theorem raw_C_1B (f : FCX) : rawDecodeC (packCX 0x1B f) = (decVMem f) := by
  unfold rawDecodeC; rw [major_packCX, unpackCX_pack]; rfl
theorem raw_C_1C (f : FCX) : rawDecodeC (packCX 0x1C f) = (decVNarrow f) := by
  unfold rawDecodeC; rw [major_packCX, unpackCX_pack]; rfl
theorem raw_C_1D (f : FCX) : rawDecodeC (packCX 0x1D f) = (decTe f) := by
  unfold rawDecodeC; rw [major_packCX, unpackCX_pack]; rfl
theorem raw_C_1E (f : FCX) : rawDecodeC (packCX 0x1E f) = (decQueue f) := by
  unfold rawDecodeC; rw [major_packCX, unpackCX_pack]; rfl
theorem raw_C_1F (f : FCX) : rawDecodeC (packCX 0x1F f) = (decTask f) := by
  unfold rawDecodeC; rw [major_packCX, unpackCX_pack]; rfl
theorem raw_C_20 (f : FCX) : rawDecodeC (packCX 0x20 f) = (decStrand f) := by
  unfold rawDecodeC; rw [major_packCX, unpackCX_pack]; rfl
theorem raw_C_21 (f : FCX) : rawDecodeC (packCX 0x21 f) = (decSystem f) := by
  unfold rawDecodeC; rw [major_packCX, unpackCX_pack]; rfl
theorem raw_C_22 (f : FCI) : rawDecodeC (packCI 0x22 f) = (decCr f) := by
  unfold rawDecodeC; rw [major_packCI, unpackCI_pack]; rfl
theorem raw_A_01 (f : FAR) : rawDecodeA (packAR 0x01 f) = (decAlu f) := by
  unfold rawDecodeA; rw [major_packAR, unpackAR_pack]; rfl
theorem raw_A_02 (f : FAR) : rawDecodeA (packAR 0x02 f) = (decBits f) := by
  unfold rawDecodeA; rw [major_packAR, unpackAR_pack]; rfl
theorem raw_A_03 (f : FAR) : rawDecodeA (packAR 0x03 f) = (decCmp f) := by
  unfold rawDecodeA; rw [major_packAR, unpackAR_pack]; rfl
theorem raw_A_04 (f : FAI) : rawDecodeA (packAI 0x04 f) = (.ok (.addi f.d f.a f.imm f.pg)) := by
  unfold rawDecodeA; rw [major_packAI, unpackAI_pack]; rfl
theorem raw_A_05 (f : FAI) : rawDecodeA (packAI 0x05 f) = (.ok (.andi f.d f.a f.imm f.pg)) := by
  unfold rawDecodeA; rw [major_packAI, unpackAI_pack]; rfl
theorem raw_A_06 (f : FAI) : rawDecodeA (packAI 0x06 f) = (.ok (.ori f.d f.a f.imm f.pg)) := by
  unfold rawDecodeA; rw [major_packAI, unpackAI_pack]; rfl
theorem raw_A_07 (f : FAI) : rawDecodeA (packAI 0x07 f) = (.ok (.xori f.d f.a f.imm f.pg)) := by
  unfold rawDecodeA; rw [major_packAI, unpackAI_pack]; rfl
theorem raw_A_08 (f : FAI) : rawDecodeA (packAI 0x08 f) = (decShImm f) := by
  unfold rawDecodeA; rw [major_packAI, unpackAI_pack]; rfl
theorem raw_A_09 (f : FAI) : rawDecodeA (packAI 0x09 f) = (decMovImm f) := by
  unfold rawDecodeA; rw [major_packAI, unpackAI_pack]; rfl
theorem raw_A_0A (f : FAR) : rawDecodeA (packAR 0x0A f) = (decAddr f) := by
  unfold rawDecodeA; rw [major_packAR, unpackAR_pack]; rfl
theorem raw_A_0B (f : FAR) : rawDecodeA (packAR 0x0B f) = (decFp2 f) := by
  unfold rawDecodeA; rw [major_packAR, unpackAR_pack]; rfl
theorem raw_A_0C (f : FAR) : rawDecodeA (packAR 0x0C f) = (.ok (.ffma (FTy.ofCode f.t) f.d f.a f.b f.c f.pg)) := by
  unfold rawDecodeA; rw [major_packAR, unpackAR_pack]; rfl
theorem raw_A_0D (f : FAR) : rawDecodeA (packAR 0x0D f) = (decFcmp f) := by
  unfold rawDecodeA; rw [major_packAR, unpackAR_pack]; rfl
theorem raw_A_0E (f : FAR) : rawDecodeA (packAR 0x0E f) = (decFcvt f) := by
  unfold rawDecodeA; rw [major_packAR, unpackAR_pack]; rfl
theorem raw_A_10 (f : FAR) : rawDecodeA (packAR 0x10 f) = (decVInt f) := by
  unfold rawDecodeA; rw [major_packAR, unpackAR_pack]; rfl
theorem raw_A_11 (f : FAR) : rawDecodeA (packAR 0x11 f) = (decVCmp f) := by
  unfold rawDecodeA; rw [major_packAR, unpackAR_pack]; rfl
theorem raw_A_12 (f : FAR) : rawDecodeA (packAR 0x12 f) = (decMask f) := by
  unfold rawDecodeA; rw [major_packAR, unpackAR_pack]; rfl
theorem raw_A_13 (f : FAR) : rawDecodeA (packAR 0x13 f) = (decVFp f) := by
  unfold rawDecodeA; rw [major_packAR, unpackAR_pack]; rfl
theorem raw_A_14 (f : FAR) : rawDecodeA (packAR 0x14 f) = (.ok (.vffma (FTy.ofCode f.t) f.d f.a f.b f.c f.pg)) := by
  unfold rawDecodeA; rw [major_packAR, unpackAR_pack]; rfl
theorem raw_A_15 (f : FAR) : rawDecodeA (packAR 0x15 f) = (decVFcmp f) := by
  unfold rawDecodeA; rw [major_packAR, unpackAR_pack]; rfl
theorem raw_A_16 (f : FAR) : rawDecodeA (packAR 0x16 f) = (decVFcvt f) := by
  unfold rawDecodeA; rw [major_packAR, unpackAR_pack]; rfl
theorem raw_A_17 (f : FAR) : rawDecodeA (packAR 0x17 f) = (decPerm f) := by
  unfold rawDecodeA; rw [major_packAR, unpackAR_pack]; rfl
theorem raw_A_18 (f : FAR) : rawDecodeA (packAR 0x18 f) = (decMx f) := by
  unfold rawDecodeA; rw [major_packAR, unpackAR_pack]; rfl
theorem raw_A_19 (f : FAR) : rawDecodeA (packAR 0x19 f) = (decLane f) := by
  unfold rawDecodeA; rw [major_packAR, unpackAR_pack]; rfl
theorem raw_A_1A (f : FAR) : rawDecodeA (packAR 0x1A f) = (decMatrix f) := by
  unfold rawDecodeA; rw [major_packAR, unpackAR_pack]; rfl
theorem raw_A_20 (f : FAM) : rawDecodeA (packAM 0x20 f) = (decMma .e4m3 f) := by
  unfold rawDecodeA; rw [major_packAM, unpackAM_pack]; rfl
theorem raw_A_21 (f : FAM) : rawDecodeA (packAM 0x21 f) = (decMma .e5m2 f) := by
  unfold rawDecodeA; rw [major_packAM, unpackAM_pack]; rfl
theorem raw_A_22 (f : FAM) : rawDecodeA (packAM 0x22 f) = (decMma .e3m2 f) := by
  unfold rawDecodeA; rw [major_packAM, unpackAM_pack]; rfl
theorem raw_A_23 (f : FAM) : rawDecodeA (packAM 0x23 f) = (decMma .e2m3 f) := by
  unfold rawDecodeA; rw [major_packAM, unpackAM_pack]; rfl
theorem raw_A_24 (f : FAM) : rawDecodeA (packAM 0x24 f) = (decMma .e2m1 f) := by
  unfold rawDecodeA; rw [major_packAM, unpackAM_pack]; rfl
theorem raw_A_25 (f : FAM) : rawDecodeA (packAM 0x25 f) = (decMma .mi8 f) := by
  unfold rawDecodeA; rw [major_packAM, unpackAM_pack]; rfl
theorem raw_A_26 (f : FAM) : rawDecodeA (packAM 0x26 f) = (if f.bf == 0 && f.gs == 0 then (match MmaFl.ofCode f.fl with | some fl => .ok (.mmaBf16 f.acc f.n f.m f.ga fl) | none => .error .reservedCode) else .error .reservedField) := by
  unfold rawDecodeA; rw [major_packAM, unpackAM_pack]; rfl

/-! ### The family -/

namespace Encoding

/-- R57 to R62, R85 to R100: the word of a well-formed instruction decodes to that instruction. -/
def Statement (i : Instr) : Prop := i.hasWord = true → i.wellFormed = true → i.decodeAs (encode i) = .ok i

/-- A step without a word. -/
theorem noWord {i : Instr} (h : i.hasWord = false) : Statement i := fun w => absurd (h.symm.trans w) Bool.false_ne_true
theorem ofC {i : Instr} (w : W32) (hc : i.isC = true) (he : encode i = w) (h : i.wellFormed = true → rawDecodeC w = .ok i) : Statement i := by
  intro _ hw
  rw [Instr.decodeAs, hc, he]
  exact decodeC_ok (h hw) hw
theorem ofA {i : Instr} (w : W32) (hc : i.isC = false) (he : encode i = w) (h : i.wellFormed = true → rawDecodeA w = .ok i) : Statement i := by
  intro _ hw
  rw [Instr.decodeAs, hc, he]
  exact decodeA_ok (h hw) hw

theorem cnop : Statement (.cnop) :=
  ofC (packCR 0x00 ⟨0, 0, 0, 0, 0, 0⟩) rfl rfl fun hw => (raw_C_00 ⟨0, 0, 0, 0, 0, 0⟩).trans (by
    show (fun f : FCR => (if f.d == 0 && f.a == 0 && f.b == 0 && f.pn == 0 then .ok .cnop else .error .reservedField : Except DecodeError Instr)) ⟨0, 0, 0, 0, 0, 0⟩ = _
    simp only [beq_self_eq_true, Bool.and_self, Bool.and_true, Bool.true_and, if_true, Bool.not_false, reduceIte, ite_true])
theorem movpc (d : GR) (pg : PR) (pn : Bool) : Statement (.movpc d pg pn) :=
  ofC (packCR 0x00 ⟨d, 0, 0, pg, (b1 pn), 1⟩) rfl rfl fun hw => (raw_C_00 ⟨d, 0, 0, pg, (b1 pn), 1⟩).trans (by
    show (fun f : FCR => (if f.a == 0 && f.b == 0 then .ok (.movpc f.d f.pg (f.pn == 1)) else .error .reservedField : Except DecodeError Instr)) ⟨d, 0, 0, pg, (b1 pn), 1⟩ = _
    simp only [b1_one, beq_self_eq_true, Bool.and_self, Bool.and_true, Bool.true_and, if_true, Bool.not_false, reduceIte, ite_true])
theorem bp (pg : PR) (pn : Bool) (off : Off21) : Statement (.bp pg pn off) :=
  ofC (packCB 0x01 ⟨pg, (b1 pn), off⟩) rfl rfl fun hw => (raw_C_01 ⟨pg, (b1 pn), off⟩).trans (by
    show (fun f : FCB => (.ok (.bp f.pg (f.pn == 1) f.off) : Except DecodeError Instr)) ⟨pg, (b1 pn), off⟩ = _
    simp only [b1_one, beq_self_eq_true, Bool.and_self, Bool.and_true, Bool.true_and, if_true, Bool.not_false, reduceIte, ite_true])
theorem bz (a : GR) (pg : PR) (imm : Imm12) : Statement (.bz a pg imm) :=
  ofC (packCI 0x02 ⟨0, a, pg, imm⟩) rfl rfl fun hw => (raw_C_02 ⟨0, a, pg, imm⟩).trans (by
    show (fun f : FCI => (if f.d == 0 then .ok (.bz f.a f.pg f.imm) else .error .reservedField : Except DecodeError Instr)) ⟨0, a, pg, imm⟩ = _
    simp only [beq_self_eq_true, Bool.and_self, Bool.and_true, Bool.true_and, if_true, Bool.not_false, reduceIte, ite_true])
theorem bnz (a : GR) (pg : PR) (imm : Imm12) : Statement (.bnz a pg imm) :=
  ofC (packCI 0x03 ⟨0, a, pg, imm⟩) rfl rfl fun hw => (raw_C_03 ⟨0, a, pg, imm⟩).trans (by
    show (fun f : FCI => (if f.d == 0 then .ok (.bnz f.a f.pg f.imm) else .error .reservedField : Except DecodeError Instr)) ⟨0, a, pg, imm⟩ = _
    simp only [beq_self_eq_true, Bool.and_self, Bool.and_true, Bool.true_and, if_true, Bool.not_false, reduceIte, ite_true])
theorem jal (pg : PR) (pn : Bool) (off : Off21) : Statement (.jal pg pn off) :=
  ofC (packCB 0x04 ⟨pg, (b1 pn), off⟩) rfl rfl fun hw => (raw_C_04 ⟨pg, (b1 pn), off⟩).trans (by
    show (fun f : FCB => (.ok (.jal f.pg (f.pn == 1) f.off) : Except DecodeError Instr)) ⟨pg, (b1 pn), off⟩ = _
    simp only [b1_one, beq_self_eq_true, Bool.and_self, Bool.and_true, Bool.true_and, if_true, Bool.not_false, reduceIte, ite_true])
theorem jalr (d : GR) (a : GR) (pg : PR) (imm : Imm12) : Statement (.jalr d a pg imm) :=
  ofC (packCI 0x05 ⟨d, a, pg, imm⟩) rfl rfl fun hw => (raw_C_05 ⟨d, a, pg, imm⟩).trans (by
    show (fun f : FCI => (.ok (.jalr f.d f.a f.pg f.imm) : Except DecodeError Instr)) ⟨d, a, pg, imm⟩ = _
    simp only [beq_self_eq_true, Bool.and_self, Bool.and_true, Bool.true_and, if_true, Bool.not_false, reduceIte, ite_true])
theorem ret (a : GR) (pg : PR) (pn : Bool) : Statement (.ret a pg pn) :=
  ofC (packCR 0x06 ⟨0, a, 0, pg, (b1 pn), 0⟩) rfl rfl fun hw => (raw_C_06 ⟨0, a, 0, pg, (b1 pn), 0⟩).trans (by
    show (fun f : FCR => (if f.d == 0 && f.b == 0 && f.fn == 0 then .ok (.ret f.a f.pg (f.pn == 1)) else .error .reservedField : Except DecodeError Instr)) ⟨0, a, 0, pg, (b1 pn), 0⟩ = _
    simp only [b1_one, beq_self_eq_true, Bool.and_self, Bool.and_true, Bool.true_and, if_true, Bool.not_false, reduceIte, ite_true])
theorem loopi (k : Bool) (len : Len5) (pg : PR) (cnt : Imm12) : Statement (.loopi k len pg cnt) :=
  ofC (packCI 0x08 ⟨(loopD 0 k), len, pg, cnt⟩) rfl rfl fun hw => (raw_C_08 ⟨(loopD 0 k), len, pg, cnt⟩).trans (by
    simp only [decLoop, loopD_fields, beq_self_eq_true]; rfl)
theorem loopr (k : Bool) (a : GR) (pg : PR) (len : Imm12) : Statement (.loopr k a pg len) :=
  ofC (packCI 0x08 ⟨(loopD 1 k), a, pg, len⟩) rfl rfl fun hw => (raw_C_08 ⟨(loopD 1 k), a, pg, len⟩).trans (by
    simp only [decLoop, loopD_fields, beq_self_eq_true]; rfl)
theorem repi (pg : PR) (cnt : Imm12) : Statement (.repi pg cnt) :=
  ofC (packCI 0x08 ⟨(loopD 2 false), 0, pg, cnt⟩) rfl rfl fun hw => (raw_C_08 ⟨(loopD 2 false), 0, pg, cnt⟩).trans (by
    simp only [decLoop, loopD_fields, beq_self_eq_true]; rfl)
theorem repr (a : GR) (pg : PR) : Statement (.repr a pg) :=
  ofC (packCI 0x08 ⟨(loopD 3 false), a, pg, 0⟩) rfl rfl fun hw => (raw_C_08 ⟨(loopD 3 false), a, pg, 0⟩).trans (by
    simp only [decLoop, loopD_fields, beq_self_eq_true]; rfl)
theorem ldb (x : GR) (b : GR) (pg : PR) (sc : Scope) (off : Off10) : Statement (.ldb x b pg sc off) :=
  ofC (packCM 0x09 ⟨x, b, pg, (sc.code), off⟩) rfl rfl fun hw => (raw_C_09 ⟨x, b, pg, (sc.code), off⟩).trans (by
    show (fun f : FCM => (.ok (.ldb f.s f.b f.pg (Scope.ofCode f.sc) f.off) : Except DecodeError Instr)) ⟨x, b, pg, (sc.code), off⟩ = _
    simp only [codes, beq_self_eq_true, Bool.and_self, Bool.and_true, Bool.true_and, if_true, Bool.not_false, reduceIte, ite_true])
theorem ldbu (x : GR) (b : GR) (pg : PR) (sc : Scope) (off : Off10) : Statement (.ldbu x b pg sc off) :=
  ofC (packCM 0x0A ⟨x, b, pg, (sc.code), off⟩) rfl rfl fun hw => (raw_C_0A ⟨x, b, pg, (sc.code), off⟩).trans (by
    show (fun f : FCM => (.ok (.ldbu f.s f.b f.pg (Scope.ofCode f.sc) f.off) : Except DecodeError Instr)) ⟨x, b, pg, (sc.code), off⟩ = _
    simp only [codes, beq_self_eq_true, Bool.and_self, Bool.and_true, Bool.true_and, if_true, Bool.not_false, reduceIte, ite_true])
theorem ldh (x : GR) (b : GR) (pg : PR) (sc : Scope) (off : Off10) : Statement (.ldh x b pg sc off) :=
  ofC (packCM 0x0B ⟨x, b, pg, (sc.code), off⟩) rfl rfl fun hw => (raw_C_0B ⟨x, b, pg, (sc.code), off⟩).trans (by
    show (fun f : FCM => (.ok (.ldh f.s f.b f.pg (Scope.ofCode f.sc) f.off) : Except DecodeError Instr)) ⟨x, b, pg, (sc.code), off⟩ = _
    simp only [codes, beq_self_eq_true, Bool.and_self, Bool.and_true, Bool.true_and, if_true, Bool.not_false, reduceIte, ite_true])
theorem ldhu (x : GR) (b : GR) (pg : PR) (sc : Scope) (off : Off10) : Statement (.ldhu x b pg sc off) :=
  ofC (packCM 0x0C ⟨x, b, pg, (sc.code), off⟩) rfl rfl fun hw => (raw_C_0C ⟨x, b, pg, (sc.code), off⟩).trans (by
    show (fun f : FCM => (.ok (.ldhu f.s f.b f.pg (Scope.ofCode f.sc) f.off) : Except DecodeError Instr)) ⟨x, b, pg, (sc.code), off⟩ = _
    simp only [codes, beq_self_eq_true, Bool.and_self, Bool.and_true, Bool.true_and, if_true, Bool.not_false, reduceIte, ite_true])
theorem ldw (x : GR) (b : GR) (pg : PR) (sc : Scope) (off : Off10) : Statement (.ldw x b pg sc off) :=
  ofC (packCM 0x0D ⟨x, b, pg, (sc.code), off⟩) rfl rfl fun hw => (raw_C_0D ⟨x, b, pg, (sc.code), off⟩).trans (by
    show (fun f : FCM => (.ok (.ldw f.s f.b f.pg (Scope.ofCode f.sc) f.off) : Except DecodeError Instr)) ⟨x, b, pg, (sc.code), off⟩ = _
    simp only [codes, beq_self_eq_true, Bool.and_self, Bool.and_true, Bool.true_and, if_true, Bool.not_false, reduceIte, ite_true])
theorem ldwu (x : GR) (b : GR) (pg : PR) (sc : Scope) (off : Off10) : Statement (.ldwu x b pg sc off) :=
  ofC (packCM 0x0E ⟨x, b, pg, (sc.code), off⟩) rfl rfl fun hw => (raw_C_0E ⟨x, b, pg, (sc.code), off⟩).trans (by
    show (fun f : FCM => (.ok (.ldwu f.s f.b f.pg (Scope.ofCode f.sc) f.off) : Except DecodeError Instr)) ⟨x, b, pg, (sc.code), off⟩ = _
    simp only [codes, beq_self_eq_true, Bool.and_self, Bool.and_true, Bool.true_and, if_true, Bool.not_false, reduceIte, ite_true])
theorem ldd (x : GR) (b : GR) (pg : PR) (sc : Scope) (off : Off10) : Statement (.ldd x b pg sc off) :=
  ofC (packCM 0x0F ⟨x, b, pg, (sc.code), off⟩) rfl rfl fun hw => (raw_C_0F ⟨x, b, pg, (sc.code), off⟩).trans (by
    show (fun f : FCM => (.ok (.ldd f.s f.b f.pg (Scope.ofCode f.sc) f.off) : Except DecodeError Instr)) ⟨x, b, pg, (sc.code), off⟩ = _
    simp only [codes, beq_self_eq_true, Bool.and_self, Bool.and_true, Bool.true_and, if_true, Bool.not_false, reduceIte, ite_true])
theorem stb (x : GR) (b : GR) (pg : PR) (sc : Scope) (off : Off10) : Statement (.stb x b pg sc off) :=
  ofC (packCM 0x10 ⟨x, b, pg, (sc.code), off⟩) rfl rfl fun hw => (raw_C_10 ⟨x, b, pg, (sc.code), off⟩).trans (by
    show (fun f : FCM => (.ok (.stb f.s f.b f.pg (Scope.ofCode f.sc) f.off) : Except DecodeError Instr)) ⟨x, b, pg, (sc.code), off⟩ = _
    simp only [codes, beq_self_eq_true, Bool.and_self, Bool.and_true, Bool.true_and, if_true, Bool.not_false, reduceIte, ite_true])
theorem sth (x : GR) (b : GR) (pg : PR) (sc : Scope) (off : Off10) : Statement (.sth x b pg sc off) :=
  ofC (packCM 0x11 ⟨x, b, pg, (sc.code), off⟩) rfl rfl fun hw => (raw_C_11 ⟨x, b, pg, (sc.code), off⟩).trans (by
    show (fun f : FCM => (.ok (.sth f.s f.b f.pg (Scope.ofCode f.sc) f.off) : Except DecodeError Instr)) ⟨x, b, pg, (sc.code), off⟩ = _
    simp only [codes, beq_self_eq_true, Bool.and_self, Bool.and_true, Bool.true_and, if_true, Bool.not_false, reduceIte, ite_true])
theorem stw (x : GR) (b : GR) (pg : PR) (sc : Scope) (off : Off10) : Statement (.stw x b pg sc off) :=
  ofC (packCM 0x12 ⟨x, b, pg, (sc.code), off⟩) rfl rfl fun hw => (raw_C_12 ⟨x, b, pg, (sc.code), off⟩).trans (by
    show (fun f : FCM => (.ok (.stw f.s f.b f.pg (Scope.ofCode f.sc) f.off) : Except DecodeError Instr)) ⟨x, b, pg, (sc.code), off⟩ = _
    simp only [codes, beq_self_eq_true, Bool.and_self, Bool.and_true, Bool.true_and, if_true, Bool.not_false, reduceIte, ite_true])
theorem std (x : GR) (b : GR) (pg : PR) (sc : Scope) (off : Off10) : Statement (.std x b pg sc off) :=
  ofC (packCM 0x13 ⟨x, b, pg, (sc.code), off⟩) rfl rfl fun hw => (raw_C_13 ⟨x, b, pg, (sc.code), off⟩).trans (by
    show (fun f : FCM => (.ok (.std f.s f.b f.pg (Scope.ofCode f.sc) f.off) : Except DecodeError Instr)) ⟨x, b, pg, (sc.code), off⟩ = _
    simp only [codes, beq_self_eq_true, Bool.and_self, Bool.and_true, Bool.true_and, if_true, Bool.not_false, reduceIte, ite_true])
theorem ldbX (a : GR) (b : GR) (c : GR) (pg : PR) (mode : XMode) (mig : Bool) : Statement (.ldbX a b c pg mode mig) :=
  ofC (packCX 0x14 ⟨a, b, c, pg, (hi2 mode.code (b1 mig)), 0⟩) rfl rfl fun hw => (raw_C_14 ⟨a, b, c, pg, (hi2 mode.code (b1 mig)), 0⟩).trans (by
    show (fun f : FCX => (.ok (.ldbX f.a f.b f.c f.pg (XMode.ofCode (f.fl.extractLsb' 1 2)) (f.fl.getLsbD 0)) : Except DecodeError Instr)) ⟨a, b, c, pg, (hi2 mode.code (b1 mig)), 0⟩ = _
    simp only [hi2_fields, b1_one, codes, beq_self_eq_true, Bool.and_self, Bool.and_true, Bool.true_and, if_true, Bool.not_false, reduceIte, ite_true])
theorem ldbuX (a : GR) (b : GR) (c : GR) (pg : PR) (mode : XMode) (mig : Bool) : Statement (.ldbuX a b c pg mode mig) :=
  ofC (packCX 0x14 ⟨a, b, c, pg, (hi2 mode.code (b1 mig)), 1⟩) rfl rfl fun hw => (raw_C_14 ⟨a, b, c, pg, (hi2 mode.code (b1 mig)), 1⟩).trans (by
    show (fun f : FCX => (.ok (.ldbuX f.a f.b f.c f.pg (XMode.ofCode (f.fl.extractLsb' 1 2)) (f.fl.getLsbD 0)) : Except DecodeError Instr)) ⟨a, b, c, pg, (hi2 mode.code (b1 mig)), 1⟩ = _
    simp only [hi2_fields, b1_one, codes, beq_self_eq_true, Bool.and_self, Bool.and_true, Bool.true_and, if_true, Bool.not_false, reduceIte, ite_true])
theorem ldhX (a : GR) (b : GR) (c : GR) (pg : PR) (mode : XMode) (mig : Bool) : Statement (.ldhX a b c pg mode mig) :=
  ofC (packCX 0x14 ⟨a, b, c, pg, (hi2 mode.code (b1 mig)), 2⟩) rfl rfl fun hw => (raw_C_14 ⟨a, b, c, pg, (hi2 mode.code (b1 mig)), 2⟩).trans (by
    show (fun f : FCX => (.ok (.ldhX f.a f.b f.c f.pg (XMode.ofCode (f.fl.extractLsb' 1 2)) (f.fl.getLsbD 0)) : Except DecodeError Instr)) ⟨a, b, c, pg, (hi2 mode.code (b1 mig)), 2⟩ = _
    simp only [hi2_fields, b1_one, codes, beq_self_eq_true, Bool.and_self, Bool.and_true, Bool.true_and, if_true, Bool.not_false, reduceIte, ite_true])
theorem ldhuX (a : GR) (b : GR) (c : GR) (pg : PR) (mode : XMode) (mig : Bool) : Statement (.ldhuX a b c pg mode mig) :=
  ofC (packCX 0x14 ⟨a, b, c, pg, (hi2 mode.code (b1 mig)), 3⟩) rfl rfl fun hw => (raw_C_14 ⟨a, b, c, pg, (hi2 mode.code (b1 mig)), 3⟩).trans (by
    show (fun f : FCX => (.ok (.ldhuX f.a f.b f.c f.pg (XMode.ofCode (f.fl.extractLsb' 1 2)) (f.fl.getLsbD 0)) : Except DecodeError Instr)) ⟨a, b, c, pg, (hi2 mode.code (b1 mig)), 3⟩ = _
    simp only [hi2_fields, b1_one, codes, beq_self_eq_true, Bool.and_self, Bool.and_true, Bool.true_and, if_true, Bool.not_false, reduceIte, ite_true])
theorem ldwX (a : GR) (b : GR) (c : GR) (pg : PR) (mode : XMode) (mig : Bool) : Statement (.ldwX a b c pg mode mig) :=
  ofC (packCX 0x14 ⟨a, b, c, pg, (hi2 mode.code (b1 mig)), 4⟩) rfl rfl fun hw => (raw_C_14 ⟨a, b, c, pg, (hi2 mode.code (b1 mig)), 4⟩).trans (by
    show (fun f : FCX => (.ok (.ldwX f.a f.b f.c f.pg (XMode.ofCode (f.fl.extractLsb' 1 2)) (f.fl.getLsbD 0)) : Except DecodeError Instr)) ⟨a, b, c, pg, (hi2 mode.code (b1 mig)), 4⟩ = _
    simp only [hi2_fields, b1_one, codes, beq_self_eq_true, Bool.and_self, Bool.and_true, Bool.true_and, if_true, Bool.not_false, reduceIte, ite_true])
theorem ldwuX (a : GR) (b : GR) (c : GR) (pg : PR) (mode : XMode) (mig : Bool) : Statement (.ldwuX a b c pg mode mig) :=
  ofC (packCX 0x14 ⟨a, b, c, pg, (hi2 mode.code (b1 mig)), 5⟩) rfl rfl fun hw => (raw_C_14 ⟨a, b, c, pg, (hi2 mode.code (b1 mig)), 5⟩).trans (by
    show (fun f : FCX => (.ok (.ldwuX f.a f.b f.c f.pg (XMode.ofCode (f.fl.extractLsb' 1 2)) (f.fl.getLsbD 0)) : Except DecodeError Instr)) ⟨a, b, c, pg, (hi2 mode.code (b1 mig)), 5⟩ = _
    simp only [hi2_fields, b1_one, codes, beq_self_eq_true, Bool.and_self, Bool.and_true, Bool.true_and, if_true, Bool.not_false, reduceIte, ite_true])
theorem lddX (a : GR) (b : GR) (c : GR) (pg : PR) (mode : XMode) (mig : Bool) : Statement (.lddX a b c pg mode mig) :=
  ofC (packCX 0x14 ⟨a, b, c, pg, (hi2 mode.code (b1 mig)), 6⟩) rfl rfl fun hw => (raw_C_14 ⟨a, b, c, pg, (hi2 mode.code (b1 mig)), 6⟩).trans (by
    show (fun f : FCX => (.ok (.lddX f.a f.b f.c f.pg (XMode.ofCode (f.fl.extractLsb' 1 2)) (f.fl.getLsbD 0)) : Except DecodeError Instr)) ⟨a, b, c, pg, (hi2 mode.code (b1 mig)), 6⟩ = _
    simp only [hi2_fields, b1_one, codes, beq_self_eq_true, Bool.and_self, Bool.and_true, Bool.true_and, if_true, Bool.not_false, reduceIte, ite_true])
theorem ldq (a : GR) (b : GR) (c : GR) (pg : PR) (mode : XMode) (mig : Bool) : Statement (.ldq a b c pg mode mig) :=
  ofC (packCX 0x14 ⟨a, b, c, pg, (hi2 mode.code (b1 mig)), 7⟩) rfl rfl fun hw => (raw_C_14 ⟨a, b, c, pg, (hi2 mode.code (b1 mig)), 7⟩).trans (by
    show (fun f : FCX => (.ok (.ldq f.a f.b f.c f.pg (XMode.ofCode (f.fl.extractLsb' 1 2)) (f.fl.getLsbD 0)) : Except DecodeError Instr)) ⟨a, b, c, pg, (hi2 mode.code (b1 mig)), 7⟩ = _
    simp only [hi2_fields, b1_one, codes, beq_self_eq_true, Bool.and_self, Bool.and_true, Bool.true_and, if_true, Bool.not_false, reduceIte, ite_true])
theorem stbX (a : GR) (b : GR) (c : GR) (pg : PR) (mode : XMode) (mig : Bool) : Statement (.stbX a b c pg mode mig) :=
  ofC (packCX 0x14 ⟨a, b, c, pg, (hi2 mode.code (b1 mig)), 8⟩) rfl rfl fun hw => (raw_C_14 ⟨a, b, c, pg, (hi2 mode.code (b1 mig)), 8⟩).trans (by
    show (fun f : FCX => (.ok (.stbX f.a f.b f.c f.pg (XMode.ofCode (f.fl.extractLsb' 1 2)) (f.fl.getLsbD 0)) : Except DecodeError Instr)) ⟨a, b, c, pg, (hi2 mode.code (b1 mig)), 8⟩ = _
    simp only [hi2_fields, b1_one, codes, beq_self_eq_true, Bool.and_self, Bool.and_true, Bool.true_and, if_true, Bool.not_false, reduceIte, ite_true])
theorem sthX (a : GR) (b : GR) (c : GR) (pg : PR) (mode : XMode) (mig : Bool) : Statement (.sthX a b c pg mode mig) :=
  ofC (packCX 0x14 ⟨a, b, c, pg, (hi2 mode.code (b1 mig)), 9⟩) rfl rfl fun hw => (raw_C_14 ⟨a, b, c, pg, (hi2 mode.code (b1 mig)), 9⟩).trans (by
    show (fun f : FCX => (.ok (.sthX f.a f.b f.c f.pg (XMode.ofCode (f.fl.extractLsb' 1 2)) (f.fl.getLsbD 0)) : Except DecodeError Instr)) ⟨a, b, c, pg, (hi2 mode.code (b1 mig)), 9⟩ = _
    simp only [hi2_fields, b1_one, codes, beq_self_eq_true, Bool.and_self, Bool.and_true, Bool.true_and, if_true, Bool.not_false, reduceIte, ite_true])
theorem stwX (a : GR) (b : GR) (c : GR) (pg : PR) (mode : XMode) (mig : Bool) : Statement (.stwX a b c pg mode mig) :=
  ofC (packCX 0x14 ⟨a, b, c, pg, (hi2 mode.code (b1 mig)), 10⟩) rfl rfl fun hw => (raw_C_14 ⟨a, b, c, pg, (hi2 mode.code (b1 mig)), 10⟩).trans (by
    show (fun f : FCX => (.ok (.stwX f.a f.b f.c f.pg (XMode.ofCode (f.fl.extractLsb' 1 2)) (f.fl.getLsbD 0)) : Except DecodeError Instr)) ⟨a, b, c, pg, (hi2 mode.code (b1 mig)), 10⟩ = _
    simp only [hi2_fields, b1_one, codes, beq_self_eq_true, Bool.and_self, Bool.and_true, Bool.true_and, if_true, Bool.not_false, reduceIte, ite_true])
theorem stdX (a : GR) (b : GR) (c : GR) (pg : PR) (mode : XMode) (mig : Bool) : Statement (.stdX a b c pg mode mig) :=
  ofC (packCX 0x14 ⟨a, b, c, pg, (hi2 mode.code (b1 mig)), 11⟩) rfl rfl fun hw => (raw_C_14 ⟨a, b, c, pg, (hi2 mode.code (b1 mig)), 11⟩).trans (by
    show (fun f : FCX => (.ok (.stdX f.a f.b f.c f.pg (XMode.ofCode (f.fl.extractLsb' 1 2)) (f.fl.getLsbD 0)) : Except DecodeError Instr)) ⟨a, b, c, pg, (hi2 mode.code (b1 mig)), 11⟩ = _
    simp only [hi2_fields, b1_one, codes, beq_self_eq_true, Bool.and_self, Bool.and_true, Bool.true_and, if_true, Bool.not_false, reduceIte, ite_true])
theorem stq (a : GR) (b : GR) (c : GR) (pg : PR) (mode : XMode) (mig : Bool) : Statement (.stq a b c pg mode mig) :=
  ofC (packCX 0x14 ⟨a, b, c, pg, (hi2 mode.code (b1 mig)), 12⟩) rfl rfl fun hw => (raw_C_14 ⟨a, b, c, pg, (hi2 mode.code (b1 mig)), 12⟩).trans (by
    show (fun f : FCX => (.ok (.stq f.a f.b f.c f.pg (XMode.ofCode (f.fl.extractLsb' 1 2)) (f.fl.getLsbD 0)) : Except DecodeError Instr)) ⟨a, b, c, pg, (hi2 mode.code (b1 mig)), 12⟩ = _
    simp only [hi2_fields, b1_one, codes, beq_self_eq_true, Bool.and_self, Bool.and_true, Bool.true_and, if_true, Bool.not_false, reduceIte, ite_true])
theorem ldff (a : GR) (b : GR) (pg : PR) (sc : Scope) (w : Wait) : Statement (.ldff a b pg sc w) :=
  ofC (packCX 0x15 ⟨a, b, (w.cField), pg, 0, (two2 sc.code w.kind)⟩) rfl rfl fun hw => (raw_C_15 ⟨a, b, (w.cField), pg, 0, (two2 sc.code w.kind)⟩).trans (by
    show (fun f : FCX => ((match Wait.ofFields (f.fn.extractLsb' 0 2) f.c with | some w => .ok (.ldff f.a f.b f.pg (Scope.ofCode (f.fn.extractLsb' 2 2)) w) | none => .error .reservedCode) : Except DecodeError Instr)) ⟨a, b, (w.cField), pg, 0, (two2 sc.code w.kind)⟩ = _
    simp only [two2_fields, codes, wait_code, beq_self_eq_true, Bool.and_self, Bool.and_true, Bool.true_and, if_true, Bool.not_false, reduceIte, ite_true])
theorem ldfe (a : GR) (b : GR) (pg : PR) (sc : Scope) (w : Wait) : Statement (.ldfe a b pg sc w) :=
  ofC (packCX 0x15 ⟨a, b, (w.cField), pg, 1, (two2 sc.code w.kind)⟩) rfl rfl fun hw => (raw_C_15 ⟨a, b, (w.cField), pg, 1, (two2 sc.code w.kind)⟩).trans (by
    show (fun f : FCX => ((match Wait.ofFields (f.fn.extractLsb' 0 2) f.c with | some w => .ok (.ldfe f.a f.b f.pg (Scope.ofCode (f.fn.extractLsb' 2 2)) w) | none => .error .reservedCode) : Except DecodeError Instr)) ⟨a, b, (w.cField), pg, 1, (two2 sc.code w.kind)⟩ = _
    simp only [two2_fields, codes, wait_code, beq_self_eq_true, Bool.and_self, Bool.and_true, Bool.true_and, if_true, Bool.not_false, reduceIte, ite_true])
theorem stef (a : GR) (b : GR) (pg : PR) (sc : Scope) (w : Wait) : Statement (.stef a b pg sc w) :=
  ofC (packCX 0x15 ⟨a, b, (w.cField), pg, 2, (two2 sc.code w.kind)⟩) rfl rfl fun hw => (raw_C_15 ⟨a, b, (w.cField), pg, 2, (two2 sc.code w.kind)⟩).trans (by
    show (fun f : FCX => ((match Wait.ofFields (f.fn.extractLsb' 0 2) f.c with | some w => .ok (.stef f.a f.b f.pg (Scope.ofCode (f.fn.extractLsb' 2 2)) w) | none => .error .reservedCode) : Except DecodeError Instr)) ⟨a, b, (w.cField), pg, 2, (two2 sc.code w.kind)⟩ = _
    simp only [two2_fields, codes, wait_code, beq_self_eq_true, Bool.and_self, Bool.and_true, Bool.true_and, if_true, Bool.not_false, reduceIte, ite_true])
theorem stsf (a : GR) (b : GR) (pg : PR) (sc : Scope) (w : Wait) : Statement (.stsf a b pg sc w) :=
  ofC (packCX 0x15 ⟨a, b, (w.cField), pg, 3, (two2 sc.code w.kind)⟩) rfl rfl fun hw => (raw_C_15 ⟨a, b, (w.cField), pg, 3, (two2 sc.code w.kind)⟩).trans (by
    show (fun f : FCX => ((match Wait.ofFields (f.fn.extractLsb' 0 2) f.c with | some w => .ok (.stsf f.a f.b f.pg (Scope.ofCode (f.fn.extractLsb' 2 2)) w) | none => .error .reservedCode) : Except DecodeError Instr)) ⟨a, b, (w.cField), pg, 3, (two2 sc.code w.kind)⟩ = _
    simp only [two2_fields, codes, wait_code, beq_self_eq_true, Bool.and_self, Bool.and_true, Bool.true_and, if_true, Bool.not_false, reduceIte, ite_true])
theorem ferd (a : GR) (b : GR) (pg : PR) (sc : Scope) : Statement (.ferd a b pg sc) :=
  ofC (packCX 0x15 ⟨a, b, 0, pg, 4, (two2 sc.code 0)⟩) rfl rfl fun hw => (raw_C_15 ⟨a, b, 0, pg, 4, (two2 sc.code 0)⟩).trans (by
    show (fun f : FCX => (if f.c == 0 && f.fn.extractLsb' 0 2 == 0 then .ok (.ferd f.a f.b f.pg (Scope.ofCode (f.fn.extractLsb' 2 2))) else .error .reservedField : Except DecodeError Instr)) ⟨a, b, 0, pg, 4, (two2 sc.code 0)⟩ = _
    simp only [two2_fields, codes, beq_self_eq_true, Bool.and_self, Bool.and_true, Bool.true_and, if_true, Bool.not_false, reduceIte, ite_true])
theorem feset (b : GR) (pg : PR) (sc : Scope) : Statement (.feset b pg sc) :=
  ofC (packCX 0x15 ⟨0, b, 0, pg, 5, (two2 sc.code 0)⟩) rfl rfl fun hw => (raw_C_15 ⟨0, b, 0, pg, 5, (two2 sc.code 0)⟩).trans (by
    show (fun f : FCX => (if f.a == 0 && f.c == 0 && f.fn.extractLsb' 0 2 == 0 then .ok (.feset f.b f.pg (Scope.ofCode (f.fn.extractLsb' 2 2))) else .error .reservedField : Except DecodeError Instr)) ⟨0, b, 0, pg, 5, (two2 sc.code 0)⟩ = _
    simp only [two2_fields, codes, beq_self_eq_true, Bool.and_self, Bool.and_true, Bool.true_and, if_true, Bool.not_false, reduceIte, ite_true])
theorem feclr (b : GR) (pg : PR) (sc : Scope) : Statement (.feclr b pg sc) :=
  ofC (packCX 0x15 ⟨0, b, 0, pg, 6, (two2 sc.code 0)⟩) rfl rfl fun hw => (raw_C_15 ⟨0, b, 0, pg, 6, (two2 sc.code 0)⟩).trans (by
    show (fun f : FCX => (if f.a == 0 && f.c == 0 && f.fn.extractLsb' 0 2 == 0 then .ok (.feclr f.b f.pg (Scope.ofCode (f.fn.extractLsb' 2 2))) else .error .reservedField : Except DecodeError Instr)) ⟨0, b, 0, pg, 6, (two2 sc.code 0)⟩ = _
    simp only [two2_fields, codes, beq_self_eq_true, Bool.and_self, Bool.and_true, Bool.true_and, if_true, Bool.not_false, reduceIte, ite_true])
theorem aadd (dbl : Bool) (a : GR) (b : GR) (c : GR) (pg : PR) (sc : Scope) : Statement (.aadd dbl a b c pg sc) := by
  cases dbl
  · exact ofC (packCX 0x16 ⟨a, b, c, pg, (hi2 sc.code 0), 0⟩) rfl rfl fun _ => (raw_C_16 ⟨a, b, c, pg, (hi2 sc.code 0), 0⟩).trans (by
      show (fun f : FCX => (if f.fl.getLsbD 0 == false then .ok (.aadd false f.a f.b f.c f.pg (Scope.ofCode (f.fl.extractLsb' 1 2))) else .error .reservedField : Except DecodeError Instr)) ⟨a, b, c, pg, (hi2 sc.code 0), 0⟩ = _
      simp only [hi2_fields, codes, beq_self_eq_true, Bool.and_self, Bool.and_true, Bool.true_and, if_true, Bool.not_false, reduceIte, ite_true])
  · exact ofC (packCX 0x17 ⟨a, b, c, pg, (hi2 sc.code 0), 0⟩) rfl rfl fun _ => (raw_C_17 ⟨a, b, c, pg, (hi2 sc.code 0), 0⟩).trans (by
      show (fun f : FCX => (if f.fl.getLsbD 0 == false then .ok (.aadd true f.a f.b f.c f.pg (Scope.ofCode (f.fl.extractLsb' 1 2))) else .error .reservedField : Except DecodeError Instr)) ⟨a, b, c, pg, (hi2 sc.code 0), 0⟩ = _
      simp only [hi2_fields, codes, beq_self_eq_true, Bool.and_self, Bool.and_true, Bool.true_and, if_true, Bool.not_false, reduceIte, ite_true])
theorem aand (dbl : Bool) (a : GR) (b : GR) (c : GR) (pg : PR) (sc : Scope) : Statement (.aand dbl a b c pg sc) := by
  cases dbl
  · exact ofC (packCX 0x16 ⟨a, b, c, pg, (hi2 sc.code 0), 1⟩) rfl rfl fun _ => (raw_C_16 ⟨a, b, c, pg, (hi2 sc.code 0), 1⟩).trans (by
      show (fun f : FCX => (if f.fl.getLsbD 0 == false then .ok (.aand false f.a f.b f.c f.pg (Scope.ofCode (f.fl.extractLsb' 1 2))) else .error .reservedField : Except DecodeError Instr)) ⟨a, b, c, pg, (hi2 sc.code 0), 1⟩ = _
      simp only [hi2_fields, codes, beq_self_eq_true, Bool.and_self, Bool.and_true, Bool.true_and, if_true, Bool.not_false, reduceIte, ite_true])
  · exact ofC (packCX 0x17 ⟨a, b, c, pg, (hi2 sc.code 0), 1⟩) rfl rfl fun _ => (raw_C_17 ⟨a, b, c, pg, (hi2 sc.code 0), 1⟩).trans (by
      show (fun f : FCX => (if f.fl.getLsbD 0 == false then .ok (.aand true f.a f.b f.c f.pg (Scope.ofCode (f.fl.extractLsb' 1 2))) else .error .reservedField : Except DecodeError Instr)) ⟨a, b, c, pg, (hi2 sc.code 0), 1⟩ = _
      simp only [hi2_fields, codes, beq_self_eq_true, Bool.and_self, Bool.and_true, Bool.true_and, if_true, Bool.not_false, reduceIte, ite_true])
theorem aor (dbl : Bool) (a : GR) (b : GR) (c : GR) (pg : PR) (sc : Scope) : Statement (.aor dbl a b c pg sc) := by
  cases dbl
  · exact ofC (packCX 0x16 ⟨a, b, c, pg, (hi2 sc.code 0), 2⟩) rfl rfl fun _ => (raw_C_16 ⟨a, b, c, pg, (hi2 sc.code 0), 2⟩).trans (by
      show (fun f : FCX => (if f.fl.getLsbD 0 == false then .ok (.aor false f.a f.b f.c f.pg (Scope.ofCode (f.fl.extractLsb' 1 2))) else .error .reservedField : Except DecodeError Instr)) ⟨a, b, c, pg, (hi2 sc.code 0), 2⟩ = _
      simp only [hi2_fields, codes, beq_self_eq_true, Bool.and_self, Bool.and_true, Bool.true_and, if_true, Bool.not_false, reduceIte, ite_true])
  · exact ofC (packCX 0x17 ⟨a, b, c, pg, (hi2 sc.code 0), 2⟩) rfl rfl fun _ => (raw_C_17 ⟨a, b, c, pg, (hi2 sc.code 0), 2⟩).trans (by
      show (fun f : FCX => (if f.fl.getLsbD 0 == false then .ok (.aor true f.a f.b f.c f.pg (Scope.ofCode (f.fl.extractLsb' 1 2))) else .error .reservedField : Except DecodeError Instr)) ⟨a, b, c, pg, (hi2 sc.code 0), 2⟩ = _
      simp only [hi2_fields, codes, beq_self_eq_true, Bool.and_self, Bool.and_true, Bool.true_and, if_true, Bool.not_false, reduceIte, ite_true])
theorem axor (dbl : Bool) (a : GR) (b : GR) (c : GR) (pg : PR) (sc : Scope) : Statement (.axor dbl a b c pg sc) := by
  cases dbl
  · exact ofC (packCX 0x16 ⟨a, b, c, pg, (hi2 sc.code 0), 3⟩) rfl rfl fun _ => (raw_C_16 ⟨a, b, c, pg, (hi2 sc.code 0), 3⟩).trans (by
      show (fun f : FCX => (if f.fl.getLsbD 0 == false then .ok (.axor false f.a f.b f.c f.pg (Scope.ofCode (f.fl.extractLsb' 1 2))) else .error .reservedField : Except DecodeError Instr)) ⟨a, b, c, pg, (hi2 sc.code 0), 3⟩ = _
      simp only [hi2_fields, codes, beq_self_eq_true, Bool.and_self, Bool.and_true, Bool.true_and, if_true, Bool.not_false, reduceIte, ite_true])
  · exact ofC (packCX 0x17 ⟨a, b, c, pg, (hi2 sc.code 0), 3⟩) rfl rfl fun _ => (raw_C_17 ⟨a, b, c, pg, (hi2 sc.code 0), 3⟩).trans (by
      show (fun f : FCX => (if f.fl.getLsbD 0 == false then .ok (.axor true f.a f.b f.c f.pg (Scope.ofCode (f.fl.extractLsb' 1 2))) else .error .reservedField : Except DecodeError Instr)) ⟨a, b, c, pg, (hi2 sc.code 0), 3⟩ = _
      simp only [hi2_fields, codes, beq_self_eq_true, Bool.and_self, Bool.and_true, Bool.true_and, if_true, Bool.not_false, reduceIte, ite_true])
theorem amin (dbl : Bool) (a : GR) (b : GR) (c : GR) (pg : PR) (sc : Scope) : Statement (.amin dbl a b c pg sc) := by
  cases dbl
  · exact ofC (packCX 0x16 ⟨a, b, c, pg, (hi2 sc.code 0), 4⟩) rfl rfl fun _ => (raw_C_16 ⟨a, b, c, pg, (hi2 sc.code 0), 4⟩).trans (by
      show (fun f : FCX => (if f.fl.getLsbD 0 == false then .ok (.amin false f.a f.b f.c f.pg (Scope.ofCode (f.fl.extractLsb' 1 2))) else .error .reservedField : Except DecodeError Instr)) ⟨a, b, c, pg, (hi2 sc.code 0), 4⟩ = _
      simp only [hi2_fields, codes, beq_self_eq_true, Bool.and_self, Bool.and_true, Bool.true_and, if_true, Bool.not_false, reduceIte, ite_true])
  · exact ofC (packCX 0x17 ⟨a, b, c, pg, (hi2 sc.code 0), 4⟩) rfl rfl fun _ => (raw_C_17 ⟨a, b, c, pg, (hi2 sc.code 0), 4⟩).trans (by
      show (fun f : FCX => (if f.fl.getLsbD 0 == false then .ok (.amin true f.a f.b f.c f.pg (Scope.ofCode (f.fl.extractLsb' 1 2))) else .error .reservedField : Except DecodeError Instr)) ⟨a, b, c, pg, (hi2 sc.code 0), 4⟩ = _
      simp only [hi2_fields, codes, beq_self_eq_true, Bool.and_self, Bool.and_true, Bool.true_and, if_true, Bool.not_false, reduceIte, ite_true])
theorem amax (dbl : Bool) (a : GR) (b : GR) (c : GR) (pg : PR) (sc : Scope) : Statement (.amax dbl a b c pg sc) := by
  cases dbl
  · exact ofC (packCX 0x16 ⟨a, b, c, pg, (hi2 sc.code 0), 5⟩) rfl rfl fun _ => (raw_C_16 ⟨a, b, c, pg, (hi2 sc.code 0), 5⟩).trans (by
      show (fun f : FCX => (if f.fl.getLsbD 0 == false then .ok (.amax false f.a f.b f.c f.pg (Scope.ofCode (f.fl.extractLsb' 1 2))) else .error .reservedField : Except DecodeError Instr)) ⟨a, b, c, pg, (hi2 sc.code 0), 5⟩ = _
      simp only [hi2_fields, codes, beq_self_eq_true, Bool.and_self, Bool.and_true, Bool.true_and, if_true, Bool.not_false, reduceIte, ite_true])
  · exact ofC (packCX 0x17 ⟨a, b, c, pg, (hi2 sc.code 0), 5⟩) rfl rfl fun _ => (raw_C_17 ⟨a, b, c, pg, (hi2 sc.code 0), 5⟩).trans (by
      show (fun f : FCX => (if f.fl.getLsbD 0 == false then .ok (.amax true f.a f.b f.c f.pg (Scope.ofCode (f.fl.extractLsb' 1 2))) else .error .reservedField : Except DecodeError Instr)) ⟨a, b, c, pg, (hi2 sc.code 0), 5⟩ = _
      simp only [hi2_fields, codes, beq_self_eq_true, Bool.and_self, Bool.and_true, Bool.true_and, if_true, Bool.not_false, reduceIte, ite_true])
theorem aminu (dbl : Bool) (a : GR) (b : GR) (c : GR) (pg : PR) (sc : Scope) : Statement (.aminu dbl a b c pg sc) := by
  cases dbl
  · exact ofC (packCX 0x16 ⟨a, b, c, pg, (hi2 sc.code 0), 6⟩) rfl rfl fun _ => (raw_C_16 ⟨a, b, c, pg, (hi2 sc.code 0), 6⟩).trans (by
      show (fun f : FCX => (if f.fl.getLsbD 0 == false then .ok (.aminu false f.a f.b f.c f.pg (Scope.ofCode (f.fl.extractLsb' 1 2))) else .error .reservedField : Except DecodeError Instr)) ⟨a, b, c, pg, (hi2 sc.code 0), 6⟩ = _
      simp only [hi2_fields, codes, beq_self_eq_true, Bool.and_self, Bool.and_true, Bool.true_and, if_true, Bool.not_false, reduceIte, ite_true])
  · exact ofC (packCX 0x17 ⟨a, b, c, pg, (hi2 sc.code 0), 6⟩) rfl rfl fun _ => (raw_C_17 ⟨a, b, c, pg, (hi2 sc.code 0), 6⟩).trans (by
      show (fun f : FCX => (if f.fl.getLsbD 0 == false then .ok (.aminu true f.a f.b f.c f.pg (Scope.ofCode (f.fl.extractLsb' 1 2))) else .error .reservedField : Except DecodeError Instr)) ⟨a, b, c, pg, (hi2 sc.code 0), 6⟩ = _
      simp only [hi2_fields, codes, beq_self_eq_true, Bool.and_self, Bool.and_true, Bool.true_and, if_true, Bool.not_false, reduceIte, ite_true])
theorem amaxu (dbl : Bool) (a : GR) (b : GR) (c : GR) (pg : PR) (sc : Scope) : Statement (.amaxu dbl a b c pg sc) := by
  cases dbl
  · exact ofC (packCX 0x16 ⟨a, b, c, pg, (hi2 sc.code 0), 7⟩) rfl rfl fun _ => (raw_C_16 ⟨a, b, c, pg, (hi2 sc.code 0), 7⟩).trans (by
      show (fun f : FCX => (if f.fl.getLsbD 0 == false then .ok (.amaxu false f.a f.b f.c f.pg (Scope.ofCode (f.fl.extractLsb' 1 2))) else .error .reservedField : Except DecodeError Instr)) ⟨a, b, c, pg, (hi2 sc.code 0), 7⟩ = _
      simp only [hi2_fields, codes, beq_self_eq_true, Bool.and_self, Bool.and_true, Bool.true_and, if_true, Bool.not_false, reduceIte, ite_true])
  · exact ofC (packCX 0x17 ⟨a, b, c, pg, (hi2 sc.code 0), 7⟩) rfl rfl fun _ => (raw_C_17 ⟨a, b, c, pg, (hi2 sc.code 0), 7⟩).trans (by
      show (fun f : FCX => (if f.fl.getLsbD 0 == false then .ok (.amaxu true f.a f.b f.c f.pg (Scope.ofCode (f.fl.extractLsb' 1 2))) else .error .reservedField : Except DecodeError Instr)) ⟨a, b, c, pg, (hi2 sc.code 0), 7⟩ = _
      simp only [hi2_fields, codes, beq_self_eq_true, Bool.and_self, Bool.and_true, Bool.true_and, if_true, Bool.not_false, reduceIte, ite_true])
theorem aswap (dbl : Bool) (a : GR) (b : GR) (c : GR) (pg : PR) (sc : Scope) : Statement (.aswap dbl a b c pg sc) := by
  cases dbl
  · exact ofC (packCX 0x16 ⟨a, b, c, pg, (hi2 sc.code 0), 8⟩) rfl rfl fun _ => (raw_C_16 ⟨a, b, c, pg, (hi2 sc.code 0), 8⟩).trans (by
      show (fun f : FCX => (if f.fl.getLsbD 0 == false then .ok (.aswap false f.a f.b f.c f.pg (Scope.ofCode (f.fl.extractLsb' 1 2))) else .error .reservedField : Except DecodeError Instr)) ⟨a, b, c, pg, (hi2 sc.code 0), 8⟩ = _
      simp only [hi2_fields, codes, beq_self_eq_true, Bool.and_self, Bool.and_true, Bool.true_and, if_true, Bool.not_false, reduceIte, ite_true])
  · exact ofC (packCX 0x17 ⟨a, b, c, pg, (hi2 sc.code 0), 8⟩) rfl rfl fun _ => (raw_C_17 ⟨a, b, c, pg, (hi2 sc.code 0), 8⟩).trans (by
      show (fun f : FCX => (if f.fl.getLsbD 0 == false then .ok (.aswap true f.a f.b f.c f.pg (Scope.ofCode (f.fl.extractLsb' 1 2))) else .error .reservedField : Except DecodeError Instr)) ⟨a, b, c, pg, (hi2 sc.code 0), 8⟩ = _
      simp only [hi2_fields, codes, beq_self_eq_true, Bool.and_self, Bool.and_true, Bool.true_and, if_true, Bool.not_false, reduceIte, ite_true])
theorem acas (dbl : Bool) (a : GR) (b : GR) (c : GR) (pg : PR) (sc : Scope) : Statement (.acas dbl a b c pg sc) := by
  cases dbl
  · exact ofC (packCX 0x16 ⟨a, b, c, pg, (hi2 sc.code 0), 9⟩) rfl rfl fun _ => (raw_C_16 ⟨a, b, c, pg, (hi2 sc.code 0), 9⟩).trans (by
      show (fun f : FCX => (if f.fl.getLsbD 0 == false then .ok (.acas false f.a f.b f.c f.pg (Scope.ofCode (f.fl.extractLsb' 1 2))) else .error .reservedField : Except DecodeError Instr)) ⟨a, b, c, pg, (hi2 sc.code 0), 9⟩ = _
      simp only [hi2_fields, codes, beq_self_eq_true, Bool.and_self, Bool.and_true, Bool.true_and, if_true, Bool.not_false, reduceIte, ite_true])
  · exact ofC (packCX 0x17 ⟨a, b, c, pg, (hi2 sc.code 0), 9⟩) rfl rfl fun _ => (raw_C_17 ⟨a, b, c, pg, (hi2 sc.code 0), 9⟩).trans (by
      show (fun f : FCX => (if f.fl.getLsbD 0 == false then .ok (.acas true f.a f.b f.c f.pg (Scope.ofCode (f.fl.extractLsb' 1 2))) else .error .reservedField : Except DecodeError Instr)) ⟨a, b, c, pg, (hi2 sc.code 0), 9⟩ = _
      simp only [hi2_fields, codes, beq_self_eq_true, Bool.and_self, Bool.and_true, Bool.true_and, if_true, Bool.not_false, reduceIte, ite_true])
theorem afadd (a : GR) (b : GR) (c : GR) (pg : PR) (sc : Scope) : Statement (.afadd a b c pg sc) :=
  ofC (packCX 0x16 ⟨a, b, c, pg, (hi2 sc.code 0), 10⟩) rfl rfl fun hw => (raw_C_16 ⟨a, b, c, pg, (hi2 sc.code 0), 10⟩).trans (by
    show (fun f : FCX => (if f.fl.getLsbD 0 == false && !false then .ok (.afadd f.a f.b f.c f.pg (Scope.ofCode (f.fl.extractLsb' 1 2))) else .error .reservedField : Except DecodeError Instr)) ⟨a, b, c, pg, (hi2 sc.code 0), 10⟩ = _
    simp only [hi2_fields, codes, beq_self_eq_true, Bool.and_self, Bool.and_true, Bool.true_and, if_true, Bool.not_false, reduceIte, ite_true])
theorem fence (mask : BV4) (pg : PR) (sc : Scope) : Statement (.fence mask pg sc) :=
  ofC (packCX 0x18 ⟨0, 0, (mask.setWidth 5), pg, (hi2 sc.code 0), 0⟩) rfl rfl fun hw => (raw_C_18 ⟨0, 0, (mask.setWidth 5), pg, (hi2 sc.code 0), 0⟩).trans (by
    show (fun f : FCX => (if f.a == 0 && f.b == 0 && f.fl.getLsbD 0 == false then (match low4 f.c with | some mask => .ok (.fence mask f.pg (Scope.ofCode (f.fl.extractLsb' 1 2))) | none => .error .reservedCode) else .error .reservedField : Except DecodeError Instr)) ⟨0, 0, (mask.setWidth 5), pg, (hi2 sc.code 0), 0⟩ = _
    simp only [hi2_fields, codes, low3_setWidth, low4_setWidth, beq_self_eq_true, Bool.and_self, Bool.and_true, Bool.true_and, if_true, Bool.not_false, reduceIte, ite_true])
theorem fencer (a : GR) (b : GR) (mask : BV4) (pg : PR) (sc : Scope) : Statement (.fencer a b mask pg sc) :=
  ofC (packCX 0x18 ⟨a, b, (mask.setWidth 5), pg, (hi2 sc.code 0), 1⟩) rfl rfl fun hw => (raw_C_18 ⟨a, b, (mask.setWidth 5), pg, (hi2 sc.code 0), 1⟩).trans (by
    show (fun f : FCX => (if f.fl.getLsbD 0 == false then (match low4 f.c with | some mask => .ok (.fencer f.a f.b mask f.pg (Scope.ofCode (f.fl.extractLsb' 1 2))) | none => .error .reservedCode) else .error .reservedField : Except DecodeError Instr)) ⟨a, b, (mask.setWidth 5), pg, (hi2 sc.code 0), 1⟩ = _
    simp only [hi2_fields, codes, low3_setWidth, low4_setWidth, beq_self_eq_true, Bool.and_self, Bool.and_true, Bool.true_and, if_true, Bool.not_false, reduceIte, ite_true])
theorem ifence (pg : PR) : Statement (.ifence pg) :=
  ofC (packCX 0x18 ⟨0, 0, 0, pg, 0, 2⟩) rfl rfl fun hw => (raw_C_18 ⟨0, 0, 0, pg, 0, 2⟩).trans (by
    show (fun f : FCX => (if f.a == 0 && f.b == 0 && f.c == 0 && f.fl == 0 then .ok (.ifence f.pg) else .error .reservedField : Except DecodeError Instr)) ⟨0, 0, 0, pg, 0, 2⟩ = _
    simp only [beq_self_eq_true, Bool.and_self, Bool.and_true, Bool.true_and, if_true, Bool.not_false, reduceIte, ite_true])
theorem fenceTl (pg : PR) (sc : Scope) : Statement (.fenceTl pg sc) :=
  ofC (packCX 0x18 ⟨0, 0, 0, pg, (hi2 sc.code 0), 3⟩) rfl rfl fun hw => (raw_C_18 ⟨0, 0, 0, pg, (hi2 sc.code 0), 3⟩).trans (by
    show (fun f : FCX => (if f.a == 0 && f.b == 0 && f.c == 0 && f.fl.getLsbD 0 == false then .ok (.fenceTl f.pg (Scope.ofCode (f.fl.extractLsb' 1 2))) else .error .reservedField : Except DecodeError Instr)) ⟨0, 0, 0, pg, (hi2 sc.code 0), 3⟩ = _
    simp only [hi2_fields, codes, beq_self_eq_true, Bool.and_self, Bool.and_true, Bool.true_and, if_true, Bool.not_false, reduceIte, ite_true])
theorem agf (a : GR) (pg : PR) : Statement (.agf a pg) :=
  ofC (packCX 0x18 ⟨a, 0, 0, pg, 0, 4⟩) rfl rfl fun hw => (raw_C_18 ⟨a, 0, 0, pg, 0, 4⟩).trans (by
    show (fun f : FCX => (if f.b == 0 && f.c == 0 && f.fl == 0 then .ok (.agf f.a f.pg) else .error .reservedField : Except DecodeError Instr)) ⟨a, 0, 0, pg, 0, 4⟩ = _
    simp only [beq_self_eq_true, Bool.and_self, Bool.and_true, Bool.true_and, if_true, Bool.not_false, reduceIte, ite_true])
theorem agw (pg : PR) : Statement (.agw pg) :=
  ofC (packCX 0x18 ⟨0, 0, 0, pg, 0, 5⟩) rfl rfl fun hw => (raw_C_18 ⟨0, 0, 0, pg, 0, 5⟩).trans (by
    show (fun f : FCX => (if f.a == 0 && f.b == 0 && f.c == 0 && f.fl == 0 then .ok (.agw f.pg) else .error .reservedField : Except DecodeError Instr)) ⟨0, 0, 0, pg, 0, 5⟩ = _
    simp only [beq_self_eq_true, Bool.and_self, Bool.and_true, Bool.true_and, if_true, Bool.not_false, reduceIte, ite_true])
theorem vld (v : VR) (b : GR) (mg : MR) (sc : Scope) (off : Off10) : Statement (.vld v b mg sc off) :=
  ofC (packCM 0x19 ⟨v, b, mg, (sc.code), off⟩) rfl rfl fun hw => (raw_C_19 ⟨v, b, mg, (sc.code), off⟩).trans (by
    show (fun f : FCM => (.ok (.vld f.s f.b f.pg (Scope.ofCode f.sc) f.off) : Except DecodeError Instr)) ⟨v, b, mg, (sc.code), off⟩ = _
    simp only [codes, beq_self_eq_true, Bool.and_self, Bool.and_true, Bool.true_and, if_true, Bool.not_false, reduceIte, ite_true])
theorem vst (v : VR) (b : GR) (mg : MR) (sc : Scope) (off : Off10) : Statement (.vst v b mg sc off) :=
  ofC (packCM 0x1A ⟨v, b, mg, (sc.code), off⟩) rfl rfl fun hw => (raw_C_1A ⟨v, b, mg, (sc.code), off⟩).trans (by
    show (fun f : FCM => (.ok (.vst f.s f.b f.pg (Scope.ofCode f.sc) f.off) : Except DecodeError Instr)) ⟨v, b, mg, (sc.code), off⟩ = _
    simp only [codes, beq_self_eq_true, Bool.and_self, Bool.and_true, Bool.true_and, if_true, Bool.not_false, reduceIte, ite_true])
theorem vlds (v : VR) (b : GR) (c : GR) (mg : MR) (mt : MTy) : Statement (.vlds v b c mg mt) :=
  ofC (packCX 0x1B ⟨v, b, c, mg, (mt.code), 0⟩) rfl rfl fun hw => (raw_C_1B ⟨v, b, c, mg, (mt.code), 0⟩).trans (by
    show (fun f : FCX => (.ok (.vlds f.a f.b f.c f.pg (MTy.ofCode f.fl)) : Except DecodeError Instr)) ⟨v, b, c, mg, (mt.code), 0⟩ = _
    simp only [codes, beq_self_eq_true, Bool.and_self, Bool.and_true, Bool.true_and, if_true, Bool.not_false, reduceIte, ite_true])
theorem vldx (v : VR) (b : GR) (c : VR) (mg : MR) (mt : MTy) : Statement (.vldx v b c mg mt) :=
  ofC (packCX 0x1B ⟨v, b, c, mg, (mt.code), 1⟩) rfl rfl fun hw => (raw_C_1B ⟨v, b, c, mg, (mt.code), 1⟩).trans (by
    show (fun f : FCX => (.ok (.vldx f.a f.b f.c f.pg (MTy.ofCode f.fl)) : Except DecodeError Instr)) ⟨v, b, c, mg, (mt.code), 1⟩ = _
    simp only [codes, beq_self_eq_true, Bool.and_self, Bool.and_true, Bool.true_and, if_true, Bool.not_false, reduceIte, ite_true])
theorem vldb (v : VR) (b : GR) (mg : MR) (mt : MTy) : Statement (.vldb v b mg mt) :=
  ofC (packCX 0x1B ⟨v, b, 0, mg, (mt.code), 2⟩) rfl rfl fun hw => (raw_C_1B ⟨v, b, 0, mg, (mt.code), 2⟩).trans (by
    show (fun f : FCX => (if f.c == 0 then .ok (.vldb f.a f.b f.pg (MTy.ofCode f.fl)) else .error .reservedField : Except DecodeError Instr)) ⟨v, b, 0, mg, (mt.code), 2⟩ = _
    simp only [codes, beq_self_eq_true, Bool.and_self, Bool.and_true, Bool.true_and, if_true, Bool.not_false, reduceIte, ite_true])
theorem vsts (v : VR) (b : GR) (c : GR) (mg : MR) : Statement (.vsts v b c mg) :=
  ofC (packCX 0x1B ⟨v, b, c, mg, 0, 3⟩) rfl rfl fun hw => (raw_C_1B ⟨v, b, c, mg, 0, 3⟩).trans (by
    show (fun f : FCX => (if f.fl == 0 then .ok (.vsts f.a f.b f.c f.pg) else .error .reservedField : Except DecodeError Instr)) ⟨v, b, c, mg, 0, 3⟩ = _
    simp only [beq_self_eq_true, Bool.and_self, Bool.and_true, Bool.true_and, if_true, Bool.not_false, reduceIte, ite_true])
theorem vstx (v : VR) (b : GR) (c : VR) (mg : MR) : Statement (.vstx v b c mg) :=
  ofC (packCX 0x1B ⟨v, b, c, mg, 0, 4⟩) rfl rfl fun hw => (raw_C_1B ⟨v, b, c, mg, 0, 4⟩).trans (by
    show (fun f : FCX => (if f.fl == 0 then .ok (.vstx f.a f.b f.c f.pg) else .error .reservedField : Except DecodeError Instr)) ⟨v, b, c, mg, 0, 4⟩ = _
    simp only [beq_self_eq_true, Bool.and_self, Bool.and_true, Bool.true_and, if_true, Bool.not_false, reduceIte, ite_true])
theorem vstn (v : VR) (b : GR) (mode : RMode) (mg : MR) (fmt : NTy) : Statement (.vstn v b mode mg fmt) :=
  ofC (packCX 0x1C ⟨v, b, (mode.code.setWidth 5), mg, (fmt.code), 0⟩) rfl rfl fun hw => (raw_C_1C ⟨v, b, (mode.code.setWidth 5), mg, (fmt.code), 0⟩).trans (by
    show (fun f : FCX => ((match RMode.of5 f.c with | some mode => .ok (.vstn f.a f.b mode f.pg (NTy.ofCode f.fl)) | none => .error .reservedCode) : Except DecodeError Instr)) ⟨v, b, (mode.code.setWidth 5), mg, (fmt.code), 0⟩ = _
    simp only [codes, rMode_code, low3_setWidth, low4_setWidth, beq_self_eq_true, Bool.and_self, Bool.and_true, Bool.true_and, if_true, Bool.not_false, reduceIte, ite_true])
theorem vspill (v : VR) (b : GR) : Statement (.vspill v b) :=
  ofC (packCX 0x1C ⟨v, b, 0, 0, 0, 1⟩) rfl rfl fun hw => (raw_C_1C ⟨v, b, 0, 0, 0, 1⟩).trans (by
    show (fun f : FCX => (if f.c == 0 && f.pg == 0 && f.fl == 0 then .ok (.vspill f.a f.b) else .error .reservedField : Except DecodeError Instr)) ⟨v, b, 0, 0, 0, 1⟩ = _
    simp only [beq_self_eq_true, Bool.and_self, Bool.and_true, Bool.true_and, if_true, Bool.not_false, reduceIte, ite_true])
theorem vfill (v : VR) (b : GR) : Statement (.vfill v b) :=
  ofC (packCX 0x1C ⟨v, b, 0, 0, 0, 2⟩) rfl rfl fun hw => (raw_C_1C ⟨v, b, 0, 0, 0, 2⟩).trans (by
    show (fun f : FCX => (if f.c == 0 && f.pg == 0 && f.fl == 0 then .ok (.vfill f.a f.b) else .error .reservedField : Except DecodeError Instr)) ⟨v, b, 0, 0, 0, 2⟩ = _
    simp only [beq_self_eq_true, Bool.and_self, Bool.and_true, Bool.true_and, if_true, Bool.not_false, reduceIte, ite_true])
theorem fstn (a : GR) (b : GR) (mode : RMode) (pg : PR) (fmt : NTy) : Statement (.fstn a b mode pg fmt) :=
  ofC (packCX 0x1C ⟨a, b, (mode.code.setWidth 5), pg, (fmt.code), 3⟩) rfl rfl fun hw => (raw_C_1C ⟨a, b, (mode.code.setWidth 5), pg, (fmt.code), 3⟩).trans (by
    show (fun f : FCX => ((match RMode.of5 f.c with | some mode => .ok (.fstn f.a f.b mode f.pg (NTy.ofCode f.fl)) | none => .error .reservedCode) : Except DecodeError Instr)) ⟨a, b, (mode.code.setWidth 5), pg, (fmt.code), 3⟩ = _
    simp only [codes, rMode_code, low3_setWidth, low4_setWidth, beq_self_eq_true, Bool.and_self, Bool.and_true, Bool.true_and, if_true, Bool.not_false, reduceIte, ite_true])
theorem tcopy (a : GR) (b : GR) (c : GR) (pg : PR) (tag : BV3) : Statement (.tcopy a b c pg tag) :=
  ofC (packCX 0x1D ⟨a, b, c, pg, tag, 0⟩) rfl rfl fun hw => (raw_C_1D ⟨a, b, c, pg, tag, 0⟩).trans (by
    show (fun f : FCX => (.ok (.tcopy f.a f.b f.c f.pg f.fl) : Except DecodeError Instr)) ⟨a, b, c, pg, tag, 0⟩ = _
    simp only [beq_self_eq_true, Bool.and_self, Bool.and_true, Bool.true_and, if_true, Bool.not_false, reduceIte, ite_true])
theorem tcopy2d (a : GR) (b : GR) (c : GR) (pg : PR) (tag : BV3) : Statement (.tcopy2d a b c pg tag) :=
  ofC (packCX 0x1D ⟨a, b, c, pg, tag, 1⟩) rfl rfl fun hw => (raw_C_1D ⟨a, b, c, pg, tag, 1⟩).trans (by
    show (fun f : FCX => (.ok (.tcopy2d f.a f.b f.c f.pg f.fl) : Except DecodeError Instr)) ⟨a, b, c, pg, tag, 1⟩ = _
    simp only [beq_self_eq_true, Bool.and_self, Bool.and_true, Bool.true_and, if_true, Bool.not_false, reduceIte, ite_true])
theorem tgather (a : GR) (b : GR) (c : GR) (pg : PR) (tag : BV3) : Statement (.tgather a b c pg tag) :=
  ofC (packCX 0x1D ⟨a, b, c, pg, tag, 2⟩) rfl rfl fun hw => (raw_C_1D ⟨a, b, c, pg, tag, 2⟩).trans (by
    show (fun f : FCX => (.ok (.tgather f.a f.b f.c f.pg f.fl) : Except DecodeError Instr)) ⟨a, b, c, pg, tag, 2⟩ = _
    simp only [beq_self_eq_true, Bool.and_self, Bool.and_true, Bool.true_and, if_true, Bool.not_false, reduceIte, ite_true])
theorem tscatter (a : GR) (b : GR) (c : GR) (pg : PR) (tag : BV3) : Statement (.tscatter a b c pg tag) :=
  ofC (packCX 0x1D ⟨a, b, c, pg, tag, 3⟩) rfl rfl fun hw => (raw_C_1D ⟨a, b, c, pg, tag, 3⟩).trans (by
    show (fun f : FCX => (.ok (.tscatter f.a f.b f.c f.pg f.fl) : Except DecodeError Instr)) ⟨a, b, c, pg, tag, 3⟩ = _
    simp only [beq_self_eq_true, Bool.and_self, Bool.and_true, Bool.true_and, if_true, Bool.not_false, reduceIte, ite_true])
theorem tfill (a : GR) (b : GR) (c : GR) (pg : PR) (tag : BV3) : Statement (.tfill a b c pg tag) :=
  ofC (packCX 0x1D ⟨a, b, c, pg, tag, 4⟩) rfl rfl fun hw => (raw_C_1D ⟨a, b, c, pg, tag, 4⟩).trans (by
    show (fun f : FCX => (.ok (.tfill f.a f.b f.c f.pg f.fl) : Except DecodeError Instr)) ⟨a, b, c, pg, tag, 4⟩ = _
    simp only [beq_self_eq_true, Bool.and_self, Bool.and_true, Bool.true_and, if_true, Bool.not_false, reduceIte, ite_true])
theorem twait (sel : TSel) (pg : PR) : Statement (.twait sel pg) :=
  ofC (packCX 0x1D ⟨0, 0, (sel.cField), pg, (sel.flField), 5⟩) rfl rfl fun hw => (raw_C_1D ⟨0, 0, (sel.cField), pg, (sel.flField), 5⟩).trans (by
    show (fun f : FCX => (if f.a == 0 && f.b == 0 then (match TSel.ofFields f.c f.fl with | some sel => .ok (.twait sel f.pg) | none => .error .reservedCode) else .error .reservedField : Except DecodeError Instr)) ⟨0, 0, (sel.cField), pg, (sel.flField), 5⟩ = _
    simp only [tSel_code, beq_self_eq_true, Bool.and_self, Bool.and_true, Bool.true_and, if_true, Bool.not_false, reduceIte, ite_true])
theorem qenq (a : GR) (b : GR) (c : GR) (pg : PR) (len : BV3) : Statement (.qenq a b c pg len) :=
  ofC (packCX 0x1E ⟨a, b, c, pg, len, 0⟩) rfl rfl fun hw => (raw_C_1E ⟨a, b, c, pg, len, 0⟩).trans (by
    show (fun f : FCX => (.ok (.qenq f.a f.b f.c f.pg f.fl) : Except DecodeError Instr)) ⟨a, b, c, pg, len, 0⟩ = _
    simp only [beq_self_eq_true, Bool.and_self, Bool.and_true, Bool.true_and, if_true, Bool.not_false, reduceIte, ite_true])
theorem qdeq (a : GR) (b : GR) (c : GR) (pg : PR) (q : BV3) : Statement (.qdeq a b c pg q) :=
  ofC (packCX 0x1E ⟨a, b, c, pg, q, 1⟩) rfl rfl fun hw => (raw_C_1E ⟨a, b, c, pg, q, 1⟩).trans (by
    show (fun f : FCX => (.ok (.qdeq f.a f.b f.c f.pg f.fl) : Except DecodeError Instr)) ⟨a, b, c, pg, q, 1⟩ = _
    simp only [beq_self_eq_true, Bool.and_self, Bool.and_true, Bool.true_and, if_true, Bool.not_false, reduceIte, ite_true])
theorem qtry (a : GR) (b : GR) (c : PR) (pg : PR) (len : BV3) : Statement (.qtry a b c pg len) :=
  ofC (packCX 0x1E ⟨a, b, (c.setWidth 5), pg, len, 2⟩) rfl rfl fun hw => (raw_C_1E ⟨a, b, (c.setWidth 5), pg, len, 2⟩).trans (by
    show (fun f : FCX => ((match low3 f.c with | some c => .ok (.qtry f.a f.b c f.pg f.fl) | none => .error .reservedCode) : Except DecodeError Instr)) ⟨a, b, (c.setWidth 5), pg, len, 2⟩ = _
    simp only [low3_setWidth, low4_setWidth, beq_self_eq_true, Bool.and_self, Bool.and_true, Bool.true_and, if_true, Bool.not_false, reduceIte, ite_true])
theorem qpoll (a : GR) (b : GR) (c : PR) (pg : PR) (q : BV3) : Statement (.qpoll a b c pg q) :=
  ofC (packCX 0x1E ⟨a, b, (c.setWidth 5), pg, q, 3⟩) rfl rfl fun hw => (raw_C_1E ⟨a, b, (c.setWidth 5), pg, q, 3⟩).trans (by
    show (fun f : FCX => ((match low3 f.c with | some c => .ok (.qpoll f.a f.b c f.pg f.fl) | none => .error .reservedCode) : Except DecodeError Instr)) ⟨a, b, (c.setWidth 5), pg, q, 3⟩ = _
    simp only [low3_setWidth, low4_setWidth, beq_self_eq_true, Bool.and_self, Bool.and_true, Bool.true_and, if_true, Bool.not_false, reduceIte, ite_true])
theorem callat (d : GR) (b : GR) (c : GR) (pg : PR) : Statement (.callat d b c pg) :=
  ofC (packCX 0x1E ⟨d, b, c, pg, 0, 4⟩) rfl rfl fun hw => (raw_C_1E ⟨d, b, c, pg, 0, 4⟩).trans (by
    show (fun f : FCX => (if f.fl == 0 then .ok (.callat f.a f.b f.c f.pg) else .error .reservedField : Except DecodeError Instr)) ⟨d, b, c, pg, 0, 4⟩ = _
    simp only [beq_self_eq_true, Bool.and_self, Bool.and_true, Bool.true_and, if_true, Bool.not_false, reduceIte, ite_true])
theorem retv (a : GR) (pg : PR) : Statement (.retv a pg) :=
  ofC (packCX 0x1E ⟨a, 0, 0, pg, 0, 5⟩) rfl rfl fun hw => (raw_C_1E ⟨a, 0, 0, pg, 0, 5⟩).trans (by
    show (fun f : FCX => (if f.b == 0 && f.c == 0 && f.fl == 0 then .ok (.retv f.a f.pg) else .error .reservedField : Except DecodeError Instr)) ⟨a, 0, 0, pg, 0, 5⟩ = _
    simp only [beq_self_eq_true, Bool.and_self, Bool.and_true, Bool.true_and, if_true, Bool.not_false, reduceIte, ite_true])
theorem amsg (b : GR) (c : GR) (pg : PR) : Statement (.amsg b c pg) :=
  ofC (packCX 0x1E ⟨0, b, c, pg, 0, 6⟩) rfl rfl fun hw => (raw_C_1E ⟨0, b, c, pg, 0, 6⟩).trans (by
    with_unfolding_all rfl)
theorem amsgRet (d : GR) (b : GR) (c : GR) (pg : PR) : Statement (.amsgRet d b c pg) :=
  ofC (packCX 0x1E ⟨d, b, c, pg, 1, 6⟩) rfl rfl fun hw => (raw_C_1E ⟨d, b, c, pg, 1, 6⟩).trans (by
    with_unfolding_all rfl)
theorem frame (a : GR) (b : GR) (c : GR) (pg : PR) : Statement (.frame a b c pg) :=
  ofC (packCX 0x1F ⟨a, b, c, pg, 0, 0⟩) rfl rfl fun hw => (raw_C_1F ⟨a, b, c, pg, 0, 0⟩).trans (by
    show (fun f : FCX => (if f.fl == 0 then .ok (.frame f.a f.b f.c f.pg) else .error .reservedField : Except DecodeError Instr)) ⟨a, b, c, pg, 0, 0⟩ = _
    simp only [beq_self_eq_true, Bool.and_self, Bool.and_true, Bool.true_and, if_true, Bool.not_false, reduceIte, ite_true])
theorem spawn (a : GR) (b : GR) (pg : PR) : Statement (.spawn a b pg) :=
  ofC (packCX 0x1F ⟨a, b, 0, pg, 0, 1⟩) rfl rfl fun hw => (raw_C_1F ⟨a, b, 0, pg, 0, 1⟩).trans (by
    show (fun f : FCX => (if f.c == 0 && f.fl == 0 then .ok (.spawn f.a f.b f.pg) else .error .reservedField : Except DecodeError Instr)) ⟨a, b, 0, pg, 0, 1⟩ = _
    simp only [beq_self_eq_true, Bool.and_self, Bool.and_true, Bool.true_and, if_true, Bool.not_false, reduceIte, ite_true])
theorem sync (a : GR) (pg : PR) : Statement (.sync a pg) :=
  ofC (packCX 0x1F ⟨a, 0, 0, pg, 0, 2⟩) rfl rfl fun hw => (raw_C_1F ⟨a, 0, 0, pg, 0, 2⟩).trans (by
    show (fun f : FCX => (if f.b == 0 && f.c == 0 && f.fl == 0 then .ok (.sync f.a f.pg) else .error .reservedField : Except DecodeError Instr)) ⟨a, 0, 0, pg, 0, 2⟩ = _
    simp only [beq_self_eq_true, Bool.and_self, Bool.and_true, Bool.true_and, if_true, Bool.not_false, reduceIte, ite_true])
theorem tend (a : GR) (pg : PR) : Statement (.tend a pg) :=
  ofC (packCX 0x1F ⟨a, 0, 0, pg, 0, 3⟩) rfl rfl fun hw => (raw_C_1F ⟨a, 0, 0, pg, 0, 3⟩).trans (by
    show (fun f : FCX => (if f.b == 0 && f.c == 0 && f.fl == 0 then .ok (.tend f.a f.pg) else .error .reservedField : Except DecodeError Instr)) ⟨a, 0, 0, pg, 0, 3⟩ = _
    simp only [beq_self_eq_true, Bool.and_self, Bool.and_true, Bool.true_and, if_true, Bool.not_false, reduceIte, ite_true])
theorem publish (a : GR) (b : GR) (pg : PR) : Statement (.publish a b pg) :=
  ofC (packCX 0x1F ⟨a, b, 0, pg, 0, 4⟩) rfl rfl fun hw => (raw_C_1F ⟨a, b, 0, pg, 0, 4⟩).trans (by
    show (fun f : FCX => (if f.c == 0 && f.fl == 0 then .ok (.publish f.a f.b f.pg) else .error .reservedField : Except DecodeError Instr)) ⟨a, b, 0, pg, 0, 4⟩ = _
    simp only [beq_self_eq_true, Bool.and_self, Bool.and_true, Bool.true_and, if_true, Bool.not_false, reduceIte, ite_true])
theorem launch (a : GR) (c : PR) (pg : PR) : Statement (.launch a c pg) :=
  ofC (packCX 0x1F ⟨a, 0, (c.setWidth 5), pg, 0, 5⟩) rfl rfl fun hw => (raw_C_1F ⟨a, 0, (c.setWidth 5), pg, 0, 5⟩).trans (by
    show (fun f : FCX => (if f.b == 0 && f.fl == 0 then (match low3 f.c with | some c => .ok (.launch f.a c f.pg) | none => .error .reservedCode) else .error .reservedField : Except DecodeError Instr)) ⟨a, 0, (c.setWidth 5), pg, 0, 5⟩ = _
    simp only [low3_setWidth, low4_setWidth, beq_self_eq_true, Bool.and_self, Bool.and_true, Bool.true_and, if_true, Bool.not_false, reduceIte, ite_true])
theorem shrd (a : GR) (n : BV4) (pg : PR) : Statement (.shrd a n pg) :=
  ofC (packCX 0x20 ⟨a, 0, (n.setWidth 5), pg, 0, 0⟩) rfl rfl fun hw => (raw_C_20 ⟨a, 0, (n.setWidth 5), pg, 0, 0⟩).trans (by
    show (fun f : FCX => (if f.b == 0 && f.fl == 0 then (match low4 f.c with | some n => .ok (.shrd f.a n f.pg) | none => .error .reservedCode) else .error .reservedField : Except DecodeError Instr)) ⟨a, 0, (n.setWidth 5), pg, 0, 0⟩ = _
    simp only [low3_setWidth, low4_setWidth, beq_self_eq_true, Bool.and_self, Bool.and_true, Bool.true_and, if_true, Bool.not_false, reduceIte, ite_true])
theorem shwr (a : GR) (n : BV4) (pg : PR) : Statement (.shwr a n pg) :=
  ofC (packCX 0x20 ⟨a, 0, (n.setWidth 5), pg, 0, 1⟩) rfl rfl fun hw => (raw_C_20 ⟨a, 0, (n.setWidth 5), pg, 0, 1⟩).trans (by
    show (fun f : FCX => (if f.b == 0 && f.fl == 0 then (match low4 f.c with | some n => .ok (.shwr f.a n f.pg) | none => .error .reservedCode) else .error .reservedField : Except DecodeError Instr)) ⟨a, 0, (n.setWidth 5), pg, 0, 1⟩ = _
    simp only [low3_setWidth, low4_setWidth, beq_self_eq_true, Bool.and_self, Bool.and_true, Bool.true_and, if_true, Bool.not_false, reduceIte, ite_true])
theorem semp (n : BV4) (pg : PR) : Statement (.semp n pg) :=
  ofC (packCX 0x20 ⟨0, 0, (n.setWidth 5), pg, 0, 2⟩) rfl rfl fun hw => (raw_C_20 ⟨0, 0, (n.setWidth 5), pg, 0, 2⟩).trans (by
    show (fun f : FCX => (if f.a == 0 && f.b == 0 && f.fl == 0 then (match low4 f.c with | some n => .ok (.semp n f.pg) | none => .error .reservedCode) else .error .reservedField : Except DecodeError Instr)) ⟨0, 0, (n.setWidth 5), pg, 0, 2⟩ = _
    simp only [low3_setWidth, low4_setWidth, beq_self_eq_true, Bool.and_self, Bool.and_true, Bool.true_and, if_true, Bool.not_false, reduceIte, ite_true])
theorem semv (n : BV4) (pg : PR) : Statement (.semv n pg) :=
  ofC (packCX 0x20 ⟨0, 0, (n.setWidth 5), pg, 0, 3⟩) rfl rfl fun hw => (raw_C_20 ⟨0, 0, (n.setWidth 5), pg, 0, 3⟩).trans (by
    show (fun f : FCX => (if f.a == 0 && f.b == 0 && f.fl == 0 then (match low4 f.c with | some n => .ok (.semv n f.pg) | none => .error .reservedCode) else .error .reservedField : Except DecodeError Instr)) ⟨0, 0, (n.setWidth 5), pg, 0, 3⟩ = _
    simp only [low3_setWidth, low4_setWidth, beq_self_eq_true, Bool.and_self, Bool.and_true, Bool.true_and, if_true, Bool.not_false, reduceIte, ite_true])
theorem bar (n : BV4) (pg : PR) (sc : Scope) : Statement (.bar n pg sc) :=
  ofC (packCX 0x20 ⟨0, 0, (n.setWidth 5), pg, (hi2 sc.code 0), 4⟩) rfl rfl fun hw => (raw_C_20 ⟨0, 0, (n.setWidth 5), pg, (hi2 sc.code 0), 4⟩).trans (by
    show (fun f : FCX => (if f.a == 0 && f.b == 0 && f.fl.getLsbD 0 == false then (match low4 f.c with | some n => .ok (.bar n f.pg (Scope.ofCode (f.fl.extractLsb' 1 2))) | none => .error .reservedCode) else .error .reservedField : Except DecodeError Instr)) ⟨0, 0, (n.setWidth 5), pg, (hi2 sc.code 0), 4⟩ = _
    simp only [hi2_fields, codes, low3_setWidth, low4_setWidth, beq_self_eq_true, Bool.and_self, Bool.and_true, Bool.true_and, if_true, Bool.not_false, reduceIte, ite_true])
theorem xborrow (b : GR) (c : PR) (pg : PR) : Statement (.xborrow b c pg) :=
  ofC (packCX 0x20 ⟨0, b, (c.setWidth 5), pg, 0, 5⟩) rfl rfl fun hw => (raw_C_20 ⟨0, b, (c.setWidth 5), pg, 0, 5⟩).trans (by
    show (fun f : FCX => (if f.a == 0 && f.fl == 0 then (match low3 f.c with | some c => .ok (.xborrow f.b c f.pg) | none => .error .reservedCode) else .error .reservedField : Except DecodeError Instr)) ⟨0, b, (c.setWidth 5), pg, 0, 5⟩ = _
    simp only [low3_setWidth, low4_setWidth, beq_self_eq_true, Bool.and_self, Bool.and_true, Bool.true_and, if_true, Bool.not_false, reduceIte, ite_true])
theorem xmov (a : GR) (b : GR) (pg : PR) (vec : Bool) (toBorrowed : Bool) : Statement (.xmov a b pg vec toBorrowed) :=
  ofC (packCX 0x20 ⟨a, b, 0, pg, (hi2 (if vec then 1 else 0) (b1 toBorrowed)), 6⟩) rfl rfl fun hw => (raw_C_20 ⟨a, b, 0, pg, (hi2 (if vec then 1 else 0) (b1 toBorrowed)), 6⟩).trans (by
    cases vec <;> cases toBorrowed <;> with_unfolding_all rfl)
theorem xreturn (pg : PR) : Statement (.xreturn pg) :=
  ofC (packCX 0x20 ⟨0, 0, 0, pg, 0, 7⟩) rfl rfl fun hw => (raw_C_20 ⟨0, 0, 0, pg, 0, 7⟩).trans (by
    show (fun f : FCX => (if f.a == 0 && f.b == 0 && f.c == 0 && f.fl == 0 then .ok (.xreturn f.pg) else .error .reservedField : Except DecodeError Instr)) ⟨0, 0, 0, pg, 0, 7⟩ = _
    simp only [beq_self_eq_true, Bool.and_self, Bool.and_true, Bool.true_and, if_true, Bool.not_false, reduceIte, ite_true])
theorem migrate (a : GR) (b : GR) (pg : PR) : Statement (.migrate a b pg) :=
  ofC (packCX 0x20 ⟨a, b, 0, pg, 0, 8⟩) rfl rfl fun hw => (raw_C_20 ⟨a, b, 0, pg, 0, 8⟩).trans (by
    show (fun f : FCX => (if f.c == 0 && f.fl == 0 then .ok (.migrate f.a f.b f.pg) else .error .reservedField : Except DecodeError Instr)) ⟨a, b, 0, pg, 0, 8⟩ = _
    simp only [beq_self_eq_true, Bool.and_self, Bool.and_true, Bool.true_and, if_true, Bool.not_false, reduceIte, ite_true])
theorem hbeat (pg : PR) : Statement (.hbeat pg) :=
  ofC (packCX 0x20 ⟨0, 0, 0, pg, 0, 9⟩) rfl rfl fun hw => (raw_C_20 ⟨0, 0, 0, pg, 0, 9⟩).trans (by
    show (fun f : FCX => (if f.a == 0 && f.b == 0 && f.c == 0 && f.fl == 0 then .ok (.hbeat f.pg) else .error .reservedField : Except DecodeError Instr)) ⟨0, 0, 0, pg, 0, 9⟩ = _
    simp only [beq_self_eq_true, Bool.and_self, Bool.and_true, Bool.true_and, if_true, Bool.not_false, reduceIte, ite_true])
theorem waitt (a : GR) (pg : PR) : Statement (.waitt a pg) :=
  ofC (packCX 0x20 ⟨a, 0, 0, pg, 0, 10⟩) rfl rfl fun hw => (raw_C_20 ⟨a, 0, 0, pg, 0, 10⟩).trans (by
    show (fun f : FCX => (if f.b == 0 && f.c == 0 && f.fl == 0 then .ok (.waitt f.a f.pg) else .error .reservedField : Except DecodeError Instr)) ⟨a, 0, 0, pg, 0, 10⟩ = _
    simp only [beq_self_eq_true, Bool.and_self, Bool.and_true, Bool.true_and, if_true, Bool.not_false, reduceIte, ite_true])
theorem yield (pg : PR) : Statement (.yield pg) :=
  ofC (packCX 0x20 ⟨0, 0, 0, pg, 0, 11⟩) rfl rfl fun hw => (raw_C_20 ⟨0, 0, 0, pg, 0, 11⟩).trans (by
    show (fun f : FCX => (if f.a == 0 && f.b == 0 && f.c == 0 && f.fl == 0 then .ok (.yield f.pg) else .error .reservedField : Except DecodeError Instr)) ⟨0, 0, 0, pg, 0, 11⟩ = _
    simp only [beq_self_eq_true, Bool.and_self, Bool.and_true, Bool.true_and, if_true, Bool.not_false, reduceIte, ite_true])
theorem sysc (n : BV15) : Statement (.sysc n) :=
  ofC (packCX 0x21 ⟨(n.extractLsb' 10 5), (n.extractLsb' 5 5), (n.extractLsb' 0 5), 0, 0, 0⟩) rfl rfl fun hw => (raw_C_21 ⟨(n.extractLsb' 10 5), (n.extractLsb' 5 5), (n.extractLsb' 0 5), 0, 0, 0⟩).trans (by
    have hn : n.extractLsb' 10 5 ++ n.extractLsb' 5 5 ++ n.extractLsb' 0 5 = n := append5 n
    show Except.ok (Instr.sysc (n.extractLsb' 10 5 ++ n.extractLsb' 5 5 ++ n.extractLsb' 0 5)) = _; rw [hn])
theorem brk (n : BV15) : Statement (.brk n) :=
  ofC (packCX 0x21 ⟨(n.extractLsb' 10 5), (n.extractLsb' 5 5), (n.extractLsb' 0 5), 0, 0, 1⟩) rfl rfl fun hw => (raw_C_21 ⟨(n.extractLsb' 10 5), (n.extractLsb' 5 5), (n.extractLsb' 0 5), 0, 0, 1⟩).trans (by
    have hn : n.extractLsb' 10 5 ++ n.extractLsb' 5 5 ++ n.extractLsb' 0 5 = n := append5 n
    show Except.ok (Instr.brk (n.extractLsb' 10 5 ++ n.extractLsb' 5 5 ++ n.extractLsb' 0 5)) = _; rw [hn])
theorem xret (pg : PR) : Statement (.xret pg) :=
  ofC (packCX 0x21 ⟨0, 0, 0, pg, 0, 2⟩) rfl rfl fun hw => (raw_C_21 ⟨0, 0, 0, pg, 0, 2⟩).trans (by
    show (fun f : FCX => (if f.a == 0 && f.b == 0 && f.c == 0 && f.fl == 0 then .ok (.xret f.pg) else .error .reservedField : Except DecodeError Instr)) ⟨0, 0, 0, pg, 0, 2⟩ = _
    simp only [beq_self_eq_true, Bool.and_self, Bool.and_true, Bool.true_and, if_true, Bool.not_false, reduceIte, ite_true])
theorem tlbinv (a : GR) (pg : PR) (sc : Scope) : Statement (.tlbinv a pg sc) :=
  ofC (packCX 0x21 ⟨a, 0, 0, pg, (hi2 sc.code 0), 3⟩) rfl rfl fun hw => (raw_C_21 ⟨a, 0, 0, pg, (hi2 sc.code 0), 3⟩).trans (by
    show (fun f : FCX => (if f.b == 0 && f.c == 0 && f.fl.getLsbD 0 == false then .ok (.tlbinv f.a f.pg (Scope.ofCode (f.fl.extractLsb' 1 2))) else .error .reservedField : Except DecodeError Instr)) ⟨a, 0, 0, pg, (hi2 sc.code 0), 3⟩ = _
    simp only [hi2_fields, codes, beq_self_eq_true, Bool.and_self, Bool.and_true, Bool.true_and, if_true, Bool.not_false, reduceIte, ite_true])
theorem cctlWb (a : GR) (b : GR) (pg : PR) : Statement (.cctlWb a b pg) :=
  ofC (packCX 0x21 ⟨a, b, 0, pg, 0, 4⟩) rfl rfl fun hw => (raw_C_21 ⟨a, b, 0, pg, 0, 4⟩).trans (by
    show (fun f : FCX => (if f.c == 0 then .ok (.cctlWb f.a f.b f.pg) else .error .reservedField : Except DecodeError Instr)) ⟨a, b, 0, pg, 0, 4⟩ = _
    simp only [beq_self_eq_true, Bool.and_self, Bool.and_true, Bool.true_and, if_true, Bool.not_false, reduceIte, ite_true])
theorem cctlInv (a : GR) (b : GR) (pg : PR) : Statement (.cctlInv a b pg) :=
  ofC (packCX 0x21 ⟨a, b, 0, pg, 1, 4⟩) rfl rfl fun hw => (raw_C_21 ⟨a, b, 0, pg, 1, 4⟩).trans (by
    show (fun f : FCX => (if f.c == 0 then .ok (.cctlInv f.a f.b f.pg) else .error .reservedField : Except DecodeError Instr)) ⟨a, b, 0, pg, 1, 4⟩ = _
    simp only [beq_self_eq_true, Bool.and_self, Bool.and_true, Bool.true_and, if_true, Bool.not_false, reduceIte, ite_true])
theorem cctlWbinv (a : GR) (b : GR) (pg : PR) : Statement (.cctlWbinv a b pg) :=
  ofC (packCX 0x21 ⟨a, b, 0, pg, 2, 4⟩) rfl rfl fun hw => (raw_C_21 ⟨a, b, 0, pg, 2, 4⟩).trans (by
    show (fun f : FCX => (if f.c == 0 then .ok (.cctlWbinv f.a f.b f.pg) else .error .reservedField : Except DecodeError Instr)) ⟨a, b, 0, pg, 2, 4⟩ = _
    simp only [beq_self_eq_true, Bool.and_self, Bool.and_true, Bool.true_and, if_true, Bool.not_false, reduceIte, ite_true])
theorem cctlPrefetch (a : GR) (b : GR) (pg : PR) : Statement (.cctlPrefetch a b pg) :=
  ofC (packCX 0x21 ⟨a, b, 0, pg, 3, 4⟩) rfl rfl fun hw => (raw_C_21 ⟨a, b, 0, pg, 3, 4⟩).trans (by
    show (fun f : FCX => (if f.c == 0 then .ok (.cctlPrefetch f.a f.b f.pg) else .error .reservedField : Except DecodeError Instr)) ⟨a, b, 0, pg, 3, 4⟩ = _
    simp only [beq_self_eq_true, Bool.and_self, Bool.and_true, Bool.true_and, if_true, Bool.not_false, reduceIte, ite_true])
theorem cctlWbL1d (pg : PR) : Statement (.cctlWbL1d pg) :=
  ofC (packCX 0x21 ⟨0, 0, 0, pg, 4, 4⟩) rfl rfl fun hw => (raw_C_21 ⟨0, 0, 0, pg, 4, 4⟩).trans (by
    show (fun f : FCX => (if f.a == 0 && f.b == 0 && f.c == 0 then .ok (.cctlWbL1d f.pg) else .error .reservedField : Except DecodeError Instr)) ⟨0, 0, 0, pg, 4, 4⟩ = _
    simp only [beq_self_eq_true, Bool.and_self, Bool.and_true, Bool.true_and, if_true, Bool.not_false, reduceIte, ite_true])
theorem cctlInvCc (pg : PR) : Statement (.cctlInvCc pg) :=
  ofC (packCX 0x21 ⟨0, 0, 0, pg, 5, 4⟩) rfl rfl fun hw => (raw_C_21 ⟨0, 0, 0, pg, 5, 4⟩).trans (by
    show (fun f : FCX => (if f.a == 0 && f.b == 0 && f.c == 0 then .ok (.cctlInvCc f.pg) else .error .reservedField : Except DecodeError Instr)) ⟨0, 0, 0, pg, 5, 4⟩ = _
    simp only [beq_self_eq_true, Bool.and_self, Bool.and_true, Bool.true_and, if_true, Bool.not_false, reduceIte, ite_true])
theorem cctlSetCc (a : GR) (pg : PR) : Statement (.cctlSetCc a pg) :=
  ofC (packCX 0x21 ⟨a, 0, 0, pg, 6, 4⟩) rfl rfl fun hw => (raw_C_21 ⟨a, 0, 0, pg, 6, 4⟩).trans (by
    show (fun f : FCX => (if f.b == 0 && f.c == 0 then .ok (.cctlSetCc f.a f.pg) else .error .reservedField : Except DecodeError Instr)) ⟨a, 0, 0, pg, 6, 4⟩ = _
    simp only [beq_self_eq_true, Bool.and_self, Bool.and_true, Bool.true_and, if_true, Bool.not_false, reduceIte, ite_true])
theorem crrd (d : GR) (pg : PR) (n : CRNum) : Statement (.crrd d pg n) :=
  ofC (packCI 0x22 ⟨d, 0, pg, n⟩) rfl rfl fun hw => (raw_C_22 ⟨d, 0, pg, n⟩).trans (by
    rfl)
theorem crwr (a : GR) (pg : PR) (n : CRNum) : Statement (.crwr a pg n) :=
  ofC (packCI 0x22 ⟨0, a, pg, n⟩) rfl rfl fun hw => (raw_C_22 ⟨0, a, pg, n⟩).trans (by
    have ha : (a == 0) = false := by have := hw; simp [Instr.wellFormed] at this; simp [this]
    simp only [decCr, ha]; rfl)
theorem crswp (d : GR) (a : GR) (pg : PR) (n : CRNum) : Statement (.crswp d a pg n) :=
  ofC (packCI 0x22 ⟨d, a, pg, n⟩) rfl rfl fun hw => (raw_C_22 ⟨d, a, pg, n⟩).trans (by
    have ha : (a == 0) = false := by have := hw; simp [Instr.wellFormed] at this; simp [this]
    have hd : (d == 0) = false := by have := hw; simp [Instr.wellFormed] at this; simp [this]
    simp only [decCr, ha, hd]; rfl)
theorem add (t : IntTy) (d : GR) (a : GR) (b : GR) (pg : PR) : Statement (.add t d a b pg) :=
  ofA (packAR 0x01 ⟨d, a, b, 0, (t.code), pg⟩) rfl rfl fun hw => (raw_A_01 ⟨d, a, b, 0, (t.code), pg⟩).trans (by
    show (fun f : FAR => ((match IntTy.ofCode f.t with | some t => .ok (.add t f.d f.a f.b f.pg) | none => .error .reservedCode) : Except DecodeError Instr)) ⟨d, a, b, 0, (t.code), pg⟩ = _
    simp only [codes, beq_self_eq_true, Bool.and_self, Bool.and_true, Bool.true_and, if_true, Bool.not_false, reduceIte, ite_true])
theorem sub (t : IntTy) (d : GR) (a : GR) (b : GR) (pg : PR) : Statement (.sub t d a b pg) :=
  ofA (packAR 0x01 ⟨d, a, b, 1, (t.code), pg⟩) rfl rfl fun hw => (raw_A_01 ⟨d, a, b, 1, (t.code), pg⟩).trans (by
    show (fun f : FAR => ((match IntTy.ofCode f.t with | some t => .ok (.sub t f.d f.a f.b f.pg) | none => .error .reservedCode) : Except DecodeError Instr)) ⟨d, a, b, 1, (t.code), pg⟩ = _
    simp only [codes, beq_self_eq_true, Bool.and_self, Bool.and_true, Bool.true_and, if_true, Bool.not_false, reduceIte, ite_true])
theorem and (t : IntTy) (d : GR) (a : GR) (b : GR) (pg : PR) : Statement (.and t d a b pg) :=
  ofA (packAR 0x01 ⟨d, a, b, 2, (t.code), pg⟩) rfl rfl fun hw => (raw_A_01 ⟨d, a, b, 2, (t.code), pg⟩).trans (by
    show (fun f : FAR => ((match IntTy.ofCode f.t with | some t => .ok (.and t f.d f.a f.b f.pg) | none => .error .reservedCode) : Except DecodeError Instr)) ⟨d, a, b, 2, (t.code), pg⟩ = _
    simp only [codes, beq_self_eq_true, Bool.and_self, Bool.and_true, Bool.true_and, if_true, Bool.not_false, reduceIte, ite_true])
theorem or (t : IntTy) (d : GR) (a : GR) (b : GR) (pg : PR) : Statement (.or t d a b pg) :=
  ofA (packAR 0x01 ⟨d, a, b, 3, (t.code), pg⟩) rfl rfl fun hw => (raw_A_01 ⟨d, a, b, 3, (t.code), pg⟩).trans (by
    show (fun f : FAR => ((match IntTy.ofCode f.t with | some t => .ok (.or t f.d f.a f.b f.pg) | none => .error .reservedCode) : Except DecodeError Instr)) ⟨d, a, b, 3, (t.code), pg⟩ = _
    simp only [codes, beq_self_eq_true, Bool.and_self, Bool.and_true, Bool.true_and, if_true, Bool.not_false, reduceIte, ite_true])
theorem xor (t : IntTy) (d : GR) (a : GR) (b : GR) (pg : PR) : Statement (.xor t d a b pg) :=
  ofA (packAR 0x01 ⟨d, a, b, 4, (t.code), pg⟩) rfl rfl fun hw => (raw_A_01 ⟨d, a, b, 4, (t.code), pg⟩).trans (by
    show (fun f : FAR => ((match IntTy.ofCode f.t with | some t => .ok (.xor t f.d f.a f.b f.pg) | none => .error .reservedCode) : Except DecodeError Instr)) ⟨d, a, b, 4, (t.code), pg⟩ = _
    simp only [codes, beq_self_eq_true, Bool.and_self, Bool.and_true, Bool.true_and, if_true, Bool.not_false, reduceIte, ite_true])
theorem andn (t : IntTy) (d : GR) (a : GR) (b : GR) (pg : PR) : Statement (.andn t d a b pg) :=
  ofA (packAR 0x01 ⟨d, a, b, 5, (t.code), pg⟩) rfl rfl fun hw => (raw_A_01 ⟨d, a, b, 5, (t.code), pg⟩).trans (by
    show (fun f : FAR => ((match IntTy.ofCode f.t with | some t => .ok (.andn t f.d f.a f.b f.pg) | none => .error .reservedCode) : Except DecodeError Instr)) ⟨d, a, b, 5, (t.code), pg⟩ = _
    simp only [codes, beq_self_eq_true, Bool.and_self, Bool.and_true, Bool.true_and, if_true, Bool.not_false, reduceIte, ite_true])
theorem shl (t : IntTy) (d : GR) (a : GR) (b : GR) (pg : PR) : Statement (.shl t d a b pg) :=
  ofA (packAR 0x01 ⟨d, a, b, 6, (t.code), pg⟩) rfl rfl fun hw => (raw_A_01 ⟨d, a, b, 6, (t.code), pg⟩).trans (by
    show (fun f : FAR => ((match IntTy.ofCode f.t with | some t => .ok (.shl t f.d f.a f.b f.pg) | none => .error .reservedCode) : Except DecodeError Instr)) ⟨d, a, b, 6, (t.code), pg⟩ = _
    simp only [codes, beq_self_eq_true, Bool.and_self, Bool.and_true, Bool.true_and, if_true, Bool.not_false, reduceIte, ite_true])
theorem shr (t : IntTy) (d : GR) (a : GR) (b : GR) (pg : PR) : Statement (.shr t d a b pg) :=
  ofA (packAR 0x01 ⟨d, a, b, 7, (t.code), pg⟩) rfl rfl fun hw => (raw_A_01 ⟨d, a, b, 7, (t.code), pg⟩).trans (by
    show (fun f : FAR => ((match IntTy.ofCode f.t with | some t => .ok (.shr t f.d f.a f.b f.pg) | none => .error .reservedCode) : Except DecodeError Instr)) ⟨d, a, b, 7, (t.code), pg⟩ = _
    simp only [codes, beq_self_eq_true, Bool.and_self, Bool.and_true, Bool.true_and, if_true, Bool.not_false, reduceIte, ite_true])
theorem sra (t : IntTy) (d : GR) (a : GR) (b : GR) (pg : PR) : Statement (.sra t d a b pg) :=
  ofA (packAR 0x01 ⟨d, a, b, 8, (t.code), pg⟩) rfl rfl fun hw => (raw_A_01 ⟨d, a, b, 8, (t.code), pg⟩).trans (by
    show (fun f : FAR => ((match IntTy.ofCode f.t with | some t => .ok (.sra t f.d f.a f.b f.pg) | none => .error .reservedCode) : Except DecodeError Instr)) ⟨d, a, b, 8, (t.code), pg⟩ = _
    simp only [codes, beq_self_eq_true, Bool.and_self, Bool.and_true, Bool.true_and, if_true, Bool.not_false, reduceIte, ite_true])
theorem ror (t : IntTy) (d : GR) (a : GR) (b : GR) (pg : PR) : Statement (.ror t d a b pg) :=
  ofA (packAR 0x01 ⟨d, a, b, 9, (t.code), pg⟩) rfl rfl fun hw => (raw_A_01 ⟨d, a, b, 9, (t.code), pg⟩).trans (by
    show (fun f : FAR => ((match IntTy.ofCode f.t with | some t => .ok (.ror t f.d f.a f.b f.pg) | none => .error .reservedCode) : Except DecodeError Instr)) ⟨d, a, b, 9, (t.code), pg⟩ = _
    simp only [codes, beq_self_eq_true, Bool.and_self, Bool.and_true, Bool.true_and, if_true, Bool.not_false, reduceIte, ite_true])
theorem min (t : IntTy) (d : GR) (a : GR) (b : GR) (pg : PR) : Statement (.min t d a b pg) :=
  ofA (packAR 0x01 ⟨d, a, b, 10, (t.code), pg⟩) rfl rfl fun hw => (raw_A_01 ⟨d, a, b, 10, (t.code), pg⟩).trans (by
    show (fun f : FAR => ((match IntTy.ofCode f.t with | some t => .ok (.min t f.d f.a f.b f.pg) | none => .error .reservedCode) : Except DecodeError Instr)) ⟨d, a, b, 10, (t.code), pg⟩ = _
    simp only [codes, beq_self_eq_true, Bool.and_self, Bool.and_true, Bool.true_and, if_true, Bool.not_false, reduceIte, ite_true])
theorem max (t : IntTy) (d : GR) (a : GR) (b : GR) (pg : PR) : Statement (.max t d a b pg) :=
  ofA (packAR 0x01 ⟨d, a, b, 11, (t.code), pg⟩) rfl rfl fun hw => (raw_A_01 ⟨d, a, b, 11, (t.code), pg⟩).trans (by
    show (fun f : FAR => ((match IntTy.ofCode f.t with | some t => .ok (.max t f.d f.a f.b f.pg) | none => .error .reservedCode) : Except DecodeError Instr)) ⟨d, a, b, 11, (t.code), pg⟩ = _
    simp only [codes, beq_self_eq_true, Bool.and_self, Bool.and_true, Bool.true_and, if_true, Bool.not_false, reduceIte, ite_true])
theorem minu (t : IntTy) (d : GR) (a : GR) (b : GR) (pg : PR) : Statement (.minu t d a b pg) :=
  ofA (packAR 0x01 ⟨d, a, b, 12, (t.code), pg⟩) rfl rfl fun hw => (raw_A_01 ⟨d, a, b, 12, (t.code), pg⟩).trans (by
    show (fun f : FAR => ((match IntTy.ofCode f.t with | some t => .ok (.minu t f.d f.a f.b f.pg) | none => .error .reservedCode) : Except DecodeError Instr)) ⟨d, a, b, 12, (t.code), pg⟩ = _
    simp only [codes, beq_self_eq_true, Bool.and_self, Bool.and_true, Bool.true_and, if_true, Bool.not_false, reduceIte, ite_true])
theorem maxu (t : IntTy) (d : GR) (a : GR) (b : GR) (pg : PR) : Statement (.maxu t d a b pg) :=
  ofA (packAR 0x01 ⟨d, a, b, 13, (t.code), pg⟩) rfl rfl fun hw => (raw_A_01 ⟨d, a, b, 13, (t.code), pg⟩).trans (by
    show (fun f : FAR => ((match IntTy.ofCode f.t with | some t => .ok (.maxu t f.d f.a f.b f.pg) | none => .error .reservedCode) : Except DecodeError Instr)) ⟨d, a, b, 13, (t.code), pg⟩ = _
    simp only [codes, beq_self_eq_true, Bool.and_self, Bool.and_true, Bool.true_and, if_true, Bool.not_false, reduceIte, ite_true])
theorem mul (t : IntTy) (d : GR) (a : GR) (b : GR) (pg : PR) : Statement (.mul t d a b pg) :=
  ofA (packAR 0x01 ⟨d, a, b, 14, (t.code), pg⟩) rfl rfl fun hw => (raw_A_01 ⟨d, a, b, 14, (t.code), pg⟩).trans (by
    show (fun f : FAR => ((match IntTy.ofCode f.t with | some t => .ok (.mul t f.d f.a f.b f.pg) | none => .error .reservedCode) : Except DecodeError Instr)) ⟨d, a, b, 14, (t.code), pg⟩ = _
    simp only [codes, beq_self_eq_true, Bool.and_self, Bool.and_true, Bool.true_and, if_true, Bool.not_false, reduceIte, ite_true])
theorem mulh (t : IntTy) (d : GR) (a : GR) (b : GR) (pg : PR) : Statement (.mulh t d a b pg) :=
  ofA (packAR 0x01 ⟨d, a, b, 15, (t.code), pg⟩) rfl rfl fun hw => (raw_A_01 ⟨d, a, b, 15, (t.code), pg⟩).trans (by
    show (fun f : FAR => ((match IntTy.ofCode f.t with | some t => .ok (.mulh t f.d f.a f.b f.pg) | none => .error .reservedCode) : Except DecodeError Instr)) ⟨d, a, b, 15, (t.code), pg⟩ = _
    simp only [codes, beq_self_eq_true, Bool.and_self, Bool.and_true, Bool.true_and, if_true, Bool.not_false, reduceIte, ite_true])
theorem mulhu (t : IntTy) (d : GR) (a : GR) (b : GR) (pg : PR) : Statement (.mulhu t d a b pg) :=
  ofA (packAR 0x01 ⟨d, a, b, 16, (t.code), pg⟩) rfl rfl fun hw => (raw_A_01 ⟨d, a, b, 16, (t.code), pg⟩).trans (by
    show (fun f : FAR => ((match IntTy.ofCode f.t with | some t => .ok (.mulhu t f.d f.a f.b f.pg) | none => .error .reservedCode) : Except DecodeError Instr)) ⟨d, a, b, 16, (t.code), pg⟩ = _
    simp only [codes, beq_self_eq_true, Bool.and_self, Bool.and_true, Bool.true_and, if_true, Bool.not_false, reduceIte, ite_true])
theorem div (t : IntTy) (d : GR) (a : GR) (b : GR) (pg : PR) : Statement (.div t d a b pg) :=
  ofA (packAR 0x01 ⟨d, a, b, 17, (t.code), pg⟩) rfl rfl fun hw => (raw_A_01 ⟨d, a, b, 17, (t.code), pg⟩).trans (by
    show (fun f : FAR => ((match IntTy.ofCode f.t with | some t => .ok (.div t f.d f.a f.b f.pg) | none => .error .reservedCode) : Except DecodeError Instr)) ⟨d, a, b, 17, (t.code), pg⟩ = _
    simp only [codes, beq_self_eq_true, Bool.and_self, Bool.and_true, Bool.true_and, if_true, Bool.not_false, reduceIte, ite_true])
theorem divu (t : IntTy) (d : GR) (a : GR) (b : GR) (pg : PR) : Statement (.divu t d a b pg) :=
  ofA (packAR 0x01 ⟨d, a, b, 18, (t.code), pg⟩) rfl rfl fun hw => (raw_A_01 ⟨d, a, b, 18, (t.code), pg⟩).trans (by
    show (fun f : FAR => ((match IntTy.ofCode f.t with | some t => .ok (.divu t f.d f.a f.b f.pg) | none => .error .reservedCode) : Except DecodeError Instr)) ⟨d, a, b, 18, (t.code), pg⟩ = _
    simp only [codes, beq_self_eq_true, Bool.and_self, Bool.and_true, Bool.true_and, if_true, Bool.not_false, reduceIte, ite_true])
theorem rem (t : IntTy) (d : GR) (a : GR) (b : GR) (pg : PR) : Statement (.rem t d a b pg) :=
  ofA (packAR 0x01 ⟨d, a, b, 19, (t.code), pg⟩) rfl rfl fun hw => (raw_A_01 ⟨d, a, b, 19, (t.code), pg⟩).trans (by
    show (fun f : FAR => ((match IntTy.ofCode f.t with | some t => .ok (.rem t f.d f.a f.b f.pg) | none => .error .reservedCode) : Except DecodeError Instr)) ⟨d, a, b, 19, (t.code), pg⟩ = _
    simp only [codes, beq_self_eq_true, Bool.and_self, Bool.and_true, Bool.true_and, if_true, Bool.not_false, reduceIte, ite_true])
theorem remu (t : IntTy) (d : GR) (a : GR) (b : GR) (pg : PR) : Statement (.remu t d a b pg) :=
  ofA (packAR 0x01 ⟨d, a, b, 20, (t.code), pg⟩) rfl rfl fun hw => (raw_A_01 ⟨d, a, b, 20, (t.code), pg⟩).trans (by
    show (fun f : FAR => ((match IntTy.ofCode f.t with | some t => .ok (.remu t f.d f.a f.b f.pg) | none => .error .reservedCode) : Except DecodeError Instr)) ⟨d, a, b, 20, (t.code), pg⟩ = _
    simp only [codes, beq_self_eq_true, Bool.and_self, Bool.and_true, Bool.true_and, if_true, Bool.not_false, reduceIte, ite_true])
theorem clz (t : IntTy) (d : GR) (a : GR) (pg : PR) : Statement (.clz t d a pg) :=
  ofA (packAR 0x02 ⟨d, a, 0, 0, (t.code), pg⟩) rfl rfl fun hw => (raw_A_02 ⟨d, a, 0, 0, (t.code), pg⟩).trans (by
    show (fun f : FAR => (if f.b == 0 then (match IntTy.ofCode f.t with | some t => .ok (.clz t f.d f.a f.pg) | none => .error .reservedCode) else .error .reservedField : Except DecodeError Instr)) ⟨d, a, 0, 0, (t.code), pg⟩ = _
    simp only [codes, beq_self_eq_true, Bool.and_self, Bool.and_true, Bool.true_and, if_true, Bool.not_false, reduceIte, ite_true])
theorem ctz (t : IntTy) (d : GR) (a : GR) (pg : PR) : Statement (.ctz t d a pg) :=
  ofA (packAR 0x02 ⟨d, a, 0, 1, (t.code), pg⟩) rfl rfl fun hw => (raw_A_02 ⟨d, a, 0, 1, (t.code), pg⟩).trans (by
    show (fun f : FAR => (if f.b == 0 then (match IntTy.ofCode f.t with | some t => .ok (.ctz t f.d f.a f.pg) | none => .error .reservedCode) else .error .reservedField : Except DecodeError Instr)) ⟨d, a, 0, 1, (t.code), pg⟩ = _
    simp only [codes, beq_self_eq_true, Bool.and_self, Bool.and_true, Bool.true_and, if_true, Bool.not_false, reduceIte, ite_true])
theorem popc (t : IntTy) (d : GR) (a : GR) (pg : PR) : Statement (.popc t d a pg) :=
  ofA (packAR 0x02 ⟨d, a, 0, 2, (t.code), pg⟩) rfl rfl fun hw => (raw_A_02 ⟨d, a, 0, 2, (t.code), pg⟩).trans (by
    show (fun f : FAR => (if f.b == 0 then (match IntTy.ofCode f.t with | some t => .ok (.popc t f.d f.a f.pg) | none => .error .reservedCode) else .error .reservedField : Except DecodeError Instr)) ⟨d, a, 0, 2, (t.code), pg⟩ = _
    simp only [codes, beq_self_eq_true, Bool.and_self, Bool.and_true, Bool.true_and, if_true, Bool.not_false, reduceIte, ite_true])
theorem sext (sz : BHW) (d : GR) (a : GR) (pg : PR) : Statement (.sext sz d a pg) :=
  ofA (packAR 0x02 ⟨d, a, 0, 3, (sz.code), pg⟩) rfl rfl fun hw => (raw_A_02 ⟨d, a, 0, 3, (sz.code), pg⟩).trans (by
    show (fun f : FAR => (if f.b == 0 then (match BHW.ofCode f.t with | some sz => .ok (.sext sz f.d f.a f.pg) | none => .error .reservedCode) else .error .reservedField : Except DecodeError Instr)) ⟨d, a, 0, 3, (sz.code), pg⟩ = _
    simp only [codes, beq_self_eq_true, Bool.and_self, Bool.and_true, Bool.true_and, if_true, Bool.not_false, reduceIte, ite_true])
theorem zext (sz : BHW) (d : GR) (a : GR) (pg : PR) : Statement (.zext sz d a pg) :=
  ofA (packAR 0x02 ⟨d, a, 0, 4, (sz.code), pg⟩) rfl rfl fun hw => (raw_A_02 ⟨d, a, 0, 4, (sz.code), pg⟩).trans (by
    show (fun f : FAR => (if f.b == 0 then (match BHW.ofCode f.t with | some sz => .ok (.zext sz f.d f.a f.pg) | none => .error .reservedCode) else .error .reservedField : Except DecodeError Instr)) ⟨d, a, 0, 4, (sz.code), pg⟩ = _
    simp only [codes, beq_self_eq_true, Bool.and_self, Bool.and_true, Bool.true_and, if_true, Bool.not_false, reduceIte, ite_true])
theorem bfx (d : GR) (a : GR) (b : GR) (pg : PR) : Statement (.bfx d a b pg) :=
  ofA (packAR 0x02 ⟨d, a, b, 5, 0, pg⟩) rfl rfl fun hw => (raw_A_02 ⟨d, a, b, 5, 0, pg⟩).trans (by
    show (fun f : FAR => (if f.t == 0 then .ok (.bfx f.d f.a f.b f.pg) else .error .reservedField : Except DecodeError Instr)) ⟨d, a, b, 5, 0, pg⟩ = _
    simp only [beq_self_eq_true, Bool.and_self, Bool.and_true, Bool.true_and, if_true, Bool.not_false, reduceIte, ite_true])
theorem bfxu (d : GR) (a : GR) (b : GR) (pg : PR) : Statement (.bfxu d a b pg) :=
  ofA (packAR 0x02 ⟨d, a, b, 6, 0, pg⟩) rfl rfl fun hw => (raw_A_02 ⟨d, a, b, 6, 0, pg⟩).trans (by
    show (fun f : FAR => (if f.t == 0 then .ok (.bfxu f.d f.a f.b f.pg) else .error .reservedField : Except DecodeError Instr)) ⟨d, a, b, 6, 0, pg⟩ = _
    simp only [beq_self_eq_true, Bool.and_self, Bool.and_true, Bool.true_and, if_true, Bool.not_false, reduceIte, ite_true])
theorem bfi (d : GR) (a : GR) (b : GR) (pg : PR) : Statement (.bfi d a b pg) :=
  ofA (packAR 0x02 ⟨d, a, b, 7, 0, pg⟩) rfl rfl fun hw => (raw_A_02 ⟨d, a, b, 7, 0, pg⟩).trans (by
    show (fun f : FAR => (if f.t == 0 then .ok (.bfi f.d f.a f.b f.pg) else .error .reservedField : Except DecodeError Instr)) ⟨d, a, b, 7, 0, pg⟩ = _
    simp only [beq_self_eq_true, Bool.and_self, Bool.and_true, Bool.true_and, if_true, Bool.not_false, reduceIte, ite_true])
theorem cmpeq (t : IntTy) (d : PR) (a : GR) (b : GR) (pg : PR) : Statement (.cmpeq t d a b pg) :=
  ofA (packAR 0x03 ⟨(d.setWidth 5), a, b, 0, (t.code), pg⟩) rfl rfl fun hw => (raw_A_03 ⟨(d.setWidth 5), a, b, 0, (t.code), pg⟩).trans (by
    show (fun f : FAR => ((match IntTy.ofCode f.t with | some t => (match low3 f.d with | some d => .ok (.cmpeq t d f.a f.b f.pg) | none => .error .reservedCode) | none => .error .reservedCode) : Except DecodeError Instr)) ⟨(d.setWidth 5), a, b, 0, (t.code), pg⟩ = _
    simp only [codes, low3_setWidth, low4_setWidth, beq_self_eq_true, Bool.and_self, Bool.and_true, Bool.true_and, if_true, Bool.not_false, reduceIte, ite_true])
theorem cmpne (t : IntTy) (d : PR) (a : GR) (b : GR) (pg : PR) : Statement (.cmpne t d a b pg) :=
  ofA (packAR 0x03 ⟨(d.setWidth 5), a, b, 1, (t.code), pg⟩) rfl rfl fun hw => (raw_A_03 ⟨(d.setWidth 5), a, b, 1, (t.code), pg⟩).trans (by
    show (fun f : FAR => ((match IntTy.ofCode f.t with | some t => (match low3 f.d with | some d => .ok (.cmpne t d f.a f.b f.pg) | none => .error .reservedCode) | none => .error .reservedCode) : Except DecodeError Instr)) ⟨(d.setWidth 5), a, b, 1, (t.code), pg⟩ = _
    simp only [codes, low3_setWidth, low4_setWidth, beq_self_eq_true, Bool.and_self, Bool.and_true, Bool.true_and, if_true, Bool.not_false, reduceIte, ite_true])
theorem cmplt (t : IntTy) (d : PR) (a : GR) (b : GR) (pg : PR) : Statement (.cmplt t d a b pg) :=
  ofA (packAR 0x03 ⟨(d.setWidth 5), a, b, 2, (t.code), pg⟩) rfl rfl fun hw => (raw_A_03 ⟨(d.setWidth 5), a, b, 2, (t.code), pg⟩).trans (by
    show (fun f : FAR => ((match IntTy.ofCode f.t with | some t => (match low3 f.d with | some d => .ok (.cmplt t d f.a f.b f.pg) | none => .error .reservedCode) | none => .error .reservedCode) : Except DecodeError Instr)) ⟨(d.setWidth 5), a, b, 2, (t.code), pg⟩ = _
    simp only [codes, low3_setWidth, low4_setWidth, beq_self_eq_true, Bool.and_self, Bool.and_true, Bool.true_and, if_true, Bool.not_false, reduceIte, ite_true])
theorem cmple (t : IntTy) (d : PR) (a : GR) (b : GR) (pg : PR) : Statement (.cmple t d a b pg) :=
  ofA (packAR 0x03 ⟨(d.setWidth 5), a, b, 3, (t.code), pg⟩) rfl rfl fun hw => (raw_A_03 ⟨(d.setWidth 5), a, b, 3, (t.code), pg⟩).trans (by
    show (fun f : FAR => ((match IntTy.ofCode f.t with | some t => (match low3 f.d with | some d => .ok (.cmple t d f.a f.b f.pg) | none => .error .reservedCode) | none => .error .reservedCode) : Except DecodeError Instr)) ⟨(d.setWidth 5), a, b, 3, (t.code), pg⟩ = _
    simp only [codes, low3_setWidth, low4_setWidth, beq_self_eq_true, Bool.and_self, Bool.and_true, Bool.true_and, if_true, Bool.not_false, reduceIte, ite_true])
theorem cmpltu (t : IntTy) (d : PR) (a : GR) (b : GR) (pg : PR) : Statement (.cmpltu t d a b pg) :=
  ofA (packAR 0x03 ⟨(d.setWidth 5), a, b, 4, (t.code), pg⟩) rfl rfl fun hw => (raw_A_03 ⟨(d.setWidth 5), a, b, 4, (t.code), pg⟩).trans (by
    show (fun f : FAR => ((match IntTy.ofCode f.t with | some t => (match low3 f.d with | some d => .ok (.cmpltu t d f.a f.b f.pg) | none => .error .reservedCode) | none => .error .reservedCode) : Except DecodeError Instr)) ⟨(d.setWidth 5), a, b, 4, (t.code), pg⟩ = _
    simp only [codes, low3_setWidth, low4_setWidth, beq_self_eq_true, Bool.and_self, Bool.and_true, Bool.true_and, if_true, Bool.not_false, reduceIte, ite_true])
theorem cmpleu (t : IntTy) (d : PR) (a : GR) (b : GR) (pg : PR) : Statement (.cmpleu t d a b pg) :=
  ofA (packAR 0x03 ⟨(d.setWidth 5), a, b, 5, (t.code), pg⟩) rfl rfl fun hw => (raw_A_03 ⟨(d.setWidth 5), a, b, 5, (t.code), pg⟩).trans (by
    show (fun f : FAR => ((match IntTy.ofCode f.t with | some t => (match low3 f.d with | some d => .ok (.cmpleu t d f.a f.b f.pg) | none => .error .reservedCode) | none => .error .reservedCode) : Except DecodeError Instr)) ⟨(d.setWidth 5), a, b, 5, (t.code), pg⟩ = _
    simp only [codes, low3_setWidth, low4_setWidth, beq_self_eq_true, Bool.and_self, Bool.and_true, Bool.true_and, if_true, Bool.not_false, reduceIte, ite_true])
theorem pand (d : PR) (a : PR) (b : PR) (pg : PR) : Statement (.pand d a b pg) :=
  ofA (packAR 0x03 ⟨(d.setWidth 5), (a.setWidth 5), (b.setWidth 5), 8, 0, pg⟩) rfl rfl fun hw => (raw_A_03 ⟨(d.setWidth 5), (a.setWidth 5), (b.setWidth 5), 8, 0, pg⟩).trans (by
    show (fun f : FAR => (if f.t == 0 then (match low3 f.d with | some d => (match low3 f.a with | some a => (match low3 f.b with | some b => .ok (.pand d a b f.pg) | none => .error .reservedCode) | none => .error .reservedCode) | none => .error .reservedCode) else .error .reservedField : Except DecodeError Instr)) ⟨(d.setWidth 5), (a.setWidth 5), (b.setWidth 5), 8, 0, pg⟩ = _
    simp only [low3_setWidth, low4_setWidth, beq_self_eq_true, Bool.and_self, Bool.and_true, Bool.true_and, if_true, Bool.not_false, reduceIte, ite_true])
theorem por (d : PR) (a : PR) (b : PR) (pg : PR) : Statement (.por d a b pg) :=
  ofA (packAR 0x03 ⟨(d.setWidth 5), (a.setWidth 5), (b.setWidth 5), 9, 0, pg⟩) rfl rfl fun hw => (raw_A_03 ⟨(d.setWidth 5), (a.setWidth 5), (b.setWidth 5), 9, 0, pg⟩).trans (by
    show (fun f : FAR => (if f.t == 0 then (match low3 f.d with | some d => (match low3 f.a with | some a => (match low3 f.b with | some b => .ok (.por d a b f.pg) | none => .error .reservedCode) | none => .error .reservedCode) | none => .error .reservedCode) else .error .reservedField : Except DecodeError Instr)) ⟨(d.setWidth 5), (a.setWidth 5), (b.setWidth 5), 9, 0, pg⟩ = _
    simp only [low3_setWidth, low4_setWidth, beq_self_eq_true, Bool.and_self, Bool.and_true, Bool.true_and, if_true, Bool.not_false, reduceIte, ite_true])
theorem pxor (d : PR) (a : PR) (b : PR) (pg : PR) : Statement (.pxor d a b pg) :=
  ofA (packAR 0x03 ⟨(d.setWidth 5), (a.setWidth 5), (b.setWidth 5), 10, 0, pg⟩) rfl rfl fun hw => (raw_A_03 ⟨(d.setWidth 5), (a.setWidth 5), (b.setWidth 5), 10, 0, pg⟩).trans (by
    show (fun f : FAR => (if f.t == 0 then (match low3 f.d with | some d => (match low3 f.a with | some a => (match low3 f.b with | some b => .ok (.pxor d a b f.pg) | none => .error .reservedCode) | none => .error .reservedCode) | none => .error .reservedCode) else .error .reservedField : Except DecodeError Instr)) ⟨(d.setWidth 5), (a.setWidth 5), (b.setWidth 5), 10, 0, pg⟩ = _
    simp only [low3_setWidth, low4_setWidth, beq_self_eq_true, Bool.and_self, Bool.and_true, Bool.true_and, if_true, Bool.not_false, reduceIte, ite_true])
theorem pandn (d : PR) (a : PR) (b : PR) (pg : PR) : Statement (.pandn d a b pg) :=
  ofA (packAR 0x03 ⟨(d.setWidth 5), (a.setWidth 5), (b.setWidth 5), 11, 0, pg⟩) rfl rfl fun hw => (raw_A_03 ⟨(d.setWidth 5), (a.setWidth 5), (b.setWidth 5), 11, 0, pg⟩).trans (by
    show (fun f : FAR => (if f.t == 0 then (match low3 f.d with | some d => (match low3 f.a with | some a => (match low3 f.b with | some b => .ok (.pandn d a b f.pg) | none => .error .reservedCode) | none => .error .reservedCode) | none => .error .reservedCode) else .error .reservedField : Except DecodeError Instr)) ⟨(d.setWidth 5), (a.setWidth 5), (b.setWidth 5), 11, 0, pg⟩ = _
    simp only [low3_setWidth, low4_setWidth, beq_self_eq_true, Bool.and_self, Bool.and_true, Bool.true_and, if_true, Bool.not_false, reduceIte, ite_true])
theorem pnot (d : PR) (a : PR) (pg : PR) : Statement (.pnot d a pg) :=
  ofA (packAR 0x03 ⟨(d.setWidth 5), (a.setWidth 5), 0, 12, 0, pg⟩) rfl rfl fun hw => (raw_A_03 ⟨(d.setWidth 5), (a.setWidth 5), 0, 12, 0, pg⟩).trans (by
    show (fun f : FAR => (if f.b == 0 && f.t == 0 then (match low3 f.d with | some d => (match low3 f.a with | some a => .ok (.pnot d a f.pg) | none => .error .reservedCode) | none => .error .reservedCode) else .error .reservedField : Except DecodeError Instr)) ⟨(d.setWidth 5), (a.setWidth 5), 0, 12, 0, pg⟩ = _
    simp only [low3_setWidth, low4_setWidth, beq_self_eq_true, Bool.and_self, Bool.and_true, Bool.true_and, if_true, Bool.not_false, reduceIte, ite_true])
theorem prd (d : GR) (pg : PR) : Statement (.prd d pg) :=
  ofA (packAR 0x03 ⟨d, 0, 0, 14, 0, pg⟩) rfl rfl fun hw => (raw_A_03 ⟨d, 0, 0, 14, 0, pg⟩).trans (by
    show (fun f : FAR => (if f.a == 0 && f.b == 0 && f.t == 0 then .ok (.prd f.d f.pg) else .error .reservedField : Except DecodeError Instr)) ⟨d, 0, 0, 14, 0, pg⟩ = _
    simp only [beq_self_eq_true, Bool.and_self, Bool.and_true, Bool.true_and, if_true, Bool.not_false, reduceIte, ite_true])
theorem pwr (a : GR) (pg : PR) : Statement (.pwr a pg) :=
  ofA (packAR 0x03 ⟨0, a, 0, 15, 0, pg⟩) rfl rfl fun hw => (raw_A_03 ⟨0, a, 0, 15, 0, pg⟩).trans (by
    show (fun f : FAR => (if f.d == 0 && f.b == 0 && f.t == 0 then .ok (.pwr f.a f.pg) else .error .reservedField : Except DecodeError Instr)) ⟨0, a, 0, 15, 0, pg⟩ = _
    simp only [beq_self_eq_true, Bool.and_self, Bool.and_true, Bool.true_and, if_true, Bool.not_false, reduceIte, ite_true])
theorem addi (d : GR) (a : GR) (imm : Imm13) (pg : PR) : Statement (.addi d a imm pg) :=
  ofA (packAI 0x04 ⟨d, a, imm, pg⟩) rfl rfl fun hw => (raw_A_04 ⟨d, a, imm, pg⟩).trans (by
    show (fun f : FAI => (.ok (.addi f.d f.a f.imm f.pg) : Except DecodeError Instr)) ⟨d, a, imm, pg⟩ = _
    simp only [beq_self_eq_true, Bool.and_self, Bool.and_true, Bool.true_and, if_true, Bool.not_false, reduceIte, ite_true])
theorem andi (d : GR) (a : GR) (imm : Imm13) (pg : PR) : Statement (.andi d a imm pg) :=
  ofA (packAI 0x05 ⟨d, a, imm, pg⟩) rfl rfl fun hw => (raw_A_05 ⟨d, a, imm, pg⟩).trans (by
    show (fun f : FAI => (.ok (.andi f.d f.a f.imm f.pg) : Except DecodeError Instr)) ⟨d, a, imm, pg⟩ = _
    simp only [beq_self_eq_true, Bool.and_self, Bool.and_true, Bool.true_and, if_true, Bool.not_false, reduceIte, ite_true])
theorem ori (d : GR) (a : GR) (imm : Imm13) (pg : PR) : Statement (.ori d a imm pg) :=
  ofA (packAI 0x06 ⟨d, a, imm, pg⟩) rfl rfl fun hw => (raw_A_06 ⟨d, a, imm, pg⟩).trans (by
    show (fun f : FAI => (.ok (.ori f.d f.a f.imm f.pg) : Except DecodeError Instr)) ⟨d, a, imm, pg⟩ = _
    simp only [beq_self_eq_true, Bool.and_self, Bool.and_true, Bool.true_and, if_true, Bool.not_false, reduceIte, ite_true])
theorem xori (d : GR) (a : GR) (imm : Imm13) (pg : PR) : Statement (.xori d a imm pg) :=
  ofA (packAI 0x07 ⟨d, a, imm, pg⟩) rfl rfl fun hw => (raw_A_07 ⟨d, a, imm, pg⟩).trans (by
    show (fun f : FAI => (.ok (.xori f.d f.a f.imm f.pg) : Except DecodeError Instr)) ⟨d, a, imm, pg⟩ = _
    simp only [beq_self_eq_true, Bool.and_self, Bool.and_true, Bool.true_and, if_true, Bool.not_false, reduceIte, ite_true])
theorem shli (d : GR) (a : GR) (sh : BV6) (pg : PR) : Statement (.shli d a sh pg) :=
  ofA (packAI 0x08 ⟨d, a, (shImm 0 sh), pg⟩) rfl rfl fun hw => (raw_A_08 ⟨d, a, (shImm 0 sh), pg⟩).trans (by
    simp only [decShImm, shImm_fields, beq_self_eq_true]; rfl)
theorem shri (d : GR) (a : GR) (sh : BV6) (pg : PR) : Statement (.shri d a sh pg) :=
  ofA (packAI 0x08 ⟨d, a, (shImm 1 sh), pg⟩) rfl rfl fun hw => (raw_A_08 ⟨d, a, (shImm 1 sh), pg⟩).trans (by
    simp only [decShImm, shImm_fields, beq_self_eq_true]; rfl)
theorem srai (d : GR) (a : GR) (sh : BV6) (pg : PR) : Statement (.srai d a sh pg) :=
  ofA (packAI 0x08 ⟨d, a, (shImm 2 sh), pg⟩) rfl rfl fun hw => (raw_A_08 ⟨d, a, (shImm 2 sh), pg⟩).trans (by
    simp only [decShImm, shImm_fields, beq_self_eq_true]; rfl)
theorem rori (d : GR) (a : GR) (sh : BV6) (pg : PR) : Statement (.rori d a sh pg) :=
  ofA (packAI 0x08 ⟨d, a, (shImm 3 sh), pg⟩) rfl rfl fun hw => (raw_A_08 ⟨d, a, (shImm 3 sh), pg⟩).trans (by
    simp only [decShImm, shImm_fields, beq_self_eq_true]; rfl)
theorem movi (d : GR) (imm : Imm13) (pg : PR) : Statement (.movi d imm pg) :=
  ofA (packAI 0x09 ⟨d, 0, imm, pg⟩) rfl rfl fun hw => (raw_A_09 ⟨d, 0, imm, pg⟩).trans (by
    rfl)
theorem movh (d : GR) (k : BV3) (imm : Imm13) (pg : PR) : Statement (.movh d k imm pg) :=
  ofA (packAI 0x09 ⟨d, (k.setWidth 5), imm, pg⟩) rfl rfl fun hw => (raw_A_09 ⟨d, (k.setWidth 5), imm, pg⟩).trans (by
    have hk : ((k.setWidth 5 : BitVec 5) == 0) = false := movh_k hw
    simp only [decMovImm, hk, low3_setWidth]; rfl)
theorem lea (d : GR) (a : GR) (b : GR) (sh : BV3) (pg : PR) : Statement (.lea d a b sh pg) :=
  ofA (packAR 0x0A ⟨d, a, b, 0, sh, pg⟩) rfl rfl fun hw => (raw_A_0A ⟨d, a, b, 0, sh, pg⟩).trans (by
    show (fun f : FAR => (.ok (.lea f.d f.a f.b f.t f.pg) : Except DecodeError Instr)) ⟨d, a, b, 0, sh, pg⟩ = _
    simp only [beq_self_eq_true, Bool.and_self, Bool.and_true, Bool.true_and, if_true, Bool.not_false, reduceIte, ite_true])
theorem cvta (d : GR) (a : GR) (pg : PR) : Statement (.cvta d a pg) :=
  ofA (packAR 0x0A ⟨d, a, 0, 1, 0, pg⟩) rfl rfl fun hw => (raw_A_0A ⟨d, a, 0, 1, 0, pg⟩).trans (by
    show (fun f : FAR => (if f.b == 0 && f.t == 0 then .ok (.cvta f.d f.a f.pg) else .error .reservedField : Except DecodeError Instr)) ⟨d, a, 0, 1, 0, pg⟩ = _
    simp only [beq_self_eq_true, Bool.and_self, Bool.and_true, Bool.true_and, if_true, Bool.not_false, reduceIte, ite_true])
theorem sel (d : GR) (q : PR) (a : GR) (b : GR) (pg : PR) : Statement (.sel d q a b pg) :=
  ofA (packAR 0x0A ⟨d, a, b, 2, q, pg⟩) rfl rfl fun hw => (raw_A_0A ⟨d, a, b, 2, q, pg⟩).trans (by
    show (fun f : FAR => (.ok (.sel f.d f.t f.a f.b f.pg) : Except DecodeError Instr)) ⟨d, a, b, 2, q, pg⟩ = _
    simp only [beq_self_eq_true, Bool.and_self, Bool.and_true, Bool.true_and, if_true, Bool.not_false, reduceIte, ite_true])
theorem mov (d : GR) (a : GR) (pg : PR) : Statement (.mov d a pg) :=
  ofA (packAR 0x0A ⟨d, a, 0, 3, 0, pg⟩) rfl rfl fun hw => (raw_A_0A ⟨d, a, 0, 3, 0, pg⟩).trans (by
    show (fun f : FAR => (if f.b == 0 && f.t == 0 then .ok (.mov f.d f.a f.pg) else .error .reservedField : Except DecodeError Instr)) ⟨d, a, 0, 3, 0, pg⟩ = _
    simp only [beq_self_eq_true, Bool.and_self, Bool.and_true, Bool.true_and, if_true, Bool.not_false, reduceIte, ite_true])
theorem fadd (t : FTy) (d : GR) (a : GR) (b : GR) (pg : PR) : Statement (.fadd t d a b pg) :=
  ofA (packAR 0x0B ⟨d, a, b, 0, (t.code), pg⟩) rfl rfl fun hw => (raw_A_0B ⟨d, a, b, 0, (t.code), pg⟩).trans (by
    show (fun f : FAR => (.ok (.fadd (FTy.ofCode f.t) f.d f.a f.b f.pg) : Except DecodeError Instr)) ⟨d, a, b, 0, (t.code), pg⟩ = _
    simp only [codes, beq_self_eq_true, Bool.and_self, Bool.and_true, Bool.true_and, if_true, Bool.not_false, reduceIte, ite_true])
theorem fsub (t : FTy) (d : GR) (a : GR) (b : GR) (pg : PR) : Statement (.fsub t d a b pg) :=
  ofA (packAR 0x0B ⟨d, a, b, 1, (t.code), pg⟩) rfl rfl fun hw => (raw_A_0B ⟨d, a, b, 1, (t.code), pg⟩).trans (by
    show (fun f : FAR => (.ok (.fsub (FTy.ofCode f.t) f.d f.a f.b f.pg) : Except DecodeError Instr)) ⟨d, a, b, 1, (t.code), pg⟩ = _
    simp only [codes, beq_self_eq_true, Bool.and_self, Bool.and_true, Bool.true_and, if_true, Bool.not_false, reduceIte, ite_true])
theorem fmul (t : FTy) (d : GR) (a : GR) (b : GR) (pg : PR) : Statement (.fmul t d a b pg) :=
  ofA (packAR 0x0B ⟨d, a, b, 2, (t.code), pg⟩) rfl rfl fun hw => (raw_A_0B ⟨d, a, b, 2, (t.code), pg⟩).trans (by
    show (fun f : FAR => (.ok (.fmul (FTy.ofCode f.t) f.d f.a f.b f.pg) : Except DecodeError Instr)) ⟨d, a, b, 2, (t.code), pg⟩ = _
    simp only [codes, beq_self_eq_true, Bool.and_self, Bool.and_true, Bool.true_and, if_true, Bool.not_false, reduceIte, ite_true])
theorem fdiv (t : FTy) (d : GR) (a : GR) (b : GR) (pg : PR) : Statement (.fdiv t d a b pg) :=
  ofA (packAR 0x0B ⟨d, a, b, 3, (t.code), pg⟩) rfl rfl fun hw => (raw_A_0B ⟨d, a, b, 3, (t.code), pg⟩).trans (by
    show (fun f : FAR => (.ok (.fdiv (FTy.ofCode f.t) f.d f.a f.b f.pg) : Except DecodeError Instr)) ⟨d, a, b, 3, (t.code), pg⟩ = _
    simp only [codes, beq_self_eq_true, Bool.and_self, Bool.and_true, Bool.true_and, if_true, Bool.not_false, reduceIte, ite_true])
theorem fsqrt (t : FTy) (d : GR) (a : GR) (pg : PR) : Statement (.fsqrt t d a pg) :=
  ofA (packAR 0x0B ⟨d, a, 0, 4, (t.code), pg⟩) rfl rfl fun hw => (raw_A_0B ⟨d, a, 0, 4, (t.code), pg⟩).trans (by
    show (fun f : FAR => (if f.b == 0 then .ok (.fsqrt (FTy.ofCode f.t) f.d f.a f.pg) else .error .reservedField : Except DecodeError Instr)) ⟨d, a, 0, 4, (t.code), pg⟩ = _
    simp only [codes, beq_self_eq_true, Bool.and_self, Bool.and_true, Bool.true_and, if_true, Bool.not_false, reduceIte, ite_true])
theorem ffma (t : FTy) (d : GR) (a : GR) (b : GR) (c : GR) (pg : PR) : Statement (.ffma t d a b c pg) :=
  ofA (packAR 0x0C ⟨d, a, b, c, (t.code), pg⟩) rfl rfl fun hw => (raw_A_0C ⟨d, a, b, c, (t.code), pg⟩).trans (by
    show (fun f : FAR => (.ok (.ffma (FTy.ofCode f.t) f.d f.a f.b f.c f.pg) : Except DecodeError Instr)) ⟨d, a, b, c, (t.code), pg⟩ = _
    simp only [codes, beq_self_eq_true, Bool.and_self, Bool.and_true, Bool.true_and, if_true, Bool.not_false, reduceIte, ite_true])
theorem fmin (t : FTy) (d : GR) (a : GR) (b : GR) (pg : PR) : Statement (.fmin t d a b pg) :=
  ofA (packAR 0x0B ⟨d, a, b, 5, (t.code), pg⟩) rfl rfl fun hw => (raw_A_0B ⟨d, a, b, 5, (t.code), pg⟩).trans (by
    show (fun f : FAR => (.ok (.fmin (FTy.ofCode f.t) f.d f.a f.b f.pg) : Except DecodeError Instr)) ⟨d, a, b, 5, (t.code), pg⟩ = _
    simp only [codes, beq_self_eq_true, Bool.and_self, Bool.and_true, Bool.true_and, if_true, Bool.not_false, reduceIte, ite_true])
theorem fmax (t : FTy) (d : GR) (a : GR) (b : GR) (pg : PR) : Statement (.fmax t d a b pg) :=
  ofA (packAR 0x0B ⟨d, a, b, 6, (t.code), pg⟩) rfl rfl fun hw => (raw_A_0B ⟨d, a, b, 6, (t.code), pg⟩).trans (by
    show (fun f : FAR => (.ok (.fmax (FTy.ofCode f.t) f.d f.a f.b f.pg) : Except DecodeError Instr)) ⟨d, a, b, 6, (t.code), pg⟩ = _
    simp only [codes, beq_self_eq_true, Bool.and_self, Bool.and_true, Bool.true_and, if_true, Bool.not_false, reduceIte, ite_true])
theorem fneg (d : GR) (a : GR) (pg : PR) : Statement (.fneg d a pg) :=
  ofA (packAR 0x0E ⟨d, a, 0, 0, 0, pg⟩) rfl rfl fun hw => (raw_A_0E ⟨d, a, 0, 0, 0, pg⟩).trans (by
    show (fun f : FAR => (if f.b == 0 && f.t == 0 then .ok (.fneg f.d f.a f.pg) else .error .reservedField : Except DecodeError Instr)) ⟨d, a, 0, 0, 0, pg⟩ = _
    simp only [beq_self_eq_true, Bool.and_self, Bool.and_true, Bool.true_and, if_true, Bool.not_false, reduceIte, ite_true])
theorem fabs (d : GR) (a : GR) (pg : PR) : Statement (.fabs d a pg) :=
  ofA (packAR 0x0E ⟨d, a, 0, 1, 0, pg⟩) rfl rfl fun hw => (raw_A_0E ⟨d, a, 0, 1, 0, pg⟩).trans (by
    show (fun f : FAR => (if f.b == 0 && f.t == 0 then .ok (.fabs f.d f.a f.pg) else .error .reservedField : Except DecodeError Instr)) ⟨d, a, 0, 1, 0, pg⟩ = _
    simp only [beq_self_eq_true, Bool.and_self, Bool.and_true, Bool.true_and, if_true, Bool.not_false, reduceIte, ite_true])
theorem fcmpeq (d : PR) (a : GR) (b : GR) (pg : PR) : Statement (.fcmpeq d a b pg) :=
  ofA (packAR 0x0D ⟨(d.setWidth 5), a, b, 0, 0, pg⟩) rfl rfl fun hw => (raw_A_0D ⟨(d.setWidth 5), a, b, 0, 0, pg⟩).trans (by
    show (fun f : FAR => (if f.t == 0 then (match low3 f.d with | some d => .ok (.fcmpeq d f.a f.b f.pg) | none => .error .reservedCode) else .error .reservedField : Except DecodeError Instr)) ⟨(d.setWidth 5), a, b, 0, 0, pg⟩ = _
    simp only [low3_setWidth, low4_setWidth, beq_self_eq_true, Bool.and_self, Bool.and_true, Bool.true_and, if_true, Bool.not_false, reduceIte, ite_true])
theorem fcmplt (d : PR) (a : GR) (b : GR) (pg : PR) : Statement (.fcmplt d a b pg) :=
  ofA (packAR 0x0D ⟨(d.setWidth 5), a, b, 1, 0, pg⟩) rfl rfl fun hw => (raw_A_0D ⟨(d.setWidth 5), a, b, 1, 0, pg⟩).trans (by
    show (fun f : FAR => (if f.t == 0 then (match low3 f.d with | some d => .ok (.fcmplt d f.a f.b f.pg) | none => .error .reservedCode) else .error .reservedField : Except DecodeError Instr)) ⟨(d.setWidth 5), a, b, 1, 0, pg⟩ = _
    simp only [low3_setWidth, low4_setWidth, beq_self_eq_true, Bool.and_self, Bool.and_true, Bool.true_and, if_true, Bool.not_false, reduceIte, ite_true])
theorem fcmple (d : PR) (a : GR) (b : GR) (pg : PR) : Statement (.fcmple d a b pg) :=
  ofA (packAR 0x0D ⟨(d.setWidth 5), a, b, 2, 0, pg⟩) rfl rfl fun hw => (raw_A_0D ⟨(d.setWidth 5), a, b, 2, 0, pg⟩).trans (by
    show (fun f : FAR => (if f.t == 0 then (match low3 f.d with | some d => .ok (.fcmple d f.a f.b f.pg) | none => .error .reservedCode) else .error .reservedField : Except DecodeError Instr)) ⟨(d.setWidth 5), a, b, 2, 0, pg⟩ = _
    simp only [low3_setWidth, low4_setWidth, beq_self_eq_true, Bool.and_self, Bool.and_true, Bool.true_and, if_true, Bool.not_false, reduceIte, ite_true])
theorem fcmpun (d : PR) (a : GR) (b : GR) (pg : PR) : Statement (.fcmpun d a b pg) :=
  ofA (packAR 0x0D ⟨(d.setWidth 5), a, b, 3, 0, pg⟩) rfl rfl fun hw => (raw_A_0D ⟨(d.setWidth 5), a, b, 3, 0, pg⟩).trans (by
    show (fun f : FAR => (if f.t == 0 then (match low3 f.d with | some d => .ok (.fcmpun d f.a f.b f.pg) | none => .error .reservedCode) else .error .reservedField : Except DecodeError Instr)) ⟨(d.setWidth 5), a, b, 3, 0, pg⟩ = _
    simp only [low3_setWidth, low4_setWidth, beq_self_eq_true, Bool.and_self, Bool.and_true, Bool.true_and, if_true, Bool.not_false, reduceIte, ite_true])
theorem fclass (d : GR) (a : GR) (pg : PR) : Statement (.fclass d a pg) :=
  ofA (packAR 0x0D ⟨d, a, 0, 4, 0, pg⟩) rfl rfl fun hw => (raw_A_0D ⟨d, a, 0, 4, 0, pg⟩).trans (by
    show (fun f : FAR => (if f.b == 0 && f.t == 0 then .ok (.fclass f.d f.a f.pg) else .error .reservedField : Except DecodeError Instr)) ⟨d, a, 0, 4, 0, pg⟩ = _
    simp only [beq_self_eq_true, Bool.and_self, Bool.and_true, Bool.true_and, if_true, Bool.not_false, reduceIte, ite_true])
theorem fcvt (t : FTy) (d : GR) (a : GR) (pg : PR) : Statement (.fcvt t d a pg) :=
  ofA (packAR 0x0E ⟨d, a, 0, 2, (t.code), pg⟩) rfl rfl fun hw => (raw_A_0E ⟨d, a, 0, 2, (t.code), pg⟩).trans (by
    show (fun f : FAR => (if f.b == 0 then .ok (.fcvt (FTy.ofCode f.t) f.d f.a f.pg) else .error .reservedField : Except DecodeError Instr)) ⟨d, a, 0, 2, (t.code), pg⟩ = _
    simp only [codes, beq_self_eq_true, Bool.and_self, Bool.and_true, Bool.true_and, if_true, Bool.not_false, reduceIte, ite_true])
theorem fcvtif (t : FTy) (d : GR) (a : GR) (pg : PR) : Statement (.fcvtif t d a pg) :=
  ofA (packAR 0x0E ⟨d, a, 0, 3, (t.code), pg⟩) rfl rfl fun hw => (raw_A_0E ⟨d, a, 0, 3, (t.code), pg⟩).trans (by
    show (fun f : FAR => (if f.b == 0 then .ok (.fcvtif (FTy.ofCode f.t) f.d f.a f.pg) else .error .reservedField : Except DecodeError Instr)) ⟨d, a, 0, 3, (t.code), pg⟩ = _
    simp only [codes, beq_self_eq_true, Bool.and_self, Bool.and_true, Bool.true_and, if_true, Bool.not_false, reduceIte, ite_true])
theorem fcvtfi (d : GR) (a : GR) (pg : PR) : Statement (.fcvtfi d a pg) :=
  ofA (packAR 0x0E ⟨d, a, 0, 4, 0, pg⟩) rfl rfl fun hw => (raw_A_0E ⟨d, a, 0, 4, 0, pg⟩).trans (by
    show (fun f : FAR => (if f.b == 0 && f.t == 0 then .ok (.fcvtfi f.d f.a f.pg) else .error .reservedField : Except DecodeError Instr)) ⟨d, a, 0, 4, 0, pg⟩ = _
    simp only [beq_self_eq_true, Bool.and_self, Bool.and_true, Bool.true_and, if_true, Bool.not_false, reduceIte, ite_true])
theorem fstk (d : GR) (a : GR) (b : GR) (pg : PR) : Statement (.fstk d a b pg) :=
  ofA (packAR 0x0E ⟨d, a, b, 5, 0, pg⟩) rfl rfl fun hw => (raw_A_0E ⟨d, a, b, 5, 0, pg⟩).trans (by
    show (fun f : FAR => (if f.t == 0 then .ok (.fstk f.d f.a f.b f.pg) else .error .reservedField : Except DecodeError Instr)) ⟨d, a, b, 5, 0, pg⟩ = _
    simp only [beq_self_eq_true, Bool.and_self, Bool.and_true, Bool.true_and, if_true, Bool.not_false, reduceIte, ite_true])
theorem fstkr (d : GR) (a : GR) (pg : PR) : Statement (.fstkr d a pg) :=
  ofA (packAR 0x0E ⟨d, a, 0, 6, 0, pg⟩) rfl rfl fun hw => (raw_A_0E ⟨d, a, 0, 6, 0, pg⟩).trans (by
    show (fun f : FAR => (if f.b == 0 && f.t == 0 then .ok (.fstkr f.d f.a f.pg) else .error .reservedField : Except DecodeError Instr)) ⟨d, a, 0, 6, 0, pg⟩ = _
    simp only [beq_self_eq_true, Bool.and_self, Bool.and_true, Bool.true_and, if_true, Bool.not_false, reduceIte, ite_true])
theorem vadd (t : VTy) (d : VR) (a : VR) (b : VR) (mg : MR) : Statement (.vadd t d a b mg) :=
  ofA (packAR 0x10 ⟨d, a, b, 0, (t.code), mg⟩) rfl rfl fun hw => (raw_A_10 ⟨d, a, b, 0, (t.code), mg⟩).trans (by
    show (fun f : FAR => ((match VTy.ofCode f.t with | some t => .ok (.vadd t f.d f.a f.b f.pg) | none => .error .reservedCode) : Except DecodeError Instr)) ⟨d, a, b, 0, (t.code), mg⟩ = _
    simp only [codes, beq_self_eq_true, Bool.and_self, Bool.and_true, Bool.true_and, if_true, Bool.not_false, reduceIte, ite_true])
theorem vsub (t : VTy) (d : VR) (a : VR) (b : VR) (mg : MR) : Statement (.vsub t d a b mg) :=
  ofA (packAR 0x10 ⟨d, a, b, 1, (t.code), mg⟩) rfl rfl fun hw => (raw_A_10 ⟨d, a, b, 1, (t.code), mg⟩).trans (by
    show (fun f : FAR => ((match VTy.ofCode f.t with | some t => .ok (.vsub t f.d f.a f.b f.pg) | none => .error .reservedCode) : Except DecodeError Instr)) ⟨d, a, b, 1, (t.code), mg⟩ = _
    simp only [codes, beq_self_eq_true, Bool.and_self, Bool.and_true, Bool.true_and, if_true, Bool.not_false, reduceIte, ite_true])
theorem vand (t : VTy) (d : VR) (a : VR) (b : VR) (mg : MR) : Statement (.vand t d a b mg) :=
  ofA (packAR 0x10 ⟨d, a, b, 2, (t.code), mg⟩) rfl rfl fun hw => (raw_A_10 ⟨d, a, b, 2, (t.code), mg⟩).trans (by
    show (fun f : FAR => ((match VTy.ofCode f.t with | some t => .ok (.vand t f.d f.a f.b f.pg) | none => .error .reservedCode) : Except DecodeError Instr)) ⟨d, a, b, 2, (t.code), mg⟩ = _
    simp only [codes, beq_self_eq_true, Bool.and_self, Bool.and_true, Bool.true_and, if_true, Bool.not_false, reduceIte, ite_true])
theorem vor (t : VTy) (d : VR) (a : VR) (b : VR) (mg : MR) : Statement (.vor t d a b mg) :=
  ofA (packAR 0x10 ⟨d, a, b, 3, (t.code), mg⟩) rfl rfl fun hw => (raw_A_10 ⟨d, a, b, 3, (t.code), mg⟩).trans (by
    show (fun f : FAR => ((match VTy.ofCode f.t with | some t => .ok (.vor t f.d f.a f.b f.pg) | none => .error .reservedCode) : Except DecodeError Instr)) ⟨d, a, b, 3, (t.code), mg⟩ = _
    simp only [codes, beq_self_eq_true, Bool.and_self, Bool.and_true, Bool.true_and, if_true, Bool.not_false, reduceIte, ite_true])
theorem vxor (t : VTy) (d : VR) (a : VR) (b : VR) (mg : MR) : Statement (.vxor t d a b mg) :=
  ofA (packAR 0x10 ⟨d, a, b, 4, (t.code), mg⟩) rfl rfl fun hw => (raw_A_10 ⟨d, a, b, 4, (t.code), mg⟩).trans (by
    show (fun f : FAR => ((match VTy.ofCode f.t with | some t => .ok (.vxor t f.d f.a f.b f.pg) | none => .error .reservedCode) : Except DecodeError Instr)) ⟨d, a, b, 4, (t.code), mg⟩ = _
    simp only [codes, beq_self_eq_true, Bool.and_self, Bool.and_true, Bool.true_and, if_true, Bool.not_false, reduceIte, ite_true])
theorem vandn (t : VTy) (d : VR) (a : VR) (b : VR) (mg : MR) : Statement (.vandn t d a b mg) :=
  ofA (packAR 0x10 ⟨d, a, b, 5, (t.code), mg⟩) rfl rfl fun hw => (raw_A_10 ⟨d, a, b, 5, (t.code), mg⟩).trans (by
    show (fun f : FAR => ((match VTy.ofCode f.t with | some t => .ok (.vandn t f.d f.a f.b f.pg) | none => .error .reservedCode) : Except DecodeError Instr)) ⟨d, a, b, 5, (t.code), mg⟩ = _
    simp only [codes, beq_self_eq_true, Bool.and_self, Bool.and_true, Bool.true_and, if_true, Bool.not_false, reduceIte, ite_true])
theorem vshl (t : VTy) (d : VR) (a : VR) (b : VR) (mg : MR) : Statement (.vshl t d a b mg) :=
  ofA (packAR 0x10 ⟨d, a, b, 6, (t.code), mg⟩) rfl rfl fun hw => (raw_A_10 ⟨d, a, b, 6, (t.code), mg⟩).trans (by
    show (fun f : FAR => ((match VTy.ofCode f.t with | some t => .ok (.vshl t f.d f.a f.b f.pg) | none => .error .reservedCode) : Except DecodeError Instr)) ⟨d, a, b, 6, (t.code), mg⟩ = _
    simp only [codes, beq_self_eq_true, Bool.and_self, Bool.and_true, Bool.true_and, if_true, Bool.not_false, reduceIte, ite_true])
theorem vshr (t : VTy) (d : VR) (a : VR) (b : VR) (mg : MR) : Statement (.vshr t d a b mg) :=
  ofA (packAR 0x10 ⟨d, a, b, 7, (t.code), mg⟩) rfl rfl fun hw => (raw_A_10 ⟨d, a, b, 7, (t.code), mg⟩).trans (by
    show (fun f : FAR => ((match VTy.ofCode f.t with | some t => .ok (.vshr t f.d f.a f.b f.pg) | none => .error .reservedCode) : Except DecodeError Instr)) ⟨d, a, b, 7, (t.code), mg⟩ = _
    simp only [codes, beq_self_eq_true, Bool.and_self, Bool.and_true, Bool.true_and, if_true, Bool.not_false, reduceIte, ite_true])
theorem vsra (t : VTy) (d : VR) (a : VR) (b : VR) (mg : MR) : Statement (.vsra t d a b mg) :=
  ofA (packAR 0x10 ⟨d, a, b, 8, (t.code), mg⟩) rfl rfl fun hw => (raw_A_10 ⟨d, a, b, 8, (t.code), mg⟩).trans (by
    show (fun f : FAR => ((match VTy.ofCode f.t with | some t => .ok (.vsra t f.d f.a f.b f.pg) | none => .error .reservedCode) : Except DecodeError Instr)) ⟨d, a, b, 8, (t.code), mg⟩ = _
    simp only [codes, beq_self_eq_true, Bool.and_self, Bool.and_true, Bool.true_and, if_true, Bool.not_false, reduceIte, ite_true])
theorem vmin (t : VTy) (d : VR) (a : VR) (b : VR) (mg : MR) : Statement (.vmin t d a b mg) :=
  ofA (packAR 0x10 ⟨d, a, b, 9, (t.code), mg⟩) rfl rfl fun hw => (raw_A_10 ⟨d, a, b, 9, (t.code), mg⟩).trans (by
    show (fun f : FAR => ((match VTy.ofCode f.t with | some t => .ok (.vmin t f.d f.a f.b f.pg) | none => .error .reservedCode) : Except DecodeError Instr)) ⟨d, a, b, 9, (t.code), mg⟩ = _
    simp only [codes, beq_self_eq_true, Bool.and_self, Bool.and_true, Bool.true_and, if_true, Bool.not_false, reduceIte, ite_true])
theorem vmax (t : VTy) (d : VR) (a : VR) (b : VR) (mg : MR) : Statement (.vmax t d a b mg) :=
  ofA (packAR 0x10 ⟨d, a, b, 10, (t.code), mg⟩) rfl rfl fun hw => (raw_A_10 ⟨d, a, b, 10, (t.code), mg⟩).trans (by
    show (fun f : FAR => ((match VTy.ofCode f.t with | some t => .ok (.vmax t f.d f.a f.b f.pg) | none => .error .reservedCode) : Except DecodeError Instr)) ⟨d, a, b, 10, (t.code), mg⟩ = _
    simp only [codes, beq_self_eq_true, Bool.and_self, Bool.and_true, Bool.true_and, if_true, Bool.not_false, reduceIte, ite_true])
theorem vmul (t : VTy) (d : VR) (a : VR) (b : VR) (mg : MR) : Statement (.vmul t d a b mg) :=
  ofA (packAR 0x10 ⟨d, a, b, 11, (t.code), mg⟩) rfl rfl fun hw => (raw_A_10 ⟨d, a, b, 11, (t.code), mg⟩).trans (by
    show (fun f : FAR => ((match VTy.ofCode f.t with | some t => .ok (.vmul t f.d f.a f.b f.pg) | none => .error .reservedCode) : Except DecodeError Instr)) ⟨d, a, b, 11, (t.code), mg⟩ = _
    simp only [codes, beq_self_eq_true, Bool.and_self, Bool.and_true, Bool.true_and, if_true, Bool.not_false, reduceIte, ite_true])
theorem vmulh (t : VTy) (d : VR) (a : VR) (b : VR) (mg : MR) : Statement (.vmulh t d a b mg) :=
  ofA (packAR 0x10 ⟨d, a, b, 12, (t.code), mg⟩) rfl rfl fun hw => (raw_A_10 ⟨d, a, b, 12, (t.code), mg⟩).trans (by
    show (fun f : FAR => ((match VTy.ofCode f.t with | some t => .ok (.vmulh t f.d f.a f.b f.pg) | none => .error .reservedCode) : Except DecodeError Instr)) ⟨d, a, b, 12, (t.code), mg⟩ = _
    simp only [codes, beq_self_eq_true, Bool.and_self, Bool.and_true, Bool.true_and, if_true, Bool.not_false, reduceIte, ite_true])
theorem vcmpeq (t : VTy) (d : MR) (a : VR) (b : VR) (mg : MR) : Statement (.vcmpeq t d a b mg) :=
  ofA (packAR 0x11 ⟨(d.setWidth 5), a, b, 0, (t.code), mg⟩) rfl rfl fun hw => (raw_A_11 ⟨(d.setWidth 5), a, b, 0, (t.code), mg⟩).trans (by
    show (fun f : FAR => ((match VTy.ofCode f.t with | some t => (match low3 f.d with | some d => .ok (.vcmpeq t d f.a f.b f.pg) | none => .error .reservedCode) | none => .error .reservedCode) : Except DecodeError Instr)) ⟨(d.setWidth 5), a, b, 0, (t.code), mg⟩ = _
    simp only [codes, low3_setWidth, low4_setWidth, beq_self_eq_true, Bool.and_self, Bool.and_true, Bool.true_and, if_true, Bool.not_false, reduceIte, ite_true])
theorem vcmpne (t : VTy) (d : MR) (a : VR) (b : VR) (mg : MR) : Statement (.vcmpne t d a b mg) :=
  ofA (packAR 0x11 ⟨(d.setWidth 5), a, b, 1, (t.code), mg⟩) rfl rfl fun hw => (raw_A_11 ⟨(d.setWidth 5), a, b, 1, (t.code), mg⟩).trans (by
    show (fun f : FAR => ((match VTy.ofCode f.t with | some t => (match low3 f.d with | some d => .ok (.vcmpne t d f.a f.b f.pg) | none => .error .reservedCode) | none => .error .reservedCode) : Except DecodeError Instr)) ⟨(d.setWidth 5), a, b, 1, (t.code), mg⟩ = _
    simp only [codes, low3_setWidth, low4_setWidth, beq_self_eq_true, Bool.and_self, Bool.and_true, Bool.true_and, if_true, Bool.not_false, reduceIte, ite_true])
theorem vcmplt (t : VTy) (d : MR) (a : VR) (b : VR) (mg : MR) : Statement (.vcmplt t d a b mg) :=
  ofA (packAR 0x11 ⟨(d.setWidth 5), a, b, 2, (t.code), mg⟩) rfl rfl fun hw => (raw_A_11 ⟨(d.setWidth 5), a, b, 2, (t.code), mg⟩).trans (by
    show (fun f : FAR => ((match VTy.ofCode f.t with | some t => (match low3 f.d with | some d => .ok (.vcmplt t d f.a f.b f.pg) | none => .error .reservedCode) | none => .error .reservedCode) : Except DecodeError Instr)) ⟨(d.setWidth 5), a, b, 2, (t.code), mg⟩ = _
    simp only [codes, low3_setWidth, low4_setWidth, beq_self_eq_true, Bool.and_self, Bool.and_true, Bool.true_and, if_true, Bool.not_false, reduceIte, ite_true])
theorem vcmple (t : VTy) (d : MR) (a : VR) (b : VR) (mg : MR) : Statement (.vcmple t d a b mg) :=
  ofA (packAR 0x11 ⟨(d.setWidth 5), a, b, 3, (t.code), mg⟩) rfl rfl fun hw => (raw_A_11 ⟨(d.setWidth 5), a, b, 3, (t.code), mg⟩).trans (by
    show (fun f : FAR => ((match VTy.ofCode f.t with | some t => (match low3 f.d with | some d => .ok (.vcmple t d f.a f.b f.pg) | none => .error .reservedCode) | none => .error .reservedCode) : Except DecodeError Instr)) ⟨(d.setWidth 5), a, b, 3, (t.code), mg⟩ = _
    simp only [codes, low3_setWidth, low4_setWidth, beq_self_eq_true, Bool.and_self, Bool.and_true, Bool.true_and, if_true, Bool.not_false, reduceIte, ite_true])
theorem mand (d : MR) (a : MR) (b : MR) (mg : MR) : Statement (.mand d a b mg) :=
  ofA (packAR 0x12 ⟨(d.setWidth 5), (a.setWidth 5), (b.setWidth 5), 0, 0, mg⟩) rfl rfl fun hw => (raw_A_12 ⟨(d.setWidth 5), (a.setWidth 5), (b.setWidth 5), 0, 0, mg⟩).trans (by
    show (fun f : FAR => (if f.t == 0 then (match low3 f.d with | some d => (match low3 f.a with | some a => (match low3 f.b with | some b => .ok (.mand d a b f.pg) | none => .error .reservedCode) | none => .error .reservedCode) | none => .error .reservedCode) else .error .reservedField : Except DecodeError Instr)) ⟨(d.setWidth 5), (a.setWidth 5), (b.setWidth 5), 0, 0, mg⟩ = _
    simp only [low3_setWidth, low4_setWidth, beq_self_eq_true, Bool.and_self, Bool.and_true, Bool.true_and, if_true, Bool.not_false, reduceIte, ite_true])
theorem mor (d : MR) (a : MR) (b : MR) (mg : MR) : Statement (.mor d a b mg) :=
  ofA (packAR 0x12 ⟨(d.setWidth 5), (a.setWidth 5), (b.setWidth 5), 1, 0, mg⟩) rfl rfl fun hw => (raw_A_12 ⟨(d.setWidth 5), (a.setWidth 5), (b.setWidth 5), 1, 0, mg⟩).trans (by
    show (fun f : FAR => (if f.t == 0 then (match low3 f.d with | some d => (match low3 f.a with | some a => (match low3 f.b with | some b => .ok (.mor d a b f.pg) | none => .error .reservedCode) | none => .error .reservedCode) | none => .error .reservedCode) else .error .reservedField : Except DecodeError Instr)) ⟨(d.setWidth 5), (a.setWidth 5), (b.setWidth 5), 1, 0, mg⟩ = _
    simp only [low3_setWidth, low4_setWidth, beq_self_eq_true, Bool.and_self, Bool.and_true, Bool.true_and, if_true, Bool.not_false, reduceIte, ite_true])
theorem mxor (d : MR) (a : MR) (b : MR) (mg : MR) : Statement (.mxor d a b mg) :=
  ofA (packAR 0x12 ⟨(d.setWidth 5), (a.setWidth 5), (b.setWidth 5), 2, 0, mg⟩) rfl rfl fun hw => (raw_A_12 ⟨(d.setWidth 5), (a.setWidth 5), (b.setWidth 5), 2, 0, mg⟩).trans (by
    show (fun f : FAR => (if f.t == 0 then (match low3 f.d with | some d => (match low3 f.a with | some a => (match low3 f.b with | some b => .ok (.mxor d a b f.pg) | none => .error .reservedCode) | none => .error .reservedCode) | none => .error .reservedCode) else .error .reservedField : Except DecodeError Instr)) ⟨(d.setWidth 5), (a.setWidth 5), (b.setWidth 5), 2, 0, mg⟩ = _
    simp only [low3_setWidth, low4_setWidth, beq_self_eq_true, Bool.and_self, Bool.and_true, Bool.true_and, if_true, Bool.not_false, reduceIte, ite_true])
theorem mandn (d : MR) (a : MR) (b : MR) (mg : MR) : Statement (.mandn d a b mg) :=
  ofA (packAR 0x12 ⟨(d.setWidth 5), (a.setWidth 5), (b.setWidth 5), 3, 0, mg⟩) rfl rfl fun hw => (raw_A_12 ⟨(d.setWidth 5), (a.setWidth 5), (b.setWidth 5), 3, 0, mg⟩).trans (by
    show (fun f : FAR => (if f.t == 0 then (match low3 f.d with | some d => (match low3 f.a with | some a => (match low3 f.b with | some b => .ok (.mandn d a b f.pg) | none => .error .reservedCode) | none => .error .reservedCode) | none => .error .reservedCode) else .error .reservedField : Except DecodeError Instr)) ⟨(d.setWidth 5), (a.setWidth 5), (b.setWidth 5), 3, 0, mg⟩ = _
    simp only [low3_setWidth, low4_setWidth, beq_self_eq_true, Bool.and_self, Bool.and_true, Bool.true_and, if_true, Bool.not_false, reduceIte, ite_true])
theorem mnot (d : MR) (a : MR) (mg : MR) : Statement (.mnot d a mg) :=
  ofA (packAR 0x12 ⟨(d.setWidth 5), (a.setWidth 5), 0, 4, 0, mg⟩) rfl rfl fun hw => (raw_A_12 ⟨(d.setWidth 5), (a.setWidth 5), 0, 4, 0, mg⟩).trans (by
    show (fun f : FAR => (if f.b == 0 && f.t == 0 then (match low3 f.d with | some d => (match low3 f.a with | some a => .ok (.mnot d a f.pg) | none => .error .reservedCode) | none => .error .reservedCode) else .error .reservedField : Except DecodeError Instr)) ⟨(d.setWidth 5), (a.setWidth 5), 0, 4, 0, mg⟩ = _
    simp only [low3_setWidth, low4_setWidth, beq_self_eq_true, Bool.and_self, Bool.and_true, Bool.true_and, if_true, Bool.not_false, reduceIte, ite_true])
theorem mpopc (d : GR) (a : MR) (mg : MR) : Statement (.mpopc d a mg) :=
  ofA (packAR 0x12 ⟨d, (a.setWidth 5), 0, 5, 0, mg⟩) rfl rfl fun hw => (raw_A_12 ⟨d, (a.setWidth 5), 0, 5, 0, mg⟩).trans (by
    show (fun f : FAR => (if f.b == 0 && f.t == 0 then (match low3 f.a with | some a => .ok (.mpopc f.d a f.pg) | none => .error .reservedCode) else .error .reservedField : Except DecodeError Instr)) ⟨d, (a.setWidth 5), 0, 5, 0, mg⟩ = _
    simp only [low3_setWidth, low4_setWidth, beq_self_eq_true, Bool.and_self, Bool.and_true, Bool.true_and, if_true, Bool.not_false, reduceIte, ite_true])
theorem mfromg (d : MR) (a : GR) (mg : MR) : Statement (.mfromg d a mg) :=
  ofA (packAR 0x12 ⟨(d.setWidth 5), a, 0, 6, 0, mg⟩) rfl rfl fun hw => (raw_A_12 ⟨(d.setWidth 5), a, 0, 6, 0, mg⟩).trans (by
    show (fun f : FAR => (if f.b == 0 && f.t == 0 then (match low3 f.d with | some d => .ok (.mfromg d f.a f.pg) | none => .error .reservedCode) else .error .reservedField : Except DecodeError Instr)) ⟨(d.setWidth 5), a, 0, 6, 0, mg⟩ = _
    simp only [low3_setWidth, low4_setWidth, beq_self_eq_true, Bool.and_self, Bool.and_true, Bool.true_and, if_true, Bool.not_false, reduceIte, ite_true])
theorem mtog (d : GR) (a : MR) (mg : MR) : Statement (.mtog d a mg) :=
  ofA (packAR 0x12 ⟨d, (a.setWidth 5), 0, 7, 0, mg⟩) rfl rfl fun hw => (raw_A_12 ⟨d, (a.setWidth 5), 0, 7, 0, mg⟩).trans (by
    show (fun f : FAR => (if f.b == 0 && f.t == 0 then (match low3 f.a with | some a => .ok (.mtog f.d a f.pg) | none => .error .reservedCode) else .error .reservedField : Except DecodeError Instr)) ⟨d, (a.setWidth 5), 0, 7, 0, mg⟩ = _
    simp only [low3_setWidth, low4_setWidth, beq_self_eq_true, Bool.and_self, Bool.and_true, Bool.true_and, if_true, Bool.not_false, reduceIte, ite_true])
theorem vfadd (t : FTy) (d : VR) (a : VR) (b : VR) (mg : MR) : Statement (.vfadd t d a b mg) :=
  ofA (packAR 0x13 ⟨d, a, b, 0, (t.code), mg⟩) rfl rfl fun hw => (raw_A_13 ⟨d, a, b, 0, (t.code), mg⟩).trans (by
    show (fun f : FAR => (.ok (.vfadd (FTy.ofCode f.t) f.d f.a f.b f.pg) : Except DecodeError Instr)) ⟨d, a, b, 0, (t.code), mg⟩ = _
    simp only [codes, beq_self_eq_true, Bool.and_self, Bool.and_true, Bool.true_and, if_true, Bool.not_false, reduceIte, ite_true])
theorem vfsub (t : FTy) (d : VR) (a : VR) (b : VR) (mg : MR) : Statement (.vfsub t d a b mg) :=
  ofA (packAR 0x13 ⟨d, a, b, 1, (t.code), mg⟩) rfl rfl fun hw => (raw_A_13 ⟨d, a, b, 1, (t.code), mg⟩).trans (by
    show (fun f : FAR => (.ok (.vfsub (FTy.ofCode f.t) f.d f.a f.b f.pg) : Except DecodeError Instr)) ⟨d, a, b, 1, (t.code), mg⟩ = _
    simp only [codes, beq_self_eq_true, Bool.and_self, Bool.and_true, Bool.true_and, if_true, Bool.not_false, reduceIte, ite_true])
theorem vfmul (t : FTy) (d : VR) (a : VR) (b : VR) (mg : MR) : Statement (.vfmul t d a b mg) :=
  ofA (packAR 0x13 ⟨d, a, b, 2, (t.code), mg⟩) rfl rfl fun hw => (raw_A_13 ⟨d, a, b, 2, (t.code), mg⟩).trans (by
    show (fun f : FAR => (.ok (.vfmul (FTy.ofCode f.t) f.d f.a f.b f.pg) : Except DecodeError Instr)) ⟨d, a, b, 2, (t.code), mg⟩ = _
    simp only [codes, beq_self_eq_true, Bool.and_self, Bool.and_true, Bool.true_and, if_true, Bool.not_false, reduceIte, ite_true])
theorem vfdiv (t : FTy) (d : VR) (a : VR) (b : VR) (mg : MR) : Statement (.vfdiv t d a b mg) :=
  ofA (packAR 0x13 ⟨d, a, b, 3, (t.code), mg⟩) rfl rfl fun hw => (raw_A_13 ⟨d, a, b, 3, (t.code), mg⟩).trans (by
    show (fun f : FAR => (.ok (.vfdiv (FTy.ofCode f.t) f.d f.a f.b f.pg) : Except DecodeError Instr)) ⟨d, a, b, 3, (t.code), mg⟩ = _
    simp only [codes, beq_self_eq_true, Bool.and_self, Bool.and_true, Bool.true_and, if_true, Bool.not_false, reduceIte, ite_true])
theorem vfsqrt (t : FTy) (d : VR) (a : VR) (mg : MR) : Statement (.vfsqrt t d a mg) :=
  ofA (packAR 0x13 ⟨d, a, 0, 4, (t.code), mg⟩) rfl rfl fun hw => (raw_A_13 ⟨d, a, 0, 4, (t.code), mg⟩).trans (by
    show (fun f : FAR => (if f.b == 0 then .ok (.vfsqrt (FTy.ofCode f.t) f.d f.a f.pg) else .error .reservedField : Except DecodeError Instr)) ⟨d, a, 0, 4, (t.code), mg⟩ = _
    simp only [codes, beq_self_eq_true, Bool.and_self, Bool.and_true, Bool.true_and, if_true, Bool.not_false, reduceIte, ite_true])
theorem vfmin (t : FTy) (d : VR) (a : VR) (b : VR) (mg : MR) : Statement (.vfmin t d a b mg) :=
  ofA (packAR 0x13 ⟨d, a, b, 5, (t.code), mg⟩) rfl rfl fun hw => (raw_A_13 ⟨d, a, b, 5, (t.code), mg⟩).trans (by
    show (fun f : FAR => (.ok (.vfmin (FTy.ofCode f.t) f.d f.a f.b f.pg) : Except DecodeError Instr)) ⟨d, a, b, 5, (t.code), mg⟩ = _
    simp only [codes, beq_self_eq_true, Bool.and_self, Bool.and_true, Bool.true_and, if_true, Bool.not_false, reduceIte, ite_true])
theorem vfmax (t : FTy) (d : VR) (a : VR) (b : VR) (mg : MR) : Statement (.vfmax t d a b mg) :=
  ofA (packAR 0x13 ⟨d, a, b, 6, (t.code), mg⟩) rfl rfl fun hw => (raw_A_13 ⟨d, a, b, 6, (t.code), mg⟩).trans (by
    show (fun f : FAR => (.ok (.vfmax (FTy.ofCode f.t) f.d f.a f.b f.pg) : Except DecodeError Instr)) ⟨d, a, b, 6, (t.code), mg⟩ = _
    simp only [codes, beq_self_eq_true, Bool.and_self, Bool.and_true, Bool.true_and, if_true, Bool.not_false, reduceIte, ite_true])
theorem vfneg (d : VR) (a : VR) (mg : MR) : Statement (.vfneg d a mg) :=
  ofA (packAR 0x13 ⟨d, a, 0, 7, 0, mg⟩) rfl rfl fun hw => (raw_A_13 ⟨d, a, 0, 7, 0, mg⟩).trans (by
    show (fun f : FAR => (if f.b == 0 && f.t == 0 then .ok (.vfneg f.d f.a f.pg) else .error .reservedField : Except DecodeError Instr)) ⟨d, a, 0, 7, 0, mg⟩ = _
    simp only [beq_self_eq_true, Bool.and_self, Bool.and_true, Bool.true_and, if_true, Bool.not_false, reduceIte, ite_true])
theorem vfabs (d : VR) (a : VR) (mg : MR) : Statement (.vfabs d a mg) :=
  ofA (packAR 0x13 ⟨d, a, 0, 8, 0, mg⟩) rfl rfl fun hw => (raw_A_13 ⟨d, a, 0, 8, 0, mg⟩).trans (by
    show (fun f : FAR => (if f.b == 0 && f.t == 0 then .ok (.vfabs f.d f.a f.pg) else .error .reservedField : Except DecodeError Instr)) ⟨d, a, 0, 8, 0, mg⟩ = _
    simp only [beq_self_eq_true, Bool.and_self, Bool.and_true, Bool.true_and, if_true, Bool.not_false, reduceIte, ite_true])
theorem vffma (t : FTy) (d : VR) (a : VR) (b : VR) (c : VR) (mg : MR) : Statement (.vffma t d a b c mg) :=
  ofA (packAR 0x14 ⟨d, a, b, c, (t.code), mg⟩) rfl rfl fun hw => (raw_A_14 ⟨d, a, b, c, (t.code), mg⟩).trans (by
    show (fun f : FAR => (.ok (.vffma (FTy.ofCode f.t) f.d f.a f.b f.c f.pg) : Except DecodeError Instr)) ⟨d, a, b, c, (t.code), mg⟩ = _
    simp only [codes, beq_self_eq_true, Bool.and_self, Bool.and_true, Bool.true_and, if_true, Bool.not_false, reduceIte, ite_true])
theorem vfcmpeq (d : MR) (a : VR) (b : VR) (mg : MR) : Statement (.vfcmpeq d a b mg) :=
  ofA (packAR 0x15 ⟨(d.setWidth 5), a, b, 0, 0, mg⟩) rfl rfl fun hw => (raw_A_15 ⟨(d.setWidth 5), a, b, 0, 0, mg⟩).trans (by
    show (fun f : FAR => (if f.t == 0 then (match low3 f.d with | some d => .ok (.vfcmpeq d f.a f.b f.pg) | none => .error .reservedCode) else .error .reservedField : Except DecodeError Instr)) ⟨(d.setWidth 5), a, b, 0, 0, mg⟩ = _
    simp only [low3_setWidth, low4_setWidth, beq_self_eq_true, Bool.and_self, Bool.and_true, Bool.true_and, if_true, Bool.not_false, reduceIte, ite_true])
theorem vfcmplt (d : MR) (a : VR) (b : VR) (mg : MR) : Statement (.vfcmplt d a b mg) :=
  ofA (packAR 0x15 ⟨(d.setWidth 5), a, b, 1, 0, mg⟩) rfl rfl fun hw => (raw_A_15 ⟨(d.setWidth 5), a, b, 1, 0, mg⟩).trans (by
    show (fun f : FAR => (if f.t == 0 then (match low3 f.d with | some d => .ok (.vfcmplt d f.a f.b f.pg) | none => .error .reservedCode) else .error .reservedField : Except DecodeError Instr)) ⟨(d.setWidth 5), a, b, 1, 0, mg⟩ = _
    simp only [low3_setWidth, low4_setWidth, beq_self_eq_true, Bool.and_self, Bool.and_true, Bool.true_and, if_true, Bool.not_false, reduceIte, ite_true])
theorem vfcmple (d : MR) (a : VR) (b : VR) (mg : MR) : Statement (.vfcmple d a b mg) :=
  ofA (packAR 0x15 ⟨(d.setWidth 5), a, b, 2, 0, mg⟩) rfl rfl fun hw => (raw_A_15 ⟨(d.setWidth 5), a, b, 2, 0, mg⟩).trans (by
    show (fun f : FAR => (if f.t == 0 then (match low3 f.d with | some d => .ok (.vfcmple d f.a f.b f.pg) | none => .error .reservedCode) else .error .reservedField : Except DecodeError Instr)) ⟨(d.setWidth 5), a, b, 2, 0, mg⟩ = _
    simp only [low3_setWidth, low4_setWidth, beq_self_eq_true, Bool.and_self, Bool.and_true, Bool.true_and, if_true, Bool.not_false, reduceIte, ite_true])
theorem vfcmpun (d : MR) (a : VR) (b : VR) (mg : MR) : Statement (.vfcmpun d a b mg) :=
  ofA (packAR 0x15 ⟨(d.setWidth 5), a, b, 3, 0, mg⟩) rfl rfl fun hw => (raw_A_15 ⟨(d.setWidth 5), a, b, 3, 0, mg⟩).trans (by
    show (fun f : FAR => (if f.t == 0 then (match low3 f.d with | some d => .ok (.vfcmpun d f.a f.b f.pg) | none => .error .reservedCode) else .error .reservedField : Except DecodeError Instr)) ⟨(d.setWidth 5), a, b, 3, 0, mg⟩ = _
    simp only [low3_setWidth, low4_setWidth, beq_self_eq_true, Bool.and_self, Bool.and_true, Bool.true_and, if_true, Bool.not_false, reduceIte, ite_true])
theorem vfred (t : FTy) (d : GR) (a : VR) (mg : MR) : Statement (.vfred t d a mg) :=
  ofA (packAR 0x15 ⟨d, a, 0, 4, (t.code), mg⟩) rfl rfl fun hw => (raw_A_15 ⟨d, a, 0, 4, (t.code), mg⟩).trans (by
    show (fun f : FAR => (if f.b == 0 then .ok (.vfred (FTy.ofCode f.t) f.d f.a f.pg) else .error .reservedField : Except DecodeError Instr)) ⟨d, a, 0, 4, (t.code), mg⟩ = _
    simp only [codes, beq_self_eq_true, Bool.and_self, Bool.and_true, Bool.true_and, if_true, Bool.not_false, reduceIte, ite_true])
theorem vfrmin (t : FTy) (d : GR) (a : VR) (mg : MR) : Statement (.vfrmin t d a mg) :=
  ofA (packAR 0x15 ⟨d, a, 0, 5, (t.code), mg⟩) rfl rfl fun hw => (raw_A_15 ⟨d, a, 0, 5, (t.code), mg⟩).trans (by
    show (fun f : FAR => (if f.b == 0 then .ok (.vfrmin (FTy.ofCode f.t) f.d f.a f.pg) else .error .reservedField : Except DecodeError Instr)) ⟨d, a, 0, 5, (t.code), mg⟩ = _
    simp only [codes, beq_self_eq_true, Bool.and_self, Bool.and_true, Bool.true_and, if_true, Bool.not_false, reduceIte, ite_true])
theorem vfrmax (t : FTy) (d : GR) (a : VR) (mg : MR) : Statement (.vfrmax t d a mg) :=
  ofA (packAR 0x15 ⟨d, a, 0, 6, (t.code), mg⟩) rfl rfl fun hw => (raw_A_15 ⟨d, a, 0, 6, (t.code), mg⟩).trans (by
    show (fun f : FAR => (if f.b == 0 then .ok (.vfrmax (FTy.ofCode f.t) f.d f.a f.pg) else .error .reservedField : Except DecodeError Instr)) ⟨d, a, 0, 6, (t.code), mg⟩ = _
    simp only [codes, beq_self_eq_true, Bool.and_self, Bool.and_true, Bool.true_and, if_true, Bool.not_false, reduceIte, ite_true])
theorem vfcvt (t : FTy) (d : VR) (a : VR) (mg : MR) : Statement (.vfcvt t d a mg) :=
  ofA (packAR 0x16 ⟨d, a, 0, 0, (t.code), mg⟩) rfl rfl fun hw => (raw_A_16 ⟨d, a, 0, 0, (t.code), mg⟩).trans (by
    show (fun f : FAR => (if f.b == 0 then .ok (.vfcvt (FTy.ofCode f.t) f.d f.a f.pg) else .error .reservedField : Except DecodeError Instr)) ⟨d, a, 0, 0, (t.code), mg⟩ = _
    simp only [codes, beq_self_eq_true, Bool.and_self, Bool.and_true, Bool.true_and, if_true, Bool.not_false, reduceIte, ite_true])
theorem vfcvtif (t : FTy) (d : VR) (a : VR) (mg : MR) : Statement (.vfcvtif t d a mg) :=
  ofA (packAR 0x16 ⟨d, a, 0, 1, (t.code), mg⟩) rfl rfl fun hw => (raw_A_16 ⟨d, a, 0, 1, (t.code), mg⟩).trans (by
    show (fun f : FAR => (if f.b == 0 then .ok (.vfcvtif (FTy.ofCode f.t) f.d f.a f.pg) else .error .reservedField : Except DecodeError Instr)) ⟨d, a, 0, 1, (t.code), mg⟩ = _
    simp only [codes, beq_self_eq_true, Bool.and_self, Bool.and_true, Bool.true_and, if_true, Bool.not_false, reduceIte, ite_true])
theorem vfcvtfi (d : VR) (a : VR) (mg : MR) : Statement (.vfcvtfi d a mg) :=
  ofA (packAR 0x16 ⟨d, a, 0, 2, 0, mg⟩) rfl rfl fun hw => (raw_A_16 ⟨d, a, 0, 2, 0, mg⟩).trans (by
    show (fun f : FAR => (if f.b == 0 && f.t == 0 then .ok (.vfcvtfi f.d f.a f.pg) else .error .reservedField : Except DecodeError Instr)) ⟨d, a, 0, 2, 0, mg⟩ = _
    simp only [beq_self_eq_true, Bool.and_self, Bool.and_true, Bool.true_and, if_true, Bool.not_false, reduceIte, ite_true])
theorem vfrcp (t : FTy) (d : VR) (a : VR) (mg : MR) : Statement (.vfrcp t d a mg) :=
  ofA (packAR 0x16 ⟨d, a, 0, 3, (t.code), mg⟩) rfl rfl fun hw => (raw_A_16 ⟨d, a, 0, 3, (t.code), mg⟩).trans (by
    show (fun f : FAR => (if f.b == 0 then .ok (.vfrcp (FTy.ofCode f.t) f.d f.a f.pg) else .error .reservedField : Except DecodeError Instr)) ⟨d, a, 0, 3, (t.code), mg⟩ = _
    simp only [codes, beq_self_eq_true, Bool.and_self, Bool.and_true, Bool.true_and, if_true, Bool.not_false, reduceIte, ite_true])
theorem vfrsqrt (t : FTy) (d : VR) (a : VR) (mg : MR) : Statement (.vfrsqrt t d a mg) :=
  ofA (packAR 0x16 ⟨d, a, 0, 4, (t.code), mg⟩) rfl rfl fun hw => (raw_A_16 ⟨d, a, 0, 4, (t.code), mg⟩).trans (by
    show (fun f : FAR => (if f.b == 0 then .ok (.vfrsqrt (FTy.ofCode f.t) f.d f.a f.pg) else .error .reservedField : Except DecodeError Instr)) ⟨d, a, 0, 4, (t.code), mg⟩ = _
    simp only [codes, beq_self_eq_true, Bool.and_self, Bool.and_true, Bool.true_and, if_true, Bool.not_false, reduceIte, ite_true])
theorem vfexp2 (t : FTy) (d : VR) (a : VR) (mg : MR) : Statement (.vfexp2 t d a mg) :=
  ofA (packAR 0x16 ⟨d, a, 0, 5, (t.code), mg⟩) rfl rfl fun hw => (raw_A_16 ⟨d, a, 0, 5, (t.code), mg⟩).trans (by
    show (fun f : FAR => (if f.b == 0 then .ok (.vfexp2 (FTy.ofCode f.t) f.d f.a f.pg) else .error .reservedField : Except DecodeError Instr)) ⟨d, a, 0, 5, (t.code), mg⟩ = _
    simp only [codes, beq_self_eq_true, Bool.and_self, Bool.and_true, Bool.true_and, if_true, Bool.not_false, reduceIte, ite_true])
theorem vflog2 (t : FTy) (d : VR) (a : VR) (mg : MR) : Statement (.vflog2 t d a mg) :=
  ofA (packAR 0x16 ⟨d, a, 0, 6, (t.code), mg⟩) rfl rfl fun hw => (raw_A_16 ⟨d, a, 0, 6, (t.code), mg⟩).trans (by
    show (fun f : FAR => (if f.b == 0 then .ok (.vflog2 (FTy.ofCode f.t) f.d f.a f.pg) else .error .reservedField : Except DecodeError Instr)) ⟨d, a, 0, 6, (t.code), mg⟩ = _
    simp only [codes, beq_self_eq_true, Bool.and_self, Bool.and_true, Bool.true_and, if_true, Bool.not_false, reduceIte, ite_true])
theorem vperm (d : VR) (a : VR) (b : VR) (mg : MR) : Statement (.vperm d a b mg) :=
  ofA (packAR 0x17 ⟨d, a, b, 0, 0, mg⟩) rfl rfl fun hw => (raw_A_17 ⟨d, a, b, 0, 0, mg⟩).trans (by
    show (fun f : FAR => (if f.t == 0 then .ok (.vperm f.d f.a f.b f.pg) else .error .reservedField : Except DecodeError Instr)) ⟨d, a, b, 0, 0, mg⟩ = _
    simp only [beq_self_eq_true, Bool.and_self, Bool.and_true, Bool.true_and, if_true, Bool.not_false, reduceIte, ite_true])
theorem vslide (d : VR) (a : VR) (b : GR) (mg : MR) : Statement (.vslide d a b mg) :=
  ofA (packAR 0x17 ⟨d, a, b, 1, 0, mg⟩) rfl rfl fun hw => (raw_A_17 ⟨d, a, b, 1, 0, mg⟩).trans (by
    show (fun f : FAR => (if f.t == 0 then .ok (.vslide f.d f.a f.b f.pg) else .error .reservedField : Except DecodeError Instr)) ⟨d, a, b, 1, 0, mg⟩ = _
    simp only [beq_self_eq_true, Bool.and_self, Bool.and_true, Bool.true_and, if_true, Bool.not_false, reduceIte, ite_true])
theorem vzip (d : VR) (a : VR) (b : VR) (mg : MR) : Statement (.vzip d a b mg) :=
  ofA (packAR 0x17 ⟨d, a, b, 2, 0, mg⟩) rfl rfl fun hw => (raw_A_17 ⟨d, a, b, 2, 0, mg⟩).trans (by
    show (fun f : FAR => (if f.t == 0 then .ok (.vzip f.d f.a f.b f.pg) else .error .reservedField : Except DecodeError Instr)) ⟨d, a, b, 2, 0, mg⟩ = _
    simp only [beq_self_eq_true, Bool.and_self, Bool.and_true, Bool.true_and, if_true, Bool.not_false, reduceIte, ite_true])
theorem vunzip (d : VR) (a : VR) (mg : MR) : Statement (.vunzip d a mg) :=
  ofA (packAR 0x17 ⟨d, a, 0, 3, 0, mg⟩) rfl rfl fun hw => (raw_A_17 ⟨d, a, 0, 3, 0, mg⟩).trans (by
    show (fun f : FAR => (if f.b == 0 && f.t == 0 then .ok (.vunzip f.d f.a f.pg) else .error .reservedField : Except DecodeError Instr)) ⟨d, a, 0, 3, 0, mg⟩ = _
    simp only [beq_self_eq_true, Bool.and_self, Bool.and_true, Bool.true_and, if_true, Bool.not_false, reduceIte, ite_true])
theorem vbcast (d : VR) (a : GR) (mg : MR) : Statement (.vbcast d a mg) :=
  ofA (packAR 0x17 ⟨d, a, 0, 4, 0, mg⟩) rfl rfl fun hw => (raw_A_17 ⟨d, a, 0, 4, 0, mg⟩).trans (by
    show (fun f : FAR => (if f.b == 0 && f.t == 0 then .ok (.vbcast f.d f.a f.pg) else .error .reservedField : Except DecodeError Instr)) ⟨d, a, 0, 4, 0, mg⟩ = _
    simp only [beq_self_eq_true, Bool.and_self, Bool.and_true, Bool.true_and, if_true, Bool.not_false, reduceIte, ite_true])
theorem vcompress (d : VR) (a : VR) (mg : MR) : Statement (.vcompress d a mg) :=
  ofA (packAR 0x17 ⟨d, a, 0, 5, 0, mg⟩) rfl rfl fun hw => (raw_A_17 ⟨d, a, 0, 5, 0, mg⟩).trans (by
    show (fun f : FAR => (if f.b == 0 && f.t == 0 then .ok (.vcompress f.d f.a f.pg) else .error .reservedField : Except DecodeError Instr)) ⟨d, a, 0, 5, 0, mg⟩ = _
    simp only [beq_self_eq_true, Bool.and_self, Bool.and_true, Bool.true_and, if_true, Bool.not_false, reduceIte, ite_true])
theorem vexpand (d : VR) (a : VR) (mg : MR) : Statement (.vexpand d a mg) :=
  ofA (packAR 0x17 ⟨d, a, 0, 6, 0, mg⟩) rfl rfl fun hw => (raw_A_17 ⟨d, a, 0, 6, 0, mg⟩).trans (by
    show (fun f : FAR => (if f.b == 0 && f.t == 0 then .ok (.vexpand f.d f.a f.pg) else .error .reservedField : Except DecodeError Instr)) ⟨d, a, 0, 6, 0, mg⟩ = _
    simp only [beq_self_eq_true, Bool.and_self, Bool.and_true, Bool.true_and, if_true, Bool.not_false, reduceIte, ite_true])
theorem vmov (d : VR) (a : VR) (mg : MR) : Statement (.vmov d a mg) :=
  ofA (packAR 0x17 ⟨d, a, 0, 7, 0, mg⟩) rfl rfl fun hw => (raw_A_17 ⟨d, a, 0, 7, 0, mg⟩).trans (by
    show (fun f : FAR => (if f.b == 0 && f.t == 0 then .ok (.vmov f.d f.a f.pg) else .error .reservedField : Except DecodeError Instr)) ⟨d, a, 0, 7, 0, mg⟩ = _
    simp only [beq_self_eq_true, Bool.and_self, Bool.and_true, Bool.true_and, if_true, Bool.not_false, reduceIte, ite_true])
theorem vins (d : VR) (a : GR) (b : GR) (mg : MR) : Statement (.vins d a b mg) :=
  ofA (packAR 0x19 ⟨d, a, b, 2, 0, mg⟩) rfl rfl fun hw => (raw_A_19 ⟨d, a, b, 2, 0, mg⟩).trans (by
    show (fun f : FAR => (if f.t == 0 then .ok (.vins f.d f.a f.b f.pg) else .error .reservedField : Except DecodeError Instr)) ⟨d, a, b, 2, 0, mg⟩ = _
    simp only [beq_self_eq_true, Bool.and_self, Bool.and_true, Bool.true_and, if_true, Bool.not_false, reduceIte, ite_true])
theorem vext (d : GR) (a : VR) (b : GR) (mg : MR) : Statement (.vext d a b mg) :=
  ofA (packAR 0x19 ⟨d, a, b, 3, 0, mg⟩) rfl rfl fun hw => (raw_A_19 ⟨d, a, b, 3, 0, mg⟩).trans (by
    show (fun f : FAR => (if f.t == 0 then .ok (.vext f.d f.a f.b f.pg) else .error .reservedField : Except DecodeError Instr)) ⟨d, a, b, 3, 0, mg⟩ = _
    simp only [beq_self_eq_true, Bool.and_self, Bool.and_true, Bool.true_and, if_true, Bool.not_false, reduceIte, ite_true])
theorem rngh (d : GR) (a : GR) (b : GR) (mg : MR) : Statement (.rngh d a b mg) :=
  ofA (packAR 0x19 ⟨d, a, b, 0, 0, mg⟩) rfl rfl fun hw => (raw_A_19 ⟨d, a, b, 0, 0, mg⟩).trans (by
    show (fun f : FAR => (if f.t == 0 then .ok (.rngh f.d f.a f.b f.pg) else .error .reservedField : Except DecodeError Instr)) ⟨d, a, b, 0, 0, mg⟩ = _
    simp only [beq_self_eq_true, Bool.and_self, Bool.and_true, Bool.true_and, if_true, Bool.not_false, reduceIte, ite_true])
theorem vrngh (d : VR) (a : GR) (b : GR) (mg : MR) : Statement (.vrngh d a b mg) :=
  ofA (packAR 0x19 ⟨d, a, b, 1, 0, mg⟩) rfl rfl fun hw => (raw_A_19 ⟨d, a, b, 1, 0, mg⟩).trans (by
    show (fun f : FAR => (if f.t == 0 then .ok (.vrngh f.d f.a f.b f.pg) else .error .reservedField : Except DecodeError Instr)) ⟨d, a, b, 1, 0, mg⟩ = _
    simp only [beq_self_eq_true, Bool.and_self, Bool.and_true, Bool.true_and, if_true, Bool.not_false, reduceIte, ite_true])
theorem vqmx (fmt : NTy) (mode : RMode) (d : VR) (b : GR) (a : VR) (mg : MR) : Statement (.vqmx fmt mode d b a mg) :=
  ofA (packAR 0x18 ⟨d, a, b, (mode.code.setWidth 5), (fmt.code), mg⟩) rfl rfl fun hw => (raw_A_18 ⟨d, a, b, (mode.code.setWidth 5), (fmt.code), mg⟩).trans (by
    cases mode <;> (simp only [decMx, codes]; rfl))
theorem vdqmx (fmt : NTy) (d : VR) (a : VR) (b : GR) (mg : MR) : Statement (.vdqmx fmt d a b mg) :=
  ofA (packAR 0x18 ⟨d, a, b, 8, (fmt.code), mg⟩) rfl rfl fun hw => (raw_A_18 ⟨d, a, b, 8, (fmt.code), mg⟩).trans (by
    simp only [decMx, codes]; rfl)
theorem vpack (fmt : NTy) (mode : RMode) (d : VR) (a : VR) (mg : MR) : Statement (.vpack fmt mode d a mg) :=
  ofA (packAR 0x18 ⟨d, a, 0, (16 + mode.code.setWidth 5), (fmt.code), mg⟩) rfl rfl fun hw => (raw_A_18 ⟨d, a, 0, (16 + mode.code.setWidth 5), (fmt.code), mg⟩).trans (by
    cases mode <;> (simp only [decMx, codes]; rfl))
theorem mset (sel : MSel) (a : GR) (pg : PR) : Statement (.mset sel a pg) :=
  ofA (packAR 0x1A ⟨0, a, (sel.code), 0, 0, pg⟩) rfl rfl fun hw => (raw_A_1A ⟨0, a, (sel.code), 0, 0, pg⟩).trans (by
    show (fun f : FAR => (if f.d == 0 && f.t == 0 then (match MSel.ofCode f.b with | some sel => .ok (.mset sel f.a f.pg) | none => .error .reservedCode) else .error .reservedField : Except DecodeError Instr)) ⟨0, a, (sel.code), 0, 0, pg⟩ = _
    simp only [mSel_code, beq_self_eq_true, Bool.and_self, Bool.and_true, Bool.true_and, if_true, Bool.not_false, reduceIte, ite_true])
theorem mzero (k : BV3) (a : GR) (pg : PR) : Statement (.mzero k a pg) :=
  ofA (packAR 0x1A ⟨(k.setWidth 5), a, 0, 1, 0, pg⟩) rfl rfl fun hw => (raw_A_1A ⟨(k.setWidth 5), a, 0, 1, 0, pg⟩).trans (by
    show (fun f : FAR => (if f.b == 0 && f.t == 0 then (match low3 f.d with | some k => .ok (.mzero k f.a f.pg) | none => .error .reservedCode) else .error .reservedField : Except DecodeError Instr)) ⟨(k.setWidth 5), a, 0, 1, 0, pg⟩ = _
    simp only [low3_setWidth, low4_setWidth, beq_self_eq_true, Bool.and_self, Bool.and_true, Bool.true_and, if_true, Bool.not_false, reduceIte, ite_true])
theorem mlda (sc : Scope) (k : BV3) (a : GR) (b : GR) (pg : PR) : Statement (.mlda sc k a b pg) :=
  ofA (packAR 0x1A ⟨(sc.code ++ k), a, b, 2, 0, pg⟩) rfl rfl fun hw => (raw_A_1A ⟨(sc.code ++ k), a, b, 2, 0, pg⟩).trans (by
    show Except.ok (Instr.mlda (Scope.ofCode ((sc.code ++ k).extractLsb' 3 2)) ((sc.code ++ k).extractLsb' 0 3) a b pg) = _
    simp only [append23, codes])
theorem msta (fmt : FTy) (sc : Scope) (mode : RMode) (k : BV3) (a : GR) (b : GR) (pg : PR) : Statement (.msta fmt sc mode k a b pg) :=
  ofA (packAR 0x1A ⟨(sc.code ++ k), a, b, (24 + mode.code.setWidth 5), (fmt.code), pg⟩) rfl rfl fun hw => (raw_A_1A ⟨(sc.code ++ k), a, b, (24 + mode.code.setWidth 5), (fmt.code), pg⟩).trans (by
    have h : ∀ x y : GR, x = sc.code ++ k → y = 24 + mode.code.setWidth 5 → decMatrix ⟨x, a, b, y, fmt.code, pg⟩ =
        Except.ok (Instr.msta (FTy.ofCode fmt.code) (Scope.ofCode (x.extractLsb' 3 2)) mode (x.extractLsb' 0 3) a b pg) := by
      intro x y _ hy; subst hy; cases mode <;> simp [decMatrix, RMode.code, RMode.ofCode]
    rw [h _ _ rfl rfl]; simp only [append23, codes])
theorem mseed (a : GR) (pg : PR) : Statement (.mseed a pg) :=
  ofA (packAR 0x1A ⟨0, a, 0, 3, 0, pg⟩) rfl rfl fun hw => (raw_A_1A ⟨0, a, 0, 3, 0, pg⟩).trans (by
    show (fun f : FAR => (if f.d == 0 && f.b == 0 && f.t == 0 then .ok (.mseed f.a f.pg) else .error .reservedField : Except DecodeError Instr)) ⟨0, a, 0, 3, 0, pg⟩ = _
    simp only [beq_self_eq_true, Bool.and_self, Bool.and_true, Bool.true_and, if_true, Bool.not_false, reduceIte, ite_true])
theorem mring (a : GR) (b : GR) (pg : PR) : Statement (.mring a b pg) :=
  ofA (packAR 0x1A ⟨0, a, b, 5, 0, pg⟩) rfl rfl fun hw => (raw_A_1A ⟨0, a, b, 5, 0, pg⟩).trans (by
    show (fun f : FAR => (if f.d == 0 && f.t == 0 then .ok (.mring f.a f.b f.pg) else .error .reservedField : Except DecodeError Instr)) ⟨0, a, b, 5, 0, pg⟩ = _
    simp only [beq_self_eq_true, Bool.and_self, Bool.and_true, Bool.true_and, if_true, Bool.not_false, reduceIte, ite_true])
theorem mwait (pg : PR) : Statement (.mwait pg) :=
  ofA (packAR 0x1A ⟨0, 0, 0, 4, 0, pg⟩) rfl rfl fun hw => (raw_A_1A ⟨0, 0, 0, 4, 0, pg⟩).trans (by
    show (fun f : FAR => (if f.d == 0 && f.a == 0 && f.b == 0 && f.t == 0 then .ok (.mwait f.pg) else .error .reservedField : Except DecodeError Instr)) ⟨0, 0, 0, 4, 0, pg⟩ = _
    simp only [beq_self_eq_true, Bool.and_self, Bool.and_true, Bool.true_and, if_true, Bool.not_false, reduceIte, ite_true])
theorem mma (fa : MxFmt) (fb : MxFmt) (k : BV3) (n : BV6) (m : BV2) (ga : GR) (gs : GR) (fl : MmaFl) : Statement (.mma fa fb k n m ga gs fl) := by
  cases fa
  · exact ofA (packAM 0x20 ⟨(fb.code), k, n, m, ga, gs, (fl.code)⟩) rfl rfl fun _ => (raw_A_20 ⟨(fb.code), k, n, m, ga, gs, (fl.code)⟩).trans (by simp only [decMma, codes])
  · exact ofA (packAM 0x21 ⟨(fb.code), k, n, m, ga, gs, (fl.code)⟩) rfl rfl fun _ => (raw_A_21 ⟨(fb.code), k, n, m, ga, gs, (fl.code)⟩).trans (by simp only [decMma, codes])
  · exact ofA (packAM 0x22 ⟨(fb.code), k, n, m, ga, gs, (fl.code)⟩) rfl rfl fun _ => (raw_A_22 ⟨(fb.code), k, n, m, ga, gs, (fl.code)⟩).trans (by simp only [decMma, codes])
  · exact ofA (packAM 0x23 ⟨(fb.code), k, n, m, ga, gs, (fl.code)⟩) rfl rfl fun _ => (raw_A_23 ⟨(fb.code), k, n, m, ga, gs, (fl.code)⟩).trans (by simp only [decMma, codes])
  · exact ofA (packAM 0x24 ⟨(fb.code), k, n, m, ga, gs, (fl.code)⟩) rfl rfl fun _ => (raw_A_24 ⟨(fb.code), k, n, m, ga, gs, (fl.code)⟩).trans (by simp only [decMma, codes])
  · exact ofA (packAM 0x25 ⟨(fb.code), k, n, m, ga, gs, (fl.code)⟩) rfl rfl fun _ => (raw_A_25 ⟨(fb.code), k, n, m, ga, gs, (fl.code)⟩).trans (by simp only [decMma, codes])
theorem mmaBf16 (k : BV3) (n : BV6) (m : BV2) (ga : GR) (fl : MmaFl) : Statement (.mmaBf16 k n m ga fl) :=
  ofA (packAM 0x26 ⟨0, k, n, m, ga, 0, (fl.code)⟩) rfl rfl fun hw => (raw_A_26 ⟨0, k, n, m, ga, 0, (fl.code)⟩).trans (by
    show (fun f : FAM => (if f.bf == 0 && f.gs == 0 then (match MmaFl.ofCode f.fl with | some fl => .ok (.mmaBf16 f.acc f.n f.m f.ga fl) | none => .error .reservedCode) else .error .reservedField : Except DecodeError Instr)) ⟨0, k, n, m, ga, 0, (fl.code)⟩ = _
    simp only [codes, beq_self_eq_true, Bool.and_self, Bool.and_true, Bool.true_and, if_true, Bool.not_false, reduceIte, ite_true])
theorem delayedCompletion (core : Nat) (slot : Nat) : Statement (.delayedCompletion core slot) := noWord rfl
theorem loadReply (id : Nat) : Statement (.loadReply id) := noWord rfl
theorem atomicReply (id : Nat) : Statement (.atomicReply id) := noWord rfl
theorem callReply (id : Nat) : Statement (.callReply id) := noWord rfl
theorem homeAccess (id : Nat) : Statement (.homeAccess id) := noWord rfl
theorem mbSetDevid : Statement (.mbSetDevid) := noWord rfl
theorem hbmFill (part : Nat) (line : Nat) : Statement (.hbmFill part line) := noWord rfl
theorem sliceEvict (part : Nat) (line : Nat) : Statement (.sliceEvict part line) := noWord rfl
theorem replicaInvalAck (part : Nat) (region : Nat) (slice : Nat) : Statement (.replicaInvalAck part region slice) := noWord rfl
theorem pageWalkDone (cl : Nat) : Statement (.pageWalkDone cl) := noWord rfl
theorem walkerReadError (cl : Nat) (retryOk : Bool) : Statement (.walkerReadError cl retryOk) := noWord rfl
theorem mbCreatePartition : Statement (.mbCreatePartition) := noWord rfl
theorem ptsTick (core : Nat) : Statement (.ptsTick core) := noWord rfl
theorem hotWindow (slice : Nat) : Statement (.hotWindow slice) := noWord rfl
theorem syncWaitExpire (core : Nat) (slot : Nat) : Statement (.syncWaitExpire core slot) := noWord rfl
theorem syncBusyRetry (core : Nat) (slot : Nat) : Statement (.syncBusyRetry core slot) := noWord rfl
theorem aggAgeSend (core : Nat) (buf : Nat) : Statement (.aggAgeSend core buf) := noWord rfl
theorem mbDestroyPartition : Statement (.mbDestroyPartition) := noWord rfl
theorem aggSendResume (core : Nat) : Statement (.aggSendResume core) := noWord rfl
theorem aggPacketApply (id : Nat) : Statement (.aggPacketApply id) := noWord rfl
theorem aggReply (id : Nat) : Statement (.aggReply id) := noWord rfl
theorem meshPacketArrive (id : Nat) : Statement (.meshPacketArrive id) := noWord rfl
theorem escapeDivert (id : Nat) : Statement (.escapeDivert id) := noWord rfl
theorem mbWriteFirmware : Statement (.mbWriteFirmware) := noWord rfl
theorem linkCrcFail (src : Nat) (dst : Nat) (again : Bool) : Statement (.linkCrcFail src dst again) := noWord rfl
theorem queueTokenArrive (id : Nat) : Statement (.queueTokenArrive id) := noWord rfl
theorem qenqRetry (core : Nat) (slot : Nat) : Statement (.qenqRetry core slot) := noWord rfl
theorem queueWaitExpire (core : Nat) (slot : Nat) : Statement (.queueWaitExpire core slot) := noWord rfl
theorem callArrive (id : Nat) : Statement (.callArrive id) := noWord rfl
theorem mbRestart : Statement (.mbRestart) := noWord rfl
theorem slotOffer (core : Nat) : Statement (.slotOffer core) := noWord rfl
theorem migrationArrive (id : Nat) : Statement (.migrationArrive id) := noWord rfl
theorem dequeSpillDone (core : Nat) (slot : Nat) : Statement (.dequeSpillDone core slot) := noWord rfl
theorem stealProbe (core : Nat) : Statement (.stealProbe core) := noWord rfl
theorem stealProbeAnswer (id : Nat) : Statement (.stealProbeAnswer id) := noWord rfl
theorem spdmGetMeasurements : Statement (.spdmGetMeasurements) := noWord rfl
theorem stealCopyDone (id : Nat) : Statement (.stealCopyDone id) := noWord rfl
theorem stealPauseEnd (core : Nat) : Statement (.stealPauseEnd core) := noWord rfl
theorem yieldEnd (core : Nat) (slot : Nat) : Statement (.yieldEnd core slot) := noWord rfl
theorem waittRelease (core : Nat) (slot : Nat) : Statement (.waittRelease core slot) := noWord rfl
theorem heartbeatMiss (core : Nat) (slot : Nat) : Statement (.heartbeatMiss core slot) := noWord rfl
theorem spdmRequest : Statement (.spdmRequest) := noWord rfl
theorem fencedPacket (id : Nat) : Statement (.fencedPacket id) := noWord rfl
theorem meCommandStart (core : Nat) : Statement (.meCommandStart core) := noWord rfl
theorem latchTileArrive (core : Nat) : Statement (.latchTileArrive core) := noWord rfl
theorem mmaTile (core : Nat) : Statement (.mmaTile core) := noWord rfl
theorem tileHandOn (core : Nat) : Statement (.tileHandOn core) := noWord rfl
theorem keyBind : Statement (.keyBind) := noWord rfl
theorem rotateCopy (core : Nat) : Statement (.rotateCopy core) := noWord rfl
theorem meCommandDone (core : Nat) : Statement (.meCommandDone core) := noWord rfl
theorem teCommandDone (core : Nat) (idx : Nat) : Statement (.teCommandDone core idx) := noWord rfl
theorem jobEntryRead (part : Nat) (queue : Nat) : Statement (.jobEntryRead part queue) := noWord rfl
theorem edgeTest (part : Nat) : Statement (.edgeTest part) := noWord rfl
theorem keyUnbind : Statement (.keyUnbind) := noWord rfl
theorem jobAging (part : Nat) (job : Nat) : Statement (.jobAging part job) := noWord rfl
theorem jobPlace (part : Nat) : Statement (.jobPlace part) := noWord rfl
theorem gangStart (cl : Nat) : Statement (.gangStart cl) := noWord rfl
theorem jobComplete (part : Nat) (job : Nat) : Statement (.jobComplete part job) := noWord rfl
theorem switchStop (part : Nat) : Statement (.switchStop part) := noWord rfl
theorem keyQuery : Statement (.keyQuery) := noWord rfl
theorem switchSaveDone (part : Nat) : Statement (.switchSaveDone part) := noWord rfl
theorem switchResume (part : Nat) : Statement (.switchResume part) := noWord rfl
theorem hostWriteTlp (req : Nat) (bar : Nat) (addr : Nat) (bytes : TlpBytes) : Statement (.hostWriteTlp req bar addr bytes) := noWord rfl
theorem hostLineAck (id : Nat) : Statement (.hostLineAck id) := noWord rfl
theorem hostRead (req : Nat) (bar : Nat) (addr : Nat) (len : Nat) : Statement (.hostRead req bar addr len) := noWord rfl
theorem powerOn : Statement (.powerOn) := noWord rfl
theorem fabricPacketArrive (pkt : FabPkt) : Statement (.fabricPacketArrive pkt) := noWord rfl
theorem admissionCredit (dev : Nat) : Statement (.admissionCredit dev) := noWord rfl
theorem portCrcFail (port : Nat) (again : Bool) : Statement (.portCrcFail port again) := noWord rfl
theorem switchCombine (fst : Nat) (snd : Nat) : Statement (.switchCombine fst snd) := noWord rfl
theorem combinedReply (id : Nat) (reply : W64) : Statement (.combinedReply id reply) := noWord rfl
theorem stageTimeout : Statement (.stageTimeout) := noWord rfl
theorem amsgTriggerArrive (id : Nat) : Statement (.amsgTriggerArrive id) := noWord rfl
theorem handlerRun (slice : Nat) : Statement (.handlerRun slice) := noWord rfl
theorem bindEntry (slice : Nat) : Statement (.bindEntry slice) := noWord rfl
theorem fcsrWrite (core : Nat) (slot : Nat) (val : W64) : Statement (.fcsrWrite core slot val) := noWord rfl
theorem hbiWrite (core : Nat) (slot : Nat) (val : W64) : Statement (.hbiWrite core slot val) := noWord rfl
theorem startRetry : Statement (.startRetry) := noWord rfl
theorem agageWrite (core : Nat) (slot : Nat) (val : W64) : Statement (.agageWrite core slot val) := noWord rfl
theorem qcfgEnable (core : Nat) (q : BV3) (val : W64) : Statement (.qcfgEnable core q val) := noWord rfl
theorem qcfgDisable (core : Nat) (q : BV3) (val : W64) : Statement (.qcfgDisable core q val) := noWord rfl
theorem swctlArm (part : Nat) (val : W64) : Statement (.swctlArm part val) := noWord rfl
theorem swctlRes (part : Nat) (val : W64) : Statement (.swctlRes part val) := noWord rfl
theorem thermalRestart : Statement (.thermalRestart) := noWord rfl
theorem unfence (part : Nat) (val : W64) : Statement (.unfence part val) := noWord rfl
theorem pmctlGo (part : Nat) (val : W64) : Statement (.pmctlGo part val) := noWord rfl
theorem pageCopyDone (part : Nat) : Statement (.pageCopyDone part) := noWord rfl
theorem pmctlClr (part : Nat) (val : W64) : Statement (.pmctlClr part val) := noWord rfl
theorem bctlGo (part : Nat) (val : W64) : Statement (.bctlGo part val) := noWord rfl
theorem sqcfgEnable (part : Nat) (queue : Nat) (val : W64) : Statement (.sqcfgEnable part queue val) := noWord rfl
theorem sqcfgDisable (part : Nat) (queue : Nat) (val : W64) : Statement (.sqcfgDisable part queue val) := noWord rfl
theorem doorbell (part : Nat) (queue : Nat) (val : W64) : Statement (.doorbell part queue val) := noWord rfl
theorem msireq (part : Nat) (val : W64) : Statement (.msireq part val) := noWord rfl
theorem meshctlWrite (val : W64) : Statement (.meshctlWrite val) := noWord rfl
theorem plimWrite (val : W64) : Statement (.plimWrite val) := noWord rfl
theorem registerWrite (off : Nat) (val : W64) (prv : Bool) : Statement (.registerWrite off val prv) := noWord rfl
theorem startStageDone (failed : OptCause) : Statement (.startStageDone failed) := noWord rfl
theorem memoryReadError (part : Nat) (pa : Nat) (retryOk : Bool) : Statement (.memoryReadError part pa retryOk) := noWord rfl
theorem accEccError (core : Nat) (retryOk : Bool) : Statement (.accEccError core retryOk) := noWord rfl
theorem islandFreqChange (island : Nat) (mhz : Nat) : Statement (.islandFreqChange island mhz) := noWord rfl
theorem powerWindow (mw : Nat) : Statement (.powerWindow mw) := noWord rfl
theorem overTemperature (sensor : Nat) (deg : Nat) : Statement (.overTemperature sensor deg) := noWord rfl
theorem islandStallEnd (island : Nat) : Statement (.islandStallEnd island) := noWord rfl

end Encoding
end Sys2Proof.Laws
end

