-- ==== Sys2Proof/Tests/Slice0.lean ====
section
/-!
SUPPORT. Tests: what the decoder reads from words written out from the spec's encodings; the terms that are not well formed and
the words the decoder refuses; results the spec gives; and, for each statement of Certificates/Slice0/Obligations.lean with
hypotheses, states and operands that meet them.
-/
namespace Sys2Proof.Tests
open Sys2Proof Sys2Proof.Machine
set_option Elab.async false


/-! ### Words written out field by field from the encodings of 03 R57 to R61 and the maps of 04 R85 to R100 -/

def cr (m : BitVec 6) (d a b : BitVec 5) (pg : BitVec 3) (pn : BitVec 1) (fn : BitVec 6) : W32 := 1#1 ++ m ++ d ++ a ++ b ++ pg ++ pn ++ fn
def ci (m : BitVec 6) (d a : BitVec 5) (pg : BitVec 3) (imm : BitVec 12) : W32 := 1#1 ++ m ++ d ++ a ++ pg ++ imm
def cm (m : BitVec 6) (x b : BitVec 5) (pg : BitVec 3) (sc : BitVec 2) (off : BitVec 10) : W32 := 1#1 ++ m ++ x ++ b ++ pg ++ sc ++ off
def cb (m : BitVec 6) (pg : BitVec 3) (pn : BitVec 1) (off : BitVec 21) : W32 := 1#1 ++ m ++ pg ++ pn ++ off
def cx (m : BitVec 6) (a b c : BitVec 5) (pg fl : BitVec 3) (fn : BitVec 4) : W32 := 1#1 ++ m ++ a ++ b ++ c ++ pg ++ fl ++ fn
def ar (m : BitVec 6) (d a b c : BitVec 5) (t pg : BitVec 3) : W32 := m ++ d ++ a ++ b ++ c ++ t ++ pg
def ai (m : BitVec 6) (d a : BitVec 5) (imm : BitVec 13) (pg : BitVec 3) : W32 := m ++ d ++ a ++ imm ++ pg
def am (m : BitVec 6) (bf acc : BitVec 3) (n : BitVec 6) (mm : BitVec 2) (ga gs : BitVec 5) (fl : BitVec 2) : W32 :=
  m ++ bf ++ acc ++ n ++ mm ++ ga ++ gs ++ fl

theorem test_decode_flow :
    (decodeC (cr 0x00 0 0 0 0 0 0)).toOption = some (.cnop) ∧
    (decodeC (cr 0x00 9 0 0 3 0 1)).toOption = some (.movpc 9 3 false) ∧
    (decodeC (cr 0x00 9 0 0 3 1 1)).toOption = none ∧
    (decodeC (cb 0x01 5 1 0x1FFFFC)).toOption = some (.bp 5 true (-4)) ∧
    (decodeC (ci 0x02 0 7 2 0xFFE)).toOption = some (.bz 7 2 (-2)) ∧
    (decodeC (ci 0x03 0 7 2 5)).toOption = some (.bnz 7 2 5) ∧
    (decodeC (cb 0x04 1 0 0x12345)).toOption = some (.jal 1 false 0x12345) ∧
    (decodeC (ci 0x05 1 6 3 0x7FF)).toOption = some (.jalr 1 6 3 0x7FF) ∧
    (decodeC (cr 0x06 0 1 0 2 1 0)).toOption = some (.ret 1 2 true) ∧
    (decodeC (ci 0x08 0b00100 31 1 4095)).toOption = some (.loopi true 31 1 4095) ∧
    (decodeC (ci 0x08 0b01000 9 1 300)).toOption = some (.loopr false 9 1 300) ∧
    (decodeC (ci 0x08 0b10000 0 1 16)).toOption = some (.repi 1 16) ∧
    (decodeC (ci 0x08 0b11000 9 1 0)).toOption = some (.repr 9 1) := by decide +kernel
theorem test_decode_cm :
    (decodeC (cm 0x09 4 11 3 0 0x3F0)).toOption = some (.ldb 4 11 3 .core 0x3F0) ∧
    (decodeC (cm 0x0A 5 11 3 1 0x3F1)).toOption = some (.ldbu 5 11 3 .cl 0x3F1) ∧
    (decodeC (cm 0x0B 6 11 3 2 0x3F2)).toOption = some (.ldh 6 11 3 .pk 0x3F2) ∧
    (decodeC (cm 0x0C 7 11 3 3 0x3F3)).toOption = some (.ldhu 7 11 3 .sy 0x3F3) ∧
    (decodeC (cm 0x0D 8 11 3 0 0x3F4)).toOption = some (.ldw 8 11 3 .core 0x3F4) ∧
    (decodeC (cm 0x0E 9 11 3 1 0x3F5)).toOption = some (.ldwu 9 11 3 .cl 0x3F5) ∧
    (decodeC (cm 0x0F 10 11 3 2 0x3F6)).toOption = some (.ldd 10 11 3 .pk 0x3F6) ∧
    (decodeC (cm 0x10 4 11 3 3 0x200)).toOption = some (.stb 4 11 3 .sy 0x200) ∧
    (decodeC (cm 0x11 5 11 3 2 0x201)).toOption = some (.sth 5 11 3 .pk 0x201) ∧
    (decodeC (cm 0x12 6 11 3 1 0x202)).toOption = some (.stw 6 11 3 .cl 0x202) ∧
    (decodeC (cm 0x13 7 11 3 0 0x203)).toOption = some (.std 7 11 3 .core 0x203) := by decide +kernel
theorem test_decode_xmem :
    (decodeC (cx 0x14 4 12 20 3 0 0)).toOption = some (.ldbX 4 12 20 3 .indexed false) ∧
    (decodeC (cx 0x14 4 12 19 3 3 1)).toOption = some (.ldbuX 4 12 19 3 .scaled true) ∧
    (decodeC (cx 0x14 4 12 18 3 4 2)).toOption = some (.ldhX 4 12 18 3 .postInc false) ∧
    (decodeC (cx 0x14 4 12 17 3 7 3)).toOption = some (.ldhuX 4 12 17 3 .offset true) ∧
    (decodeC (cx 0x14 4 12 16 3 0 4)).toOption = some (.ldwX 4 12 16 3 .indexed false) ∧
    (decodeC (cx 0x14 4 12 15 3 3 5)).toOption = some (.ldwuX 4 12 15 3 .scaled true) ∧
    (decodeC (cx 0x14 4 12 14 3 4 6)).toOption = some (.lddX 4 12 14 3 .postInc false) ∧
    (decodeC (cx 0x14 4 12 13 3 7 7)).toOption = some (.ldq 4 12 13 3 .offset true) ∧
    (decodeC (cx 0x14 4 12 12 3 0 8)).toOption = some (.stbX 4 12 12 3 .indexed false) ∧
    (decodeC (cx 0x14 4 12 11 3 3 9)).toOption = some (.sthX 4 12 11 3 .scaled true) ∧
    (decodeC (cx 0x14 4 12 10 3 4 10)).toOption = some (.stwX 4 12 10 3 .postInc false) ∧
    (decodeC (cx 0x14 4 12 9 3 7 11)).toOption = some (.stdX 4 12 9 3 .offset true) ∧
    (decodeC (cx 0x14 4 12 8 3 0 12)).toOption = some (.stq 4 12 8 3 .indexed false) := by decide +kernel
theorem test_decode_sync :
    (decodeC (cx 0x15 5 6 0 2 0 0b0000)).toOption = some (.ldff 5 6 2 .core .unbounded) ∧
    (decodeC (cx 0x15 5 6 7 2 1 0b1001)).toOption = some (.ldfe 5 6 2 .pk (.bounded 7)) ∧
    (decodeC (cx 0x15 5 6 3 2 2 0b1110)).toOption = some (.stef 5 6 2 .sy (.attempt 3)) ∧
    (decodeC (cx 0x15 5 6 0 2 3 0b0100)).toOption = some (.stsf 5 6 2 .cl .unbounded) ∧
    (decodeC (cx 0x15 5 6 0 2 4 0b1000)).toOption = some (.ferd 5 6 2 .pk) ∧
    (decodeC (cx 0x15 0 6 0 2 5 0b1100)).toOption = some (.feset 6 2 .sy) ∧
    (decodeC (cx 0x15 0 6 0 2 6 0b0000)).toOption = some (.feclr 6 2 .core) := by decide +kernel
theorem test_decode_atomic :
    (decodeC (cx 0x16 0 13 14 1 0 0)).toOption = some (.aadd false 0 13 14 1 .core) ∧
    (decodeC (cx 0x17 1 13 14 1 2 1)).toOption = some (.aand true 1 13 14 1 .cl) ∧
    (decodeC (cx 0x16 2 13 14 1 4 2)).toOption = some (.aor false 2 13 14 1 .pk) ∧
    (decodeC (cx 0x17 3 13 14 1 6 3)).toOption = some (.axor true 3 13 14 1 .sy) ∧
    (decodeC (cx 0x16 4 13 14 1 0 4)).toOption = some (.amin false 4 13 14 1 .core) ∧
    (decodeC (cx 0x17 5 13 14 1 2 5)).toOption = some (.amax true 5 13 14 1 .cl) ∧
    (decodeC (cx 0x16 6 13 14 1 4 6)).toOption = some (.aminu false 6 13 14 1 .pk) ∧
    (decodeC (cx 0x17 7 13 14 1 6 7)).toOption = some (.amaxu true 7 13 14 1 .sy) ∧
    (decodeC (cx 0x16 8 13 14 1 0 8)).toOption = some (.aswap false 8 13 14 1 .core) ∧
    (decodeC (cx 0x17 9 13 14 1 2 9)).toOption = some (.acas true 9 13 14 1 .cl) ∧
    (decodeC (cx 0x16 8 13 14 1 6 10)).toOption = some (.afadd 8 13 14 1 .sy) := by decide +kernel
theorem test_decode_fence :
    (decodeC (cx 0x18 0 0 0b01101 4 2 0)).toOption = some (.fence 13 4 .cl) ∧
    (decodeC (cx 0x18 5 6 0b00010 4 6 1)).toOption = some (.fencer 5 6 2 4 .sy) ∧
    (decodeC (cx 0x18 0 0 0 4 0 2)).toOption = some (.ifence 4) ∧
    (decodeC (cx 0x18 0 0 0 4 4 3)).toOption = some (.fenceTl 4 .pk) ∧
    (decodeC (cx 0x18 9 0 0 4 0 4)).toOption = some (.agf 9 4) ∧
    (decodeC (cx 0x18 0 0 0 4 0 5)).toOption = some (.agw 4) := by decide +kernel
theorem test_decode_vmem :
    (decodeC (cm 0x19 3 9 2 1 0x3FF)).toOption = some (.vld 3 9 2 .cl 0x3FF) ∧
    (decodeC (cm 0x1A 3 9 2 2 1)).toOption = some (.vst 3 9 2 .pk 1) ∧
    (decodeC (cx 0x1B 3 9 10 2 3 0)).toOption = some (.vlds 3 9 10 2 .e4m3) ∧
    (decodeC (cx 0x1B 3 9 10 2 7 1)).toOption = some (.vldx 3 9 10 2 .h) ∧
    (decodeC (cx 0x1B 3 9 0 2 5 2)).toOption = some (.vldb 3 9 2 .mi8) ∧
    (decodeC (cx 0x1B 3 9 10 2 0 3)).toOption = some (.vsts 3 9 10 2) ∧
    (decodeC (cx 0x1B 3 9 10 2 0 4)).toOption = some (.vstx 3 9 10 2) ∧
    (decodeC (cx 0x1C 3 9 6 2 1 0)).toOption = some (.vstn 3 9 .sr 2 .bf16) ∧
    (decodeC (cx 0x1C 3 9 0 0 0 1)).toOption = some (.vspill 3 9) ∧
    (decodeC (cx 0x1C 3 9 0 0 0 2)).toOption = some (.vfill 3 9) ∧
    (decodeC (cx 0x1C 3 9 4 2 0 3)).toOption = some (.fstn 3 9 .rmm 2 .mi8) := by decide +kernel
theorem test_decode_te :
    (decodeC (cx 0x1D 5 6 8 1 3 0)).toOption = some (.tcopy 5 6 8 1 3) ∧
    (decodeC (cx 0x1D 5 6 8 1 4 1)).toOption = some (.tcopy2d 5 6 8 1 4) ∧
    (decodeC (cx 0x1D 5 6 8 1 5 2)).toOption = some (.tgather 5 6 8 1 5) ∧
    (decodeC (cx 0x1D 5 6 8 1 6 3)).toOption = some (.tscatter 5 6 8 1 6) ∧
    (decodeC (cx 0x1D 5 6 8 1 7 4)).toOption = some (.tfill 5 6 8 1 7) ∧
    (decodeC (cx 0x1D 0 0 0 1 6 5)).toOption = some (.twait (.tag 6) 1) ∧
    (decodeC (cx 0x1D 0 0 1 1 0 5)).toOption = some (.twait .all 1) := by decide +kernel
theorem test_decode_queue :
    (decodeC (cx 0x1E 5 6 7 1 5 0)).toOption = some (.qenq 5 6 7 1 5) ∧
    (decodeC (cx 0x1E 5 6 7 1 7 1)).toOption = some (.qdeq 5 6 7 1 7) ∧
    (decodeC (cx 0x1E 5 6 3 1 2 2)).toOption = some (.qtry 5 6 3 1 2) ∧
    (decodeC (cx 0x1E 5 6 3 1 4 3)).toOption = some (.qpoll 5 6 3 1 4) ∧
    (decodeC (cx 0x1E 5 6 12 1 0 4)).toOption = some (.callat 5 6 12 1) ∧
    (decodeC (cx 0x1E 5 0 0 1 0 5)).toOption = some (.retv 5 1) ∧
    (decodeC (cx 0x1E 0 6 12 1 0 6)).toOption = some (.amsg 6 12 1) ∧
    (decodeC (cx 0x1E 5 6 12 1 1 6)).toOption = some (.amsgRet 5 6 12 1) := by decide +kernel
theorem test_decode_task :
    (decodeC (cx 0x1F 5 6 8 1 0 0)).toOption = some (.frame 5 6 8 1) ∧
    (decodeC (cx 0x1F 5 6 0 1 0 1)).toOption = some (.spawn 5 6 1) ∧
    (decodeC (cx 0x1F 5 0 0 1 0 2)).toOption = some (.sync 5 1) ∧
    (decodeC (cx 0x1F 5 0 0 1 0 3)).toOption = some (.tend 5 1) ∧
    (decodeC (cx 0x1F 5 6 0 1 0 4)).toOption = some (.publish 5 6 1) ∧
    (decodeC (cx 0x1F 5 0 3 1 0 5)).toOption = some (.launch 5 3 1) := by decide +kernel
theorem test_decode_strand :
    (decodeC (cx 0x20 5 0 15 1 0 0)).toOption = some (.shrd 5 15 1) ∧
    (decodeC (cx 0x20 5 0 15 1 0 1)).toOption = some (.shwr 5 15 1) ∧
    (decodeC (cx 0x20 0 0 9 1 0 2)).toOption = some (.semp 9 1) ∧
    (decodeC (cx 0x20 0 0 9 1 0 3)).toOption = some (.semv 9 1) ∧
    (decodeC (cx 0x20 0 0 3 1 2 4)).toOption = some (.bar 3 1 .cl) ∧
    (decodeC (cx 0x20 0 6 2 1 0 5)).toOption = some (.xborrow 6 2 1) ∧
    (decodeC (cx 0x20 5 6 0 1 3 6)).toOption = some (.xmov 5 6 1 true true) ∧
    (decodeC (cx 0x20 0 0 0 1 0 7)).toOption = some (.xreturn 1) ∧
    (decodeC (cx 0x20 5 6 0 1 0 8)).toOption = some (.migrate 5 6 1) ∧
    (decodeC (cx 0x20 0 0 0 1 0 9)).toOption = some (.hbeat 1) ∧
    (decodeC (cx 0x20 5 0 0 1 0 10)).toOption = some (.waitt 5 1) ∧
    (decodeC (cx 0x20 0 0 0 1 0 11)).toOption = some (.yield 1) := by decide +kernel
theorem test_decode_system :
    (decodeC (cx 0x21 1 2 3 0 0 0)).toOption = some (.sysc 1091) ∧
    (decodeC (cx 0x21 31 31 31 0 0 1)).toOption = some (.brk 32767) ∧
    (decodeC (cx 0x21 0 0 0 1 0 2)).toOption = some (.xret 1) ∧
    (decodeC (cx 0x21 5 0 0 1 4 3)).toOption = some (.tlbinv 5 1 .pk) ∧
    (decodeC (cx 0x21 5 6 0 1 0 4)).toOption = some (.cctlWb 5 6 1) ∧
    (decodeC (cx 0x21 5 6 0 1 1 4)).toOption = some (.cctlInv 5 6 1) ∧
    (decodeC (cx 0x21 5 6 0 1 2 4)).toOption = some (.cctlWbinv 5 6 1) ∧
    (decodeC (cx 0x21 5 6 0 1 3 4)).toOption = some (.cctlPrefetch 5 6 1) ∧
    (decodeC (cx 0x21 0 0 0 1 4 4)).toOption = some (.cctlWbL1d 1) ∧
    (decodeC (cx 0x21 0 0 0 1 5 4)).toOption = some (.cctlInvCc 1) ∧
    (decodeC (cx 0x21 5 0 0 1 6 4)).toOption = some (.cctlSetCc 5 1) ∧
    (decodeC (ci 0x22 5 0 1 0x034)).toOption = some (.crrd 5 1 0x034) ∧
    (decodeC (ci 0x22 0 6 1 0x104)).toOption = some (.crwr 6 1 0x104) ∧
    (decodeC (ci 0x22 5 6 1 0x000)).toOption = some (.crswp 5 6 1 0) := by decide +kernel
theorem test_decode_alu :
    (decodeA (ar 0x01 4 6 8 0 0 5)).toOption = some (.add .i64 4 6 8 5) ∧
    (decodeA (ar 0x01 4 6 8 1 1 5)).toOption = some (.sub .i32 4 6 8 5) ∧
    (decodeA (ar 0x01 4 6 8 2 2 5)).toOption = some (.and .z32 4 6 8 5) ∧
    (decodeA (ar 0x01 4 6 8 3 3 5)).toOption = some (.or .q 4 6 8 5) ∧
    (decodeA (ar 0x01 4 6 8 4 0 5)).toOption = some (.xor .i64 4 6 8 5) ∧
    (decodeA (ar 0x01 4 6 8 5 1 5)).toOption = some (.andn .i32 4 6 8 5) ∧
    (decodeA (ar 0x01 4 6 8 6 2 5)).toOption = some (.shl .z32 4 6 8 5) ∧
    (decodeA (ar 0x01 4 6 8 7 3 5)).toOption = some (.shr .q 4 6 8 5) ∧
    (decodeA (ar 0x01 4 6 8 8 0 5)).toOption = some (.sra .i64 4 6 8 5) ∧
    (decodeA (ar 0x01 4 6 8 9 1 5)).toOption = some (.ror .i32 4 6 8 5) ∧
    (decodeA (ar 0x01 4 6 8 10 1 5)).toOption = some (.min .i32 4 6 8 5) ∧
    (decodeA (ar 0x01 4 6 8 11 2 5)).toOption = some (.max .z32 4 6 8 5) ∧
    (decodeA (ar 0x01 4 6 8 12 0 5)).toOption = some (.minu .i64 4 6 8 5) ∧
    (decodeA (ar 0x01 4 6 8 13 1 5)).toOption = some (.maxu .i32 4 6 8 5) ∧
    (decodeA (ar 0x01 4 6 8 14 2 5)).toOption = some (.mul .z32 4 6 8 5) ∧
    (decodeA (ar 0x01 4 6 8 15 0 5)).toOption = some (.mulh .i64 4 6 8 5) ∧
    (decodeA (ar 0x01 4 6 8 16 1 5)).toOption = some (.mulhu .i32 4 6 8 5) ∧
    (decodeA (ar 0x01 4 6 8 17 2 5)).toOption = some (.div .z32 4 6 8 5) ∧
    (decodeA (ar 0x01 4 6 8 18 0 5)).toOption = some (.divu .i64 4 6 8 5) ∧
    (decodeA (ar 0x01 4 6 8 19 1 5)).toOption = some (.rem .i32 4 6 8 5) ∧
    (decodeA (ar 0x01 4 6 8 20 2 5)).toOption = some (.remu .z32 4 6 8 5) := by decide +kernel
theorem test_decode_bits :
    (decodeA (ar 0x02 4 6 0 0 0 5)).toOption = some (.clz .i64 4 6 5) ∧
    (decodeA (ar 0x02 4 6 0 1 1 5)).toOption = some (.ctz .i32 4 6 5) ∧
    (decodeA (ar 0x02 4 6 0 2 2 5)).toOption = some (.popc .z32 4 6 5) ∧
    (decodeA (ar 0x02 4 6 0 3 2 5)).toOption = some (.sext .w 4 6 5) ∧
    (decodeA (ar 0x02 4 6 0 4 1 5)).toOption = some (.zext .h 4 6 5) ∧
    (decodeA (ar 0x02 4 6 8 5 0 5)).toOption = some (.bfx 4 6 8 5) ∧
    (decodeA (ar 0x02 4 6 8 6 0 5)).toOption = some (.bfxu 4 6 8 5) ∧
    (decodeA (ar 0x02 4 6 8 7 0 5)).toOption = some (.bfi 4 6 8 5) := by decide +kernel
theorem test_decode_compare :
    (decodeA (ar 0x03 7 6 8 0 0 5)).toOption = some (.cmpeq .i64 7 6 8 5) ∧
    (decodeA (ar 0x03 7 6 8 1 1 5)).toOption = some (.cmpne .i32 7 6 8 5) ∧
    (decodeA (ar 0x03 7 6 8 2 2 5)).toOption = some (.cmplt .z32 7 6 8 5) ∧
    (decodeA (ar 0x03 7 6 8 3 3 5)).toOption = some (.cmple .q 7 6 8 5) ∧
    (decodeA (ar 0x03 7 6 8 4 0 5)).toOption = some (.cmpltu .i64 7 6 8 5) ∧
    (decodeA (ar 0x03 7 6 8 5 1 5)).toOption = some (.cmpleu .i32 7 6 8 5) ∧
    (decodeA (ar 0x03 1 2 3 8 0 5)).toOption = some (.pand 1 2 3 5) ∧
    (decodeA (ar 0x03 1 2 3 9 0 5)).toOption = some (.por 1 2 3 5) ∧
    (decodeA (ar 0x03 1 2 3 10 0 5)).toOption = some (.pxor 1 2 3 5) ∧
    (decodeA (ar 0x03 1 2 3 11 0 5)).toOption = some (.pandn 1 2 3 5) ∧
    (decodeA (ar 0x03 1 2 0 12 0 5)).toOption = some (.pnot 1 2 5) ∧
    (decodeA (ar 0x03 9 0 0 14 0 5)).toOption = some (.prd 9 5) ∧
    (decodeA (ar 0x03 0 9 0 15 0 5)).toOption = some (.pwr 9 5) := by decide +kernel
theorem test_decode_immediate :
    (decodeA (ai 0x04 4 6 0x1FFF 5)).toOption = some (.addi 4 6 (-1) 5) ∧
    (decodeA (ai 0x05 4 6 1 5)).toOption = some (.andi 4 6 1 5) ∧
    (decodeA (ai 0x06 4 6 2 5)).toOption = some (.ori 4 6 2 5) ∧
    (decodeA (ai 0x07 4 6 0x1000 5)).toOption = some (.xori 4 6 0x1000 5) ∧
    (decodeA (ai 0x08 4 6 0x003F 5)).toOption = some (.shli 4 6 63 5) ∧
    (decodeA (ai 0x08 4 6 0x0801 5)).toOption = some (.shri 4 6 1 5) ∧
    (decodeA (ai 0x08 4 6 0x1002 5)).toOption = some (.srai 4 6 2 5) ∧
    (decodeA (ai 0x08 4 6 0x1803 5)).toOption = some (.rori 4 6 3 5) ∧
    (decodeA (ai 0x09 4 0 0x1D93 5)).toOption = some (.movi 4 0x1D93 5) ∧
    (decodeA (ai 0x09 4 3 0x11FD 5)).toOption = some (.movh 4 3 0x11FD 5) := by decide +kernel
theorem test_decode_address :
    (decodeA (ar 0x0A 4 6 8 0 7 5)).toOption = some (.lea 4 6 8 7 5) ∧
    (decodeA (ar 0x0A 4 6 0 1 0 5)).toOption = some (.cvta 4 6 5) ∧
    (decodeA (ar 0x0A 4 6 8 2 3 5)).toOption = some (.sel 4 3 6 8 5) ∧
    (decodeA (ar 0x0A 4 6 0 3 0 5)).toOption = some (.mov 4 6 5) := by decide +kernel
theorem test_decode_fp :
    (decodeA (ar 0x0B 4 6 8 0 0 5)).toOption = some (.fadd .f32 4 6 8 5) ∧
    (decodeA (ar 0x0B 4 6 8 1 1 5)).toOption = some (.fsub .bf16 4 6 8 5) ∧
    (decodeA (ar 0x0B 4 6 8 2 2 5)).toOption = some (.fmul .f16 4 6 8 5) ∧
    (decodeA (ar 0x0B 4 6 8 3 3 5)).toOption = some (.fdiv .e4m3 4 6 8 5) ∧
    (decodeA (ar 0x0B 4 6 0 4 4 5)).toOption = some (.fsqrt .e5m2 4 6 5) ∧
    (decodeA (ar 0x0B 4 6 8 5 5 5)).toOption = some (.fmin .e3m2 4 6 8 5) ∧
    (decodeA (ar 0x0B 4 6 8 6 6 5)).toOption = some (.fmax .e2m3 4 6 8 5) ∧
    (decodeA (ar 0x0C 4 6 8 11 7 5)).toOption = some (.ffma .e2m1 4 6 8 11 5) ∧
    (decodeA (ar 0x0D 3 6 8 0 0 5)).toOption = some (.fcmpeq 3 6 8 5) ∧
    (decodeA (ar 0x0D 3 6 8 1 0 5)).toOption = some (.fcmplt 3 6 8 5) ∧
    (decodeA (ar 0x0D 3 6 8 2 0 5)).toOption = some (.fcmple 3 6 8 5) ∧
    (decodeA (ar 0x0D 3 6 8 3 0 5)).toOption = some (.fcmpun 3 6 8 5) ∧
    (decodeA (ar 0x0D 4 6 0 4 0 5)).toOption = some (.fclass 4 6 5) ∧
    (decodeA (ar 0x0E 4 6 0 0 0 5)).toOption = some (.fneg 4 6 5) ∧
    (decodeA (ar 0x0E 4 6 0 1 0 5)).toOption = some (.fabs 4 6 5) ∧
    (decodeA (ar 0x0E 4 6 0 2 3 5)).toOption = some (.fcvt .e4m3 4 6 5) ∧
    (decodeA (ar 0x0E 4 6 0 3 1 5)).toOption = some (.fcvtif .bf16 4 6 5) ∧
    (decodeA (ar 0x0E 4 6 0 4 0 5)).toOption = some (.fcvtfi 4 6 5) ∧
    (decodeA (ar 0x0E 4 6 8 5 0 5)).toOption = some (.fstk 4 6 8 5) ∧
    (decodeA (ar 0x0E 4 6 0 6 0 5)).toOption = some (.fstkr 4 6 5) := by decide +kernel
theorem test_decode_vint :
    (decodeA (ar 0x10 4 6 8 0 0 2)).toOption = some (.vadd .i32 4 6 8 2) ∧
    (decodeA (ar 0x10 4 6 8 1 1 2)).toOption = some (.vsub .z32 4 6 8 2) ∧
    (decodeA (ar 0x10 4 6 8 2 2 2)).toOption = some (.vand .i64 4 6 8 2) ∧
    (decodeA (ar 0x10 4 6 8 3 0 2)).toOption = some (.vor .i32 4 6 8 2) ∧
    (decodeA (ar 0x10 4 6 8 4 1 2)).toOption = some (.vxor .z32 4 6 8 2) ∧
    (decodeA (ar 0x10 4 6 8 5 2 2)).toOption = some (.vandn .i64 4 6 8 2) ∧
    (decodeA (ar 0x10 4 6 8 6 0 2)).toOption = some (.vshl .i32 4 6 8 2) ∧
    (decodeA (ar 0x10 4 6 8 7 1 2)).toOption = some (.vshr .z32 4 6 8 2) ∧
    (decodeA (ar 0x10 4 6 8 8 2 2)).toOption = some (.vsra .i64 4 6 8 2) ∧
    (decodeA (ar 0x10 4 6 8 9 0 2)).toOption = some (.vmin .i32 4 6 8 2) ∧
    (decodeA (ar 0x10 4 6 8 10 1 2)).toOption = some (.vmax .z32 4 6 8 2) ∧
    (decodeA (ar 0x10 4 6 8 11 2 2)).toOption = some (.vmul .i64 4 6 8 2) ∧
    (decodeA (ar 0x10 4 6 8 12 0 2)).toOption = some (.vmulh .i32 4 6 8 2) ∧
    (decodeA (ar 0x11 3 6 8 0 0 2)).toOption = some (.vcmpeq .i32 3 6 8 2) ∧
    (decodeA (ar 0x11 3 6 8 1 1 2)).toOption = some (.vcmpne .z32 3 6 8 2) ∧
    (decodeA (ar 0x11 3 6 8 2 2 2)).toOption = some (.vcmplt .i64 3 6 8 2) ∧
    (decodeA (ar 0x11 3 6 8 3 0 2)).toOption = some (.vcmple .i32 3 6 8 2) := by decide +kernel
theorem test_decode_mask :
    (decodeA (ar 0x12 1 3 5 0 0 2)).toOption = some (.mand 1 3 5 2) ∧
    (decodeA (ar 0x12 1 3 5 1 0 2)).toOption = some (.mor 1 3 5 2) ∧
    (decodeA (ar 0x12 1 3 5 2 0 2)).toOption = some (.mxor 1 3 5 2) ∧
    (decodeA (ar 0x12 1 3 5 3 0 2)).toOption = some (.mandn 1 3 5 2) ∧
    (decodeA (ar 0x12 1 3 0 4 0 2)).toOption = some (.mnot 1 3 2) ∧
    (decodeA (ar 0x12 9 3 0 5 0 2)).toOption = some (.mpopc 9 3 2) ∧
    (decodeA (ar 0x12 1 9 0 6 0 2)).toOption = some (.mfromg 1 9 2) ∧
    (decodeA (ar 0x12 9 3 0 7 0 2)).toOption = some (.mtog 9 3 2) := by decide +kernel
theorem test_decode_vfp :
    (decodeA (ar 0x13 4 6 8 0 0 2)).toOption = some (.vfadd .f32 4 6 8 2) ∧
    (decodeA (ar 0x13 4 6 8 1 1 2)).toOption = some (.vfsub .bf16 4 6 8 2) ∧
    (decodeA (ar 0x13 4 6 8 2 2 2)).toOption = some (.vfmul .f16 4 6 8 2) ∧
    (decodeA (ar 0x13 4 6 8 3 3 2)).toOption = some (.vfdiv .e4m3 4 6 8 2) ∧
    (decodeA (ar 0x13 4 6 0 4 4 2)).toOption = some (.vfsqrt .e5m2 4 6 2) ∧
    (decodeA (ar 0x13 4 6 8 5 5 2)).toOption = some (.vfmin .e3m2 4 6 8 2) ∧
    (decodeA (ar 0x13 4 6 8 6 6 2)).toOption = some (.vfmax .e2m3 4 6 8 2) ∧
    (decodeA (ar 0x13 4 6 0 7 0 2)).toOption = some (.vfneg 4 6 2) ∧
    (decodeA (ar 0x13 4 6 0 8 0 2)).toOption = some (.vfabs 4 6 2) ∧
    (decodeA (ar 0x14 4 6 8 11 1 2)).toOption = some (.vffma .bf16 4 6 8 11 2) ∧
    (decodeA (ar 0x15 3 6 8 0 0 2)).toOption = some (.vfcmpeq 3 6 8 2) ∧
    (decodeA (ar 0x15 3 6 8 1 0 2)).toOption = some (.vfcmplt 3 6 8 2) ∧
    (decodeA (ar 0x15 3 6 8 2 0 2)).toOption = some (.vfcmple 3 6 8 2) ∧
    (decodeA (ar 0x15 3 6 8 3 0 2)).toOption = some (.vfcmpun 3 6 8 2) ∧
    (decodeA (ar 0x15 9 6 0 4 2 2)).toOption = some (.vfred .f16 9 6 2) ∧
    (decodeA (ar 0x15 9 6 0 5 3 2)).toOption = some (.vfrmin .e4m3 9 6 2) ∧
    (decodeA (ar 0x15 9 6 0 6 4 2)).toOption = some (.vfrmax .e5m2 9 6 2) ∧
    (decodeA (ar 0x16 4 6 0 0 5 2)).toOption = some (.vfcvt .e3m2 4 6 2) ∧
    (decodeA (ar 0x16 4 6 0 1 6 2)).toOption = some (.vfcvtif .e2m3 4 6 2) ∧
    (decodeA (ar 0x16 4 6 0 2 0 2)).toOption = some (.vfcvtfi 4 6 2) ∧
    (decodeA (ar 0x16 4 6 0 3 0 2)).toOption = some (.vfrcp .f32 4 6 2) ∧
    (decodeA (ar 0x16 4 6 0 4 1 2)).toOption = some (.vfrsqrt .bf16 4 6 2) ∧
    (decodeA (ar 0x16 4 6 0 5 2 2)).toOption = some (.vfexp2 .f16 4 6 2) ∧
    (decodeA (ar 0x16 4 6 0 6 3 2)).toOption = some (.vflog2 .e4m3 4 6 2) := by decide +kernel
theorem test_decode_permute :
    (decodeA (ar 0x17 4 6 8 0 0 2)).toOption = some (.vperm 4 6 8 2) ∧
    (decodeA (ar 0x17 4 6 8 1 0 2)).toOption = some (.vslide 4 6 8 2) ∧
    (decodeA (ar 0x17 4 6 8 2 0 2)).toOption = some (.vzip 4 6 8 2) ∧
    (decodeA (ar 0x17 4 6 0 3 0 2)).toOption = some (.vunzip 4 6 2) ∧
    (decodeA (ar 0x17 4 6 0 4 0 2)).toOption = some (.vbcast 4 6 2) ∧
    (decodeA (ar 0x17 4 6 0 5 0 2)).toOption = some (.vcompress 4 6 2) ∧
    (decodeA (ar 0x17 4 6 0 6 0 2)).toOption = some (.vexpand 4 6 2) ∧
    (decodeA (ar 0x17 4 6 0 7 0 2)).toOption = some (.vmov 4 6 2) ∧
    (decodeA (ar 0x18 4 6 8 0b00101 7 2)).toOption = some (.vqmx .e2m1 .ro 4 8 6 2) ∧
    (decodeA (ar 0x18 4 6 8 0b01000 3 2)).toOption = some (.vdqmx .e4m3 4 6 8 2) ∧
    (decodeA (ar 0x18 4 6 0 0b10010 5 2)).toOption = some (.vpack .e3m2 .ru 4 6 2) ∧
    (decodeA (ar 0x19 4 6 8 0 0 2)).toOption = some (.rngh 4 6 8 2) ∧
    (decodeA (ar 0x19 4 6 8 1 0 2)).toOption = some (.vrngh 4 6 8 2) ∧
    (decodeA (ar 0x19 4 6 8 2 0 2)).toOption = some (.vins 4 6 8 2) ∧
    (decodeA (ar 0x19 4 6 8 3 0 2)).toOption = some (.vext 4 6 8 2) := by decide +kernel
theorem test_decode_matrix :
    (decodeA (ar 0x1A 0 6 3 0 0 5)).toOption = some (.mset .ring 6 5) ∧
    (decodeA (ar 0x1A 0 6 13 0 0 5)).toOption = some (.mset (.acc 5) 6 5) ∧
    (decodeA (ar 0x1A 3 6 0 1 0 5)).toOption = some (.mzero 3 6 5) ∧
    (decodeA (ar 0x1A 0b10011 6 8 2 0 5)).toOption = some (.mlda .pk 3 6 8 5) ∧
    (decodeA (ar 0x1A 0 6 0 3 0 5)).toOption = some (.mseed 6 5) ∧
    (decodeA (ar 0x1A 0 0 0 4 0 5)).toOption = some (.mwait 5) ∧
    (decodeA (ar 0x1A 0 6 8 5 0 5)).toOption = some (.mring 6 8 5) ∧
    (decodeA (ar 0x1A 0b11101 6 8 29 1 5)).toOption = some (.msta .bf16 .sy .ro 5 6 8 5) ∧
    (decodeA (am 0x21 5 3 63 2 8 9 1)).toOption = some (.mma .e5m2 .mi8 3 63 2 8 9 .rot) ∧
    (decodeA (am 0x25 0 7 1 0 8 9 2)).toOption = some (.mma .mi8 .e4m3 7 1 0 8 9 .sparse) ∧
    (decodeA (am 0x26 0 2 4 1 8 0 0)).toOption = some (.mmaBf16 2 4 1 8 .plain) := by decide +kernel

/-! ### Words the decoder refuses, and terms that are not well formed (R71, R84) -/

theorem test_refused_words :
    (decodeC (0x80000000 + 0x07 * 2 ^ 25)).toOption = none ∧ (decodeC (cr 0x00 0 0 0 0 0 2)).toOption = none ∧
    (decodeC (ci 0x08 0 0 0 7)).toOption = none ∧ (decodeC (cx 0x14 4 4 1 0 4 0)).toOption = none ∧
    (decodeA (ar 0x01 4 6 8 10 3 0)).toOption = none ∧ (decodeA (ar 0x01 4 6 8 0 4 0)).toOption = none ∧
    (decodeA (ar 0x03 8 4 6 0 0 0)).toOption = none ∧ (decodeA (ai 0x09 4 5 1 0)).toOption = none ∧
    (decodeA (ai 0x09 4 4 0x1000 0)).toOption = none ∧ (decodeA 0xFFFFFFFF).toOption = none := by decide +kernel

theorem test_ill_formed_words : ∀ i ∈ ([
    .loopi false 0 0 1, .loopr false 4 0 0, .ldbX 4 4 6 0 .postInc false, .ldbuX 4 4 6 0 .postInc false, .ldhX 4 4 6 0 .postInc false,
    .ldhuX 4 4 6 0 .postInc false, .ldwX 4 4 6 0 .postInc false, .ldwuX 4 4 6 0 .postInc false, .lddX 4 4 6 0 .postInc false,
    .ldq 4 4 6 0 .postInc false, .fence 0 0 .core, .fencer 4 6 0 0 .core, .qenq 4 6 8 0 6, .qtry 4 6 1 0 7, .crrd 4 0 0x017,
    .crwr 4 0 0x106, .crwr 0 0 0x000, .crswp 0 4 0 0x000, .crswp 4 0 0 0x000, .crswp 4 6 0 0x058,
    .min .q 2 4 6 0, .max .q 2 4 6 0, .minu .q 2 4 6 0, .maxu .q 2 4 6 0, .mul .q 2 4 6 0, .mulh .q 2 4 6 0, .mulhu .q 2 4 6 0,
    .div .q 2 4 6 0, .divu .q 2 4 6 0, .rem .q 2 4 6 0, .remu .q 2 4 6 0, .clz .q 2 4 0, .ctz .q 2 4 0, .popc .q 2 4 0,
    .movh 4 0 1 0, .movh 4 5 1 0, .movh 4 4 0x1000 0, .vqmx .bf16 .rne 2 4 6 0, .vqmx .f16 .rne 2 4 6 0] : List Instr),
    i.wellFormed = false := by decide +kernel

theorem test_ill_formed_events : ∀ i ∈ ([
    .delayedCompletion 3072 0, .delayedCompletion 0 16, .hbmFill 64 0, .sliceEvict 64 0, .replicaInvalAck 64 0 0, .pageWalkDone 192,
    .walkerReadError 192 true, .ptsTick 3072, .hotWindow 64, .syncWaitExpire 0 16, .syncBusyRetry 3072 0, .aggAgeSend 0 16,
    .aggSendResume 3072, .qenqRetry 0 16, .queueWaitExpire 0 16, .slotOffer 3072, .dequeSpillDone 0 16, .stealProbe 3072,
    .stealPauseEnd 3072, .yieldEnd 0 16, .waittRelease 0 16, .heartbeatMiss 0 16, .meCommandStart 3072, .latchTileArrive 3072,
    .mmaTile 3072, .tileHandOn 3072, .rotateCopy 3072, .meCommandDone 3072, .teCommandDone 3072 0, .jobEntryRead 0 64,
    .jobEntryRead 64 0, .edgeTest 64, .jobAging 64 0, .jobPlace 64, .gangStart 192, .jobComplete 64 0, .switchStop 64,
    .switchSaveDone 64, .switchResume 64, .admissionCredit 512, .portCrcFail 18 false, .handlerRun 64, .bindEntry 64,
    .fcsrWrite 0 16 0, .hbiWrite 3072 0 0, .agageWrite 0 16 0, .qcfgEnable 3072 0 0, .qcfgDisable 3072 0 0, .swctlArm 64 0,
    .swctlRes 64 0, .unfence 64 0, .pmctlGo 64 0, .pageCopyDone 64, .pmctlClr 64 0, .bctlGo 64 0, .sqcfgEnable 0 64 0,
    .sqcfgDisable 64 0 0, .doorbell 0 64 0, .msireq 64 0, .memoryReadError 64 0 false, .accEccError 3072 false,
    .islandFreqChange 20 1000, .islandStallEnd 20] : List Instr),
    i.wellFormed = false := by decide +kernel

/-! ### States for the tests -/

/-- Core 0 is about to execute a word in slot 0; the strand is that of `placeWord`. -/
def s0 : State := (placeWord State.reset 0 0).atSlot 0 0
/-- The strand that issues changed, before the bundle and now. -/
def put (f : Strand → Strand) (s : State) : State :=
  let t := s.setStrand (f s.strand)
  { t with cur := { t.cur with pre := t.strand } }
def gput (r : GR) (v : W64) : State → State := put fun x => { x with g := rset x.g r { data := v, s := false, full := true } }
/-- `g6` names the last 16 bytes of the own LM, its last 128, and its second byte. -/
def sLm : State := gput 6 (ownLmBase + 0x3FFF0) s0
def sLmV : State := gput 6 (ownLmBase + 0x3FF80) s0
def sLmI : State := gput 6 (ownLmBase + 0x3FF7C) s0
def sLmN : State := gput 6 (ownLmBase + 0x3FFE0) s0
def sMis : State := gput 6 (ownLmBase + 1) s0
/-- `g6` names the LM of core 16, in another cluster of the partition. -/
def sFar : State := gput 6 0x01E0000000400000 { s0 with parts := [(0, { exists_ := true, clusters := [0, 1] })] }
/-- `g6` is a global address that the core's TLB translates. -/
def sGl : State :=
  { s0 with cores := tset s0.cores 0 { s0.core 0 with l1tlb := [{ part := 0, va := 0, pa := 0, lg := 21, flags := 0x1F, slot := 0 }] }
            parts := [(0, { exists_ := true, clusters := [0], slices := [0], hbm := 2 ^ 21 })] }
def sPriv : State := put (fun x => { x with priv := true, x := { x.x with lv := true } }) s0
/-- The word at offset 0 of the LM of core 0 is empty. -/
def sEmpty : State := { s0 with fe := [(Loc.lm 0 0).key / 8] }
/-- The strand belongs to a gang on cores 0 and 1. -/
def sGang : State :=
  put (fun x => { x with role := .gang 0 }) { s0 with gangs := [(0, { job := 0, cluster := 0, size := 2, cores := [0, 1], barriers := 16, bars := List.range 16 })] }
/-- Queue 3 of core 0, of class QPOLL or not, holds an 8-byte token; `g6` as in `sLm`. -/
def sQ (cls : Bool) : State :=
  { sLm with cores := tset sLm.cores 0 { sLm.core 0 with queues := vset (sLm.core 0).queues 3 { en := true, cls, tokens := [(8, 0, 0)], tail := 1 } } }
/-- A frame header at offset 0x3FF80 of the own LM whose counter word is at 0x10. -/
def sTask : State := gput 6 (ownLmBase + 0x3FF80) { s0 with mem := memWriteN s0.mem (Loc.lm 0 0x3FF80).key (leBytes 8 (ownLmBase + 0x10).toNat) }
def sFull : State := { sTask with cores := tset sTask.cores 0 { sTask.core 0 with ringCount := 4096, deque := List.replicate 64 { pc := 0, frame := 0, counter := 0, tiles := 0 } } }
/-- Queue 3 is open, of class QDEQ, and holds nothing. -/
def sQ0 : State := { sLm with cores := tset sLm.cores 0 { sLm.core 0 with queues := vset (sLm.core 0).queues 3 { en := true } } }
/-- A task whose core's deque holds an entry. -/
def sPop : State := put (fun x => { x with role := .root }) { s0 with cores := tset s0.cores 0 { s0.core 0 with deque := [{ pc := 0, frame := 0, counter := 0, tiles := 0 }] } }
/-- Overflow traps, and the lanes of `v2` exceed `E4M3`. -/
def sOvf : State := put (fun x => { x with fcsr := { x.fcsr with fen := Flags.ofl }, v := rset x.v 2 { w := Vector.replicate 32 0x7F000000, s := 0 } }) sLmN
def sFrame : State := gput 6 (ownLmBase + 0x3FF80) (gput 8 0x01F0000000000000 s0)
/-- A gang's strand that is privileged. -/
def sTend : State := put (fun x => { x with priv := true, role := .gang 0 }) s0
def sLaunch : State := gput 4 ownLmBase s0

def withCore (n : Nat) (c : Core) (s : State) : State := { s with cores := tset s.cores n c }
def onCore0 (c : Core) : State := withCore 0 c State.reset
def onSlot15 (x : Slot) (r : List Req) : State := onCore0 { slots := (Vector.replicate 16 { }).set 15 x, reqs := r }
def onBuf15 (t : Option Trigger) : State :=
  onCore0 { aggs := (Vector.replicate 16 { }).set 15 { dest := some (.core 16), strands := 1, sending := t } }
def withCluster (n : Nat) (c : Cluster) (s : State) : State := { s with clusters := tset s.clusters n c }
def withSlice (n : Nat) (c : Slice) (s : State) : State := { s with slices := tset s.slices n c }
def onPart (p : Partition) : State := { State.reset with parts := [(0, p)] }
def withJob (n : Nat) (j : Job) : State := { State.reset with jobs := [(n, j)] }
def withGang (n : Nat) (g : Gang) (s : State) : State := { s with gangs := [(n, g)] }
/-- The time is `n` cycles, on every island. -/
def atTime (n : Nat) (s : State) : State := { s with time := n, islands := Vector.replicate 20 { cycles := n } }
def arrives (p : Packet) (s : State) : State := { s with arrived := [p] }
def taken (id : Nat) (s : State) : State := match s.takeArrived id with | some x => x.2 | none => s
/-- A table of five levels, with one leaf of 512 GiB … at level 4, and the walk that waits for it. -/
def sWalk : State :=
  { State.reset with
    parts := [(0, { hbm := 2 ^ 21, slices := [0], ten := true, ptRoot := 0 })]
    mem := memWriteN [] (Loc.hbm 0 0).key (leBytes 8 0x1001) ++ memWriteN [] (Loc.hbm 0 0x1000).key (leBytes 8 0x1F)
    clusters := [(0, { walks := [{ part := 0, va := 0, waiters := [] }] })] }
def tlbOf (s : State) : TlbEntry := (s.walk 0 0).getD { part := 0, va := 0, pa := 0, lg := 0, flags := 0, slot := 0 }
/-- A key request of a requester with mutual authentication: the operation, then slot 1. -/
def keyed (op : Byte) : State :=
  { State.reset with spdm := { mutualAuth := true }, mem := memWriteN [] (mbKey spdmBase) [op, 1], keys := [(1, { part := 0, key := [], binder := [] })] }
/-- The device takes no step of its own and core 0 is about to fetch the bytes. -/
def quiet (w : Nat) : State := placeWord { State.reset with auto := false } 64 w
def fetched (s : State) : State := match (s.atSlot 0 0).words with | .ok t => t | .error _ => s
def nextOf : Res → State | .next t => t | _ => State.reset
def isNext : Res → Bool | .next _ => true | _ => false
def tok : Token := { dev := 0, tdev := 0, core := 0, part := 0, target := 0, queue := 0, bytes := [], msg := false, slot := 15, req := 7 }
def te : TeCmd := { slot := 0, sid := 0, tag := 0, kind := .fill, a := 0, b := 0, s0 := 0, s1 := 0, who := { }, written := true, failed := true }
def dq : DequeEntry := { pc := 0, frame := 0, counter := 0, tiles := 0 }
def ag : AgendaEntry := { due := 0, what := .cnop }



/-! ### Results: the examples of the spec, and results worked out by hand from its rules -/

/-- Register `r`, or predicate `p`, after an instruction. -/
def gOf (i : Instr) (s : State) (r : GR) : W64 := (rget (nextOf (exec i s)).strand.g r).data
def sOf (i : Instr) (s : State) (r : GR) : Bool := (rget (nextOf (exec i s)).strand.g r).s
def pOf (i : Instr) (s : State) (p : PR) : Bool := (nextOf (exec i s)).strand.p.getLsbD p.toNat
def ab (x y : W64) : State := gput 4 x (gput 6 y s0)
def atLm (off n : Nat) (i : Instr) (s : State) : Nat := leNat ((nextOf (exec i s)).readAt (.lm 0 off) n)

/-- 03_encoding.md R53, 06 R134, 07 R190, 15: words the spec prints. -/
theorem test_printed_words :
    decodeTableWord 32 0x829FFFF8 = some (.bp 2 false (-8)) ∧ decodeTableWord 32 0xB2430002 = some (.vld 4 6 0 .core 2) ∧
    (decodeC 0x40100036).toOption = some (.xmov 1 0 0 true true) := by decide +kernel
/-- 05 R106: the example, and a sum that wraps. -/
theorem test_alu :
    gOf (.sra .i64 2 4 6 0) (ab 0x80000000 4) 2 = 0x08000000 ∧ gOf (.sra .i32 2 4 6 0) (ab 0x80000000 4) 2 = 0xFFFFFFFFF8000000 ∧
    gOf (.sra .z32 2 4 6 0) (ab 0x80000000 4) 2 = 0xF8000000 ∧ gOf (.add .i64 2 4 6 0) (ab 0xFFFFFFFFFFFFFFFF 1) 2 = 0 ∧
    gOf (.add .i32 2 4 6 0) (ab 0x7FFFFFFF 1) 2 = 0xFFFFFFFF80000000 ∧ gOf (.add .i64 0 4 6 0) (ab 1 1) 0 = 0 := by decide +kernel
/-- 05 R66, R106: a 128-bit sum carries into the upper register of its pair. -/
theorem test_alu_pair :
    gOf (.add .q 2 4 6 0) (ab 0xFFFFFFFFFFFFFFFF 1) 2 = 0 ∧ gOf (.add .q 2 4 6 0) (ab 0xFFFFFFFFFFFFFFFF 1) 3 = 1 ∧
    ((nextOf (exec (.add .q 3 4 6 0) s0)).strand.x.cause = 0x02) := by decide +kernel
/-- 05 R108: the corners of division, with the example. -/
theorem test_division :
    gOf (.div .i32 2 4 6 0) (ab 0x80000000 0xFFFFFFFFFFFFFFFF) 2 = 0xFFFFFFFF80000000 ∧ gOf (.div .i64 2 4 6 0) (ab 7 0) 2 = 0xFFFFFFFFFFFFFFFF ∧
    gOf (.rem .i64 2 4 6 0) (ab 7 0) 2 = 7 ∧ gOf (.rem .i64 2 4 6 0) (ab 0xFFFFFFFFFFFFFFF9 2) 2 = 0xFFFFFFFFFFFFFFFF ∧
    gOf (.divu .i64 2 4 6 0) (ab 0xFFFFFFFFFFFFFFF9 2) 2 = 0x7FFFFFFFFFFFFFFC ∧
    gOf (.mulhu .i64 2 4 6 0) (ab 0xFFFFFFFFFFFFFFFF 0xFFFFFFFFFFFFFFFF) 2 = 0xFFFFFFFFFFFFFFFE ∧
    gOf (.mulh .i64 2 4 6 0) (ab 0xFFFFFFFFFFFFFFFF 0xFFFFFFFFFFFFFFFF) 2 = 0 := by decide +kernel
/-- 05 R109, R110, R111: counts, extensions, and the example of the field instructions. -/
theorem test_counts_and_fields :
    gOf (.clz .i64 2 4 0) s0 2 = 64 ∧ gOf (.ctz .i32 2 4 0) (ab 0x100000000 0) 2 = 32 ∧ gOf (.popc .z32 2 4 0) (ab 0xF0000000F 0) 2 = 4 ∧
    gOf (.sext .b 2 4 0) (ab 0x80 0) 2 = 0xFFFFFFFFFFFFFF80 ∧ gOf (.bfxu 2 4 6 0) (ab 0xABCD00 0x0C08) 2 = 0xBCD ∧
    gOf (.bfx 2 4 6 0) (ab 0xABCD00 0x0C08) 2 = 0xFFFFFFFFFFFFFBCD ∧ gOf (.bfi 2 4 6 0) (ab 0x7FF 0x0C08) 2 = 0x7FF00 := by decide +kernel
/-- 05 R112: signed and unsigned compares; `p0` stays true. -/
theorem test_compares :
    pOf (.cmplt .i64 1 4 6 0) (ab 0xFFFFFFFFFFFFFFFF 1) 1 = true ∧ pOf (.cmpltu .i64 1 4 6 0) (ab 0xFFFFFFFFFFFFFFFF 1) 1 = false ∧
    pOf (.cmpeq .i64 0 4 6 0) (ab 1 2) 0 = true := by decide +kernel
/-- 05 R117: a negative constant; one field of a constant. -/
theorem test_immediates :
    gOf (.movi 2 0x1000 0) s0 2 = 0xFFFFFFFFFFFFF000 ∧ gOf (.movh 4 4 0xD6E 0) (ab 0x000EFEB86659FD93 0) 4 = 0xD6EEFEB86659FD93 ∧
    gOf (.addi 2 4 0x1FFF 0) s0 2 = 0xFFFFFFFFFFFFFFFF := by decide +kernel
/-- 02 R32, 05 R128, R129: the examples; a rounded quotient and its flags. -/
theorem test_floating_point :
    gOf (.fadd .f32 2 4 6 0) (ab 0x3F800000 0x3F800000) 2 = 0x40000000 ∧ gOf (.fcvt .e2m1 2 4 0) (ab 0x40204000 0) 2 = 0x40300000 ∧
    sOf (.fcvt .e2m1 2 4 0) (ab 0x40204000 0) 2 = true ∧ gOf (.fcvtif .f32 2 4 0) (ab 0x1000001 0) 2 = 0x4B800000 ∧
    sOf (.fcvtif .f32 2 4 0) (ab 0x1000001 0) 2 = true ∧ gOf (.fdiv .f32 2 4 6 0) (ab 0x3F800000 0x40400000) 2 = 0x3EAAAAAB ∧
    (nextOf (exec (.fdiv .f32 2 4 6 0) (ab 0x3F800000 0))).strand.fcsr.fflags = 8 ∧
    gOf (.fsqrt .f32 2 4 0) (ab 0xBF800000 0) 2 = 0x7FC00000 := by decide +kernel
/-- 02 R37, R41, R44: the examples of final rounding, of stochastic rounding and of `Mix`. -/
theorem test_final_rounding :
    finalRound 0x43FA0000 false 0 .e4m3 .rne false 0 = (0x7E, Flags.ofl ||| Flags.nx) ∧ (finalRound 0x43FA0000 false 0 .e4m3 .rne true 0).1 = 0x7F ∧
    xorshift32 1 = 0x00042021 ∧ (finalRound 0x3F806000 false 0 .bf16 .sr false 0x00042021).1 = 0x3F80 ∧
    (finalRound 0x3F806000 false 0 .bf16 .sr false 0xA0000000).1 = 0x3F81 ∧ mix 5 5 = 0 := by decide +kernel
/-- 02 R26, R29: codes and the values they widen to. -/
theorem test_widening :
    Fm.widen .e2m1 0xF = 0xC0C00000 ∧ Fm.widen .e4m3 0x7E = 0x43E00000 ∧ Fm.widen .bf16 0x3F81 = 0x3F810000 := by decide +kernel
/-- 06 R140, R141, 10 R242: the last byte of the LM with its sign, 8 cycles after the issue; a misaligned access. -/
theorem test_loads_and_stores :
    (let t := nextOf (exec (.ldb 10 6 0 .core 15) { sLm with mem := memWriteN sLm.mem (Loc.lm 0 0x3FFFF).key [0x80] }); let id := sLm.token;
      (rget t.strand.g 10).full = false ∧ nextOf (exec (.loadReply id) (atTime 7 t)) = atTime 7 t ∧
      (rget ((nextOf (exec (.loadReply id) (atTime 8 t))).strandOf 0 0).g 10).data = 0xFFFFFFFFFFFFFF80) ∧
    atLm 0x3FFF0 8 (.stdX 4 6 8 0 .postInc false) (gput 4 0x0102030405060708 sLm) = 0x0102030405060708 ∧
    gOf (.stdX 4 6 8 0 .postInc false) sLm 6 = ownLmBase + 0x40030 ∧
    (nextOf (exec (.ldd 10 6 0 .core 0) sMis)).strand.x.cause = 0x09 ∧ (nextOf (exec (.ldd 10 6 0 .core 0) sMis)).strand.x.value = ownLmBase + 1 := by
  decide +kernel
/-- 06 R153: an atomic returns the old word and stores the sum. -/
theorem test_atomics :
    gOf (.aadd true 4 6 8 0 .core) (gput 8 5 { sLm with mem := memWriteN sLm.mem (Loc.lm 0 0x3FFF0).key [7] }) 4 = 7 ∧
    atLm 0x3FFF0 8 (.aadd true 4 6 8 0 .core) (gput 8 5 { sLm with mem := memWriteN sLm.mem (Loc.lm 0 0x3FFF0).key [7] }) = 12 := by
  decide +kernel
/-- 06 R134, R135: a link; a loop of count 0 falls through to its end. -/
theorem test_control_flow :
    gOf (.jal 0 false 4) s0 1 = ownLmBase + 4 ∧ (nextOf (exec (.jal 0 false 4) s0)).cur.flow = .taken (ownLmBase + 16) ∧
    (nextOf (exec (.jalr 6 6 0 0x002) sLm)).cur.flow = .taken (ownLmBase + 0x3FFF8) ∧
    (nextOf (exec (.loopi false 3 0 0) s0)).cur.flow = .fall (ownLmBase + 16) := by decide +kernel
/-- 01 R73, 08 R226, R227: a call of the supervisor, and the return from it. -/
theorem test_exceptions :
    (nextOf (exec (.sysc 32767) s0)).strand.x.cause = 0x11 ∧ (nextOf (exec (.sysc 32767) s0)).strand.x.value = 32767 ∧
    (nextOf (exec (.sysc 32767) s0)).strand.x.pc = ownLmBase ∧ (nextOf (exec (.sysc 32767) s0)).strand.priv = true ∧
    (nextOf (exec (.xret 0) sPriv)).strand.priv = false ∧ (nextOf (exec (.xret 0) sPriv)).cur.flow = .taken 0 := by decide +kernel
/-- 08 R230: a register's fields as they are written and read; the limits of `AGAGE`. -/
theorem test_control_registers :
    (({ } : Strand).crWrite true 0x042 5).agage = 64 ∧ (({ } : Strand).crWrite true 0x042 8000).agage = 4096 ∧
    (({ } : Strand).crWrite false 0x000 0xC0).fcsr.frm = 0 ∧ s0.crRead 3071 15 { } 0x032 = 47 ∧ s0.crRead 3071 15 { } 0x033 = 3 := by decide +kernel
/-- 07 R168, R174: lane 31, and the last mask bit, of a vector result. -/
theorem test_vectors :
    ((rget (nextOf (exec (.vbcast 2 4 0) (ab 0x12345678 0))).strand.v 2).get 31).w = 0x12345678 ∧
    (mget (nextOf (exec (.vcmpeq .i32 1 4 6 0) s0)).strand.m 1) = 0xFFFFFFFF ∧
    atLm 0x3FFFC 4 (.vst 2 6 0 .core 0) (put (fun x => { x with v := rset x.v 2 ((rget x.v 2).setLane 31 0xAABBCCDD) }) sLmV) = 0xAABBCCDD := by
  decide +kernel
/-- 01 R10, R13: the worked places and distances. -/
theorem test_places : clusterOf 2003 = 125 ∧ dieOf 125 = 2 ∧ colOf 125 = 5 ∧ rowOf 125 = 3 ∧ rowHops 5 = 2 ∧ rowHops 7 = 4 := by decide
/-- 22 R395: two additions that a switch combines. -/
theorem test_combined_additions :
    (nextOf (exec (.switchCombine 1 2) { State.reset with
      switchBuf := [{ id := 1, dev := 0, pa := 0, size := 8, parts := [(none, 3)] }, { id := 2, dev := 0, pa := 0, size := 8, parts := [(none, 2)] }] })).switchBuf.map
        (fun x => x.parts.map Prod.snd) = [[3, 2]] := by decide +kernel

/-! ### States and operands that meet the hypotheses of the statements -/

def st1 : State := onSlot15 { st := .waiting (.yield [] 0) } []
def st2 : State := onSlot15 { st := .waiting (.extended 0) } []
def wk1 : Walk := { part := 0, va := 0, waiters := [] }
def x1 : Strand := { loop1 := { cnt := 1, fin := 3 } }
def x2 : Strand := { loop1 := { cnt := 2, fin := 3 } }
def st3 : State := { State.reset with boot := { images := [(1, [])] } }
def st4 : State := onCore0 { tileIn := [{ tile := { bytes := [], hop := 0 }, src := 1, left := 1 }] }
def rq1 : Req := { id := 7, slot := 0, sid := 0, dest := .none_ }
def st5 : State := withSlice 63 { queue := [.bind 0 63 0 64] } State.reset
def st6 : State := onCore0 { rotOut := [{ dst := 1, gid := 0, img := [] }] }
def st7 : State := { State.reset with mailbox := { cmd := 2, busy := true } }
def st8 : State := put (fun x => { x with role := .callee { core := 1 } }) s0
def sw1 : SwitchAdd := { id := 2, dev := 0, pa := 0, size := 8, parts := [] }
def sw2 : SwitchAdd := { id := 1, dev := 0, pa := 0, size := 8, parts := [] }
def me1 : MeCmd := { slot := 0, sid := 0, op := .mset, eng := { }, who := { } }
def st9 : State := put (fun x => { x with borrow := some { slot := 1, vcount := 8 } }) s0
def st10 : State := { State.reset with islands := Vector.replicate 20 { stall := some 0 } }
def rq2 : Req := { id := 7, slot := 15, sid := 0, dest := .none_, tok := some tok }
def st11 : State := withCluster 191 { walks := [{ part := 0, va := 0, waiters := [] }] } State.reset
def st12 : State := onCore0 { handOn := [{ tile := { bytes := [], hop := 0 }, dst := 1, gid := 0 }] }
def st13 : State := onSlot15 { st := .ready, strand := { hbi := 1, hbNew := false, job := some 3 } } []
def mig1 : Migration := { origin := 1, originSlot := 0, live := 0, strand := { }, target := 0 }
def st14 : State := withJob 1 { part := 0, queue := 0, qslot := 0, bytes := [], st := 3, placed := true }
def st15 : State := onCore0 { meQueue := [{ slot := 0, sid := 0, op := .mset, eng := { }, who := { } }] }
def me2 : MeCmd := { slot := 0, sid := 0, op := .mma none 0 16 16 0 0 .plain, eng := { }, who := { } }
def st16 : State := onCore0 { inbox := [{ origin := 1, originSlot := 0, live := 0, strand := { }, target := 0 }] }
def me3 : MeCmd := { slot := 0, sid := 0, op := .mring 0x01D0000000000000 1 15 63, eng := { }, who := { } }
def st17 : State := atTime 24000000 (withJob 1 { part := 0, queue := 0, qslot := 0, bytes := [], st := 2, level := 1 })
def st18 : State := onCore0 { meQueue := [{ slot := 0, sid := 0, op := .mset, eng := { }, who := { } }], meBusy := true }
def acc1 : Access := { req := 0, kind := .load, loc := .lm 0 0, size := 8, va := 0, core := 0, slot := 0, part := 0 }
def call1 : Call := { caller := { }, part := 0, job := none, psize := 0, agage := 0, hbi := 0, entry := 0, args := [] }
def acc2 : Access := { req := 0, kind := .load, loc := .hbm 0 0, size := 8, va := 0, core := 0, slot := 0, part := 0 }
def st19 : State := onCore0 { giving := [{ id := 9, src := .core 0, part := 0, thief := 2, entry := dq, acks := [], writes := [] }] }
def st20 : State := onSlot15 { st := .parked (.qenqRetry 7 0 0) } [{ id := 7, slot := 15, sid := 0, dest := .none_, tok := some tok }]
def acc3 : Access := { req := 0, kind := .sync .ldff 0 true, loc := .lm 0 0, size := 8, va := 0, core := 0, slot := 0, part := 0 }
def pkt1 : Packet := { id := 5, src := (.core 1), dst := (.core 0), part := 0, chan := .request, seq := 0, sent := 0, body := .noEntry }
def pkt2 : Packet := { id := 5, src := (.core 1), dst := (.core 0), part := 0, chan := .request, seq := 0, sent := 0, body := .marker 0 }
def pkt3 : Packet := { id := 5, src := (.core 1), dst := (.core 0), part := 0, chan := .request, seq := 0, sent := 0, body := .probe 1 2 }
def pkt4 : Packet := { id := 5, src := (.core 1), dst := (.core 0), part := 0, chan := .request, seq := 0, sent := 0, body := .token tok }
def pkt5 : Packet := { id := 5, src := (.core 1), dst := (.core 0), part := 0, chan := .request, seq := 0, sent := 0, body := .agg [] .age }
def st21 : State := onCore0 { meQueue := [{ slot := 0, sid := 0, op := .mring 0x01D0000000000000 1 15 63, eng := { }, who := { } }], meBusy := true }
def pkt6 : Packet := { id := 5, src := (.core 1), dst := (.slice 63), part := 0, chan := .request, seq := 0, sent := 0, body := .agg [] .age }
def pkt7 : Packet := { id := 5, src := (.core 1), dst := (.core 0), part := 0, chan := .request, seq := 0, sent := 0, body := .stealCopy dq [] }
def pkt8 : Packet := { id := 5, src := (.core 1), dst := .iod, part := 0, chan := .request, seq := 0, sent := 0, body := .accReply 7 0 .failed }
def pkt9 : Packet := { id := 5, src := (.core 1), dst := (.core 0), part := 0, chan := .request, seq := 0, sent := 0, body := .callReply 7 0 1 }
def pkt10 : Packet := { id := 5, src := (.core 1), dst := (.core 0), part := 0, chan := .request, seq := 0, sent := 0, body := .aggReply 0 0 [] }
def st22 : State := withGang 1 { job := 1, cluster := 0 } (withCluster 0 { gangs := [1] } (withJob 1 { part := 0, queue := 0, qslot := 0, bytes := [] }))
def pkt11 : Packet := { id := 5, src := (.core 1), dst := (.core 0), part := 0, chan := .request, seq := 0, sent := 0, body := .accReply 7 0 .failed }
def st23 : State := { State.reset with switchBuf := [{ id := 1, dev := 0, pa := 0, size := 8, parts := [] }, { id := 2, dev := 0, pa := 0, size := 8, parts := [] }] }
def st24 : State := arrives pkt1 State.reset
def st25 : State := arrives pkt3 State.reset
def st26 : State := arrives pkt4 State.reset
def st27 : State := arrives pkt5 State.reset
def st28 : State := arrives pkt6 State.reset
def st29 : State := arrives pkt7 State.reset
def st30 : State := arrives pkt8 State.reset
def st31 : State := arrives pkt9 State.reset
def st32 : State := arrives pkt10 State.reset
def st33 : State := { State.reset with net := [pkt2] }
def pkt12 : Packet := { id := 5, src := (.core 1), dst := (.slice 63), part := 0, chan := .request, seq := 0, sent := 0, body := .amsg { pa := 0, index := 63, args := [] } }
def st34 : State := onCore0 { meQueue := [{ slot := 0, sid := 0, op := .mma none 0 16 16 0 0 .plain, eng := { }, who := { } }], meBusy := true, latch := [{ bytes := [], hop := 0 }] }
def st35 : State := arrives pkt2 (onCore0 { fenced := true })
def rq3 : Req := { id := 7, slot := 15, sid := 0, dest := .none_, acc := some { req := 0, kind := .load, loc := .lm 0 0, size := 8, va := 0, core := 0, slot := 0, part := 0 }, limit := some 0 }
def st36 : State := arrives pkt12 State.reset
def rq4 : Req := { id := 7, slot := 0, sid := 0, dest := .none_, acc := some { req := 0, kind := .atomic .add 0 0 false, loc := .hbm 0 0, size := 8, va := 0, core := 0, slot := 0, part := 0 } }
def pkt13 : Packet := { id := 5, src := (.core 1), dst := (.core 0), part := 0, chan := .request, seq := 0, sent := 0, body := .migrate { origin := 1, originSlot := 0, live := 0, strand := { }, target := 0 } }
def st37 : State := arrives pkt13 State.reset
def st38 : State := onSlot15 { st := .parked (.syncWait 7) } [{ id := 7, slot := 15, sid := 0, dest := .none_, acc := some { req := 0, kind := .load, loc := .lm 0 0, size := 8, va := 0, core := 0, slot := 0, part := 0 }, limit := some 0 }]
def st39 : State := arrives pkt11 (onCore0 { reqs := [{ id := 7, slot := 0, sid := 0, dest := .none_ }] })
def pkt14 : Packet := { id := 5, src := (.core 1), dst := (.core 0), part := 0, chan := .request, seq := 0, sent := 0, body := .access { req := 0, kind := .load, loc := .lm 0 0, size := 8, va := 0, core := 0, slot := 0, part := 0 } }
def st40 : State := onSlot15 { st := .parked (.syncBusy 7 0) } [{ id := 7, slot := 15, sid := 0, dest := .none_, acc := some { req := 0, kind := .load, loc := .lm 0 0, size := 8, va := 0, core := 0, slot := 0, part := 0 }, limit := some 0 }]
def pkt15 : Packet := { id := 5, src := (.core 1), dst := (.core 0), part := 0, chan := .request, seq := 0, sent := 0, body := .call { caller := { }, part := 0, job := none, psize := 0, agage := 0, hbi := 0, entry := 0, args := [] } }
def pkt16 : Packet := { id := 5, src := (.core 1), dst := (.slice 1), part := 0, chan := .request, seq := 0, sent := 0, body := .access { req := 0, kind := .load, loc := .hbm 0 0, size := 8, va := 0, core := 0, slot := 0, part := 0 } }
def pkt17 : Packet := { id := 5, src := (.core 1), dst := (.slice 0), part := 0, chan := .request, seq := 0, sent := 0, body := .access { req := 0, kind := .load, loc := .hbm 0 0, size := 8, va := 0, core := 0, slot := 0, part := 0 } }
def st41 : State := arrives pkt14 State.reset
def st42 : State := arrives pkt16 State.reset
def st43 : State := arrives pkt17 State.reset
def st44 : State := arrives pkt15 (onPart { clusters := [0] })
def st45 : State := arrives pkt13 (onCore0 { slots := Vector.replicate 16 { st := .ready } })
def st46 : State := arrives pkt11 (onCore0 { reqs := [{ id := 7, slot := 0, sid := 0, dest := .none_, acc := some { req := 0, kind := .atomic .add 0 0 false, loc := .hbm 0 0, size := 8, va := 0, core := 0, slot := 0, part := 0 } }] })
def st47 : State := arrives pkt15 (withCore 0 { calls := List.replicate 64 { caller := { }, part := 0, job := none, psize := 0, agage := 0, hbi := 0, entry := 0, args := [] } } (onPart { clusters := [0] }))
def rep1 : Replica := { region := 0, home := 0, at_ := [16], lines := [(16, 0, 0)] }
def pktRep : Packet := { id := 5, src := .core 1, dst := .slice 16, part := 0, chan := .request, seq := 0, sent := 0, body := .access acc2 }
def stRep : State := arrives pktRep (onPart { exists_ := true, clusters := [0], slices := [0, 16], hbm := 2 ^ 21, replicas := [rep1] })
def pktLm : Packet := { pktRep with dst := .slice 63, body := .access acc1 }
def pktWd : Packet := { pktRep with dst := .slice 63, body := .withdraw 7 0 (.hbm 0 0) }
def accA : Access := { acc2 with kind := .atomic .add 0 0 false }
/-- A packet whose only link has failed. -/
def stCut : State := { State.reset with net := [{ pkt2 with src := .core 16 }], failed := [(1, 0)] }
def elem1 : AggElem := { op := none, size := 8, addr := 8, data := 0, s := false, slot := 0, issued := ownLmBase + 8 }
def goodElem : Except Nat Loc → Option Loc | .ok l => some l | .error _ => none
theorem test_meets_IntegerAlu_runs : ∀ i ∈ ([
    .add .i64 2 4 6 0, .sub .i64 2 4 6 0, .and .i64 2 4 6 0, .or .i64 2 4 6 0, .xor .i64 2 4 6 0, .andn .i64 2 4 6 0, .shl .i64 2 4 6 0,
    .shr .i64 2 4 6 0, .sra .i64 2 4 6 0, .ror .i64 2 4 6 0, .min .i64 2 4 6 0, .max .i64 2 4 6 0, .minu .i64 2 4 6 0, .maxu .i64 2 4 6 0,
    .mul .i64 2 4 6 0, .mulh .i64 2 4 6 0, .mulhu .i64 2 4 6 0, .add .i32 2 4 6 0, .add .z32 2 4 6 0, .sub .i32 2 4 6 0, .sub .z32 2 4 6 0,
    .and .i32 2 4 6 0, .and .z32 2 4 6 0, .or .i32 2 4 6 0, .or .z32 2 4 6 0, .xor .i32 2 4 6 0, .xor .z32 2 4 6 0, .andn .i32 2 4 6 0,
    .andn .z32 2 4 6 0, .shl .i32 2 4 6 0, .shl .z32 2 4 6 0, .shr .i32 2 4 6 0, .shr .z32 2 4 6 0, .sra .i32 2 4 6 0, .sra .z32 2 4 6 0,
    .ror .i32 2 4 6 0, .ror .z32 2 4 6 0, .min .i32 2 4 6 0, .min .z32 2 4 6 0, .max .i32 2 4 6 0, .max .z32 2 4 6 0, .minu .i32 2 4 6 0,
    .minu .z32 2 4 6 0, .maxu .i32 2 4 6 0, .maxu .z32 2 4 6 0, .mul .i32 2 4 6 0, .mul .z32 2 4 6 0, .mulh .i32 2 4 6 0, .mulh .z32 2 4 6 0,
    .mulhu .i32 2 4 6 0, .mulhu .z32 2 4 6 0] : List Instr), runs i s0 = true := by decide +kernel
theorem test_meets_IntegerAluPair_runs : ∀ i ∈ ([
    .add .q 2 4 6 0, .sub .q 2 4 6 0, .and .q 2 4 6 0, .or .q 2 4 6 0, .xor .q 2 4 6 0, .andn .q 2 4 6 0, .shl .q 2 4 6 0, .shr .q 2 4 6 0,
    .sra .q 2 4 6 0, .ror .q 2 4 6 0] : List Instr), runs i s0 = true := by decide +kernel
theorem test_meets_DivisionNeverTraps_runs : ∀ i ∈ ([
    .div .i64 2 4 6 0, .rem .i64 2 4 6 0, .divu .i64 2 4 6 0, .remu .i64 2 4 6 0, .div .i32 2 4 6 0, .rem .i32 2 4 6 0, .divu .i32 2 4 6 0,
    .remu .i32 2 4 6 0, .div .z32 2 4 6 0, .rem .z32 2 4 6 0, .divu .z32 2 4 6 0, .remu .z32 2 4 6 0] : List Instr), runs i s0 = true := by decide +kernel
theorem test_meets_BitCounts_runs : ∀ i ∈ ([
    .clz .i64 2 4 0, .clz .i32 2 4 0, .clz .z32 2 4 0, .ctz .i64 2 4 0, .ctz .i32 2 4 0, .ctz .z32 2 4 0, .popc .i64 2 4 0, .popc .i32 2 4 0,
    .popc .z32 2 4 0] : List Instr), runs i s0 = true := by decide +kernel
theorem test_meets_ExtensionsAndFields_runs : ∀ i ∈ ([
    .sext .b 2 4 0, .zext .b 2 4 0, .sext .h 2 4 0, .zext .h 2 4 0, .sext .w 2 4 0, .zext .w 2 4 0, .bfx 2 4 6 0, .bfxu 2 4 6 0, .bfi 2 4 6 0] : List Instr), runs i s0 = true := by decide +kernel
theorem test_meets_ComparesWritePredicates_runs : ∀ i ∈ ([
    .cmpeq .i64 1 4 6 0, .cmpeq .q 1 4 6 0, .cmpeq .i32 1 4 6 0, .cmpeq .z32 1 4 6 0, .cmpne .i64 1 4 6 0, .cmpne .q 1 4 6 0, .cmpne .i32 1 4 6 0,
    .cmpne .z32 1 4 6 0, .cmplt .i64 1 4 6 0, .cmplt .q 1 4 6 0, .cmplt .i32 1 4 6 0, .cmplt .z32 1 4 6 0, .cmple .i64 1 4 6 0, .cmple .q 1 4 6 0,
    .cmple .i32 1 4 6 0, .cmple .z32 1 4 6 0, .cmpltu .i64 1 4 6 0, .cmpltu .q 1 4 6 0, .cmpltu .i32 1 4 6 0, .cmpltu .z32 1 4 6 0, .cmpleu .i64 1 4 6 0,
    .cmpleu .q 1 4 6 0, .cmpleu .i32 1 4 6 0, .cmpleu .z32 1 4 6 0] : List Instr), runs i s0 = true := by decide +kernel
theorem test_meets_PredicateInstructions_runs : ∀ i ∈ ([
    .pand 1 2 3 0, .por 1 2 3 0, .pxor 1 2 3 0, .pandn 1 2 3 0, .pnot 1 2 0, .prd 2 0, .pwr 4 0] : List Instr), runs i s0 = true := by decide +kernel
theorem test_meets_PredicateInstructions :
    8 ≤ (8 : GR).toNat ∧ (8 : GR).toNat < 16 ∧ (1 : BV3) ≠ 0 := by
  and_intros <;> decide +kernel
theorem test_meets_ImmediateInstructions_runs : ∀ i ∈ ([
    .addi 2 4 1 0, .andi 2 4 1 0, .ori 2 4 1 0, .xori 2 4 1 0, .shli 2 4 1 0, .shri 2 4 1 0, .srai 2 4 1 0, .rori 2 4 1 0, .movi 2 1 0, .movh 2 1 1 0] : List Instr), runs i s0 = true := by decide +kernel
theorem test_meets_AddressSelectAndMove_runs : ∀ i ∈ ([
    .lea 2 4 6 1 0, .movpc 2 0 false, .fstk 2 4 6 0, .fstkr 2 4 0, .sel 2 2 4 6 0, .mov 2 4 0] : List Instr), runs i s0 = true := by decide +kernel
theorem test_meets_AddressSelectAndMove :
    s0.cur.slot < 16 ∧ (28 : GR) ≠ 0 ∧ (28 : GR) ≠ 29 := by
  and_intros <;> decide +kernel
theorem test_meets_CvtaNamesTheSameByte_runs : ∀ i ∈ ([
    .cvta 2 4 0] : List Instr), runs i s0 = true := by decide +kernel
theorem test_meets_RegisterWrites :
    sGang.downstream sGang.cur.core sGang.strand = some 1 ∧
    (s0.cur.slot < 16 ∧ (31 : GR) ≠ 0 ∧ (31 : GR) ≠ 29) := by
  and_intros <;> decide +kernel
theorem test_meets_FloatingPointCompletesOrTraps_runs : ∀ i ∈ ([
    .fadd .f32 2 4 6 0, .fsub .f32 2 4 6 0, .fmul .f32 2 4 6 0, .fdiv .f32 2 4 6 0, .fsqrt .f32 2 4 0, .ffma .f32 2 4 6 8 0, .fmin .f32 2 4 6 0,
    .fmax .f32 2 4 6 0, .fcvt .f32 2 4 0, .fcvtif .f32 2 4 0, .fcvtfi 2 4 0, .fcmpeq 1 4 6 0, .fcmplt 1 4 6 0, .fcmple 1 4 6 0, .fcmpun 1 4 6 0] : List Instr), runs i s0 = true := by decide +kernel
theorem test_meets_SignAndClass_runs : ∀ i ∈ ([
    .fneg 2 4 0, .fabs 2 4 0, .fclass 2 4 0] : List Instr), runs i s0 = true := by decide +kernel
theorem test_meets_VectorInteger32 :
    (runs (.vadd VTy.i32 2 4 6 0) s0 = true ∧ VTy.i32 ≠ .i64) ∧
    (runs (.vsub VTy.i32 2 4 6 0) s0 = true ∧ VTy.i32 ≠ .i64) ∧
    (runs (.vand VTy.i32 2 4 6 0) s0 = true ∧ VTy.i32 ≠ .i64) ∧
    (runs (.vor VTy.i32 2 4 6 0) s0 = true ∧ VTy.i32 ≠ .i64) ∧
    (runs (.vxor VTy.i32 2 4 6 0) s0 = true ∧ VTy.i32 ≠ .i64) ∧
    (runs (.vandn VTy.i32 2 4 6 0) s0 = true ∧ VTy.i32 ≠ .i64) ∧
    (runs (.vshl VTy.i32 2 4 6 0) s0 = true ∧ VTy.i32 ≠ .i64) ∧
    (runs (.vshr VTy.i32 2 4 6 0) s0 = true ∧ VTy.i32 ≠ .i64) ∧
    (runs (.vsra VTy.i32 2 4 6 0) s0 = true ∧ VTy.i32 ≠ .i64) ∧
    (runs (.vmul VTy.i32 2 4 6 0) s0 = true ∧ VTy.i32 ≠ .i64) ∧
    (runs (.vmin VTy.i32 2 4 6 0) s0 = true ∧ VTy.i32 ≠ .i64) ∧
    (runs (.vmax VTy.i32 2 4 6 0) s0 = true ∧ VTy.i32 ≠ .i64) ∧
    (runs (.vmulh VTy.i32 2 4 6 0) s0 = true ∧ VTy.i32 ≠ .i64) := by
  and_intros <;> decide +kernel
theorem test_meets_VectorInteger64_runs : ∀ i ∈ ([
    .vadd .i64 2 4 6 0, .vsub .i64 2 4 6 0, .vand .i64 2 4 6 0, .vor .i64 2 4 6 0, .vxor .i64 2 4 6 0, .vandn .i64 2 4 6 0, .vshl .i64 2 4 6 0,
    .vshr .i64 2 4 6 0, .vsra .i64 2 4 6 0, .vmul .i64 2 4 6 0, .vmin .i64 2 4 6 0, .vmax .i64 2 4 6 0, .vmulh .i64 2 4 6 0] : List Instr), runs i s0 = true := by decide +kernel
theorem test_meets_VectorComparesAndMasks_runs : ∀ i ∈ ([
    .vcmpeq .i32 1 4 6 0, .vcmpeq .z32 1 4 6 0, .vcmpeq .i64 1 4 6 0, .vcmpne .i32 1 4 6 0, .vcmpne .z32 1 4 6 0, .vcmpne .i64 1 4 6 0,
    .vcmplt .i32 1 4 6 0, .vcmplt .z32 1 4 6 0, .vcmplt .i64 1 4 6 0, .vcmple .i32 1 4 6 0, .vcmple .z32 1 4 6 0, .vcmple .i64 1 4 6 0, .mand 1 2 3 0,
    .mor 1 2 3 0, .mxor 1 2 3 0, .mandn 1 2 3 0, .mnot 1 2 0, .mfromg 1 4 0, .mtog 2 2 0, .mpopc 2 2 0] : List Instr), runs i s0 = true := by decide +kernel
theorem test_meets_VectorFloatingPoint_runs : ∀ i ∈ ([
    .vfadd .f32 2 4 6 0, .vfsub .f32 2 4 6 0, .vfmul .f32 2 4 6 0, .vfdiv .f32 2 4 6 0, .vfsqrt .f32 2 4 0, .vffma .f32 2 4 6 8 0, .vfmin .f32 2 4 6 0,
    .vfmax .f32 2 4 6 0, .vfneg 2 4 0, .vfabs 2 4 0, .vfcvt .f32 2 4 0, .vfcvtif .f32 2 4 0, .vfcvtfi 2 4 0, .vfrcp .f32 2 4 0, .vfrsqrt .f32 2 4 0,
    .vfexp2 .f32 2 4 0, .vflog2 .f32 2 4 0] : List Instr), runs i s0 = true := by decide +kernel
theorem test_meets_VectorFpComparesAndReductions_runs : ∀ i ∈ ([
    .vfcmpeq 1 4 6 0, .vfcmplt 1 4 6 0, .vfcmple 1 4 6 0, .vfcmpun 1 4 6 0, .vfred .f32 2 4 0, .vfrmin .f32 2 4 0, .vfrmax .f32 2 4 0] : List Instr), runs i s0 = true := by decide +kernel
theorem test_meets_VectorPermutes_runs : ∀ i ∈ ([
    .vperm 2 4 6 0, .vslide 2 4 6 0, .vbcast 2 4 0, .vmov 2 4 0, .vexpand 2 4 0, .vcompress 2 4 0, .vins 2 4 6 0, .vext 2 4 6 0, .vzip 2 4 6 0,
    .vunzip 2 4 0] : List Instr), runs i s0 = true := by decide +kernel
theorem test_meets_GeneratorsAndBlockFormats_runs : ∀ i ∈ ([
    .rngh 2 4 6 0, .vrngh 2 4 6 0] : List Instr), runs i s0 = true := by decide +kernel
theorem test_meets_GeneratorsAndBlockFormats :
    (runs (.vdqmx .mi8 2 4 6 0) (gput 6 255 s0) = true ∧ ((gput 6 255 s0).g 6).toNat % 256 = 255) ∧
    (runs (.vdqmx .mi8 2 4 6 0) s0 = true ∧ s0.cur.pre.fcsr.fen = 0) ∧
    (runs (.vqmx .mi8 .rne 2 6 4 0) s0 = true ∧ s0.cur.pre.fcsr.fen = 0) ∧
    (runs (.vpack .mi8 .rne 2 4 0) s0 = true ∧ s0.cur.pre.fcsr.fen = 0) := by
  and_intros <;> decide +kernel
theorem test_meets_ScalarLoadsFromOwnLm :
    (runs (.ldb 10 6 0 .core 0) sLm = true ∧ sLm.OwnLm (sLm.cmAddr 6 0 1) 1 0x3FFF0) ∧
    (runs (.ldbu 10 6 0 .core 0) sLm = true ∧ sLm.OwnLm (sLm.cmAddr 6 0 1) 1 0x3FFF0) ∧
    (runs (.ldh 10 6 0 .core 0) sLm = true ∧ sLm.OwnLm (sLm.cmAddr 6 0 2) 2 0x3FFF0) ∧
    (runs (.ldhu 10 6 0 .core 0) sLm = true ∧ sLm.OwnLm (sLm.cmAddr 6 0 2) 2 0x3FFF0) ∧
    (runs (.ldw 10 6 0 .core 0) sLm = true ∧ sLm.OwnLm (sLm.cmAddr 6 0 4) 4 0x3FFF0) ∧
    (runs (.ldwu 10 6 0 .core 0) sLm = true ∧ sLm.OwnLm (sLm.cmAddr 6 0 4) 4 0x3FFF0) ∧
    (runs (.ldd 10 6 0 .core 0) sLm = true ∧ sLm.OwnLm (sLm.cmAddr 6 0 8) 8 0x3FFF0) ∧
    (runs (.ldbX 4 6 8 0 XMode.indexed false) sLm = true ∧ sLm.OwnLm (sLm.xAddr XMode.indexed 6 8 1) 1 0x3FFF0) ∧
    (runs (.ldbuX 4 6 8 0 XMode.indexed false) sLm = true ∧ sLm.OwnLm (sLm.xAddr XMode.indexed 6 8 1) 1 0x3FFF0) ∧
    (runs (.ldhX 4 6 8 0 XMode.indexed false) sLm = true ∧ sLm.OwnLm (sLm.xAddr XMode.indexed 6 8 2) 2 0x3FFF0) ∧
    (runs (.ldhuX 4 6 8 0 XMode.indexed false) sLm = true ∧ sLm.OwnLm (sLm.xAddr XMode.indexed 6 8 2) 2 0x3FFF0) ∧
    (runs (.ldwX 4 6 8 0 XMode.indexed false) sLm = true ∧ sLm.OwnLm (sLm.xAddr XMode.indexed 6 8 4) 4 0x3FFF0) ∧
    (runs (.ldwuX 4 6 8 0 XMode.indexed false) sLm = true ∧ sLm.OwnLm (sLm.xAddr XMode.indexed 6 8 4) 4 0x3FFF0) ∧
    (runs (.lddX 4 6 8 0 XMode.indexed false) sLm = true ∧ sLm.OwnLm (sLm.xAddr XMode.indexed 6 8 8) 8 0x3FFF0) ∧
    (runs (.ldq 4 6 8 0 XMode.indexed false) sLm = true ∧ sLm.OwnLm (sLm.xAddr XMode.indexed 6 8 16) 16 0x3FFF0) := by
  unfold State.OwnLm; and_intros <;> decide +kernel
theorem test_meets_LoadedRegister :
    (s0.cur.slot < 16 ∧ (1 : GR) ≠ 0 ∧ (1 : GR) ≠ 29 ∧ (List.replicate 8 7).length = 8 ∧ (8 = 1 ∨ 8 = 2 ∨ 8 = 4 ∨ 8 = 8)) ∧
    (s0.cur.slot < 16 ∧ badPair 2 = false ∧ (List.replicate 16 7).length = 16) := by
  and_intros <;> decide +kernel
theorem test_meets_StoresToOwnLm :
    (runs (.stb 10 6 0 .core 0) sLm = true ∧ sLm.OwnLm (sLm.cmAddr 6 0 1) 1 0x3FFF0) ∧
    (runs (.stb 10 6 0 .pk 0) sLm = true ∧ sLm.OwnLm (sLm.cmAddr 6 0 1) 1 0x3FFF0 ∧ (Scope.pk) ≠ .core ∧ sLm.flushStrand sLm.cur.core sLm.cur.slot = sLm ∧ sLm.strand.quiet = true ∧ (sLm.cacheRelease sLm.cur.core .pk).strand.x.pf = false) ∧
    (runs (.sth 10 6 0 .core 0) sLm = true ∧ sLm.OwnLm (sLm.cmAddr 6 0 2) 2 0x3FFF0) ∧
    (runs (.sth 10 6 0 .pk 0) sLm = true ∧ sLm.OwnLm (sLm.cmAddr 6 0 2) 2 0x3FFF0 ∧ (Scope.pk) ≠ .core ∧ sLm.flushStrand sLm.cur.core sLm.cur.slot = sLm ∧ sLm.strand.quiet = true ∧ (sLm.cacheRelease sLm.cur.core .pk).strand.x.pf = false) ∧
    (runs (.stw 10 6 0 .core 0) sLm = true ∧ sLm.OwnLm (sLm.cmAddr 6 0 4) 4 0x3FFF0) ∧
    (runs (.stw 10 6 0 .pk 0) sLm = true ∧ sLm.OwnLm (sLm.cmAddr 6 0 4) 4 0x3FFF0 ∧ (Scope.pk) ≠ .core ∧ sLm.flushStrand sLm.cur.core sLm.cur.slot = sLm ∧ sLm.strand.quiet = true ∧ (sLm.cacheRelease sLm.cur.core .pk).strand.x.pf = false) ∧
    (runs (.std 10 6 0 .core 0) sLm = true ∧ sLm.OwnLm (sLm.cmAddr 6 0 8) 8 0x3FFF0) ∧
    (runs (.std 10 6 0 .pk 0) sLm = true ∧ sLm.OwnLm (sLm.cmAddr 6 0 8) 8 0x3FFF0 ∧ (Scope.pk) ≠ .core ∧ sLm.flushStrand sLm.cur.core sLm.cur.slot = sLm ∧ sLm.strand.quiet = true ∧ (sLm.cacheRelease sLm.cur.core .pk).strand.x.pf = false) ∧
    (runs (.stbX 4 6 8 0 XMode.indexed false) sLm = true ∧ sLm.OwnLm (sLm.xAddr XMode.indexed 6 8 1) 1 0x3FFF0) ∧
    (runs (.sthX 4 6 8 0 XMode.indexed false) sLm = true ∧ sLm.OwnLm (sLm.xAddr XMode.indexed 6 8 2) 2 0x3FFF0) ∧
    (runs (.stwX 4 6 8 0 XMode.indexed false) sLm = true ∧ sLm.OwnLm (sLm.xAddr XMode.indexed 6 8 4) 4 0x3FFF0) ∧
    (runs (.stdX 4 6 8 0 XMode.indexed false) sLm = true ∧ sLm.OwnLm (sLm.xAddr XMode.indexed 6 8 8) 8 0x3FFF0) ∧
    (runs (.stq 4 6 8 0 XMode.indexed false) sLm = true ∧ sLm.OwnLm (sLm.xAddr XMode.indexed 6 8 16) 16 0x3FFF0) := by
  unfold State.OwnLm; and_intros <;> decide +kernel
theorem test_meets_WritesAndStoreFrame :
    s0.MemOk ∧
    (((Loc.lm 0 0).key + 1) < (Loc.lm 0 0).key ∨ (Loc.lm 0 0).key + [1].length ≤ ((Loc.lm 0 0).key + 1)) ∧
    s0.MemOk ∧
    (runs (.stb 10 6 0 .core 0) sLm = true ∧ sLm.OwnLm (sLm.cmAddr 6 0 1) 1 0x3FFF0 ∧ isNext (exec (.stb 10 6 0 .core 0) sLm) = true) ∧
    (runs (.sth 10 6 0 .core 0) sLm = true ∧ sLm.OwnLm (sLm.cmAddr 6 0 2) 2 0x3FFF0 ∧ isNext (exec (.sth 10 6 0 .core 0) sLm) = true) ∧
    (runs (.stw 10 6 0 .core 0) sLm = true ∧ sLm.OwnLm (sLm.cmAddr 6 0 4) 4 0x3FFF0 ∧ isNext (exec (.stw 10 6 0 .core 0) sLm) = true) ∧
    (runs (.std 10 6 0 .core 0) sLm = true ∧ sLm.OwnLm (sLm.cmAddr 6 0 8) 8 0x3FFF0 ∧ isNext (exec (.std 10 6 0 .core 0) sLm) = true) ∧
    (runs (.stbX 4 6 8 0 XMode.indexed false) sLm = true ∧ sLm.OwnLm (sLm.xAddr XMode.indexed 6 8 1) 1 0x3FFF0 ∧ isNext (exec (.stbX 4 6 8 0 XMode.indexed false) sLm) = true) ∧
    (runs (.sthX 4 6 8 0 XMode.indexed false) sLm = true ∧ sLm.OwnLm (sLm.xAddr XMode.indexed 6 8 2) 2 0x3FFF0 ∧ isNext (exec (.sthX 4 6 8 0 XMode.indexed false) sLm) = true) ∧
    (runs (.stwX 4 6 8 0 XMode.indexed false) sLm = true ∧ sLm.OwnLm (sLm.xAddr XMode.indexed 6 8 4) 4 0x3FFF0 ∧ isNext (exec (.stwX 4 6 8 0 XMode.indexed false) sLm) = true) ∧
    (runs (.stdX 4 6 8 0 XMode.indexed false) sLm = true ∧ sLm.OwnLm (sLm.xAddr XMode.indexed 6 8 8) 8 0x3FFF0 ∧ isNext (exec (.stdX 4 6 8 0 XMode.indexed false) sLm) = true) ∧
    (runs (.stq 4 6 8 0 XMode.indexed false) sLm = true ∧ sLm.OwnLm (sLm.xAddr XMode.indexed 6 8 16) 16 0x3FFF0 ∧ isNext (exec (.stq 4 6 8 0 XMode.indexed false) sLm) = true) := by
  unfold State.OwnLm; and_intros <;> decide +kernel
theorem test_meets_AggregatedStoresWriteNothingYet :
    runs (.std 10 6 0 .core 0) sFar = true ∧ (sFar.cmAddr 6 0 8).toNat % 8 = 0 ∧ sFar.lookup .store (sFar.cmAddr 6 0 8) = .ok (.lm 16 0) ({ } : PageAttr) ∧ sFar.teHolds sFar.cur.core (.lm 16 0) 8 = false ∧ sFar.aggDest sFar.cur.core (.lm 16 0) ({ } : PageAttr) false = some (.core 16) := by
  and_intros <;> decide +kernel
theorem test_meets_MisalignedAccessesTrap :
    (runs (.ldh 10 6 0 .core 0) sMis = true ∧ (sMis.cmAddr 6 0 2).toNat % 2 ≠ 0) ∧
    (runs (.ldhu 10 6 0 .core 0) sMis = true ∧ (sMis.cmAddr 6 0 2).toNat % 2 ≠ 0) ∧
    (runs (.ldw 10 6 0 .core 0) sMis = true ∧ (sMis.cmAddr 6 0 4).toNat % 4 ≠ 0) ∧
    (runs (.ldwu 10 6 0 .core 0) sMis = true ∧ (sMis.cmAddr 6 0 4).toNat % 4 ≠ 0) ∧
    (runs (.ldd 10 6 0 .core 0) sMis = true ∧ (sMis.cmAddr 6 0 8).toNat % 8 ≠ 0) ∧
    (runs (.sth 10 6 0 .core 0) sMis = true ∧ (sMis.cmAddr 6 0 2).toNat % 2 ≠ 0) ∧
    (runs (.stw 10 6 0 .core 0) sMis = true ∧ (sMis.cmAddr 6 0 4).toNat % 4 ≠ 0) ∧
    (runs (.std 10 6 0 .core 0) sMis = true ∧ (sMis.cmAddr 6 0 8).toNat % 8 ≠ 0) ∧
    (runs (.ldhX 4 6 8 0 XMode.indexed false) sMis = true ∧ (sMis.xAddr XMode.indexed 6 8 2).toNat % 2 ≠ 0) ∧
    (runs (.ldwX 4 6 8 0 XMode.indexed false) sMis = true ∧ (sMis.xAddr XMode.indexed 6 8 4).toNat % 4 ≠ 0) ∧
    (runs (.lddX 4 6 8 0 XMode.indexed false) sMis = true ∧ (sMis.xAddr XMode.indexed 6 8 8).toNat % 8 ≠ 0) ∧
    (runs (.ldq 4 6 8 0 XMode.indexed false) sMis = true ∧ (sMis.xAddr XMode.indexed 6 8 16).toNat % 16 ≠ 0) ∧
    (runs (.sthX 4 6 8 0 XMode.indexed false) sMis = true ∧ (sMis.xAddr XMode.indexed 6 8 2).toNat % 2 ≠ 0) ∧
    (runs (.stwX 4 6 8 0 XMode.indexed false) sMis = true ∧ (sMis.xAddr XMode.indexed 6 8 4).toNat % 4 ≠ 0) ∧
    (runs (.stdX 4 6 8 0 XMode.indexed false) sMis = true ∧ (sMis.xAddr XMode.indexed 6 8 8).toNat % 8 ≠ 0) ∧
    (runs (.stq 4 6 8 0 XMode.indexed false) sMis = true ∧ (sMis.xAddr XMode.indexed 6 8 16).toNat % 16 ≠ 0) ∧
    (runs (.ldff 4 6 0 .core .unbounded) sMis = true ∧ (sMis.g 6).toNat % 8 ≠ 0) ∧
    (runs (.ldfe 4 6 0 .core .unbounded) sMis = true ∧ (sMis.g 6).toNat % 8 ≠ 0) ∧
    (runs (.stef 4 6 0 .core .unbounded) sMis = true ∧ (sMis.g 6).toNat % 8 ≠ 0) ∧
    (runs (.stsf 4 6 0 .core .unbounded) sMis = true ∧ (sMis.g 6).toNat % 8 ≠ 0) ∧
    (runs (.aadd false 4 6 8 0 .core) sMis = true ∧ (sMis.g 6).toNat % (if false then 8 else 4) ≠ 0) ∧
    (runs (.aswap false 4 6 8 0 .core) sMis = true ∧ (sMis.g 6).toNat % (if false then 8 else 4) ≠ 0) ∧
    (runs (.acas false 4 6 8 0 .core) sMis = true ∧ (sMis.g 6).toNat % (if false then 8 else 4) ≠ 0) := by
  and_intros <;> decide +kernel
theorem test_meets_SyncAccesses :
    (runs (.ldff 4 6 0 .core .unbounded) sLm = true ∧ sLm.OwnLm (sLm.g 6) 8 0x3FFF0) ∧
    (runs (.ldfe 4 6 0 .core .unbounded) sLm = true ∧ sLm.OwnLm (sLm.g 6) 8 0x3FFF0) ∧
    (runs (.stef 4 6 0 .core .unbounded) sLm = true ∧ sLm.OwnLm (sLm.g 6) 8 0x3FFF0) ∧
    (runs (.stsf 4 6 0 .core .unbounded) sLm = true ∧ sLm.OwnLm (sLm.g 6) 8 0x3FFF0) ∧
    (runs (.ferd 4 6 0 .core) sLm = true ∧ sLm.OwnLm (sLm.g 6) 8 0x3FFF0) ∧
    (runs (.feset 6 0 .core) sLm = true ∧ sLm.OwnLm (sLm.g 6) 8 0x3FFF0) ∧
    (runs (.feclr 6 0 .core) sLm = true ∧ sLm.OwnLm (sLm.g 6) 8 0x3FFF0) ∧
    s0.isFull ((Loc.lm 0 0).forward s0) = true ∧
    sEmpty.isFull ((Loc.lm 0 0).forward sEmpty) = false ∧
    (acc3.kind = .sync .ldff 0 true ∧ (sEmpty.nearAt acc3).syncAt .ldff acc3.loc 0 acc3.kslot acc3.va.toNat = none) ∧
    (({ acc3 with kind := .sync .ferd 0 false } : Access).kind = .sync .ferd 0 false ∧ (sEmpty.syncAt .ferd acc3.loc 0 acc3.kslot acc3.va.toNat).isSome = true) := by
  unfold State.OwnLm; and_intros <;> decide +kernel
theorem test_meets_AtomicsInOwnLm :
    (runs (.aadd false 4 6 8 0 .core) sLm = true ∧ sLm.OwnLm (sLm.g 6) 4 0x3FFF0) ∧
    (runs (.aand false 4 6 8 0 .core) sLm = true ∧ sLm.OwnLm (sLm.g 6) 4 0x3FFF0) ∧
    (runs (.aor false 4 6 8 0 .core) sLm = true ∧ sLm.OwnLm (sLm.g 6) 4 0x3FFF0) ∧
    (runs (.axor false 4 6 8 0 .core) sLm = true ∧ sLm.OwnLm (sLm.g 6) 4 0x3FFF0) ∧
    (runs (.amin false 4 6 8 0 .core) sLm = true ∧ sLm.OwnLm (sLm.g 6) 4 0x3FFF0) ∧
    (runs (.amax false 4 6 8 0 .core) sLm = true ∧ sLm.OwnLm (sLm.g 6) 4 0x3FFF0) ∧
    (runs (.aminu false 4 6 8 0 .core) sLm = true ∧ sLm.OwnLm (sLm.g 6) 4 0x3FFF0) ∧
    (runs (.amaxu false 4 6 8 0 .core) sLm = true ∧ sLm.OwnLm (sLm.g 6) 4 0x3FFF0) ∧
    (runs (.aswap false 4 6 8 0 .core) sLm = true ∧ sLm.OwnLm (sLm.g 6) 4 0x3FFF0) ∧
    (runs (.acas false 4 6 8 0 .core) sLm = true ∧ sLm.OwnLm (sLm.g 6) 4 0x3FFF0) ∧
    (runs (.aadd true 4 6 8 0 .core) sLm = true ∧ sLm.OwnLm (sLm.g 6) 8 0x3FFF0) ∧
    (runs (.aand true 4 6 8 0 .core) sLm = true ∧ sLm.OwnLm (sLm.g 6) 8 0x3FFF0) ∧
    (runs (.aor true 4 6 8 0 .core) sLm = true ∧ sLm.OwnLm (sLm.g 6) 8 0x3FFF0) ∧
    (runs (.axor true 4 6 8 0 .core) sLm = true ∧ sLm.OwnLm (sLm.g 6) 8 0x3FFF0) ∧
    (runs (.amin true 4 6 8 0 .core) sLm = true ∧ sLm.OwnLm (sLm.g 6) 8 0x3FFF0) ∧
    (runs (.amax true 4 6 8 0 .core) sLm = true ∧ sLm.OwnLm (sLm.g 6) 8 0x3FFF0) ∧
    (runs (.aminu true 4 6 8 0 .core) sLm = true ∧ sLm.OwnLm (sLm.g 6) 8 0x3FFF0) ∧
    (runs (.amaxu true 4 6 8 0 .core) sLm = true ∧ sLm.OwnLm (sLm.g 6) 8 0x3FFF0) ∧
    (runs (.aswap true 4 6 8 0 .core) sLm = true ∧ sLm.OwnLm (sLm.g 6) 8 0x3FFF0) ∧
    (runs (.acas true 4 6 8 0 .core) sLm = true ∧ sLm.OwnLm (sLm.g 6) 8 0x3FFF0) ∧
    (runs (.afadd 4 6 8 0 .core) sLm = true ∧ sLm.OwnLm (sLm.g 6) 4 0x3FFF0) := by
  unfold State.OwnLm; and_intros <;> decide +kernel
theorem test_meets_FencesComplete_runs : ∀ i ∈ ([
    .ifence 0, .fenceTl 0 .core] : List Instr), runs i s0 = true := by decide +kernel
theorem test_meets_FencesComplete :
    (runs (.fence 15 0 Scope.sy) s0 = true ∧ s0.flushStrand s0.cur.core s0.cur.slot = s0 ∧ s0.strand.quiet = true ∧ (Scope.sy = .sy → s0.markers = s0 ∧ s0.markersOut = false) ∧ (if (15 : BV4).getLsbD 2 || (15 : BV4).getLsbD 3 then s0.cacheRelease s0.cur.core Scope.sy else s0).strand.x.pf = false) ∧
    (runs (.fencer 4 6 15 0 Scope.sy) s0 = true ∧ s0.strand.x.pf = false) ∧
    (runs (.agf 0 0) s0 = true ∧ (s0.aggPushAll s0.cur.core .agf fun _ => true).strand.x.pf = false) ∧
    (runs (.agw 0) s0 = true ∧ s0.flushStrand s0.cur.core s0.cur.slot = s0 ∧ s0.strand.unackElems = 0 ∧ s0.strand.x.pf = false) := by
  and_intros <;> decide +kernel
theorem test_meets_VectorMemoryInOwnLm :
    (runs (.vld 2 6 0 .core 0) sLmV = true ∧ sLmV.cur.slot < 16 ∧ (sLmV.core sLmV.cur.core).teQueue = [] ∧ (∀ i, i < 32 → (sLmV.mr 0).getLsbD i = true → sLmV.g 6 + (0 : Off10).signExtend 64 * 128 + BitVec.ofNat 64 (4 * i) = ownLmBase + BitVec.ofNat 64 ((fun i => 0x3FF80 + 4 * i) i) ∧ (fun i => 0x3FF80 + 4 * i) i % 4 = 0 ∧ (fun i => 0x3FF80 + 4 * i) i + 4 ≤ Config.lmBytes)) ∧
    (runs (.vlds 2 6 8 0 .w) sLm = true ∧ sLm.cur.slot < 16 ∧ (sLm.core sLm.cur.core).teQueue = [] ∧ (∀ i, i < 32 → (sLm.mr 0).getLsbD i = true → sLm.g 6 + BitVec.ofNat 64 i * sLm.g 8 = ownLmBase + BitVec.ofNat 64 ((fun _ => 0x3FFF0) i) ∧ (fun _ => 0x3FFF0) i % MTy.bytes .w = 0 ∧ (fun _ => 0x3FFF0) i + MTy.bytes .w ≤ Config.lmBytes)) ∧
    (runs (.vldx 2 6 8 0 .w) sLm = true ∧ sLm.cur.slot < 16 ∧ (sLm.core sLm.cur.core).teQueue = [] ∧ (∀ i, i < 32 → (sLm.mr 0).getLsbD i = true → sLm.g 6 + ((sLm.vr 8).lane i).signExtend 64 = ownLmBase + BitVec.ofNat 64 ((fun _ => 0x3FFF0) i) ∧ (fun _ => 0x3FFF0) i % MTy.bytes .w = 0 ∧ (fun _ => 0x3FFF0) i + MTy.bytes .w ≤ Config.lmBytes)) ∧
    (runs (.vldb 2 6 0 .w) sLm = true ∧ sLm.OwnLm (sLm.g 6) (MTy.bytes .w) 0x3FFF0) ∧
    (runs (.vst 2 6 0 .core 0) sLmV = true ∧ (sLmV.core sLmV.cur.core).teQueue = [] ∧ (∀ i, i < 32 → (sLmV.mr 0).getLsbD i = true → sLmV.g 6 + (0 : Off10).signExtend 64 * 128 + BitVec.ofNat 64 (4 * i) = ownLmBase + BitVec.ofNat 64 ((fun i => 0x3FF80 + 4 * i) i) ∧ (fun i => 0x3FF80 + 4 * i) i % 4 = 0 ∧ (fun i => 0x3FF80 + 4 * i) i + 4 ≤ Config.lmBytes)) ∧
    (runs (.vsts 2 6 8 0) sLm = true ∧ (sLm.core sLm.cur.core).teQueue = [] ∧ (∀ i, i < 32 → (sLm.mr 0).getLsbD i = true → sLm.g 6 + BitVec.ofNat 64 i * sLm.g 8 = ownLmBase + BitVec.ofNat 64 ((fun _ => 0x3FFF0) i) ∧ (fun _ => 0x3FFF0) i % 4 = 0 ∧ (fun _ => 0x3FFF0) i + 4 ≤ Config.lmBytes)) ∧
    (runs (.vstx 2 6 8 0) sLm = true ∧ (sLm.core sLm.cur.core).teQueue = [] ∧ (∀ i, i < 32 → (sLm.mr 0).getLsbD i = true → sLm.g 6 + ((sLm.vr 8).lane i).signExtend 64 = ownLmBase + BitVec.ofNat 64 ((fun _ => 0x3FFF0) i) ∧ (fun _ => 0x3FFF0) i % 4 = 0 ∧ (fun _ => 0x3FFF0) i + 4 ≤ Config.lmBytes)) ∧
    (runs (.vspill 2 6) sLmI = true ∧ sLmI.g 6 = ownLmBase + BitVec.ofNat 64 0x3FF7C ∧ 0x3FF7C % 4 = 0 ∧ 0x3FF7C + 132 ≤ Config.lmBytes ∧ (sLmI.core sLmI.cur.core).teQueue = []) ∧
    (runs (.vfill 2 6) sLmI = true ∧ sLmI.g 6 = ownLmBase + BitVec.ofNat 64 0x3FF7C ∧ 0x3FF7C % 4 = 0 ∧ 0x3FF7C + 132 ≤ Config.lmBytes ∧ (sLmI.core sLmI.cur.core).teQueue = []) := by
  unfold State.OwnLm; and_intros <;> decide +kernel
theorem test_meets_NarrowingStores_runs : ∀ i ∈ ([
    .fstn 4 6 .rne 0 .mi8] : List Instr), runs i s0 = true := by decide +kernel
theorem test_meets_NarrowingStores :
    (runs (.vstn 2 6 .rne 0 .e4m3) sOvf = true ∧ sOvf.enabled (((List.range 32).filter (sOvf.mr 0).getLsbD).foldl (fun f i => f ||| ((fun (i : Nat) => finalRound ((sOvf.vr 2).lane i) ((sOvf.vr 2).laneS i) 0 (NTy.fm .e4m3) .rne sOvf.ovf (((sOvf.draws .rne ((List.range 32).filter (sOvf.mr 0).getLsbD).length)).getD (rankOf (sOvf.mr 0) i) 0)) i).2) 0 : Flags) ≠ 0) ∧
    (RMode.rne) ≠ .sr := by
  and_intros <;> decide +kernel
theorem test_meets_BranchesAndLoops_runs : ∀ i ∈ ([
    .bp 0 false 0, .bz 4 0 1, .bnz 4 0 1, .jal 0 false 0, .jalr 2 4 0 1, .ret 4 0 false] : List Instr), runs i s0 = true := by decide +kernel
theorem test_meets_BranchesAndLoops :
    runs .cnop s0 = true := by
  decide +kernel
theorem test_meets_BranchesAndLoops_setup_runs : ∀ i ∈ ([
    .loopi false 1 0 1, .loopi true 1 0 1, .repi 0 1] : List Instr), runs i s0 = true := by decide +kernel
theorem test_meets_BranchesAndLoops_setup :
    (runs (.loopr false 4 0 1) (gput 4 0xFFFFFFFF s0) = true ∧ ((gput 4 0xFFFFFFFF s0).g 4).toNat < 2 ^ 32) ∧
    (runs (.loopr false 4 0 1) (gput 4 0x100000000 s0) = true ∧ 2 ^ 32 ≤ ((gput 4 0x100000000 s0).g 4).toNat) ∧
    (runs (.loopr true 4 0 1) (gput 4 0xFFFFFFFF s0) = true ∧ ((gput 4 0xFFFFFFFF s0).g 4).toNat < 2 ^ 32) ∧
    (runs (.loopr true 4 0 1) (gput 4 0x100000000 s0) = true ∧ 2 ^ 32 ≤ ((gput 4 0x100000000 s0).g 4).toNat) ∧
    (runs (.repr 4 0) (gput 4 0xFFFFFFFF s0) = true ∧ ((gput 4 0xFFFFFFFF s0).g 4).toNat < 2 ^ 32) ∧
    (runs (.repr 4 0) (gput 4 0x100000000 s0) = true ∧ 2 ^ 32 ≤ ((gput 4 0x100000000 s0).g 4).toNat) := by
  and_intros <;> decide +kernel
theorem test_meets_BranchesAndLoops_back :
    (x2.loop1.cnt ≠ 0 ∧ x2.loop1.fin.setWidth 64 = 3 ∧ x2.loop1.cnt - 1 ≠ 0) ∧
    (x1.loop1.cnt = 1 ∧ x1.loop1.fin.setWidth 64 = 3) ∧
    (x2.loop1.cnt = 0 ∨ x2.loop1.fin.setWidth 64 ≠ 4) ∧
    (({ repc := 1 } : Strand).checksOff = false ∧ ({ repc := 1 } : Strand).repc ≠ 0 ∧ ({ repc := 1 } : Strand).repc = ({ repc := 1 } : Strand).repc) ∧
    ((s0.flow (.taken 8)).cur.flow = .taken 8 ∧ (s0.flow (.taken 8)).cur.slot < 16) := by
  and_intros <;> decide +kernel
theorem test_meets_SupervisorCallsTrap_runs : ∀ i ∈ ([
    .sysc 1, .brk 1] : List Instr), runs i s0 = true := by decide +kernel
theorem test_meets_SupervisorCallsTrap :
    s0.cur.slot < 16 := by
  decide +kernel
theorem test_meets_TrapEntry :
    s0.cur.slot < 16 := by
  decide +kernel
theorem test_meets_ReturnAndPrivilege_runs : ∀ i ∈ ([
    .xret 0] : List Instr), runs i sPriv = true := by decide +kernel
theorem test_meets_ReturnAndPrivilege :
    s0.cur.pre.priv = false ∧
    s0.cur.pre.priv = false ∧
    0x100 ≤ (0x100 : CRNum).toNat ∧
    (0x100 ≤ (0x105 : CRNum).toNat ∧ (0x105 : CRNum).toNat ≤ 0x105 ∧ ({ } : Strand).priv = false) := by
  and_intros <;> decide +kernel
theorem test_meets_GuardedOffHasNoEffect :
    (Instr.add .i64 1 2 3 1).hasWord = true := by
  decide +kernel
theorem test_meets_SharedRegistersAndWaits_runs : ∀ i ∈ ([
    .shrd 4 1 0, .shwr 4 1 0, .hbeat 0, .waitt 4 0, .yield 0] : List Instr), runs i s0 = true := by decide +kernel
theorem test_meets_SharedRegistersAndWaits :
    (runs (.semp 1 0) s0 = true ∧ (s0.slotOf s0.cur.core s0.cur.slot).sempGrant = none) ∧
    (runs (.semv 1 0) s0 = true ∧ (s0.core s0.cur.core).semWait = []) ∧
    (runs (.bar 1 0 .core) sGang = true ∧ sGang.cur.pre.gid = some 0) := by
  and_intros <;> decide +kernel
theorem test_meets_RegisterBorrowing :
    (runs (.xborrow 6 1 0) (gput 6 32 s0) = true ∧ ((gput 6 32 s0).g 6 = 0 ∨ (gput 6 32 s0).g 6 = 8 ∨ (gput 6 32 s0).g 6 = 16 ∨ (gput 6 32 s0).g 6 = 32)) ∧
    (runs (.xborrow 6 1 0) (gput 6 33 s0) = true ∧ (gput 6 33 s0).g 6 ≠ 0 ∧ (gput 6 33 s0).g 6 ≠ 8 ∧ (gput 6 33 s0).g 6 ≠ 16 ∧ (gput 6 33 s0).g 6 ≠ 32) ∧
    st9.cur.pre.borrow = some ({ slot := 1, vcount := 8 } : Borrow) ∧
    (runs (.xreturn 0) st9 = true ∧ st9.strand.borrow = some ({ slot := 1, vcount := 8 } : Borrow)) ∧
    (s0.cur.pre.borrow = none ∧ (Instr.uses (.xmov 4 6 0 false false)).illegal s0.cur.pre = false) := by
  and_intros <;> decide +kernel
theorem test_meets_CallsTriggersAndMigration_runs : ∀ i ∈ ([
    .migrate 4 6 0] : List Instr), runs i s0 = true := by decide +kernel
theorem test_meets_CallsTriggersAndMigration :
    (runs (.callat 2 6 8 0) (gput 7 3071 s0) = true ∧ ((gput 7 3071 s0).g (6 + 1)).toNat < Config.cores ∧ ((gput 7 3071 s0).flushDest (gput 7 3071 s0).cur.core (some (.core (((gput 7 3071 s0).g (6 + 1)).toNat)))).destsClear [.core (((gput 7 3071 s0).g (6 + 1)).toNat)] = true) ∧
    (runs (.retv 4 0) st8 = true ∧ st8.cur.pre.role = .callee ({ core := 1 } : Caller) ∧ st8.flushStrand st8.cur.core st8.cur.slot = st8 ∧ st8.strand.quiet = true ∧ (st8.cacheRelease st8.cur.core .pk).strand.x.pf = false ∧ (st8.cacheRelease st8.cur.core .pk).cur = st8.cur ∧ (st8.cacheRelease st8.cur.core .pk).devid = st8.devid) ∧
    (runs (.amsg 6 8 0) sGl = true ∧ (sGl.g (6 + 1)).toNat < 64 ∧ sGl.lookup .load (sGl.g 6) = .ok (.hbm 0 0) ({ } : PageAttr) ∧ sGl.paOf (.hbm 0 0) = some 0 ∧ ((0, sGl.flushDest sGl.cur.core (some (sGl.home (.hbm 0 0)))) : Nat × State).2.destsClear [sGl.home (.hbm 0 0)] = true) ∧
    (runs (.amsgRet 2 6 8 0) sGl = true ∧ (sGl.g (6 + 1)).toNat < 64 ∧ sGl.lookup .load (sGl.g 6) = .ok (.hbm 0 0) ({ } : PageAttr) ∧ sGl.paOf (.hbm 0 0) = some 0 ∧ (sGl.flushDest sGl.cur.core (some (sGl.home (.hbm 0 0)))).destsClear [sGl.home (.hbm 0 0)] = true) ∧
    ({ job := some 7 } : Strand).job = some 7 := by
  and_intros <;> decide +kernel
theorem test_meets_HardwareQueues :
    (runs (.qenq 4 6 8 0 1) sLm = true ∧ handleOf (sLm.g 4) = some ({ dev := 0, core := 0, queue := 0 } : Handle) ∧ (sLm.g 6).toNat % 8 = 0 ∧ sLm.ownLmRange sLm.actor (sLm.g 6) (8 * 2 ^ (1 : BV3).toNat) = some 0x3FFF0 ∧ sLm.teHolds sLm.cur.core (.lm sLm.cur.core 0x3FFF0) (8 * 2 ^ (1 : BV3).toNat) = false ∧ sLm.joined ({ dev := 0, core := 0, queue := 0 } : Handle).dev = true ∧ (sLm.flushDest sLm.cur.core (some (sLm.queueNode ({ dev := 0, core := 0, queue := 0 } : Handle)))).joined ({ dev := 0, core := 0, queue := 0 } : Handle).dev = true ∧ (sLm.flushDest sLm.cur.core (some (sLm.queueNode ({ dev := 0, core := 0, queue := 0 } : Handle)))).issueCycle = sLm.issueCycle ∧ (sLm.flushDest sLm.cur.core (some (sLm.queueNode ({ dev := 0, core := 0, queue := 0 } : Handle)))).cur = sLm.cur ∧ (sLm.flushDest sLm.cur.core (some (sLm.queueNode ({ dev := 0, core := 0, queue := 0 } : Handle)))).destsClear [sLm.queueNode ({ dev := 0, core := 0, queue := 0 } : Handle)] = true) ∧
    (runs (.qtry 4 6 1 0 1) sLm = true ∧ handleOf (sLm.g 4) = some ({ dev := 0, core := 0, queue := 0 } : Handle) ∧ (sLm.g 6).toNat % 8 = 0 ∧ sLm.ownLmRange sLm.actor (sLm.g 6) (8 * 2 ^ (1 : BV3).toNat) = some 0x3FFF0 ∧ sLm.teHolds sLm.cur.core (.lm sLm.cur.core 0x3FFF0) (8 * 2 ^ (1 : BV3).toNat) = false ∧ sLm.joined ({ dev := 0, core := 0, queue := 0 } : Handle).dev = true ∧ (sLm.flushDest sLm.cur.core (some (sLm.queueNode ({ dev := 0, core := 0, queue := 0 } : Handle)))).joined ({ dev := 0, core := 0, queue := 0 } : Handle).dev = true ∧ (sLm.flushDest sLm.cur.core (some (sLm.queueNode ({ dev := 0, core := 0, queue := 0 } : Handle)))).issueCycle = sLm.issueCycle ∧ (sLm.flushDest sLm.cur.core (some (sLm.queueNode ({ dev := 0, core := 0, queue := 0 } : Handle)))).cur = sLm.cur ∧ (sLm.flushDest sLm.cur.core (some (sLm.queueNode ({ dev := 0, core := 0, queue := 0 } : Handle)))).destsClear [sLm.queueNode ({ dev := 0, core := 0, queue := 0 } : Handle)] = true) ∧
    (runs (.qdeq 4 6 8 0 3) (sQ false) = true ∧ ((sQ false).g 6).toNat % 8 = 0 ∧ (sQ false).ownLmRange (sQ false).actor ((sQ false).g 6) 8 = some 0x3FFF0 ∧ (((sQ false).core (sQ false).cur.core).queue ((3 : BV3).toNat)).open_ = true ∧ (((sQ false).core (sQ false).cur.core).queue ((3 : BV3).toNat)).cls = false ∧ (((sQ false).core (sQ false).cur.core).queue ((3 : BV3).toNat)).tokens = (8, 0, 0) :: [] ∧ (sQ false).ownLmRange (sQ false).actor ((sQ false).g 6) (8, 0, 0).1 = some 0x3FFF0 ∧ (sQ false).teHolds (sQ false).cur.core (.lm (sQ false).cur.core 0x3FFF0) (8, 0, 0).1 = false) ∧
    (runs (.qpoll 4 6 1 0 3) (sQ true) = true ∧ ((sQ true).g 6).toNat % 8 = 0 ∧ (sQ true).ownLmRange (sQ true).actor ((sQ true).g 6) 8 = some 0x3FFF0) ∧
    (runs (.qdeq 4 6 8 0 3) (sQ true) = true ∧ ((sQ true).g 6).toNat % 8 = 0 ∧ (sQ true).ownLmRange (sQ true).actor ((sQ true).g 6) 8 = some 0x3FFF0 ∧ ((((sQ true).core (sQ true).cur.core).queue ((3 : BV3).toNat)).open_ = false ∨ (((sQ true).core (sQ true).cur.core).queue ((3 : BV3).toNat)).cls = true)) ∧
    (runs (.qdeq 4 6 8 0 3) sQ0 = true ∧ (sQ0.g 6).toNat % 8 = 0 ∧ sQ0.ownLmRange sQ0.actor (sQ0.g 6) 8 = some 0x3FFF0 ∧ ((sQ0.core sQ0.cur.core).queue (3 : BV3).toNat).open_ = true ∧ ((sQ0.core sQ0.cur.core).queue (3 : BV3).toNat).cls = false ∧ ((sQ0.core sQ0.cur.core).queue (3 : BV3).toNat).tokens = []) := by
  and_intros <;> decide +kernel
theorem test_meets_ControlRegisters_runs : ∀ i ∈ ([
    .crrd 2 0 0x20, .crwr 4 0 0x20, .crswp 2 4 0 0x20] : List Instr), runs i s0 = true := by decide +kernel
theorem test_meets_ControlRegisters :
    (3071 < Config.cores ∧ 15 < 16) ∧
    ({ priv := true } : Strand).priv = true ∧
    ({ priv := true } : Strand).priv = true := by
  and_intros <;> decide +kernel
theorem test_meets_CacheAndTlbControl_runs : ∀ i ∈ ([
    .cctlWb 4 6 0, .cctlInv 4 6 0, .cctlWbinv 4 6 0, .cctlPrefetch 4 6 0, .cctlWbL1d 0, .cctlInvCc 0, .cctlSetCc 4 0, .tlbinv 4 0 .core] : List Instr), runs i sPriv = true := by decide +kernel
theorem test_meets_TaskInstructions_runs : ∀ i ∈ ([
    .spawn 4 6 0, .sync 4 0, .publish 4 6 0, .launch 4 1 0] : List Instr), runs i s0 = true := by decide +kernel
theorem test_meets_TaskInstructions :
    (runs (.frame 4 6 8 0) sFrame = true ∧ lmSpace (sFrame.g 6) = true ∧ (sFrame.g 6).toNat % 64 = 0 ∧ sFrame.ownLmRange sFrame.actor (sFrame.g 6) 64 = some 0x3FF80 ∧ sFrame.teHolds sFrame.cur.core (.lm sFrame.cur.core 0x3FF80) 64 = false ∧ (sFrame.g 8).extractLsb' 52 12 = 0x01F ∧ (sFrame.g 8).toNat % 8 = 0 ∧ sFrame.translate sFrame.actor .store (sFrame.g 8) = .ok (.csm 0 0) ({ } : PageAttr) ∧ (sFrame.g (8 + 1) ≠ 0 → lmSpace (sFrame.g (8 + 1)) = true ∧ (sFrame.g (8 + 1)).toNat % 8 = 0 ∧ sFrame.ownLmRange sFrame.actor (sFrame.g (8 + 1)) 32 = some 0x3FF80 ∧ sFrame.teHolds sFrame.cur.core (.lm sFrame.cur.core 0x3FF80) 32 = false ∧ ∀ i, i < 4 → (tileOf (sFrame.readW (.lm sFrame.cur.core (0x3FF80 + 8 * i)))).bad = false)) ∧
    (runs (.frame 4 6 8 0) s0 = true ∧ (lmSpace (s0.g 6) = false ∨ (s0.g 8).extractLsb' 52 12 ≠ 0x01F ∨ (s0.g (8 + 1) ≠ 0 ∧ lmSpace (s0.g (8 + 1)) = false))) ∧
    (runs (.spawn 6 8 0) sTask = true ∧ lmSpace (sTask.g 6) = true ∧ (sTask.g 6).toNat % 64 = 0 ∧ sTask.ownLmRange sTask.actor (sTask.g 6) 64 = some 0x3FF80 ∧ sTask.teHolds sTask.cur.core (.lm sTask.cur.core 0x3FF80) 64 = false ∧ (sTask.core sTask.cur.core).dequeSize < 4160 ∧ (sTask.readW (.lm sTask.cur.core 0x3FF80)).toNat % 8 = 0 ∧ sTask.lookup .store (sTask.readW (.lm sTask.cur.core 0x3FF80)) = .ok (Loc.lm 0 0x10) ({ } : PageAttr) ∧ (∀ h, (Loc.lm 0 0x10) ≠ .host h) ∧ (∀ p h, (Loc.lm 0 0x10) ≠ .regs p h) ∧ (∀ h, (Loc.lm 0 0x10) ≠ .dev h)) ∧
    (runs (.spawn 6 8 0) sFull = true ∧ lmSpace (sFull.g 6) = true ∧ (sFull.g 6).toNat % 64 = 0 ∧ sFull.ownLmRange sFull.actor (sFull.g 6) 64 = some 0x3FF80 ∧ sFull.teHolds sFull.cur.core (.lm sFull.cur.core 0x3FF80) 64 = false ∧ 4160 ≤ (sFull.core sFull.cur.core).dequeSize) ∧
    (runs (.sync 6 0) sTask = true ∧ lmSpace (sTask.g 6) = true ∧ (sTask.g 6).toNat % 64 = 0 ∧ sTask.ownLmRange sTask.actor (sTask.g 6) 64 = some 0x3FF80 ∧ sTask.teHolds sTask.cur.core (.lm sTask.cur.core 0x3FF80) 64 = false ∧ (sTask.readW (.lm sTask.cur.core 0x3FF80)).toNat % 8 = 0 ∧ sTask.lookup .store (sTask.readW (.lm sTask.cur.core 0x3FF80)) = .ok (Loc.lm 0 0x10) ({ } : PageAttr) ∧ (∀ h, (Loc.lm 0 0x10) ≠ .host h) ∧ (∀ p h, (Loc.lm 0 0x10) ≠ .regs p h) ∧ (∀ h, (Loc.lm 0 0x10) ≠ .dev h)) ∧
    (runs (.tend 0 0) sTend = true ∧ sTend.teOpen sTend.cur.core sTend.cur.pre.sid (fun _ => true) = false ∧ sTend.meOpen sTend.cur.core sTend.cur.pre.sid = false ∧ sTend.flushStrand sTend.cur.core sTend.cur.slot = sTend ∧ sTend.strand.quiet = true ∧ (sTend.cacheRelease sTend.cur.core .pk).cur = sTend.cur ∧ (sTend.cur.pre.priv = true ∨ ((sTend.cacheRelease sTend.cur.core .pk).strand.teFaulted = 0 ∧ (sTend.cacheRelease sTend.cur.core .pk).strand.meFault = false ∧ (sTend.cacheRelease sTend.cur.core .pk).strand.x.pf = false))) ∧
    (sPop.cur.pre.role.isTask = true ∧ (sPop.core sPop.cur.core).dequeJob = sPop.cur.pre.job) ∧
    (sTend.cur.pre.role.isTask = false ∨ (sTend.core sTend.cur.core).dequeJob ≠ sTend.cur.pre.job) ∧
    (s0.core s0.cur.core).deque.length < 64 ∧
    (s0.core 3071).deque.length < 64 ∧
    ((sFull.core 0).deque = dq :: (List.replicate 63 dq) ∧ 64 ≤ (sFull.core 0).deque.length) := by
  and_intros
  all_goals first | decide +kernel | (intros; intro h; cases h)
theorem test_meets_EngineCommands_runs : ∀ i ∈ ([
    .tcopy 4 6 8 0 1, .tcopy2d 4 6 8 0 1, .tgather 4 6 8 0 1, .tscatter 4 6 8 0 1, .tfill 4 6 8 0 1, .twait (.tag 1) 0, .mset .kvalid 4 0, .mzero 1 4 0,
    .mlda .core 1 4 6 0, .msta .f32 .core .rne 1 4 6 0, .mseed 4 0, .mring 4 6 0, .mma .e4m3 .e4m3 1 1 1 4 6 .plain, .mmaBf16 1 1 1 4 .plain, .mwait 0] : List Instr), runs i s0 = true := by decide +kernel
theorem test_meets_PacketsAreDelivered :
    (st33.net.find? (fun x => x.id == 5) = some pkt2 ∧ st33.routeFailed pkt2 = false ∧ st33.routeOff pkt2 = false) ∧
    (pkt2 ∈ st33.net ∧ stCut.net.find? (fun x => x.id == 5) = some { pkt2 with src := .core 16 } ∧ stCut.routeFailed { pkt2 with src := .core 16 } = true) ∧
    (State.reset.failed.contains (191, 190) = false) ∧
    (st41.takeArrived 5 = some (pkt14, (taken 5 st41)) ∧ pkt14.body = .access acc1 ∧ pkt14.dst.fencedBy st41 = false ∧ (∀ d, pkt14.dst ≠ .dev d) ∧ (∀ n, pkt14.dst ≠ .slice n)) ∧
    (st43.takeArrived 5 = some (pkt17, (taken 5 st43)) ∧ pkt17.body = .access acc2 ∧ pkt17.dst = .slice 0 ∧ acc2.loc.forward st43 = .hbm 0 0 ∧ ¬ (acc2.loc.forward st43 = acc2.loc ∧ st43.homeSlice 0 0 ≠ 0 ∧ acc2.kind.reads = true) ∧
      ((taken 5 st43).slice 0).fills.any (fun f => f.2 == pkt17.src) = false ∧ (st43.replicaGate 5 0 0 0 acc2).2 = true ∧ (taken 5 st43).waitsFill 0 0 0 acc2 = false) ∧
    (st42.takeArrived 5 = some (pkt16, (taken 5 st42)) ∧ pkt16.body = .access acc2 ∧ pkt16.dst = .slice 1 ∧ acc2.loc = .hbm 0 0 ∧ acc2.loc.forward st42 = acc2.loc ∧ st42.homeSlice 0 0 ≠ 1 ∧ acc2.kind.reads = true) ∧
    (acc2.kind.writes = false) ∧
    (stRep.takeArrived 5 = some (pktRep, taken 5 stRep) ∧ pktRep.dst = .slice 16 ∧ acc2.loc.forward stRep = acc2.loc ∧ stRep.homeSlice 0 0 ≠ 16 ∧
      (taken 5 stRep).replicaOn (16 / 16) 0 0 = some (rep1, 16) ∧ rep1.lines.contains (16, lineOf 0, acc2.kslot) = true ∧ ((taken 5 stRep).performAt (.slice 16) (.core 0) acc2).2.isSome = true) ∧
    ((arrives pktLm State.reset).takeArrived 5 = some (pktLm, taken 5 (arrives pktLm State.reset)) ∧ pktLm.body = .access acc1 ∧ pktLm.dst = .slice 63 ∧ (∀ q o, acc1.loc.forward (arrives pktLm State.reset) ≠ .hbm q o)) ∧
    ((arrives pktWd State.reset).takeArrived 5 = some (pktWd, taken 5 (arrives pktWd State.reset)) ∧ pktWd.body = .withdraw 7 0 (.hbm 0 0) ∧ pktWd.dst.fencedBy (arrives pktWd State.reset) = false ∧ (∀ d, pktWd.dst ≠ .dev d) ∧
      ((arrives pktWd State.reset).slice 63).fills.any (fun f => f.2 == pktWd.src && f.1.req == 7) = false) ∧
    (st39.takeArrived 5 = some (pkt11, (taken 5 st39)) ∧ pkt11.body = .accReply 7 0 .failed ∧ pkt11.dst = .core 0 ∧ (st39.core 0).fenced = false ∧ (st39.core 0).req 7 = some rq1 ∧ rq1.isAtomic = false) ∧
    (st46.takeArrived 5 = some (pkt11, (taken 5 st46)) ∧ pkt11.body = .accReply 7 0 .failed ∧ pkt11.dst = .core 0 ∧ (st46.core 0).fenced = false ∧ (st46.core 0).req 7 = some rq4 ∧ rq4.isAtomic = true) := by
  and_intros
  all_goals first | decide +kernel | (intros; intro h; cases h)
/-- 20 R370 to R377, 19 R364, 10 R256: elements, tokens, calls, triggers and strands that arrive, and replies for the host. -/
theorem test_meets_deliveries :
    (st27.takeArrived 5 = some (pkt5, (taken 5 st27)) ∧ pkt5.body = .agg [] .age ∧ pkt5.dst.fencedBy st27 = false ∧ (∀ d, pkt5.dst ≠ .dev d) ∧ (∀ n, pkt5.dst ≠ .slice n) ∧ (st27.elemGates 5 pkt5.dst 0 []).2 = true) ∧
    (st28.takeArrived 5 = some (pkt6, (taken 5 st28)) ∧ pkt6.body = .agg [] .age ∧ pkt6.dst = .slice 63 ∧ st28.elemsWait pkt6.dst 0 pkt6.src [] = false) ∧
    (let s := arrives pkt6 (withSlice 63 { fills := [(accA, .core 1)] } State.reset); s.elemsWait pkt6.dst pkt6.part pkt6.src [] = true) ∧
    (let p : Packet := { pkt6 with src := .dev 1, dst := .iod, body := .fabAgg 3 4 [] }; let s := arrives p State.reset; s.takeArrived 5 = some (p, taken 5 s) ∧ s.elemsWait p.dst p.part p.src [] = false ∧ (s.elemGates 5 p.dst p.part []).2 = true) ∧
    goodElem (State.reset.elemLoc (.core 0) 0 { elem1 with addr := ownLmBase + 8 } (Loc.lm 0 8).key).2 = some (.lm 0 8) ∧ goodElem (State.reset.elemLoc .iod 0 elem1 0).2 = none ∧
    (st32.takeArrived 5 = some (pkt10, (taken 5 st32)) ∧ pkt10.body = .aggReply 0 0 [] ∧ pkt10.dst = .core 0 ∧ (st32.core 0).fenced = false) ∧
    (st26.takeArrived 5 = some (pkt4, (taken 5 st26)) ∧ pkt4.body = .token tok ∧ pkt4.dst = .core 0) ∧
    (st44.takeArrived 5 = some (pkt15, (taken 5 st44)) ∧ pkt15.body = .call call1 ∧ pkt15.dst = .core 0 ∧ ((taken 5 st44).core 0).fenced = false ∧ ((taken 5 st44).partn call1.part).clusters.contains (clusterOf 0) = true ∧ ((taken 5 st44).core 0).calls.length < 64) ∧
    (st47.takeArrived 5 = some (pkt15, (taken 5 st47)) ∧ pkt15.body = .call call1 ∧ pkt15.dst = .core 0 ∧ ((taken 5 st47).core 0).fenced = false ∧ ((taken 5 st47).partn call1.part).clusters.contains (clusterOf 0) = true ∧ 64 ≤ ((taken 5 st47).core 0).calls.length ∧
      ((taken 5 st47).core 0).calls.getLast? = some { call1 with came := 0 } ∧ ¬ ((0 : Nat) = (taken 5 st47).cycle 0 ∧ call1.caller.core < call1.caller.core)) ∧
    ((State.reset.partn call1.part).clusters.contains (clusterOf 0) = false) ∧
    (st31.takeArrived 5 = some (pkt9, (taken 5 st31)) ∧ pkt9.body = .callReply 7 0 1 ∧ pkt9.dst = .core 0) ∧
    (st36.takeArrived 5 = some (pkt12, (taken 5 st36)) ∧ pkt12.body = .amsg ({ pa := 0, index := 63, args := [] } : PhloxTrig) ∧ pkt12.dst = .slice 63) ∧
    (st37.takeArrived 5 = some (pkt13, (taken 5 st37)) ∧ pkt13.body = .migrate mig1 ∧ pkt13.dst = .core 0 ∧ (st37.core 0).fenced = false ∧ (∀ n, mig1.strand.job = some n → ((taken 5 st37).job n).st < 4) ∧ ((taken 5 st37).core 0).inbox = [] ∧ (taken 5 st37).freeSlot 0 = some 0) ∧
    (st45.takeArrived 5 = some (pkt13, (taken 5 st45)) ∧ pkt13.body = .migrate mig1 ∧ pkt13.dst = .core 0 ∧ (st45.core 0).fenced = false ∧ (((taken 5 st45).core 0).inbox ≠ [] ∨ (taken 5 st45).freeSlot 0 = none)) ∧
    (let s := withJob 1 { part := 0, queue := 0, qslot := 0, bytes := [], st := 4 }; ({ mig1 with strand := { job := some 1 } } : Migration).strand.job = some 1 ∧ 4 ≤ (s.job 1).st) ∧
    (st35.takeArrived 5 = some (pkt2, (taken 5 st35)) ∧ pkt2.dst = .core 0 ∧ (st35.core 0).fenced = true) ∧
    (st30.takeArrived 5 = some (pkt8, (taken 5 st30)) ∧ pkt8.body = .accReply 7 0 .failed ∧ pkt8.dst = .iod) := by
  and_intros
  all_goals first | decide +kernel | (intros; intro h; cases h)
theorem test_meets_MemorySystemEvents :
    (63 < 64 ∧ 64 % 64 = 0 ∧ State.reset.hbmOff (State.reset.homeSlice 63 64) = false) ∧
    (0 < 64 ∧ (2 ^ 41 - 64) % 64 = 0 ∧ (2 ^ 41 - 64) < 2 ^ 41 ∧ 7 = (onPart { slices := [7] }).homeSlice 0 (2 ^ 41 - 64) ∧ (onPart { slices := [7] }).hbmOff 7 = false) ∧
    (63 < 64 ∧ 2 ^ 41 ≤ (2 ^ 41)) ∧
    (63 < 64 ∧ 63 < Config.slices ∧ State.reset.islandOff (sliceIsland 63) = false) ∧
    (0 < Config.clusters ∧ sWalk.islandOff (islandOf 0) = false ∧ sWalk.someWalk 0 = (some wk1, sWalk) ∧ sWalk.walkCut (.csm 0) wk1.part wk1.va = false ∧ (∀ o ∈ sWalk.walkReads wk1.part wk1.va, sWalk.lineBusy wk1.part o = false) ∧ (sWalk.noteWalk (.csm 0) wk1.part wk1.va).walk wk1.part wk1.va = some (tlbOf sWalk)) ∧
    (191 < Config.clusters ∧ st11.islandOff (islandOf 191) = false ∧ st11.someWalk 191 = (some wk1, st11) ∧ st11.walkCut (.csm 191) wk1.part wk1.va = false ∧ (∀ o ∈ st11.walkReads wk1.part wk1.va, st11.lineBusy wk1.part o = false) ∧ (st11.noteWalk (.csm 191) wk1.part wk1.va).walk wk1.part wk1.va = none) ∧
    (191 < Config.clusters ∧ st11.islandOff (islandOf 191) = false ∧ st11.someWalk 191 = (some wk1, st11) ∧ (sWalk.walkReads wk1.part wk1.va).getLast?.isSome = true) ∧
    ((st11.cluster 191).walks = [wk1] ∧ (st11.cluster 191).walks ≠ []) ∧
    (3071 < Config.cores ∧ (atTime 1000 State.reset).coreStopped 3071 = false ∧ ((atTime 1000 State.reset).core 3071).ptsDue ≤ (atTime 1000 State.reset).cycle 3071) ∧
    (63 < Config.slices ∧ (atTime 3000000 State.reset).islandOff (sliceIsland 63) = false ∧ ((atTime 3000000 State.reset).slice 63).hotDue ≤ (atTime 3000000 State.reset).gtime.toNat) ∧
    63 < 64 ∧
    (63 < 64 ∧ 4096 = 4096 % 2 ^ 43 ∧ State.reset.isRetired 63 4096 = false) ∧
    (3071 < Config.cores ∧ State.reset.coreStopped 3071 = false) ∧
    (0 < Config.cores ∧ st18.coreStopped 0 = false ∧ (st18.core 0).meQueue = me1 :: [] ∧ (st18.core 0).meBusy = true ∧ me1.dead = false) ∧
    (0 < 64 ∧ ((onPart { pm := { st := 1 }, slices := [63] }).partn 0).pm.st = 1 ∧ (∀ n ∈ ((onPart { pm := { st := 1 }, slices := [63] }).partn 0).slices, (onPart { pm := { st := 1 }, slices := [63] }).hbmOff n = false)) ∧
    ((∀ e ∈ (State.reset.slice (State.reset.homeSlice 63 0)).lines, e.1 = 63 → e.2.1 ≠ 0) ∧ (State.reset.partn 63).lfcnt.toNat % 32 < 16 ∧ 16 ≤ ((onPart { lfcnt := 16 }).partn 0).lfcnt.toNat % 32) := by
  and_intros <;> decide +kernel
theorem test_meets_CoreEvents :
    (0 < Config.cores ∧ 15 < 16 ∧ (st2.slotOf 0 15).st = .waiting (.extended 0) ∧ 0 ≤ st2.cycle 0) ∧
    (0 < Config.cores ∧ 15 < 16 ∧ st38.coreStopped 0 = false ∧ (st38.slotOf 0 15).st = .parked (.syncWait 7) ∧ (st38.core 0).req 7 = some rq3 ∧ rq3.acc = some acc1 ∧ rq3.limit = some 0 ∧ rq3.withdrawn = false ∧ 0 ≤ st38.cycle 0) ∧
    (0 < Config.cores ∧ 15 < 16 ∧ st40.coreStopped 0 = false ∧ (st40.slotOf 0 15).st = .parked (.syncBusy 7 0) ∧ (st40.core 0).req 7 = some rq3 ∧ rq3.acc = some acc1 ∧ 0 ≤ st40.cycle 0) ∧
    (0 < Config.cores ∧ 15 < 16 ∧ (atTime 5000 (onBuf15 none)).coreStopped 0 = false ∧ (atTime 5000 (onBuf15 none)).ageDue 0 15 = true) ∧
    (0 < Config.cores ∧ (onBuf15 (some .age)).coreStopped 0 = false ∧ ((onBuf15 (some .age)).core 0).sent.length < 64 ∧ ((onBuf15 (some .age)).core 0).sendingBuf = some (15, .age)) ∧
    (0 < Config.cores ∧ 15 < 16 ∧ st20.coreStopped 0 = false ∧ (st20.slotOf 0 15).st = .parked (.qenqRetry 7 0 0) ∧ 0 ≤ st20.cycle 0 ∧ (st20.core 0).req 7 = some rq2 ∧ rq2.tok = some tok) ∧
    (0 < Config.cores ∧ 15 < 16 ∧ (onSlot15 { st := .parked (.qdeq 0 0) } []).coreStopped 0 = false ∧ ((onSlot15 { st := .parked (.qdeq 0 0) } []).slotOf 0 15).st = .parked (.qdeq 0 0) ∧ 0 ≤ (onSlot15 { st := .parked (.qdeq 0 0) } []).cycle 0) ∧
    (0 < Config.cores ∧ st16.coreStopped 0 = false ∧ st16.offerSlot 0 = some ((State.offerSlot st16 0).getD State.reset)) ∧
    (0 < Config.cores ∧ 15 < 16 ∧ (onSlot15 { st := .parked (.spill 0) } []).coreStopped 0 = false ∧ ((onSlot15 { st := .parked (.spill 0) } []).slotOf 0 15).st = .parked (.spill 0) ∧ 0 ≤ (onSlot15 { st := .parked (.spill 0) } []).cycle 0) ∧
    (0 < Config.cores ∧ 15 < 16 ∧ st1.coreStopped 0 = false ∧ (st1.slotOf 0 15).st = .waiting (.yield [] 0)) ∧
    (0 < Config.cores ∧ 15 < 16 ∧ (onSlot15 { st := .parked (.gtime 0) } []).coreStopped 0 = false ∧ ((onSlot15 { st := .parked (.gtime 0) } []).slotOf 0 15).st = .parked (.gtime 0) ∧ (onSlot15 { st := .parked (.gtime 0) } []).gtime.ult 0 = false) ∧
    (0 < Config.cores ∧ 15 < 16 ∧ st13.heartMissed 0 15 = true ∧ (st13.strandOf 0 15).job = some 3) ∧
    (State.reset.heartMissed 3071 15 = false ∧ 3071 < Config.cores ∧ 15 < 16) ∧
    (0 < Config.cores ∧ 15 < 16 ∧ ((onSlot15 { st := .ready } []).slotOf 0 15).st = .ready) ∧
    (0 < Config.cores ∧ 15 < 16 ∧ ((onSlot15 { st := .ready } []).slotOf 0 15).st = .ready) ∧
    (0 < Config.cores ∧ 15 < 16 ∧ ((onSlot15 { st := .ready } []).slotOf 0 15).st = .ready) ∧
    (3071 < Config.cores ∧ ((State.reset.core 3071).queue (7 : BV3).toNat).en = false ∧ ((0x80 : W64).extractLsb' 4 4).toNat ≤ 8 ∧ (0x80 : W64).extractLsb' 4 4 ≠ 0 ∧ (0x80 : W64).extractLsb' 2 2 ≠ 3) ∧
    (0 < Config.cores ∧ (((onCore0 { queues := Vector.replicate 8 { en := true } }).core 0).queue (7 : BV3).toNat).en = true) := by
  and_intros <;> decide +kernel
theorem test_meets_EngineStealAndHandlerEvents :
    (0 < Config.cores ∧ st15.coreStopped 0 = false ∧ (st15.core 0).meQueue = me1 :: [] ∧ (st15.core 0).meBusy = false ∧ me1.wait = none ∧ (∀ q ∈ (st15.core 0).meLate, me1.isWait = true → q.sid ≠ me1.sid)) ∧
    (0 < Config.cores ∧ st4.coreStopped 0 = false ∧ (st4.core 0).tileIn = [{ tile := { bytes := [], hop := 0 }, src := 1, left := 1 }] ∧ (st4.core 0).meQueue = []) ∧
    (0 < Config.cores ∧ st21.coreStopped 0 = false ∧ (st21.core 0).tileIn = [] ∧ (st21.core 0).meQueue = me3 :: [] ∧ me3.op = .mring 0x01D0000000000000 1 15 63 ∧ (st21.core 0).meBusy = true ∧ me3.dead = false ∧ me3.progress < 63 ∧ (me3.sub = 0 → (st21.core 0).latchUsed < 2 ∧ st21.upstreamWaits 0 = false) ∧ st21.meHeld 0 me3 (0x01D0000000000000 + BitVec.ofNat 64 ((me3.progress * 1 + me3.sub) * 64)) 64 = false) ∧
    (0 < Config.cores ∧ st34.coreStopped 0 = false ∧ (st34.core 0).meQueue = me2 :: [] ∧ me2.op = .mma none 0 16 16 0 0 .plain ∧ (st34.core 0).meBusy = true ∧ me2.progress < 16 / 16 ∧ (me2.readsNext 16 .plain && st34.meBlocked 0 me2 none 16 0 0 .plain) = false) ∧
    (0 < Config.cores ∧ st12.coreStopped 0 = false ∧ (st12.core 0).handOn.find? (fun h => !h.going && (st12.handOnLost h || st12.handOnFree 0 h)) = some ({ tile := { bytes := [], hop := 0 }, dst := 1, gid := 0 })) ∧
    (0 < Config.cores ∧ st6.coreStopped 0 = false ∧ (st6.core 0).rotOut = ({ dst := 1, gid := 0, img := [] }) :: []) ∧
    (3071 < Config.cores ∧ State.reset.coreStopped 3071 = false) ∧
    ({ slot := 0, sid := 0, op := .mzero 16383 1, eng := { }, who := { } } : MeCmd).op = .mzero 16383 1 ∧
    (0 < Config.cores ∧ (onCore0 { teQueue := [te] }).coreStopped 0 = false ∧ ((onCore0 { teQueue := [te] }).core 0).teQueue[0]? = some te) ∧
    (3071 < Config.cores ∧ State.reset.coreStopped 3071 = false) ∧
    (st25.takeArrived 5 = some (pkt3, (taken 5 st25)) ∧ pkt3.body = .probe 1 2 ∧ pkt3.dst.fencedBy st25 = false) ∧
    (st24.takeArrived 5 = some (pkt1, (taken 5 st24)) ∧ pkt1.body = .noEntry ∧ pkt1.dst = .core 0) ∧
    (st19.takeArrived 9 = none ∧ st19.giver 9 = some (0, ({ id := 9, src := .core 0, part := 0, thief := 2, entry := dq, acks := [], writes := [] }))) ∧
    (st29.takeArrived 5 = some (pkt7, (taken 5 st29)) ∧ pkt7.body = .stealCopy dq [] ∧ pkt7.dst = .core 0) ∧
    (0 < Config.cores ∧ (onCore0 { steal := { pause := some 0 } }).coreStopped 0 = false ∧ ((onCore0 { steal := { pause := some 0 } }).core 0).steal.pause = some 0) ∧
    (63 < Config.slices ∧ State.reset.islandOff (sliceIsland 63) = false) ∧
    (63 < Config.slices ∧ st5.islandOff (sliceIsland 63) = false ∧ (st5.slice 63).queue = .bind 0 63 0 64 :: [] ∧ (st5.slice 63).run = none ∧ (st5.slice 63).ready = [] ∧ st5.heldPart 0 = false) := by
  and_intros <;> decide +kernel
theorem test_meets_JobAndSwitchEvents :
    (63 < 64 ∧ 63 < 64 ∧ State.reset.frontOff 63 = false) ∧
    (63 < 64 ∧ State.reset.frontOff 63 = false ∧ (State.reset.partn 63).edgeDue ≤ State.reset.gtime.toNat) ∧
    (0 < 64 ∧ (st17.job 1).part = 0 ∧ st17.agingDue 1 = true) ∧
    (63 < 64 ∧ State.reset.frontOff 63 = false) ∧
    (0 < Config.clusters ∧ st22.islandOff (islandOf 0) = false ∧ st22.gangReady 0 = some 1 ∧ st22.heldPart (st22.job (st22.gang 1).job).part = false) ∧
    (0 < 64 ∧ st14.frontOff 0 = false ∧ (st14.job 1).part = 0 ∧ st14.jobDone 1 = true) ∧
    63 < 64 ∧
    63 < 64 ∧
    63 < 64 ∧
    (63 < 64 ∧ 3071 = field (0xBFF : W64).toNat 0 12 ∧ 3071 < Config.cores) ∧
    (63 < 64 ∧ 63 < 64) ∧
    64 ≤ 64 := by
  and_intros <;> decide +kernel
theorem test_meets_RegisterWriteEvents :
    63 < 64 ∧
    63 < 64 ∧
    (0 < 64 ∧ (0 : W64).getLsbD 1 = false ∧ ((onPart { pm := { st := 1 } }).partn 0).pm.st ≠ 0) ∧
    (63 < 64 ∧ (0 : W64).getLsbD 0 = false ∧ (State.reset.partn 63).pm.st ≠ 2) ∧
    63 < 64 ∧
    (63 < 64 ∧ 63 < 64) ∧
    63 < 64 ∧
    0x1FFFFFF < 0x2000000 ∧
    64 ≤ 64 := by
  and_intros <;> decide +kernel
theorem test_meets_HostAndFabricEvents :
    17 < 18 ∧
    (17 < 18 ∧ State.reset.portsDown.getLsbD 17 = false) ∧
    18 ≤ 18 ∧
    (st23.switchBuf.find? (fun x => x.id == 1) = some sw2 ∧ st23.switchBuf.find? (fun x => x.id == 2) = some sw1 ∧ 1 ≠ 2 ∧ sw2.dev = sw1.dev ∧ sw2.tpart = sw1.tpart ∧ sw2.pa = sw1.pa ∧ sw2.size = sw1.size ∧ (sw2.parts ++ sw1.parts).length ≤ 64) ∧
    ({ State.reset with switchBuf := [{ id := 1, dev := 0, pa := 0, size := 8, parts := [] }] }).switchBuf.find? (fun y => y.id == 1) = some sw2 := by
  and_intros <;> decide +kernel
theorem test_meets_ManagementStartAndPowerEvents :
    ({ State.reset with mailbox := { cmd := 1, busy := true } }).mbIs 1 = true ∧
    st7.mbIs 2 = true ∧
    (st7.mbIs 2 = true ∧ st7.started = false) ∧
    ({ State.reset with mailbox := { cmd := 3, busy := true } }).mbIs 3 = true ∧
    ({ State.reset with mailbox := { cmd := 4, busy := true } }).mbIs 4 = true ∧
    ({ State.reset with mailbox := { cmd := 5, busy := true } }).mbIs 5 = true ∧
    State.reset.keyBad = some 5 ∧
    ((keyed 1).keyOp = 1 ∧ (keyed 1).keyBad = none ∧ ((keyed 1).keys.lookup (keyed 1).keySlot).isSome = true) ∧
    (keyed 2).keyOp = 2 ∧
    (keyed 3).keyOp = 3 ∧
    (State.reset.keyOp ≠ 1 ∧ State.reset.keyOp ≠ 2 ∧ State.reset.keyOp ≠ 3) ∧
    (st3.boot.began = some 0 ∧ st3.imageFault = some .image) ∧
    State.reset.boot.began = some 0 ∧
    ({ State.reset with boot := { again := some 0 } }).boot.again = some 0 ∧
    (19 < 20 ∧ 1000 ≤ 2400 ∧ 2400 ≤ 2400 ∧ 2400 % 100 = 0) ∧
    (19 < 20 ∧ (vget st10.islands 19 {}).stall = some 0 ∧ 0 ≤ st10.gtime.toNat) ∧
    109 < 110 ∧
    (110 ≤ 110 ∧ State.reset.power.stopped = false) := by
  and_intros <;> decide +kernel
theorem test_meets_StepRunsTheDecodedBundle :
    (({ State.reset with agenda := [ag] }).agenda = ag :: [] ∧ ag.due ≤ ({ State.reset with agenda := [ag] }).time) ∧
    ((quiet 0x80000000).agenda = [] ∧ ((quiet 0x80000000).auto = false ∨ firstChange (quiet 0x80000000) (quiet 0x80000000).acts = none) ∧ (quiet 0x80000000).nextRelease = none ∧ (quiet 0x80000000).nextResume = none ∧ (quiet 0x80000000).nextIssue = some (0, 0)) ∧
    (((quiet 0x80000000).atSlot 0 0).words = .ok (fetched (quiet 0x80000000)) ∧ (fetched (quiet 0x80000000)).cur.len = 4 ∧ (decodeC (fetched (quiet 0x80000000)).cur.cword).toOption = some Instr.cnop ∧ (Instr.privileged Instr.cnop = true → (fetched (quiet 0x80000000)).cur.pre.priv = true) ∧ ((fetched (quiet 0x80000000)).cur.pre.repeating = false ∨ unrepeatable Instr.cnop (fetched (quiet 0x80000000)).cur.cword = false) ∧ Instr.extended Instr.cnop = 0 ∧ operandFault Instr.cnop (fetched (quiet 0x80000000)) = none ∧ (fetched (quiet 0x80000000)).holds Instr.cnop none = none) ∧
    (((quiet 0x0486400000000000).atSlot 0 0).words = .ok (fetched (quiet 0x0486400000000000)) ∧ (fetched (quiet 0x0486400000000000)).cur.len = 8 ∧ (decodeC (fetched (quiet 0x0486400000000000)).cur.cword).toOption = some Instr.cnop ∧ (decodeA (fetched (quiet 0x0486400000000000)).cur.aword).toOption = some (Instr.add .i64 4 6 8 0) ∧ sharesDest (Instr.uses Instr.cnop) (Instr.uses (Instr.add .i64 4 6 8 0)) = false ∧ (Instr.privileged Instr.cnop = true → (fetched (quiet 0x0486400000000000)).cur.pre.priv = true) ∧ ((fetched (quiet 0x0486400000000000)).cur.pre.repeating = false ∨ unrepeatable Instr.cnop (fetched (quiet 0x0486400000000000)).cur.cword = false) ∧ Instr.extended Instr.cnop = 0 ∧ Instr.extended (Instr.add .i64 4 6 8 0) = 0 ∧ operandFault Instr.cnop (fetched (quiet 0x0486400000000000)) = none ∧ operandFault (Instr.add .i64 4 6 8 0) (fetched (quiet 0x0486400000000000)).asA = none ∧ ((Instr.uses Instr.cnop).src.contains 30 && (Instr.uses (Instr.add .i64 4 6 8 0)).src.contains 30) = false ∧ (fetched (quiet 0x0486400000000000)).holds Instr.cnop (some (Instr.add .i64 4 6 8 0)) = none ∧ (Instr.guard ((fetched (quiet 0x0486400000000000)).markIssue) (Instr.add .i64 4 6 8 0) && Instr.valueBad ((fetched (quiet 0x0486400000000000)).markIssue) (Instr.add .i64 4 6 8 0)) = false ∧ isNext (exec Instr.cnop ((fetched (quiet 0x0486400000000000)).markIssue)) = true ∧ (nextOf (exec Instr.cnop (fetched (quiet 0x0486400000000000)).markIssue)).cur.flow ≠ .trapped ∧ (nextOf (exec Instr.cnop (fetched (quiet 0x0486400000000000)).markIssue)).cur.flow ≠ .held ∧ isNext (exec (Instr.add .i64 4 6 8 0) (nextOf (exec Instr.cnop (fetched (quiet 0x0486400000000000)).markIssue)).asA) = true ∧ (nextOf (exec (Instr.add .i64 4 6 8 0) (nextOf (exec Instr.cnop (fetched (quiet 0x0486400000000000)).markIssue)).asA)).cur.flow ≠ .trapped ∧ (nextOf (exec (Instr.add .i64 4 6 8 0) (nextOf (exec Instr.cnop (fetched (quiet 0x0486400000000000)).markIssue)).asA)).cur.flow ≠ .held) ∧
    (((quiet 0x80000000).atSlot 0 0).cur.pc.toNat % 8 = 0 ∧ ((quiet 0x80000000).atSlot 0 0).lookup .fetch ((quiet 0x80000000).atSlot 0 0).cur.pc = .ok (.lm 0 0) ({ } : PageAttr) ∧ lone (wordOf ((quiet 0x80000000).readAt (.lm 0 0) 4)) = true) := by
  and_intros
  all_goals first | decide +kernel | rfl
theorem test_meets_EncodeDecodeRoundTrip :
    ((Instr.std 31 30 7 .sy 0x200).hasWord = true ∧ (Instr.std 31 30 7 .sy 0x200).isC = true ∧ (Instr.std 31 30 7 .sy 0x200).wellFormed = true) ∧
    ((Instr.std 31 30 7 .sy 0x200).hasWord = true ∧ (Instr.std 31 30 7 .sy 0x200).isC = true ∧ (Instr.std 31 30 7 .sy 0x200).wellFormed = true ∧ (Instr.mzero 7 31 7).hasWord = true ∧ (Instr.mzero 7 31 7).isC = false ∧ (Instr.mzero 7 31 7).wellFormed = true) := by
  and_intros <;> decide +kernel
theorem test_meets_StepsKeepMemoryCanonical :
    (quiet 0x80000000).MemOk ∧ isNext (step (quiet 0x80000000)) = true := by
  and_intros <;> decide +kernel
theorem test_meets_ResetState :
    15 < 16 ∧
    15 < 16 ∧
    15 < 16 := by
  decide +kernel

/-! ### Inputs that meet the clauses within the statements -/

/-- A frame whose tile list is at `g9`. -/
def sTiles : State := gput 9 (ownLmBase + 0x3FFE0) sFrame
/-- The count of the join counter of `sTask`'s frame is `n`, and `susp` its suspended bit. -/
def sCount (n : Nat) (susp : Bool) (s : State) : State := { s with mem := memWriteN s.mem (Loc.lm 0 0x10).key (leBytes 8 (n + if susp then 2 ^ 32 else 0)) }
def sEnd (n : Nat) (susp : Bool) : State := sCount n susp (gput 4 (ownLmBase + 0x10) s0)
def sList : State := gput 6 (ownLmBase + 0x3FF00) s0
/-- The matrix engine's queue of core 0 holds a command of the strand. -/
def sMe : State := withCore 0 { s0.core 0 with meQueue := [{ slot := 0, sid := s0.cur.pre.sid, op := .mset, eng := { }, who := { } }] } s0
def sFaulted : State := put (fun x => { x with meFault := true }) s0
def sTag : State := put (fun x => { x with teFaulted := 2 }) s0
def meA : MeCmd := { slot := 0, sid := 0, op := .mset, eng := { }, who := { } }
def accL : Access := { req := 0, kind := .load, loc := .hbm 0 0, size := 8, va := 0, core := 0, slot := 0, part := 0 }
def pktP : Packet := { id := 5, src := .core 1, dst := .core 0, part := 0, chan := .request, seq := 0, sent := 0, body := .probe 1 2 }
def sTe : State := withCore 0 { s0.core 0 with teQueue := [{ te with sid := s0.cur.pre.sid }] } s0

/-- 07 R188: narrowing stores of 32 elements, with draws, and of nibbles, at the end of the own LM, with no trap enabled. -/
theorem test_meets_lane_clauses :
    (runs (.vstn 4 6 .sr 0 .mi8) sLmN = true ∧ (sLmN.core 0).teQueue = [] ∧ (∀ fl : Flags, sLmN.enabled fl = 0) ∧
      ∀ i, i < 32 → sLmN.g 6 + BitVec.ofNat 64 (1 * i) = ownLmBase + BitVec.ofNat 64 (0x3FFE0 + i) ∧ 0x3FFE0 + i + 1 ≤ Config.lmBytes) ∧
    (runs (.vstn 4 6 .sr 0 .e2m1) sLm = true ∧ (sLm.core 0).teQueue = [] ∧ (∀ fl : Flags, sLm.enabled fl = 0) ∧
      ∀ i, i < 32 → sLm.g 6 + BitVec.ofNat 64 (i / 2) = ownLmBase + BitVec.ofNat 64 (0x3FFF0 + i / 2) ∧ 0x3FFF0 + i / 2 < Config.lmBytes) := by
  and_intros <;> decide +kernel
/-- 08 R214: frames with a tile list and without, and addresses of another space. -/
theorem test_meets_frame_clauses :
    (runs (.frame 4 6 8 0) sTiles = true ∧ lmSpace (sTiles.g 6) = true ∧ (sTiles.g 6).toNat % 64 = 0 ∧ sTiles.ownLmRange sTiles.actor (sTiles.g 6) 64 = some 0x3FF80 ∧
      sTiles.teHolds 0 (.lm 0 0x3FF80) 64 = false ∧ (sTiles.g 8).extractLsb' 52 12 = 0x01F ∧ (sTiles.g 8).toNat % 8 = 0 ∧
      sTiles.translate sTiles.actor .store (sTiles.g 8) = .ok (.csm 0 0) { } ∧ lmSpace (sTiles.g 9) = true ∧ (sTiles.g 9).toNat % 8 = 0 ∧
      sTiles.ownLmRange sTiles.actor (sTiles.g 9) 32 = some 0x3FFE0 ∧ ∀ i, i < 4 → (tileOf (sTiles.readW (.lm 0 (0x3FFE0 + 8 * i)))).bad = false) ∧
    (runs (.frame 4 8 8 0) sFrame = true ∧ lmSpace (sFrame.g 8) = false) ∧ (runs (.frame 4 6 6 0) sFrame = true ∧ (sFrame.g 6).extractLsb' 52 12 ≠ 0x01F) ∧
    (runs (.frame 4 6 8 0) (gput 9 8 sFrame) = true ∧ (gput 9 8 sFrame).g 9 ≠ 0 ∧ lmSpace ((gput 9 8 sFrame).g 9) = false) := by
  and_intros <;> decide +kernel
/-- 08 R215, R217: headers in another space, and out of line. -/
theorem test_meets_header_clauses :
    (runs (.spawn 4 6 0) s0 = true ∧ lmSpace (s0.g 4) = false) ∧ (runs (.sync 4 0) s0 = true ∧ lmSpace (s0.g 4) = false) ∧
    (runs (.spawn 6 8 0) sMis = true ∧ lmSpace (sMis.g 6) = true ∧ (sMis.g 6).toNat % 64 ≠ 0) ∧
    (runs (.sync 6 0) sMis = true ∧ lmSpace (sMis.g 6) = true ∧ (sMis.g 6).toNat % 64 ≠ 0) := by
  and_intros <;> decide +kernel
/-- 08 R216, R217: join counters at 0, at 1 with and without a suspended frame, and at their greatest count. -/
theorem test_meets_counter_clauses :
    (((sCount 0 true sTask).readW (.lm 0 0x10)).extractLsb' 0 32 = (0 : W32) ∧ ((sCount (2 ^ 32 - 1) false sTask).readW (.lm 0 0x10)).extractLsb' 0 32 ≠ (0 : W32)) ∧
    (runs (.tend 4 0) (sEnd 1 true) = true ∧ (sEnd 1 true).teOpen 0 (sEnd 1 true).cur.pre.sid (fun _ => true) = false ∧ (sEnd 1 true).meOpen 0 (sEnd 1 true).cur.pre.sid = false ∧
      (sEnd 1 true).flushStrand 0 0 = sEnd 1 true ∧ (sEnd 1 true).strand.quiet = true ∧ ((sEnd 1 true).cacheRelease 0 .pk).cur = (sEnd 1 true).cur) ∧
    (((sEnd 1 true).cacheRelease 0 .pk).g 4).toNat % 8 = 0 ∧
    ((sEnd 1 true).cacheRelease 0 .pk).lookup .store (((sEnd 1 true).cacheRelease 0 .pk).g 4) = .ok (.lm 0 0x10) { } ∧
    (((sEnd 1 true).readW (.lm 0 0x10)).extractLsb' 0 32 = (1 : W32) ∧ ((sEnd 1 true).readW (.lm 0 0x10)).getLsbD 32 = true ∧ ((sEnd 1 true).core 0).dequeSize < 4160) ∧
    ((sEnd 1 false).readW (.lm 0 0x10)).getLsbD 32 = false ∧ ((sEnd 2 true).readW (.lm 0 0x10)).extractLsb' 0 32 ≠ (1 : W32) := by
  and_intros <;> decide +kernel
/-- 08 R218, 11 R273: the last lists and descriptor of the own LM, an address out of line, and the list that is not given. -/
theorem test_meets_list_clauses :
    (runs (.publish 4 0 0) s0 = true ∧ runs (.publish 4 6 0) sMis = true ∧ (sMis.g 6).toNat % 8 ≠ 0) ∧
    (runs (.publish 4 6 0) sList = true ∧ sList.g 6 = ownLmBase + BitVec.ofNat 64 0x3FF00 ∧ 0x3FF00 + 256 ≤ Config.lmBytes ∧ (sList.core 0).teQueue = [] ∧ (sList.slotOf 0 0).reads = []) ∧
    (runs (.launch 6 1 0) sMis = true ∧ (sMis.g 6).toNat % 128 ≠ 0) ∧
    (runs (.launch 6 1 0) sLmV = true ∧ sLmV.g 6 = ownLmBase + BitVec.ofNat 64 0x3FF80 ∧ sLmV.flushStrand 0 0 = sLmV ∧ sLmV.strand.quiet = true ∧
      (sLmV.cacheRelease 0 .pk).cur = sLmV.cur ∧ ((sLmV.cacheRelease 0 .pk).core 0).teQueue = [] ∧ ((sLmV.cacheRelease 0 .pk).slotOf 0 0).reads = []) := by
  and_intros <;> decide +kernel
/-- 08 R204, R207: transfer commands with legal, illegal and misaligned operands, and waits for one that is open, for none, and for a
faulted tag. -/
theorem test_meets_transfer_clauses :
    (∀ q ∈ [{ te with s0 := 2 ^ 32 }, { te with kind := .copy, s0 := 1 }, { te with kind := .copy2d, s0 := 0x1FFFF }, { te with kind := .gather, s1 := 0xFFFFFFFF0000 },
      { te with kind := .scatter, s1 := 0x100010000 }], q.illegal = false ∧ q.misaligned = none) ∧
    (∀ q ∈ [te, { te with kind := .copy, s0 := 2 ^ 32 + 1 }, { te with kind := .copy2d, s0 := 0x10000 }, { te with kind := .gather, s1 := 0x100000000 },
      { te with kind := .scatter, s1 := 0x100010020 }], q.illegal = true) ∧
    ({ te with a := 4, s0 := 8, s1 := 0x10 } : TeCmd).misaligned = some 4 ∧ ({ te with kind := .gather, b := 2, s1 := 0x100010000 } : TeCmd).misaligned = some 2 ∧
    (runs (.twait .all 0) sTe = true ∧ sTe.teOpen 0 sTe.cur.pre.sid (TSel.takes .all) = true ∧ s0.teOpen 0 s0.cur.pre.sid (TSel.takes .all) = false) ∧
    (sTag.strand.teFaulted.getLsbD 1 = true ∧ sTag.cur.pre.priv = false ∧ TSel.takes (.tag 1) 1 = true ∧ TSel.takes (.tag 2) 1 = false) := by
  and_intros <;> decide +kernel
/-- 08 R191 to R201: matrix commands within their limits and beyond, of a strand with an unreported fault and without. -/
theorem test_meets_matrix_clauses :
    (MSel.illegal .kvalid 1024 = false ∧ MSel.illegal .kvalid 1025 = true) ∧
    (accBase s0.cur.pre.eng 0 + (16384 : W64).toNat ≤ 16384 ∧ 16384 < accBase s0.cur.pre.eng 0 + (16385 : W64).toNat) ∧
    (shapeBad 0 32 (accBase s0.cur.pre.eng 0) = true ∧ shapeBad 0x400000401 32 (accBase s0.cur.pre.eng 0) = false) ∧
    (ringBad 0x10001 = false ∧ ringBad 0 = true ∧ sLm.ownLmRange sLm.actor (ownLmBase + 0x3FFC0) 64 = some 0x3FFC0 ∧
      sLm.ownLmRange sLm.actor (ownLmBase + 0x40000) 64 = none) ∧
    (mmaBad 0 1 0 .plain s0 = false ∧ mmaFault none 0 ownLmBase 0 .plain s0 = none ∧ mmaFault none 0 (ownLmBase + 1) 0 .plain s0 = some (0x09, ownLmBase + 1) ∧
      mmaFault (some (.e4m3, .e4m3)) 0 ownLmBase ownLmBase .plain s0 = none) ∧
    (sFaulted.strand.meFault = true ∧ sFaulted.cur.pre.priv = false ∧ s0.strand.meFault = false) ∧
    (runs (.mwait 0) sMe = true ∧ (sMe.slotOf 0 0).meWaited = false ∧ (sMe.core 0).meQueue ≠ [] ∧ (s0.core 0).meQueue = [] ∧ (s0.core 0).meLate = []) := by
  and_intros <;> decide +kernel
/-- 14 R301 to R308: the engine's steps: an acquiring `MLDA`, tiles in and out of a latch, a lost core, a rotation, commands done and not. -/
theorem test_meets_engine_clauses :
    (let c : MeCmd := { meA with op := .mlda .pk 0 0 0 }; let s := onCore0 { meQueue := [c] }; s.engQuiet c.sid = (s, true) ∧ c.dead = false) ∧
    (let c : MeCmd := { meA with op := .mring ownLmBase 1 15 63 }; let s := onCore0 { meQueue := [c], meBusy := true };
      (s.core 0).latchUsed < 2 ∧ s.upstreamWaits 0 = false ∧ s.meHeld 0 c ownLmBase 64 = false) ∧
    (let s := onCore0 { handOn := [{ tile := { bytes := [], hop := 0 }, dst := 1, gid := 0 }] };
      (s.core 1).fenced = false ∧ (s.core 1).latchUsed < 2 ∧ ((s.core 0).handOn.any fun x => x.going && x.dst == 1) = false ∧ s.lostTo 0 1 = true) ∧
    (let s := withCore 1 { meQueue := [{ meA with op := .mma none 0 16 16 0 0 .rot, progress := 1 }], meBusy := true } (withGang 0 { job := 0, cluster := 0, size := 2, cores := [0, 1] } State.reset);
      (s.awaitsCopy 1).isSome = true) ∧
    (let c : MeCmd := { meA with op := .mma none 0 16 16 0 0 .plain }; 1 < MmaPair.steps none ∧ c.dead = false ∧ MmaPair.tile none = 8192 ∧ 2 ≤ MmaPair.steps (some (.e2m1, .e2m1))) ∧
    ((onCore0 { meLate := [] }).core 0).meBusy = false ∧ te.written = true ∧ te.failed = true ∧ te.started = false ∧ (onCore0 { teQueue := [te] }).tagWaits 0 0 te = false ∧
    (onCore0 { teQueue := [te, te] }).tagWaits 0 1 te = true ∧ te.acquire = .core := by
  and_intros <;> decide +kernel
/-- 10 R249, R250: a core that probes, and a victim that gives an entry. -/
theorem test_meets_steal_clauses :
    (let s := withCore 0 { steal := { slot := none }, job := some 1 } (withJob 1 { part := 0, queue := 0, qslot := 0, bytes := [], st := 3, placed := true });
      (s.core 0).steal.pause = none ∧ (s.core 0).inbox = [] ∧ s.claimed 0 = false) ∧
    (let s := arrives { pktP with body := .probe 1 2 } (onCore0 { deque := [dq], dequeJob := some 1 }); (taken 5 s).victimOf (.core 0) 1 2 = some 0) ∧
    (let g : StealGive := { id := 9, src := .core 0, part := 0, thief := 2, entry := dq, acks := [], writes := [] }; let s := onCore0 { giving := [g] };
      s.coreStopped 0 = false ∧ s.ackedAll 0 g = true) := by
  and_intros <;> decide +kernel
/-- 20 R380, R385, 17 R338: a handler under way, one released, a trigger; a write that waits for replicas, and elements that wait. -/
theorem test_meets_slice_clauses :
    (let t : PhloxTrig := { pa := 0, index := 63, args := [] };
      ((withSlice 63 { ready := [t] } State.reset).slice 63).run = none ∧ ((withSlice 63 { queue := [.trig t] } State.reset).slice 63).ready = [] ∧ State.reset.heldPart t.part = false) ∧
    (State.reset.replicaGate 5 0 0 0 accL).2 = true ∧ (State.reset.waitsFill 0 0 0 accL = false) ∧ State.reset.waitsFill 0 0 0 accA = true ∧
    State.reset.elemsWait (.slice 63) 0 (.core 0) [] = false ∧ (withSlice 63 { fills := [(accA, .core 0)] } State.reset).elemsWait (.slice 63) 0 (.core 0) [] = true ∧
    (State.reset.elemGates 5 (.slice 63) 0 []).2 = true := by
  and_intros <;> decide +kernel

/-- Every aggregation buffer of core 0 is bound, full and waits, with every packet number of the core taken. -/
def sJam : State := withCore 0 { s0.core 0 with aggs := Vector.replicate 16 { dest := some (.core 32), strands := 1, sending := some .age, elems := [(elem1, 0)] }, sent := List.replicate 64 { seq := 0, dest := .core 32, elems := [] } } s0
def sInf : State := put (fun x => { x with v := rset x.v 2 { w := Vector.replicate 32 0xFF800000, s := 0 } }) s0
/-- The strand has a store that is not acknowledged. -/
def sOpen : State := put (fun x => { x with unackWrites := 1 }) s0
def goodAddr : TRes → Option Loc | .ok l _ => some l | _ => none
def sRange : State := let s := ab 64 64; withCore 0 { s.core 0 with reqs := [{ id := 7, slot := 0, sid := 0, dest := .none_, isWrite := true, acc := some { req := 7, kind := .atomic .add 0 0 false, loc := .hbm 0 64, size := 8, va := 64, core := 0, slot := 0, part := 0 } }] } s
/-- An access that used a dropped translation waits at its home. -/
def sInv : State := put (fun x => { x with tlbWait := [{ core := 0, id := 7, key := none }] }) { s0 with retry := [(.slice 0, { acc := { acc2 with req := 7 }, src := .core 0 })] }
/-- A partition whose page registers name pages 1 and 2 of its HBM. -/
def sMoves : State := { onPart { hbm := 2 ^ 21, slices := [63], pmsrc := 1, pmdst := 2 } with jobs := [] }
/-- Core 1's MMA with a tile of the right size in its latch, after its first step and before the last. -/
def meB : MeCmd := { slot := 0, sid := 0, op := .mma none 0 16 16 0 0 .plain, eng := { }, who := { }, sub := 1 }
def tileB : Tile := { bytes := List.replicate 8192 0, hop := 0 }
/-- A partition that binds a key: mutual authentication, a free slot 1 and a digest of zeros. -/
def sBind : State :=
  { State.reset with spdm := { mutualAuth := true }, mem := memWriteN [] (mbKey spdmBase) [1, 1], parts := [(0, { exists_ := true, digest := List.replicate 64 0 })] }
/-- The bundle at pc of core 0's slot 0 has had its C word's effect. -/
def earlyOf (w : Nat) : State := let s := quiet w; s.setSlot 0 0 { s.slotOf 0 0 with early := some .other }

/-- 06 R150, 03 R75: stores to another cluster's LM that a buffer takes, narrowed ones too, and an element for a full buffer set that cannot leave. -/
theorem test_meets_aggregated_clauses :
    (∀ i ∈ ([.stb 10 6 0 .core 0, .sth 10 6 0 .core 0, .stw 10 6 0 .core 0, .std 10 6 0 .core 0, .stbX 4 6 8 0 .indexed false, .sthX 4 6 8 0 .indexed false,
      .stwX 4 6 8 0 .postInc false, .stdX 4 6 8 0 .postInc true, .fstn 4 6 .sr 0 .bf16] : List Instr), runs i sFar = true) ∧
    (∀ n ∈ [1, 2, 4, 8], sFar.cmAddr 6 0 n = sFar.g 6 ∧ sFar.xAddr .indexed 6 8 n = sFar.g 6 ∧ sFar.xAddr .postInc 6 8 n = sFar.g 6 ∧ (sFar.g 6).toNat % n = 0 ∧ sFar.teHolds sFar.cur.core (.lm 16 0) n = false) ∧
    sFar.lookup .store (sFar.g 6) = .ok (.lm 16 0) { } ∧ sFar.aggDest sFar.cur.core (.lm 16 0) { } false = some (.core 16) ∧ sFar.cur.pre.valloc ≠ 0 ∧
    (sFar.enabled (finalRound (sFar.gw 4) (sFar.gS 4) 0 (NTy.fm .bf16) .sr sFar.ovf ((sFar.draws .sr 1).getD 0 0)).2 = 0 ∧ (sFar.advance .sr 1).lookup .store (sFar.g 6) = .ok (.lm 16 0) { } ∧
      (sFar.advance .sr 1).aggDest sFar.cur.core (.lm 16 0) { } false = some (.core 16) ∧ (sFar.advance .sr 1).teHolds sFar.cur.core (.lm 16 0) 2 = false) ∧
    (sFar.aggInsert 0 (.core 16) elem1 0).isSome = true ∧ (sJam.aggInsert 0 (.core 16) elem1 0) = none := by
  and_intros <;> decide +kernel
/-- 06 R141: the forms of major 0x14 that zero-extend, the F/E instructions and the other atomics, out of line. -/
theorem test_meets_misaligned_clauses :
    (∀ i ∈ ([.ldhuX 4 6 8 0 .indexed false, .ldwuX 4 6 8 0 .indexed false, .ferd 4 6 0 .core, .feset 6 0 .sy, .feclr 6 0 .cl, .aand false 4 6 8 0 .core, .aor true 4 6 8 0 .core, .axor false 0 6 8 0 .pk,
      .amin true 4 6 8 0 .core, .amax false 4 6 8 0 .core, .aminu true 4 6 8 0 .sy, .amaxu false 4 6 8 0 .core, .afadd 4 6 8 0 .core] : List Instr), runs i sMis = true) ∧
    (sMis.xAddr .indexed 6 8 2).toNat % 2 ≠ 0 ∧ (sMis.xAddr .indexed 6 8 4).toNat % 4 ≠ 0 ∧ (sMis.g 6).toNat % 4 ≠ 0 ∧ (sMis.g 6).toNat % 8 ≠ 0 := by
  and_intros <;> decide +kernel
/-- 07 R179 to R183: scale codes at both ends, blocks with and without an infinity, flags enabled and not. -/
theorem test_meets_block_clauses :
    (runs (.vdqmx .e2m1 2 4 6 0) (gput 6 254 s0) = true ∧ ((gput 6 254 s0).g 6).toNat % 256 ≠ 255) ∧ (runs (.vqmx .mi8 .sr 4 6 2 0) sOvf = true ∧ sOvf.strand.fcsr.fen ≠ 0) ∧
    (runs (.vqmx .e4m3 .rne 4 6 2 0) sOvf = true ∧ (∀ i, i < 32 → (sOvf.mr 0).getLsbD i = true → ((sOvf.vr 2).lane i).toNat % 2 ^ 31 < 0x7F800000)) ∧
    (runs (.vqmx .e4m3 .rne 4 6 2 0) sInf = true ∧ (∃ i, i < 32 ∧ (sInf.mr 0).getLsbD i = true ∧ 0x7F800000 ≤ ((sInf.vr 2).lane i).toNat % 2 ^ 31) ∧ sInf.enabled Flags.nv = 0) ∧
    (runs (.vpack .e2m1 .rne 4 2 0) sOvf = true ∧ sOvf.enabled (finalRound ((sOvf.vr 2).lane 31) false 0 .e2m1 .rne sOvf.ovf 0).2 ≠ 0) ∧
    (∀ v ∈ [Fv.fin false 3 2 false], ∃ n m e, v = .fin n m e false) := by
  and_intros
  all_goals first | decide +kernel | (intro v h; cases h with | head => exact ⟨_, _, _, rfl⟩ | tail _ h => cases h)
/-- 06 R143, 08 R212, 08 R216, 11 R273: the lines that a release of each scope writes back wait for nothing here. -/
theorem test_meets_release_clauses :
    (∀ sc ∈ [Scope.cl, .pk, .sy], (Scope.wide sc && (sLm.cacheRelease sLm.cur.core sc).writesWait sLm.cur.pre.part) = false ∧ (sLm.cacheRelease sLm.cur.core sc).strand.x.pf = false ∧ sLm.flushStrand 0 0 = sLm ∧ sLm.strand.quiet = true) ∧
    (st8.cacheRelease 0 .pk).writesWait 0 = false ∧ (sTend.cacheRelease 0 .pk).writesWait 0 = false ∧ ((sEnd 1 true).cacheRelease 0 .pk).writesWait 0 = false ∧ (sLmV.cacheRelease 0 .pk).writesWait 0 = false ∧
    (runs (.std 10 6 0 .sy 0) sLm = true ∧ sLm.OwnLm (sLm.cmAddr 6 0 8) 8 0x3FFF0) := by
  unfold State.OwnLm; and_intros <;> decide +kernel
/-- 06 R156 to R160: masks of loads alone, ranges of no bytes, past the address space and in two spaces, open and closed, at each scope; an address of a buffer's destination. -/
theorem test_meets_fence_clauses :
    (runs (.fence 1 0 .pk) s0 = true ∧ s0.aggPushAll 0 .release (fun b => b.elems.any fun e => e.1.slot == 0 && e.1.op.isSome && true) = s0 ∧ s0.atomicsOpen (fun _ => true) (fun _ => true) = false) ∧
    (runs (.fence 15 0 .cl) sOpen = true ∧ (sOpen.flushStrand 0 0).strand.quiet = false) ∧
    (runs (.fencer 4 6 15 0 .sy) (ab (2 ^ 57 - 1) 2) = true ∧ 2 ^ 57 < ((ab (2 ^ 57 - 1) 2).g 4).toNat + ((ab (2 ^ 57 - 1) 2).g 6).toNat) ∧
    (runs (.fencer 4 6 15 0 .cl) (ab (2 ^ 52 - 1) 2) = true ∧ (((ab (2 ^ 52 - 1) 2).g 4).toNat + ((ab (2 ^ 52 - 1) 2).g 6).toNat - 1) / 2 ^ 52 ≠ ((ab (2 ^ 52 - 1) 2).g 4).toNat / 2 ^ 52) ∧
    (let s := ab (2 ^ 57 - 64) 64; ∀ sc ∈ [Scope.core, .cl, .pk, .sy], runs (.fencer 4 6 15 0 sc) s = true ∧ (s.g 4).toNat + (s.g 6).toNat ≤ 2 ^ 57 ∧ ((s.g 4).toNat + (s.g 6).toNat - 1) / 2 ^ 52 = (s.g 4).toNat / 2 ^ 52 ∧ s.rangeOpen (s.g 4).toNat 64 = false ∧
      s.aggPushAll 0 .release (fun b => b.elems.any (elemIn 0 (s.g 4).toNat 64)) = s ∧ s.markers = s ∧ s.markersOut = false ∧ s.strand.x.pf = false ∧
      (let sel (s : State) : Nat → Nat → Bool := inParts (s.globalParts { s.actor with priv := true } (s.g 4).toNat 64); let u := if Scope.wide sc then (s.wbCore 0 (sel s)).markRelease 0 true else s.markRelease 0 false;
        u.cur = s.cur ∧ (Scope.wide sc && u.writesWait 0) = false ∧ u.strand.x.pf = false)) ∧
    (let s := sRange; runs (.fencer 4 6 12 0 .sy) s = true ∧ s.rangeOpen (s.g 4).toNat 64 = true) ∧
    (let s := ab 64 64; runs (.fencer 4 6 1 0 .pk) s = true ∧ s.aggPushAll 0 .release (fun b => b.elems.any fun e => e.1.slot == 0 && e.1.op.isSome && elemIn 0 64 64 e) = s ∧ s.atomicsOpen (elemIn 0 64 64) (fun y => meets y.va.toNat y.size 64 64) = false) ∧
    ((s0.widenInvs .core).drained 0 .core (s0.widenInvs .core).strand = true ∧ (sInv.widenInvs .core).drained 0 .core (sInv.widenInvs .core).strand = false ∧ (∀ e ∈ s0.strand.tlbInvs, Scope.reach .core ≤ Scope.reach e.2)) ∧
    (runs (.agf 6 0) sFar = true ∧ sFar.translateNow sFar.actor .store (sFar.g 6) = .ok (.lm 16 0) { } ∧ sFar.aggDest 0 (.lm 16 0) { } true = some (.core 16) ∧ (sFar.aggPushAll 0 .agf fun b => b.bound (.core 16)).strand.x.pf = false) ∧
    (runs (.agf 4 0) s0 = true ∧ s0.strand.x.pf = false ∧ goodAddr (s0.translateNow s0.actor .store (s0.g 4)) = none) := by
  and_intros <;> decide +kernel
/-- 08 R223: a second borrow, and moves of vectors beyond the borrowed count. -/
theorem test_meets_borrow_clauses :
    (st9.cur.pre.borrow.isSome = true ∧ (Instr.uses (.xborrow 6 1 0)).illegal st9.cur.pre = false) ∧
    ((8 : Nat) ≤ (8 : GR).toNat ∧ (Instr.uses (.xmov 4 8 0 true false)).illegal st9.cur.pre = false ∧ (Instr.uses (.xmov 4 31 0 true true)).illegal st9.cur.pre = false) ∧
    (runs (.xmov 4 7 0 true true) st9 = true ∧ runs (.xmov 4 31 0 false false) st9 = true ∧ (4 : GR) ≠ 0 ∧ (4 : GR) ≠ 29) := by
  and_intros <;> decide +kernel
/-- 08 R230: a strand with a borrowed slot, privileged. -/
theorem test_meets_register_clauses :
    ({ priv := true, borrow := some { slot := 15, vcount := 32 } } : Strand).borrow = some { slot := 15, vcount := 32 } ∧ (15 : Nat) < 16 ∧ s0.cur.slot < 16 ∧
    64 ≤ (4096 : W64).toNat % 8192 ∧ (4096 : W64).toNat % 8192 ≤ 4096 := by
  and_intros <;> decide +kernel
/-- 08 R214 to R217: counters in the own LM and CSM that no write of the strand is open to, and one in another cluster's LM. -/
theorem test_meets_counter_places :
    (∀ s ∈ [sTiles, sTask, sEnd 1 true], (s.slotOf 0 0).reads = [] ∧ (s.slotOf 0 0).spawning = false ∧ s.dequeFull 0 0 = false) ∧ sFull.dequeFull 0 0 = true ∧
    (Loc.csm 0 0).near sTiles.cur.core = true ∧ sTiles.writeOpen 8 (.csm 0 0, { }) = false ∧ sTiles.tilesHeld (sTiles.g 9) = false ∧
    (let n := sTask.nearTime 0; n.lookup .store (n.readW (.lm 0 0x3FF80)) = .ok (.lm 0 0x10) { } ∧ (Loc.lm 0 0x10).near n.cur.core = true ∧ n.writeOpen 8 (.lm 0 0x10, { }) = false ∧ (n.slotOf 0 0).reads = []) ∧
    (let t := (sEnd 1 true).cacheRelease 0 .pk; t.lookup .store (t.g 4) = .ok (.lm 0 0x10) { } ∧ t.writeOpen 8 (.lm 0 0x10, { }) = false ∧ (t.slotOf 0 0).reads = []) ∧
    (sFar.lookup .store (sFar.g 6) = .ok (.lm 16 0) { } ∧ sFar.heldDest 8 (.lm 16 0, { }) = none ∧ sFar.writeOpen 8 (.lm 16 0, { }) = false ∧ sFar.destsClear (sFar.aggDest 0 (.lm 16 0) { } true).toList = true ∧ (Loc.lm 16 0).near 0 = false) ∧
    (clusterOf 16 ≠ clusterOf sFar.cur.core ∧ clusterOf 15 = clusterOf sFar.cur.core ∧ (sFar.core 15).fenced = false) := by
  and_intros <;> decide +kernel
/-- 14 R301, R304, R308, 10 R250: an MWAIT behind a late MSTA, a tile with more parts to come, tiles that are used, of another size and of the right one; a copy that waits and one that leaves. -/
theorem test_meets_engine_steps :
    (let c : MeCmd := { meA with op := .mwait }; let s := onCore0 { meQueue := [c], meLate := [{ meA with op := .msta .f32 .core .rne 0 0 0 false }] }; s.coreStopped 0 = false ∧ (s.core 0).meBusy = false ∧ c.wait = none ∧ (∃ q ∈ (s.core 0).meLate, q.sid = c.sid)) ∧
    (let t : TileIn := { tile := { bytes := [], hop := 15 }, src := 1, left := 128 }; let s := onCore0 { tileIn := [t] }; (s.core 0).tileIn = [t] ∧ (s.core 0).meQueue = [] ∧ 1 < t.left) ∧
    (meB.dead = false ∧ tileB.bytes.length = MmaPair.tile none ∧ meB.sub + 1 < MmaPair.steps none ∧ ({ bytes := [], hop := 0 } : Tile).bytes.length ≠ MmaPair.tile none ∧
      (meB.rowsA none 16 .plain 0 [[]]).isSome = true) ∧
    (st12.handOnLost { tile := { bytes := [], hop := 0 }, dst := 1, gid := 0 } = false ∧ (let s := withCore 1 { fenced := true } st12; s.handOnLost { tile := { bytes := [], hop := 0 }, dst := 1, gid := 0 } = true)) ∧
    (let g : StealGive := { id := 9, src := .core 0, part := 0, thief := 2, entry := { dq with frame := 0x01D0000000000000, at_ := some 0 }, acks := [], writes := [] }; let s := onCore0 { giving := [g] }; s.copyFails 0 g.thief = false ∧ (s.cacheRelease 0 .pk).writesWait g.part = false ∧
      ((s.cacheRelease 0 .pk).copyImage 0 g.entry).isSome = true) ∧
    (let c : MeCmd := { meA with op := .mzero 16383 1 }; let s := onCore0 { meQueue := [c], meBusy := true }; (s.core 0).meLate.findSome? (s.lateStep 0) = none ∧ (c.done || c.lastLeft) = false) := by
  and_intros
  all_goals first | exact List.length_replicate | decide +kernel
/-- 11 R267, 12 R289: a switch whose islands all run, and one with an island that stalls. -/
theorem test_meets_switch_clauses :
    ((onPart { clusters := [191], slices := [63] }).partn 0).stopLeft = none ∧ (∀ i ∈ ((onPart { clusters := [191], slices := [63] }).partn 0).islands, (onPart { clusters := [191], slices := [63] }).islandOff i = false) ∧
    (let s := { st10 with parts := [(0, { clusters := [191], slices := [63] })] }; let left := (((s.partn 0).stopLeft.getD (s.partn 0).islands).filter s.islandOff); left ≠ [] ∧ (s.partn 0).stopLeft ≠ some left) ∧
    (let s := withCore 3071 { fenced := true } (onPart { clusters := [191] }); (s.core 3071).fenced = true ∧ (s.partn 0).clusters.contains (clusterOf 3071) = true ∧ ∀ k, k < 16 → (s.strandOf 3071 k).role = .root) ∧
    (let q : SubQueue := { en := true, logn := 4, ring := 4, tail := 15 }; (q.en = true ∧ q.mode = false ∧ q.slots ≤ 16) ∧ 15 < q.slots) := by
  and_intros <;> decide +kernel
/-- 17 R330, 22 R401: page moves that begin, that cannot begin, and that end; submission queues that can be enabled and not. -/
theorem test_meets_write_clauses :
    ((sMoves.partn 0).pm.st = 0 ∧ (0 : W64).getLsbD 1 = false ∧ (sMoves.hbmRange 0 4096 4096 4096).isSome = true ∧ (sMoves.hbmRange 0 8192 4096 4096).isSome = true ∧ (State.reset.hbmRange 63 0 4096 4096) = none ∧ pmBytes 0 = 4096) ∧
    (((onPart { pm := { st := 2 } }).partn 0).pm.st = 2 ∧ (0 : W64).getLsbD 0 = false) ∧
    ((sMoves.squeue 0 63).en = false ∧ (sMoves.squeue 0 63).head = (sMoves.squeue 0 63).tail ∧ ((0xC000 : W64).extractLsb' 12 4).toNat ≤ 12 ∧ (0xC000 : W64).extractLsb' 12 4 ≠ 0 ∧
      (sMoves.hbmRange 0 0 (128 * 2 ^ 12) (128 * 2 ^ 12)).isSome = true ∧ (State.reset.hbmRange 63 0 128 4096) = none) := by
  and_intros <;> decide +kernel
/-- 22 R395: packets of one port and of two, one of a number that the model does not hold. -/
theorem test_meets_combining_clauses :
    (sw1.port = sw2.port ∧ sw1.port ≠ ({ sw2 with port := 17 } : SwitchAdd).port) ∧
    (st23.switchBuf.find? (fun x => x.id == 1) = some sw2 ∧ st23.switchBuf.find? (fun x => x.id == 3) = none) ∧ st23.waitEntries 0 ≤ 64 ∧
    64 < ({ State.reset with switchBuf := [{ sw1 with parts := List.replicate 65 (none, 0) }] } : State).waitEntries 0 := by
  and_intros <;> decide +kernel
/-- 23 R411, 24 R418 to R425: a bind that is taken, starts at each stage, a third failure, and a device in minimal mode; a request of no known operation and an island that stands. -/
theorem test_meets_start_clauses :
    (State.reset.islandOff 16 = false ∧ ({ State.reset with islands := Vector.replicate 20 { stall := some (2 ^ 40) } } : State).islandOff 16 = true) ∧
    (sBind.keyOp = 1 ∧ sBind.keyBad = none ∧ sBind.keys.lookup sBind.keySlot = none ∧ (sBind.partn sBind.keyPart).exists_ = true ∧ (sBind.partn sBind.keyPart).digest = sBind.keyReq 8 64) ∧
    (spdmUnsupported 0x83 = true ∨ spdmUnsupported 0xFF = true) ∧ spdmUnsupported 0x84 = false ∧
    (State.reset.boot.min = false ∧ ({ State.reset with boot := { min := true } } : State).boot.min = true ∧ State.reset.boot.stage ≠ 2 ∧ State.reset.boot.att.toNat < 2 ∧ 2 ≤ (2 : BitVec 2).toNat) ∧
    (let s := { State.reset with boot := { stage := 2, began := some 0 } }; s.boot.stage = 2 ∧ s.boot.began = some 0) := by
  and_intros <;> decide +kernel
/-- 03 R50: no bundle of the fetched ones has had an effect before, and one has. -/
theorem test_meets_early_clauses :
    ((fetched (quiet 0x80000000)).slotOf (fetched (quiet 0x80000000)).cur.core (fetched (quiet 0x80000000)).cur.slot).early = none ∧
    ((fetched (quiet 0x0486400000000000)).slotOf (fetched (quiet 0x0486400000000000)).cur.core (fetched (quiet 0x0486400000000000)).cur.slot).early = none ∧
    (let t := fetched (earlyOf 0x0486400000000000); (t.slotOf t.cur.core t.cur.slot).early.isSome = true ∧ t.cur.len = 8 ∧ t.holds .cnop (some (.add .i64 4 6 8 0)) = none ∧ t.markIssue.cur.flow ≠ .trapped ∧ t.markIssue.cur.flow ≠ .held ∧ isNext (exec (.add .i64 4 6 8 0) t.markIssue.asA) = true) := by
  and_intros
  all_goals decide +kernel
/-- 02 R31 to R41: values whose hypotheses the number statements take: beyond the range, on and off the grid, NaN, infinite and finite carriers; formats that widen and a block of finite products. -/
theorem test_meets_number_clauses :
    (127 : Int) < floorLog2 1 128 ∧ floorLog2 3 0 ≤ 127 ∧ FTy.bf16 ≠ .f32 ∧ FpOp.add ≠ .sqrt ∧ 0x7F800000 < (0x7FC00000 : W32).toNat % 2 ^ 31 ∧ (0xFF800000 : W32).toNat % 2 ^ 31 = 0x7F800000 ∧
    valueOf 0x3F800000 = .fin false 8388608 (-23) false ∧ Fm.e4m3.exceeds false 15 5 = true ∧ Fm.e4m3.exceeds false 14 5 = false ∧
    (∀ t ∈ [FTy.f32, .bf16, .bf16], Fm.p .e4m3 ≤ (FTy.fm t).p ∧ (FTy.fm t).emin ≤ Fm.emin .e4m3) ∧
    (fvMul (.inf true) (.fin false 1 0 false)).1 = .inf true ∧ (fvMul (.inf false) (.zero false)).1.isNan = true ∧ (({ w := 0xFF800000, s := false } : AccElem).add (.fin false 1 0 false)).w = 0xFF800000 := by
  and_intros <;> decide +kernel

/-- 06 R137: what a repeat of no count skips: a bundle of the own LM, and addresses that hold none. -/
theorem test_meets_skip_clauses :
    (let s := { s0 with cur := { s0.cur with len := 4 } }; s.nextPc.toNat % 4 = 0 ∧ s.lookup .fetch s.nextPc = .ok (.lm 0 4) { }) ∧
    (let s := { s0 with cur := { s0.cur with pc := 0x7F00000000000000, len := 4 } }; s.nextPc.toNat % 4 = 0 ∧ s.lookup .fetch s.nextPc = .fault 0x04) ∧
    (let s := { sGl with cur := { sGl.cur with pc := 2 ^ 21, len := 4 }, parts := [(0, { exists_ := true, clusters := [0], ten := true })] }; s.nextPc.toNat % 4 = 0 ∧ s.lookup .fetch s.nextPc = .miss) := by
  and_intros <;> decide +kernel
/-- 06 R140, 10 R242: a load of g29 in a gang, and a reply that is due, for a register, a lane and the last lane. -/
theorem test_meets_arrival_clauses :
    (sGang.downstream sGang.cur.core sGang.strand = some 1 ∧ sGang.cur.slot < 16) ∧
    (let q : Req := { id := 7, slot := 15, sid := 0, dest := .g 4 8 false, acc := some acc1, due := some (8, [1]) }; let s := atTime 8 (onSlot15 { } [q]); s.takeArrived 7 = none ∧ (s.core 0).req 7 = some q ∧ (∀ e ∈ s.cores, e.1 ≠ 0 → e.2.req 7 = none) ∧ 8 ≤ s.cycle 0 ∧
      (s.strandOf 0 15).sid = q.sid ∧ q.isWrite = false ∧ q.pred = none ∧ q.marker = none ∧ acc1.kind = .load ∧ (s.slotOf 0 15).inflight = none ∧ q.dest.vec = none) ∧
    (let q (i : Nat) : Req := { id := i, slot := 15, sid := 0, dest := .lane 4 i .w, acc := some acc1 }; (q 7).dest.vec = some 4 ∧ ((onSlot15 { } [q 7]).dropReq 0 7).lanesDue 0 15 4 = false ∧ ((onSlot15 { } [q 7, q 8]).dropReq 0 7).lanesDue 0 15 4 = true) := by
  and_intros
  all_goals decide +kernel
/-- 06 R148: a fault is pending outside privileged mode. -/
theorem test_meets_pending_clauses :
    (let s := put (fun x => { x with x := { x.x with pf := true } }) sLm; s.strand.x.pf = true ∧ s.cur.pre.priv = false ∧ s.flushStrand 0 0 = s ∧ s.strand.quiet = true ∧ (s.cacheRelease 0 .pk).strand.x.pf = true ∧ (s.cacheRelease 0 .pk).cur = s.cur ∧
      (s.cacheRelease 0 .pk).strand.teFaulted = 0 ∧ (s.cacheRelease 0 .pk).strand.meFault = false ∧ runs (.std 10 6 0 .pk 0) s = true ∧ runs (.fence 15 0 .sy) s = true ∧ runs (.agw 0) s = true ∧ runs (.tend 0 0) s = true) := by
  decide +kernel
/-- 12 R288: requests at the right ST and at the wrong one, too early, out of the partition's HBM, without an image and with one. -/
theorem test_meets_request_clauses :
    (let p : Partition := { hbm := 2 ^ 24, swtime := 10000 }; let s := onPart p; ¬ (p.swtime.toNat < s.gtime.toNat + 10000) ∧ s.hbmRange 0 p.swbase.toNat p.saveBytes (2 * 2 ^ 20) ≠ none ∧ p.swSt = 0 ∧ (∀ i ∈ p.images, i.base ≠ p.swbase.toNat)) ∧
    (let p : Partition := { hbm := 2 ^ 21 - 1, swtime := 9999, swSt := 3, images := [{ base := 0, cores := [], clusters := [], jobs := [], gangs := [], parked := [], sends := [], recvs := [], cycles := [] }] }; let s := onPart p; p.swtime.toNat < s.gtime.toNat + 10000 ∧
      s.hbmRange 0 p.swbase.toNat p.saveBytes (2 * 2 ^ 20) = none ∧ p.swSt = 3 ∧ p.swSt ≠ 0 ∧ ∃ i ∈ p.images, i.base = p.swbase.toNat) ∧
    (let p : Partition := { hbm := 2 ^ 21, slices := [63], blen := 1024, bslice := 63 }; let s := onPart p; p.bBusy = false ∧ p.bslice.toNat ∈ p.slices ∧ s.paLoc 0 p.bcode.toNat = some (.hbm 0 0) ∧ s.paLoc 0 (p.bcode.toNat + 1023) = some (.hbm 0 1023)) ∧
    (State.reset.msix.masked 2047 = true ∧ ({ State.reset with msix := { enable := true, table := [(2047, 0, 0)] } } : State).msix.masked 2047 = false) := by
  and_intros
  all_goals decide +kernel
/-- 11 R261 to R272, 12 R295: entries that can be read and not, a job to place, one that is added for, and images. -/
theorem test_meets_job_clauses :
    (let s := onPart { squeues := (Vector.replicate 64 { }).set 63 { en := true, ring := 12, tail := 1 } }; let x := s.squeue 0 63; x.en = true ∧ x.next ≠ x.tail ∧ s.isRetired 0 x.off = false ∧ s.frontBusy 0 x.off = false ∧ s.frontBusy 0 (x.off + 64) = false ∧
      s.edgeVas { part := 0, queue := 63, qslot := 0, bytes := List.replicate 128 0 } = []) ∧
    (State.reset.testHeld 63 = false ∧ State.reset.placeHeld 63 = false) ∧
    (let s := arrives pkt8 (withJob 1 { part := 0, queue := 0, qslot := 0, bytes := [], st := 3, adding := some 7 }); (s.job 1).adding = some 7 ∧ (s.job 1).final = false ∧ s.added 7 = some pkt8 ∧ s.takeArrived 5 = some (pkt8, taken 5 s) ∧ s.added 8 = none) ∧
    (st14.job 1).adding = none ∧ (st14.job 1).final = false ∧ (((st14.job 1).clusters.foldl (fun u cl => u.wbCluster cl) st14).writesWait 0 = false) ∧ (st14.release 1).counterLoc (st14.job 1) = none ∧ st14.isRetired 0 ((st14.job 1).slotAt + 112) = false ∧
    (let j : Job := { part := 0, queue := 0, qslot := 0, bytes := List.replicate 48 0 ++ [1], st := 3, placed := true, clusters := [0] }; let k : Job := { j with st := 2, placed := false, clusters := [] };
      let s := { State.reset with jobs := [(1, j), (2, k)] }; s.clustersFree (s.job 2).needs = false ∧ (withJob 2 k).clustersFree ((withJob 2 k).job 2).needs = true ∧ ((withJob 2 k).choose 0 ((withJob 2 k).readyJobs 0) ((withJob 2 k).readyJobs 0)).isSome = true) ∧
    ((onPart { waitJob := some 2 }).partn 0).waitJob = some 2 ∧ (State.reset.partn 63).waitJob = none ∧ (State.reset.partn 63).images.find? (fun i => i.base == (State.reset.partn 63).swbase.toNat) = none := by
  and_intros <;> decide +kernel
/-- 17 R330, R337, 20 R380, R381, 24 R422: fills that wait for a line, a load for its home, a page with bytes out of use. -/
theorem test_meets_fill_clauses :
    (let s := withSlice 63 { fills := [(accA, .core 0)] } State.reset; (s.slice 63).fills = [(accA, .core 0)] ∧ accA.loc.onLine 0 0 = true) ∧
    ((State.reset.homeRefuses acc2 || State.reset.markedFor (askedBy (.core 0) acc2) acc2) = false ∧ acc2.loc = .hbm 0 0 ∧ acc2.kind = .load ∧ acc2.kslot = 0) ∧
    (let s := { sMoves with retired := [(0, 1)] }; s.anyRetired 0 4096 4096 = true ∧ s.anyRetired 0 8192 4096 = false) ∧ State.reset.hbmOff (State.reset.homeSlice 63 4096) = false ∧ Memory.wf State.reset.mem = true ∧
    (let s := arrives { pkt2 with src := .csm 0, dst := .slice 63, body := .access (lineWrite 0 1 0 0 1 []) } (onPart { slices := [63] }); s.behindWb (.core 15) (.hbm 0 63) = true ∧ s.behindWb (.core 16) (.hbm 0 63) = false) ∧
    ({ st10 with islands := Vector.replicate 20 { stall := some (2 ^ 40) } } : State).islandOff 17 = true ∧ State.reset.islandOff 17 = false ∧
    (let s := arrives pkt15 (withJob 1 { part := 0, queue := 0, qslot := 0, bytes := [], st := 5 }); (s.job 1).final = true) ∧ (∀ e ∈ st30.jobs, e.2.adding ≠ some 7) := by
  and_intros
  all_goals decide +kernel
/-- 08 R204 to R207: units in the own LM, an index, a pattern with an action, and an address that fails. -/
theorem test_meets_unit_clauses :
    (let c : TeCmd := { te with kind := .copy, a := ownLmBase + 0x3FFF8, b := ownLmBase + 0x3FFF0, s0 := 8 }; c.io = {} ∧ c.byIndex = false ∧ c.buf = none ∧ c.src + BitVec.ofNat 64 c.n = ownLmBase + BitVec.ofNat 64 0x3FFF0 ∧ c.dst + BitVec.ofNat 64 c.n = ownLmBase + BitVec.ofNat 64 0x3FFF8 ∧ 0x3FFF8 < Config.lmBytes) ∧
    (let c : TeCmd := { te with kind := .gather, b := ownLmBase + 0x3FFFC, s1 := 0x100010000 }; c.byIndex = true ∧ c.idx = none ∧ c.b + BitVec.ofNat 64 (c.row * c.idxSize) = ownLmBase + BitVec.ofNat 64 0x3FFFC) ∧
    (let c : TeCmd := { te with a := ownLmBase + 0x3FFF8, s0 := 8, s1 := 0x21 }; c.kind = .fill ∧ c.action ≠ 0 ∧ c.dst + BitVec.ofNat 64 c.n = ownLmBase + BitVec.ofNat 64 0x3FFF8 ∧ State.reset.retry = []) ∧
    (let c : TeCmd := { te with kind := .copy, a := 0x7F00000000000000 }; State.reset.translateNow c.who .store (c.dst + BitVec.ofNat 64 c.n) = .fault 0x07 ∧ c.io.req = none) := by
  and_intros <;> decide +kernel
/-- 08 R228, R229: lines asked for, held and answered, and translations dropped at each scope. -/
theorem test_meets_cache_clauses :
    (∀ sc ∈ [Scope.cl, .pk, .sy], runs (.tlbinv 0 0 sc) sPriv = true) ∧
    (let s := withCluster 0 { ccCode := 3 } sGl; s.translateNow s.actor .load 0 = .ok (.hbm 0 0) { cached := true, slot := 0 } ∧ s.walkHeld s.actor .load 0 = false ∧ ccFind (s.cluster 0).cc 0 0 0 = none ∧ s.ccOn (clusterOf 0) = true) ∧
    (let a : Access := { acc2 with kind := .line }; let q : Req := { id := 7, slot := 16, sid := 0, dest := .none_, acc := some a, eng := some 1 }; q.eng ≠ none ∧ q.drop = false ∧ a.loc = .hbm 0 0 ∧ a.kind = .line) ∧
    (State.reset.cutOff (.csm 0) (.slice 0) || State.reset.gated 0 0 || State.reset.wbOut 0 0 0) = false ∧ State.reset.lineBusy 0 0 = false ∧ (withSlice 0 { fills := [(accA, .core 0)] } State.reset).lineBusy 0 0 = true ∧
    ({ State.reset with failed := [(0, 1)] } : State).wbOut 0 0 0 = false := by
  and_intros <;> decide +kernel
/-- 23 R409, R421, 24 R425: no session and one whose record stands in the channel, destructions, and powers above, below and at the limit. -/
theorem test_meets_record_clauses :
    (State.reset.spdmRecord = none ∧ (let s := { State.reset with spdm := { session := some ([1, 0], [2, 0]) }, mem := memWriteN [] (mbKey spdmBase) [1, 0, 2, 0] }; s.spdmRecord.isSome = true ∧ s.mbBytes spdmBase 4 = [1, 0] ++ [2, 0])) ∧
    (let s := { st7 with mailbox := { cmd := 3, busy := true }, boot := { stage := 3, began := none }, parts := [(0, { exists_ := true })] }; s.islandOff 16 = false ∧ s.mbIs 3 = true ∧ s.started = true ∧ (s.mbArg 0).toNat < 64 ∧ (s.partn (s.mbArg 0).toNat).exists_ = true) ∧
    (State.reset.power.plim.toNat * 1000 < 3000001 ∧ 100 * 0 < 95 * (State.reset.power.plim.toNat * 1000) ∧ (tget State.reset.power.sensors 19 0) < 100) := by
  and_intros <;> decide +kernel

end Sys2Proof.Tests
end

section
/-!
SUPPORT. O36: every instruction with a word is the wrapper `strandOp` around an effect, so that its checks, then its guard, decide
whether the effect is reached.
-/
namespace Sys2Proof.Machine
open Sys2Proof

/-- Each meaning the dispatch gives an instruction of the opcode map is the wrapper with that instruction's own checks and guard
(R7, R101); the steps of the device, named first, have no word. -/
theorem exec_eq_strandOp {i : Instr} (s : State) (h : i.hasWord = true) : ∃ eff, exec i s = strandOp i s eff := by
  unfold exec
  cases i with
  | delayedCompletion | loadReply | atomicReply | callReply | homeAccess | hbmFill | sliceEvict | replicaInvalAck | pageWalkDone
  | walkerReadError | ptsTick | hotWindow | syncWaitExpire | syncBusyRetry | aggAgeSend | aggSendResume | aggPacketApply | aggReply
  | meshPacketArrive | escapeDivert | linkCrcFail | queueTokenArrive | qenqRetry | queueWaitExpire | callArrive | slotOffer
  | migrationArrive | dequeSpillDone | stealProbe | stealProbeAnswer | stealCopyDone | stealPauseEnd | yieldEnd | waittRelease
  | heartbeatMiss | fencedPacket | meCommandStart | latchTileArrive | mmaTile | tileHandOn | rotateCopy | meCommandDone
  | teCommandDone | jobEntryRead | edgeTest | jobAging | jobPlace | gangStart | jobComplete | switchStop | switchSaveDone
  | switchResume | hostWriteTlp | hostLineAck | hostRead | fabricPacketArrive | admissionCredit | portCrcFail | switchCombine
  | combinedReply | amsgTriggerArrive | handlerRun | bindEntry | fcsrWrite | hbiWrite | agageWrite | qcfgEnable | qcfgDisable
  | swctlArm | swctlRes | unfence | pmctlGo | pageCopyDone | pmctlClr | bctlGo | sqcfgEnable | sqcfgDisable | doorbell | msireq
  | meshctlWrite | plimWrite | registerWrite | mbSetDevid | mbCreatePartition | mbDestroyPartition | mbWriteFirmware | mbRestart
  | spdmGetMeasurements | spdmRequest | keyBind | keyUnbind | keyQuery | powerOn | startStageDone | stageTimeout | startRetry
  | memoryReadError | accEccError | islandFreqChange | powerWindow | overTemperature | thermalRestart | islandStallEnd =>
    exact absurd h Bool.false_ne_true
  | _ => exact ⟨_, rfl⟩

/-- Settles O36: a fault of the checks is taken before the guard is asked, and a false guard skips the effect. -/
theorem guardedOffHasNoEffect : Obligations.GuardedOffHasNoEffect := by
  intro i s hw
  obtain ⟨eff, heff⟩ := exec_eq_strandOp s hw
  rw [heff]
  exact ⟨fun _ _ hf => strandOp_fault eff hf, strandOp_off eff⟩

end Sys2Proof.Machine
end

section
/-!
SUPPORT. O55: the bit L and the bytes of a bundle stand between the decoding of one word, which the family `Encoding` gives for each
instruction, and the decoding of a bundle.
-/
namespace Sys2Proof.Laws
open Sys2Proof

/-! ### Every instruction with a word -/

namespace Encoding

/-- The family `Encoding` for every instruction; the steps of the device, named last, have no word. -/
theorem statement (i : Instr) : Statement i := by
  cases i with
  | cnop => exact cnop | movpc => exact movpc _ _ _ | bp => exact bp _ _ _ | bz => exact bz _ _ _ | bnz => exact bnz _ _ _
  | jal => exact jal _ _ _ | jalr => exact jalr _ _ _ _ | ret => exact ret _ _ _ | loopi => exact loopi _ _ _ _
  | loopr => exact loopr _ _ _ _ | repi => exact repi _ _ | repr => exact repr _ _ | ldb => exact ldb _ _ _ _ _
  | ldbu => exact ldbu _ _ _ _ _ | ldh => exact ldh _ _ _ _ _ | ldhu => exact ldhu _ _ _ _ _ | ldw => exact ldw _ _ _ _ _
  | ldwu => exact ldwu _ _ _ _ _ | ldd => exact ldd _ _ _ _ _ | stb => exact stb _ _ _ _ _ | sth => exact sth _ _ _ _ _
  | stw => exact stw _ _ _ _ _ | std => exact std _ _ _ _ _ | ldbX => exact ldbX _ _ _ _ _ _ | ldbuX => exact ldbuX _ _ _ _ _ _
  | ldhX => exact ldhX _ _ _ _ _ _ | ldhuX => exact ldhuX _ _ _ _ _ _ | ldwX => exact ldwX _ _ _ _ _ _
  | ldwuX => exact ldwuX _ _ _ _ _ _ | lddX => exact lddX _ _ _ _ _ _ | ldq => exact ldq _ _ _ _ _ _
  | stbX => exact stbX _ _ _ _ _ _ | sthX => exact sthX _ _ _ _ _ _ | stwX => exact stwX _ _ _ _ _ _
  | stdX => exact stdX _ _ _ _ _ _ | stq => exact stq _ _ _ _ _ _ | ldff => exact ldff _ _ _ _ _ | ldfe => exact ldfe _ _ _ _ _
  | stef => exact stef _ _ _ _ _ | stsf => exact stsf _ _ _ _ _ | ferd => exact ferd _ _ _ _ | feset => exact feset _ _ _
  | feclr => exact feclr _ _ _ | aadd => exact aadd _ _ _ _ _ _ | aand => exact aand _ _ _ _ _ _ | aor => exact aor _ _ _ _ _ _
  | axor => exact axor _ _ _ _ _ _ | amin => exact amin _ _ _ _ _ _ | amax => exact amax _ _ _ _ _ _
  | aminu => exact aminu _ _ _ _ _ _ | amaxu => exact amaxu _ _ _ _ _ _ | aswap => exact aswap _ _ _ _ _ _
  | acas => exact acas _ _ _ _ _ _ | afadd => exact afadd _ _ _ _ _ | fence => exact fence _ _ _
  | fencer => exact fencer _ _ _ _ _ | ifence => exact ifence _ | fenceTl => exact fenceTl _ _ | agf => exact agf _ _
  | agw => exact agw _ | vld => exact vld _ _ _ _ _ | vst => exact vst _ _ _ _ _ | vlds => exact vlds _ _ _ _ _
  | vldx => exact vldx _ _ _ _ _ | vldb => exact vldb _ _ _ _ | vsts => exact vsts _ _ _ _ | vstx => exact vstx _ _ _ _
  | vstn => exact vstn _ _ _ _ _ | vspill => exact vspill _ _ | vfill => exact vfill _ _ | fstn => exact fstn _ _ _ _ _
  | tcopy => exact tcopy _ _ _ _ _ | tcopy2d => exact tcopy2d _ _ _ _ _ | tgather => exact tgather _ _ _ _ _
  | tscatter => exact tscatter _ _ _ _ _ | tfill => exact tfill _ _ _ _ _ | twait => exact twait _ _
  | qenq => exact qenq _ _ _ _ _ | qdeq => exact qdeq _ _ _ _ _ | qtry => exact qtry _ _ _ _ _ | qpoll => exact qpoll _ _ _ _ _
  | callat => exact callat _ _ _ _ | retv => exact retv _ _ | amsg => exact amsg _ _ _ | amsgRet => exact amsgRet _ _ _ _
  | frame => exact frame _ _ _ _ | spawn => exact spawn _ _ _ | sync => exact sync _ _ | tend => exact tend _ _
  | publish => exact publish _ _ _ | launch => exact launch _ _ _ | shrd => exact shrd _ _ _ | shwr => exact shwr _ _ _
  | semp => exact semp _ _ | semv => exact semv _ _ | bar => exact bar _ _ _ | xborrow => exact xborrow _ _ _
  | xmov => exact xmov _ _ _ _ _ | xreturn => exact xreturn _ | migrate => exact migrate _ _ _ | hbeat => exact hbeat _
  | waitt => exact waitt _ _ | yield => exact yield _ | sysc => exact sysc _ | brk => exact brk _ | xret => exact xret _
  | tlbinv => exact tlbinv _ _ _ | cctlWb => exact cctlWb _ _ _ | cctlInv => exact cctlInv _ _ _
  | cctlWbinv => exact cctlWbinv _ _ _ | cctlPrefetch => exact cctlPrefetch _ _ _ | cctlWbL1d => exact cctlWbL1d _
  | cctlInvCc => exact cctlInvCc _ | cctlSetCc => exact cctlSetCc _ _ | crrd => exact crrd _ _ _ | crwr => exact crwr _ _ _
  | crswp => exact crswp _ _ _ _ | add => exact add _ _ _ _ _ | sub => exact sub _ _ _ _ _ | and => exact and _ _ _ _ _
  | or => exact or _ _ _ _ _ | xor => exact xor _ _ _ _ _ | andn => exact andn _ _ _ _ _ | shl => exact shl _ _ _ _ _
  | shr => exact shr _ _ _ _ _ | sra => exact sra _ _ _ _ _ | ror => exact ror _ _ _ _ _ | min => exact min _ _ _ _ _
  | max => exact max _ _ _ _ _ | minu => exact minu _ _ _ _ _ | maxu => exact maxu _ _ _ _ _ | mul => exact mul _ _ _ _ _
  | mulh => exact mulh _ _ _ _ _ | mulhu => exact mulhu _ _ _ _ _ | div => exact div _ _ _ _ _ | divu => exact divu _ _ _ _ _
  | rem => exact rem _ _ _ _ _ | remu => exact remu _ _ _ _ _ | clz => exact clz _ _ _ _ | ctz => exact ctz _ _ _ _
  | popc => exact popc _ _ _ _ | sext => exact sext _ _ _ _ | zext => exact zext _ _ _ _ | bfx => exact bfx _ _ _ _
  | bfxu => exact bfxu _ _ _ _ | bfi => exact bfi _ _ _ _ | cmpeq => exact cmpeq _ _ _ _ _ | cmpne => exact cmpne _ _ _ _ _
  | cmplt => exact cmplt _ _ _ _ _ | cmple => exact cmple _ _ _ _ _ | cmpltu => exact cmpltu _ _ _ _ _
  | cmpleu => exact cmpleu _ _ _ _ _ | pand => exact pand _ _ _ _ | por => exact por _ _ _ _ | pxor => exact pxor _ _ _ _
  | pandn => exact pandn _ _ _ _ | pnot => exact pnot _ _ _ | prd => exact prd _ _ | pwr => exact pwr _ _
  | addi => exact addi _ _ _ _ | andi => exact andi _ _ _ _ | ori => exact ori _ _ _ _ | xori => exact xori _ _ _ _
  | shli => exact shli _ _ _ _ | shri => exact shri _ _ _ _ | srai => exact srai _ _ _ _ | rori => exact rori _ _ _ _
  | movi => exact movi _ _ _ | movh => exact movh _ _ _ _ | lea => exact lea _ _ _ _ _ | cvta => exact cvta _ _ _
  | sel => exact sel _ _ _ _ _ | mov => exact mov _ _ _ | fadd => exact fadd _ _ _ _ _ | fsub => exact fsub _ _ _ _ _
  | fmul => exact fmul _ _ _ _ _ | fdiv => exact fdiv _ _ _ _ _ | fsqrt => exact fsqrt _ _ _ _ | ffma => exact ffma _ _ _ _ _ _
  | fmin => exact fmin _ _ _ _ _ | fmax => exact fmax _ _ _ _ _ | fneg => exact fneg _ _ _ | fabs => exact fabs _ _ _
  | fcmpeq => exact fcmpeq _ _ _ _ | fcmplt => exact fcmplt _ _ _ _ | fcmple => exact fcmple _ _ _ _
  | fcmpun => exact fcmpun _ _ _ _ | fclass => exact fclass _ _ _ | fcvt => exact fcvt _ _ _ _ | fcvtif => exact fcvtif _ _ _ _
  | fcvtfi => exact fcvtfi _ _ _ | fstk => exact fstk _ _ _ _ | fstkr => exact fstkr _ _ _ | vadd => exact vadd _ _ _ _ _
  | vsub => exact vsub _ _ _ _ _ | vand => exact vand _ _ _ _ _ | vor => exact vor _ _ _ _ _ | vxor => exact vxor _ _ _ _ _
  | vandn => exact vandn _ _ _ _ _ | vshl => exact vshl _ _ _ _ _ | vshr => exact vshr _ _ _ _ _ | vsra => exact vsra _ _ _ _ _
  | vmin => exact vmin _ _ _ _ _ | vmax => exact vmax _ _ _ _ _ | vmul => exact vmul _ _ _ _ _ | vmulh => exact vmulh _ _ _ _ _
  | vcmpeq => exact vcmpeq _ _ _ _ _ | vcmpne => exact vcmpne _ _ _ _ _ | vcmplt => exact vcmplt _ _ _ _ _
  | vcmple => exact vcmple _ _ _ _ _ | mand => exact mand _ _ _ _ | mor => exact mor _ _ _ _ | mxor => exact mxor _ _ _ _
  | mandn => exact mandn _ _ _ _ | mnot => exact mnot _ _ _ | mpopc => exact mpopc _ _ _ | mfromg => exact mfromg _ _ _
  | mtog => exact mtog _ _ _ | vfadd => exact vfadd _ _ _ _ _ | vfsub => exact vfsub _ _ _ _ _ | vfmul => exact vfmul _ _ _ _ _
  | vfdiv => exact vfdiv _ _ _ _ _ | vfsqrt => exact vfsqrt _ _ _ _ | vfmin => exact vfmin _ _ _ _ _
  | vfmax => exact vfmax _ _ _ _ _ | vfneg => exact vfneg _ _ _ | vfabs => exact vfabs _ _ _ | vffma => exact vffma _ _ _ _ _ _
  | vfcmpeq => exact vfcmpeq _ _ _ _ | vfcmplt => exact vfcmplt _ _ _ _ | vfcmple => exact vfcmple _ _ _ _
  | vfcmpun => exact vfcmpun _ _ _ _ | vfred => exact vfred _ _ _ _ | vfrmin => exact vfrmin _ _ _ _
  | vfrmax => exact vfrmax _ _ _ _ | vfcvt => exact vfcvt _ _ _ _ | vfcvtif => exact vfcvtif _ _ _ _
  | vfcvtfi => exact vfcvtfi _ _ _ | vfrcp => exact vfrcp _ _ _ _ | vfrsqrt => exact vfrsqrt _ _ _ _
  | vfexp2 => exact vfexp2 _ _ _ _ | vflog2 => exact vflog2 _ _ _ _ | vperm => exact vperm _ _ _ _
  | vslide => exact vslide _ _ _ _ | vzip => exact vzip _ _ _ _ | vunzip => exact vunzip _ _ _ | vbcast => exact vbcast _ _ _
  | vcompress => exact vcompress _ _ _ | vexpand => exact vexpand _ _ _ | vmov => exact vmov _ _ _ | vins => exact vins _ _ _ _
  | vext => exact vext _ _ _ _ | rngh => exact rngh _ _ _ _ | vrngh => exact vrngh _ _ _ _ | vqmx => exact vqmx _ _ _ _ _ _
  | vdqmx => exact vdqmx _ _ _ _ _ | vpack => exact vpack _ _ _ _ _ | mset => exact mset _ _ _ | mzero => exact mzero _ _ _
  | mlda => exact mlda _ _ _ _ _ | msta => exact msta _ _ _ _ _ _ _ | mseed => exact mseed _ _ | mring => exact mring _ _ _
  | mwait => exact mwait _ | mma => exact mma _ _ _ _ _ _ _ _ | mmaBf16 => exact mmaBf16 _ _ _ _ _
  | _ => exact noWord rfl

end Encoding

theorem decodeC_encode {i : Instr} (hw : i.hasWord = true) (hc : i.isC = true) (h : i.wellFormed = true) : decodeC (encode i) = .ok i := by
  simpa [Instr.decodeAs, hc] using Encoding.statement i hw h
theorem decodeA_encode {i : Instr} (hw : i.hasWord = true) (hc : i.isC = false) (h : i.wellFormed = true) : decodeA (encode i) = .ok i := by
  simpa [Instr.decodeAs, hc] using Encoding.statement i hw h

/-! ### The bit L (R50, R57) -/

theorem lone_ofNat {n : Nat} (h : 2 ^ 31 ≤ n) (hn : n < 2 ^ 32) : lone (BitVec.ofNat 32 n) = true := by
  show (BitVec.ofNat 32 n).msb = true
  rw [BitVec.msb_eq_decide, BitVec.toNat_ofNat, Nat.mod_eq_of_lt hn]
  exact decide_eq_true h
theorem lone_packCR (mj : BitVec 6) (f : FCR) : lone (packCR mj f) = true := by
  have hm := mj.isLt; have hd := f.d.isLt; have ha := f.a.isLt; have hb := f.b.isLt; have hpg := f.pg.isLt; have hpn := f.pn.isLt
  have hfn := f.fn.isLt
  exact lone_ofNat (by omega) (by omega)
theorem lone_packCI (mj : BitVec 6) (f : FCI) : lone (packCI mj f) = true := by
  have hm := mj.isLt; have hd := f.d.isLt; have ha := f.a.isLt; have hpg := f.pg.isLt; have himm := f.imm.isLt
  exact lone_ofNat (by omega) (by omega)
theorem lone_packCM (mj : BitVec 6) (f : FCM) : lone (packCM mj f) = true := by
  have hm := mj.isLt; have hs := f.s.isLt; have hb := f.b.isLt; have hpg := f.pg.isLt; have hsc := f.sc.isLt; have hoff := f.off.isLt
  exact lone_ofNat (by omega) (by omega)
theorem lone_packCB (mj : BitVec 6) (f : FCB) : lone (packCB mj f) = true := by
  have hm := mj.isLt; have hpg := f.pg.isLt; have hpn := f.pn.isLt; have hoff := f.off.isLt
  exact lone_ofNat (by omega) (by omega)
theorem lone_packCX (mj : BitVec 6) (f : FCX) : lone (packCX mj f) = true := by
  have hm := mj.isLt; have ha := f.a.isLt; have hb := f.b.isLt; have hc := f.c.isLt; have hpg := f.pg.isLt; have hfl := f.fl.isLt
  have hfn := f.fn.isLt
  exact lone_ofNat (by omega) (by omega)
/-- The word of a C-class instruction stands alone; the constructors are listed by their format. -/
theorem lone_encode {i : Instr} (h : i.isC = true) : lone (encode i) = true := by
  cases i with
  | cnop | movpc | ret => exact lone_packCR _ _
  | bz | bnz | jalr | loopi | loopr | repi | repr | crrd | crwr | crswp => exact lone_packCI _ _
  | ldb | ldbu | ldh | ldhu | ldw | ldwu | ldd | stb | sth | stw | std | vld | vst => exact lone_packCM _ _
  | bp | jal => exact lone_packCB _ _
  | ldbX | ldbuX | ldhX | ldhuX | ldwX | ldwuX | lddX | ldq | stbX | sthX | stwX | stdX | stq | ldff | ldfe | stef | stsf | ferd |
  feset | feclr | aadd | aand | aor | axor | amin | amax | aminu | amaxu | aswap | acas | afadd | fence | fencer | ifence |
  fenceTl | agf | agw | vlds | vldx | vldb | vsts | vstx | vstn | vspill | vfill | fstn | tcopy | tcopy2d | tgather | tscatter |
  tfill | twait | qenq | qdeq | qtry | qpoll | callat | retv | amsg | amsgRet | frame | spawn | sync | tend | publish | launch |
  shrd | shwr | semp | semv | bar | xborrow | xmov | xreturn | migrate | hbeat | waitt | yield | sysc | brk | xret | tlbinv |
  cctlWb | cctlInv | cctlWbinv | cctlPrefetch | cctlWbL1d | cctlInvCc | cctlSetCc => exact lone_packCX _ _
  | _ => exact absurd h Bool.false_ne_true

/-- A word with the bit L cleared. -/
def clearL (w : W32) : W32 := w &&& 0x7FFFFFFF#32
theorem lone_clearL (w : W32) : lone (clearL w) = false := by simp [lone, clearL]
theorem extractLsb'_clearL (w : W32) (s n : Nat) (h : s + n ≤ 31) : (clearL w).extractLsb' s n = w.extractLsb' s n := by
  have low : ∀ k < 31, (0x7FFFFFFF#32).getLsbD k = true := by decide
  apply BitVec.eq_of_getLsbD_eq
  intro k hk
  simp [clearL, hk, low (s + k) (by omega)]
/-- R57: the decoder of a C-class word reads its major and its fields, none of which holds the bit L. -/
theorem decodeC_clearL (w : W32) : decodeC (clearL w) = decodeC w := by
  have hmj : majorC (clearL w) = majorC w := extractLsb'_clearL w 25 6 (by decide)
  have hR : unpackCR (clearL w) = unpackCR w := by simp [unpackCR, extractLsb'_clearL]
  have hI : unpackCI (clearL w) = unpackCI w := by simp [unpackCI, extractLsb'_clearL]
  have hM : unpackCM (clearL w) = unpackCM w := by simp [unpackCM, extractLsb'_clearL]
  have hB : unpackCB (clearL w) = unpackCB w := by simp [unpackCB, extractLsb'_clearL]
  have hX : unpackCX (clearL w) = unpackCX w := by simp [unpackCX, extractLsb'_clearL]
  have hraw : rawDecodeC (clearL w) = rawDecodeC w := by unfold rawDecodeC; rw [hmj, hR, hI, hM, hB, hX]
  unfold decodeC; rw [hraw]

/-! ### The bytes of a bundle (R1, R50) -/

theorem ofNat_leNat_leBytes (w : W32) : BitVec.ofNat 32 (leNat (leBytes 4 w.toNat)) = w := by
  rw [Machine.leNat_leBytes, Nat.mod_eq_of_lt (by have := w.isLt; omega), BitVec.ofNat_toNat, BitVec.setWidth_eq]
theorem decodeBytes_lone {w : W32} {i : Instr} (rest : List Byte) (hd : decodeC w = .ok i) (hl : lone w = true) :
    decodeBytes (leBytes 4 w.toNat ++ rest) = some (⟨i, none⟩, rest) := by
  have hw := ofNat_leNat_leBytes w
  simp only [leBytes] at hw
  simp only [leBytes, List.cons_append, List.nil_append, decodeBytes, hw, hd, hl, if_true]
theorem decodeBytes_pair {w v : W32} {i j : Instr} (rest : List Byte) (hd : decodeC w = .ok i) (hl : lone w = false)
    (ha : decodeA v = .ok j) : decodeBytes (leBytes 4 w.toNat ++ (leBytes 4 v.toNat ++ rest)) = some (⟨i, some j⟩, rest) := by
  have hw := ofNat_leNat_leBytes w
  have hv := ofNat_leNat_leBytes v
  simp only [leBytes] at hw hv
  simp only [leBytes, List.cons_append, List.nil_append, decodeBytes, hw, hv, hd, hl, ha, Bool.false_eq_true, if_false]

/-- Settles O55: the word of a C instruction stands alone; with L cleared it decodes alike, and the A word follows it. -/
theorem encodeDecodeRoundTrip : Obligations.EncodeDecodeRoundTrip := by
  refine ⟨fun i rest hw hc h => decodeBytes_lone rest (decodeC_encode hw hc h) (lone_encode hc), ?_⟩
  intro i j rest hw hc h hwj hcj hj
  have hd : decodeC (clearL (encode i)) = .ok i := (decodeC_clearL _).trans (decodeC_encode hw hc h)
  exact decodeBytes_pair rest hd (lone_clearL _) (decodeA_encode hwj hcj hj)

end Sys2Proof.Laws
end

section
/-!
SUPPORT. O53: a printed word is the word the encoder gives the instruction, up to the bit L, so it decodes by the round trip.
-/
namespace Sys2Proof.Laws
open Sys2Proof

theorem decodeC_of_encode {i : Instr} {w : W32} (he : clearL (encode i) = clearL w) (hw : i.hasWord = true) (hc : i.isC = true)
    (h : i.wellFormed = true) : (decodeC w).toOption = some i := by
  rw [← decodeC_clearL w, ← he, decodeC_clearL, decodeC_encode hw hc h]; rfl
theorem decodeA_of_encode {i : Instr} {w : W32} (he : encode i = w) (hw : i.hasWord = true) (hc : i.isC = false)
    (h : i.wellFormed = true) : (decodeA w).toOption = some i := by
  rw [← he, decodeA_encode hw hc h]; rfl

/-- Settles O53: the encoder gives each of these words. -/
theorem specWordsDecode : Obligations.SpecWordsDecode := by
  exact ⟨decodeC_of_encode rfl rfl rfl rfl, decodeC_of_encode rfl rfl rfl rfl, decodeA_of_encode rfl rfl rfl rfl,
    decodeA_of_encode rfl rfl rfl rfl, decodeC_of_encode rfl rfl rfl rfl, decodeA_of_encode rfl rfl rfl rfl,
    decodeA_of_encode rfl rfl rfl rfl, decodeA_of_encode rfl rfl rfl rfl, decodeA_of_encode rfl rfl rfl rfl,
    decodeA_of_encode rfl rfl rfl rfl, decodeC_of_encode rfl rfl rfl rfl, decodeC_of_encode rfl rfl rfl rfl,
    decodeC_of_encode rfl rfl rfl rfl, decodeC_of_encode rfl rfl rfl rfl, decodeC_of_encode rfl rfl rfl rfl,
    decodeC_of_encode rfl rfl rfl rfl, decodeC_of_encode rfl rfl rfl rfl, decodeC_of_encode rfl rfl rfl rfl,
    decodeC_of_encode rfl rfl rfl rfl, decodeA_of_encode rfl rfl rfl rfl, decodeA_of_encode rfl rfl rfl rfl,
    decodeA_of_encode rfl rfl rfl rfl, decodeA_of_encode rfl rfl rfl rfl, decodeA_of_encode rfl rfl rfl rfl,
    decodeA_of_encode rfl rfl rfl rfl, decodeA_of_encode rfl rfl rfl rfl, decodeA_of_encode rfl rfl rfl rfl,
    decodeC_of_encode rfl rfl rfl rfl, decodeC_of_encode rfl rfl rfl rfl, decodeC_of_encode rfl rfl rfl rfl,
    decodeC_of_encode rfl rfl rfl rfl, decodeC_of_encode rfl rfl rfl rfl, decodeC_of_encode rfl rfl rfl rfl,
    decodeC_of_encode rfl rfl rfl rfl, decodeC_of_encode rfl rfl rfl rfl⟩

end Sys2Proof.Laws
end

section
/-!
SUPPORT. O11, O34: what a write of a scalar register and a trap leave in the cores and the slots.
-/
namespace Sys2Proof.Machine
open Sys2Proof

/-! ### Cores and slots after an update of one of them -/

/-- An update of a core that keeps its slots keeps every slot of the device. -/
theorem State.slotOf_setCore_same {s : State} {n : Nat} {c : Core} (h : c.slots = (s.core n).slots) (d k : Nat) :
    (s.setCore n c).slotOf d k = s.slotOf d k := by
  unfold State.slotOf
  rw [State.core_setCore]
  split
  · rw [h, ‹d = n›]
  · rfl
theorem State.slotOf_setStrandOf_self (s : State) (c : Nat) {k : Nat} (x : Strand) (h : k < 16) :
    (s.setStrandOf c k x).slotOf c k = { s.slotOf c k with strand := x } := State.slotOf_setSlot_self s c _ h
theorem State.slotOf_setStrandOf_ne (s : State) {c d k j : Nat} (x : Strand) (h : d ≠ c ∨ j ≠ k) :
    (s.setStrandOf c k x).slotOf d j = s.slotOf d j := State.slotOf_setSlot_ne s _ h
/-- A part of the slots that an update of one of them keeps is kept in all of them; a number past 15 names none. -/
theorem State.slotOf_setSlot_part {α : Type} (part : Slot → α) {s : State} {c k : Nat} {x : Slot} (h : part x = part (s.slotOf c k))
    (d j : Nat) : part ((s.setSlot c k x).slotOf d j) = part (s.slotOf d j) := by
  by_cases hne : d ≠ c ∨ j ≠ k
  · rw [State.slotOf_setSlot_ne s x hne]
  · obtain ⟨rfl, rfl⟩ : d = c ∧ j = k := by omega
    by_cases hj : j < 16
    · rw [State.slotOf_setSlot_self s d x hj, h]
    · simp [State.slotOf, State.setSlot, vget, hj]
/-- An update of a strand leaves all of every core but its slots. -/
theorem State.core_setStrandOf (s : State) (c k : Nat) (x : Strand) (n : Nat) :
    (s.setStrandOf c k x).core n = { s.core n with slots := ((s.setStrandOf c k x).core n).slots } := by
  rw [State.setStrandOf, State.setSlot, State.core_setCore]
  split
  · rw [‹n = c›]
  · rfl

/-! ### A write of a scalar register (R63 to R65, R253) -/

theorem State.setGS_chain {s : State} {c : Nat} (d : W64) (b : Bool) (h : s.downstream s.cur.core s.strand = some c) :
    s.setGS 29 d b = s.setCore c { s.core c with chain := (s.core c).chain ++ [{ w := d, gid := s.strand.gid.getD 0 }] } := by
  simp [State.setGS, h]
theorem State.setGS_ordinary {s : State} {r : GR} (d : W64) (b : Bool) (h0 : r ≠ 0) (h9 : r ≠ 29) :
    s.setGS r d b = s.setStrand { s.strand with g := rset s.strand.g r { data := d, s := b, full := true } } := by
  rw [State.setGS, if_neg h0, if_neg h9]; rfl

/-- Settles O11: `g0`, `p0` and `m0` discard, `g29` pushes, any other register is set in the strand that issues. -/
theorem registerWrites : Obligations.RegisterWrites := by
  refine ⟨fun v b s => ⟨s.setGS_zero v b, s.g_zero, s.gS_zero⟩, ?_, ?_, fun s b w => ⟨s.pr_zero, s.mr_zero, s.setP_zero b, s.setM_zero w⟩⟩
  · intro v b s c hc
    rw [State.setGS_chain v b hc]
    refine ⟨by rw [State.core_setCore_self], ?_, rfl⟩
    exact congrArg Slot.strand (State.slotOf_setCore_same (by rfl) _ _)
  · intro d v b s hk h0 h9
    refine ⟨by rw [State.setGS_g _ _ _ _ _ h0 h9 hk, if_pos rfl], fun r hr => ?_, s.setGS_mem d v b, fun c k hck => ?_⟩
    · rw [State.setGS_g _ _ _ _ _ h0 h9 hk, if_neg hr]
    · rw [State.setGS_ordinary v b h0 h9]
      exact State.slotOf_setStrandOf_ne s _ hck

/-! ### Trap entry (R73, R276) -/

theorem State.trap_core (s : State) (c : Nat) (v : W64) (n : Nat) :
    (s.trap c v).core n = { s.core n with slots := ((s.trap c v).core n).slots } := State.core_setStrandOf s _ _ _ n
theorem Strand.enter_meFault {c : Nat} (x : Strand) (v pc : W64) (h : c ≠ 0x0D) : (x.enter c v pc).meFault = x.meFault := if_neg h

/-- Settles O34: a trap puts `Strand.enter` of the strand in its slot, and nothing else in any core. -/
theorem trapEntry : Obligations.TrapEntry := by
  intro s c v hk
  dsimp only
  rw [s.trap_strand c v hk]
  refine ⟨rfl, rfl, rfl, rfl, rfl, rfl, rfl, rfl, rfl, rfl, rfl, rfl, rfl, rfl, Strand.enter_meFault _ _ _, rfl,
    fun n => ⟨s.trap_core c v n, ?_⟩, State.slotOf_setStrandOf_self s _ _ hk, fun n k h => State.slotOf_setStrandOf_ne s _ h⟩
  rw [s.trap_core c v n]
  exact ⟨rfl, rfl, rfl, rfl, rfl, rfl, rfl, rfl, rfl, rfl⟩

end Sys2Proof.Machine
end

section
/-!
SUPPORT. O21, O24: what every access to the own LM goes through, and the place it takes in the cluster's logical time.
-/
namespace Sys2Proof.Machine
open Sys2Proof

/-! ### The place in logical time (log 7) -/

@[simp] theorem State.raisePts_cur (s : State) (c t : Nat) : (s.raisePts c t).cur = s.cur := by unfold State.raisePts; split <;> rfl
@[simp] theorem State.raisePts_mem (s : State) (c t : Nat) : (s.raisePts c t).mem = s.mem := by unfold State.raisePts; split <;> rfl
@[simp] theorem State.raisePts_fe (s : State) (c t : Nat) : (s.raisePts c t).fe = s.fe := by unfold State.raisePts; split <;> rfl
@[simp] theorem State.raisePts_net (s : State) (c t : Nat) : (s.raisePts c t).net = s.net := by unfold State.raisePts; split <;> rfl
/-- A core's clock is raised to a time, and nothing else of any core changes. -/
theorem State.raisePts_core (s : State) (c t n : Nat) :
    (s.raisePts c t).core n = if n = c then { s.core c with pts := max (s.core c).pts t } else s.core n := by
  unfold State.raisePts
  split
  · rw [Nat.max_eq_left ‹_›]
    split
    · rw [‹n = c›]
    · rfl
  · rw [Nat.max_eq_right (by omega), State.core_setCore]

theorem State.nearTime_off {s : State} {c : Nat} (h : s.ccOn (clusterOf c) = false) : s.nearTime c = s := by simp [State.nearTime, h]
theorem State.nearTime_on {s : State} {c : Nat} (h : s.ccOn (clusterOf c) = true) :
    s.nearTime c = (s.raisePts c (max (s.core c).pts (s.cluster (clusterOf c)).relTs)).setCluster (clusterOf c)
      { s.cluster (clusterOf c) with relTs := max (s.core c).pts (s.cluster (clusterOf c)).relTs } := by simp [State.nearTime, h]
@[simp] theorem State.nearTime_cur (s : State) (c : Nat) : (s.nearTime c).cur = s.cur := by
  cases h : s.ccOn (clusterOf c)
  · rw [State.nearTime_off h]
  · rw [State.nearTime_on h]; exact s.raisePts_cur ..
@[simp] theorem State.nearTime_mem (s : State) (c : Nat) : (s.nearTime c).mem = s.mem := by
  cases h : s.ccOn (clusterOf c)
  · rw [State.nearTime_off h]
  · rw [State.nearTime_on h]; exact s.raisePts_mem ..
@[simp] theorem State.nearTime_fe (s : State) (c : Nat) : (s.nearTime c).fe = s.fe := by
  cases h : s.ccOn (clusterOf c)
  · rw [State.nearTime_off h]
  · rw [State.nearTime_on h]; exact s.raisePts_fe ..
@[simp] theorem State.nearTime_net (s : State) (c : Nat) : (s.nearTime c).net = s.net := by
  cases h : s.ccOn (clusterOf c)
  · rw [State.nearTime_off h]
  · rw [State.nearTime_on h]; exact s.raisePts_net ..
/-- Of the cores, an access to the LM or CSM of the cluster raises only the clock of the core that makes it. -/
theorem State.nearTime_core (s : State) (c : Nat) :
    ∃ p, (s.core c).pts ≤ p ∧ ∀ n, (s.nearTime c).core n = if n = c then { s.core c with pts := p } else s.core n := by
  cases h : s.ccOn (clusterOf c)
  · refine ⟨(s.core c).pts, Nat.le_refl _, fun n => ?_⟩
    rw [State.nearTime_off h]
    split
    · rw [‹n = c›]
    · rfl
  · rw [State.nearTime_on h]
    exact ⟨_, Nat.le_max_left .., s.raisePts_core c _⟩
theorem State.nearTime_slotOf (s : State) (c n k : Nat) : (s.nearTime c).slotOf n k = s.slotOf n k := by
  obtain ⟨p, -, hcore⟩ := s.nearTime_core c
  unfold State.slotOf
  rw [hcore]
  split
  · rw [‹n = c›]
  · rfl

/-! ### The own LM (R74, R205, R321) -/

section
variable {s : State} {va : W64} {n o : Nat}

theorem State.OwnLm.toNat_va (h : s.OwnLm va n o) (hn : n ∣ 2 ^ 52) : va.toNat = 0x1D * 2 ^ 52 + o := by
  obtain ⟨rfl, -, hlen, -⟩ := h
  have hpos := Nat.pos_of_dvd_of_pos hn (by decide)
  rw [Config.lmBytes] at hlen
  rw [BitVec.toNat_add, BitVec.toNat_ofNat, show ownLmBase.toNat = 0x1D * 2 ^ 52 from rfl]
  omega
theorem State.OwnLm.lt (h : s.OwnLm va n o) (hn : n ∣ 2 ^ 52) : o < Config.lmBytes := by
  obtain ⟨-, -, hlen, -⟩ := h
  have hpos := Nat.pos_of_dvd_of_pos hn (by decide)
  omega
theorem State.OwnLm.aligned (h : s.OwnLm va n o) (hn : n ∣ 2 ^ 52) : va.toNat % n = 0 := by
  rw [h.toNat_va hn]
  obtain ⟨-, ho, -, -⟩ := h
  exact Nat.mod_eq_zero_of_dvd (Nat.dvd_add (Nat.dvd_mul_left_of_dvd hn _) (Nat.dvd_of_mod_eq_zero ho))
/-- R321: the own window names the LM of the core that issues. -/
theorem State.OwnLm.lookup (h : s.OwnLm va n o) (hn : n ∣ 2 ^ 52) (k : Kind) : s.lookup k va = .ok (.lm s.cur.core o) {} := by
  have hva := h.toNat_va hn
  have ho := h.lt hn
  have hlm : Config.lmBytes = 0x40000 := rfl
  have htop : va.extractLsb' 57 7 = 0 := by
    apply BitVec.eq_of_toNat_eq
    rw [BitVec.extractLsb'_toNat, hva, Nat.shiftRight_eq_div_pow]
    show _ = 0
    omega
  have hsel : field va.toNat 52 5 = 0x1D := by rw [field, hva]; omega
  have hoff : va.toNat % 2 ^ 52 = o := by rw [hva]; omega
  have hwin : s.window s.actor k va.toNat = some (.ok (.lm s.cur.core o) {}) := by
    simp only [State.window, hsel, hoff, ho, if_true]
    rfl
  simp [State.lookup, State.translate, htop, hwin]

/-- R141: an access to the own LM meets no fault and no hold. -/
theorem reach_ownLm (h : s.OwnLm va n o) (hn : n ∣ 2 ^ 52) (k : Kind) (f : Loc → PageAttr → State → Res) :
    reach k va n n f s = f (.lm s.cur.core o) {} s := by
  have halign := h.aligned hn
  have hlook := h.lookup hn k
  obtain ⟨-, -, -, hfree⟩ := h
  simp [reach, located, halign, hlook, hfree, State.regMisuse]
/-- R149: an access to the own LM takes its strand nowhere. -/
theorem migFirst_ownLm (mig : Bool) (s : State) (o : Nat) (f : State → Res) : migFirst mig (.lm s.cur.core o) f s = f s := by
  simp [migFirst]
theorem aggDest_ownLm (s : State) (c o : Nat) (a : PageAttr) (b : Bool) : s.aggDest c (.lm c o) a b = none := if_pos rfl
theorem afterHeld_ownLm (s : State) (o n : Nat) (f : State → Res) : afterHeld [(.lm s.cur.core o, {})] n f s = f s := by
  simp [afterHeld, State.heldDest, aggDest_ownLm, State.writeOpen]

/-- R140: a load of the own LM; what the bundle does beside (`k`) keeps the bundle, its issue cycle and memory. -/
theorem loadOp_ownLm (h : s.OwnLm va n o) (hn : n ∣ 2 ^ 52) (d : Dest) (sc : Scope) (mig : Bool) {k : State → State}
    (hcur : (k s).cur = s.cur) (hcyc : (k s).issueCycle = s.issueCycle) (hmem : (k s).mem = s.mem) :
    loadOp d n sc mig va k s = .next ((((k s).nearTime s.cur.core).arriveAt d .load (.lm s.cur.core o) n va (s.issueCycle + 8)
      (s.readAt (.lm s.cur.core o) n) false).cacheAcquire s.cur.core sc) := by
  rw [loadOp, reach_ownLm h hn, migFirst_ownLm, afterHeld_ownLm]
  simp [loadAt, hcur, hcyc, State.readAt, hmem]

end

/-! ### The base that post-increment advances (R87) -/

theorem xBase_eq (m : XMode) (b c : GR) (n : Nat) (s : State) :
    xBase m b c n s = if m = .postInc then s.setG b (s.g b + c.signExtend 64 * BitVec.ofNat 64 n) else s := by cases m <;> rfl
theorem State.setGS_islands (s : State) (r : GR) (d : W64) (b : Bool) : (s.setGS r d b).islands = s.islands := by
  rcases s.setGS_cases r d b with ⟨-, h⟩ | ⟨-, h | ⟨c, -, h⟩⟩ | ⟨-, -, h⟩ <;> rw [h] <;> rfl
theorem State.setGS_lastIssue (s : State) (r : GR) (d : W64) (b : Bool) (c k : Nat) :
    ((s.setGS r d b).slotOf c k).lastIssue = (s.slotOf c k).lastIssue := by
  rcases s.setGS_cases r d b with ⟨-, h⟩ | ⟨-, h | ⟨n, -, h⟩⟩ | ⟨-, -, h⟩ <;> rw [h]
  · rw [State.slotOf_setCore_same (by rfl)]
  · exact State.slotOf_setSlot_part Slot.lastIssue (by rfl) c k
theorem State.setG_issueCycle (s : State) (r : GR) (d : W64) : (s.setG r d).issueCycle = s.issueCycle := by
  simp only [State.issueCycle, State.now, State.cycle, State.setG, State.setGS_cur, State.setGS_lastIssue, State.setGS_islands]
theorem xBase_cur (m : XMode) (b c : GR) (n : Nat) (s : State) : (xBase m b c n s).cur = s.cur := by
  rw [xBase_eq]; split
  · exact s.setG_cur ..
  · rfl
theorem xBase_mem (m : XMode) (b c : GR) (n : Nat) (s : State) : (xBase m b c n s).mem = s.mem := by
  rw [xBase_eq]; split
  · exact s.setG_mem ..
  · rfl
theorem xBase_issueCycle (m : XMode) (b c : GR) (n : Nat) (s : State) : (xBase m b c n s).issueCycle = s.issueCycle := by
  rw [xBase_eq]; split
  · exact s.setG_issueCycle ..
  · rfl

end Sys2Proof.Machine
end

section
/-!
SUPPORT. O21: the load forms, each the wrapper around a load of the own LM.
-/
namespace Sys2Proof.Machine
open Sys2Proof

theorem cmLoad_ownLm {x b : GR} {sc : Scope} {off : Off10} {s : State} {n o : Nat} {sx : Bool} {i : Instr} (hr : runs i s = true)
    (hn : n ∣ 2 ^ 52) (h : s.OwnLm (s.cmAddr b off n) n o) :
    strandOp i s (cmLoad n sx x b sc off) = .next (((s.nearTime s.cur.core).arriveAt (.g x n sx) .load (.lm s.cur.core o) n (s.cmAddr b off n)
      (s.issueCycle + 8) (s.readAt (.lm s.cur.core o) n) false).cacheAcquire s.cur.core sc) :=
  (strandOp_runs _ hr).trans (loadOp_ownLm (k := id) h hn _ sc false rfl rfl rfl)
theorem xLoad_ownLm {b c : GR} {m : XMode} {mig : Bool} {s : State} {n o : Nat} {d : Dest} {i : Instr} (hr : runs i s = true)
    (hn : n ∣ 2 ^ 52) (h : s.OwnLm (s.xAddr m b c n) n o) :
    strandOp i s (xLoad n d b c m mig) =
      .next (((if m = .postInc then s.setG b (s.g b + c.signExtend 64 * BitVec.ofNat 64 n) else s).nearTime s.cur.core).arriveAt d .load
        (.lm s.cur.core o) n (s.xAddr m b c n) (s.issueCycle + 8) (s.readAt (.lm s.cur.core o) n) false) := by
  rw [strandOp_runs _ hr, ← xBase_eq]
  exact loadOp_ownLm h hn d .core mig (xBase_cur ..) (xBase_issueCycle ..) (xBase_mem ..)

/-- Settles O21: the addresses are those of the definitions; each load is `cmLoad` or `xLoad` of its size, which divides `2 ^ 52`. -/
theorem scalarLoadsFromOwnLm : Obligations.ScalarLoadsFromOwnLm := by
  refine ⟨fun _ _ _ _ => rfl, fun _ _ _ _ => ⟨rfl, rfl, rfl, rfl⟩, ?_, ?_, ?_, ?_, ?_, ?_, ?_, ?_, ?_, ?_, ?_, ?_, ?_, ?_, ?_⟩
  iterate 7 · exact fun x b pg sc off s o hr h => cmLoad_ownLm hr (by decide) h
  all_goals exact fun a b c pg m mig s o hr h => xLoad_ownLm hr (by decide) h

end Sys2Proof.Machine
end

section
/-!
SUPPORT. O24: a plain store to the own LM is a write of its bytes there, and a write leaves every other byte.
-/
namespace Sys2Proof.Machine
open Sys2Proof

/-! ### Writes of memory: the frame needs no canonical form -/

theorem memRead_memWrite_ne (m : List Host.Cell) {k n : Nat} (b : Byte) (h : n ≠ k) : memRead (memWrite m k b) n = memRead m n := by
  have hcons (j : Nat) (x : Byte) (r : List Host.Cell) : memRead ((j, x) :: r) n = if j = n then x else memRead r n := rfl
  induction m with
  | nil =>
    rw [memWrite]
    split
    · rfl
    · rw [hcons, if_neg (Ne.symm h)]
  | cons e r ih =>
    obtain ⟨j, x⟩ := e
    rw [memWrite]
    split
    · split
      · rfl
      · rw [hcons k, if_neg (Ne.symm h)]
    · split
      · subst_vars
        split <;> simp only [hcons, if_neg (Ne.symm h)]
      · rw [hcons, hcons, ih]
theorem memRead_memWriteN_frame (m : List Host.Cell) (k n : Nat) (bs : List Byte) (ho : n < k ∨ k + bs.length ≤ n) :
    memRead (memWriteN m k bs) n = memRead m n := by
  induction bs generalizing m k with
  | nil => rfl
  | cons b bs ih =>
    rw [List.length_cons] at ho
    rw [memWriteN, ih _ _ (by omega), memRead_memWrite_ne m b (by omega)]

/-! ### Plain stores to the own LM (R143, R145) -/

theorem destsClear_nil (s : State) : s.destsClear [] = true := by
  rw [State.destsClear, Bool.not_eq_true', List.any_eq_false]
  intro b _
  cases b.dest <;> simp
theorem plainStore_ownLm (s : State) (o : Nat) (a : PageAttr) (va : W64) (bs : List Byte) :
    plainStore (.lm s.cur.core o) a va bs s = .next ((s.nearTime s.cur.core).writeAt (.lm s.cur.core o) bs) := by
  have hnear : (Loc.lm s.cur.core o).near s.cur.core = true := by simp [Loc.near]
  rw [plainStore, aggDest_ownLm, directThen, destsThen]
  simp only [Option.toList, State.flushDests, List.foldl_nil, destsClear_nil, if_true, plainWrite, hnear]
  rfl
theorem storeOp_ownLm {s : State} {va : W64} {bs : List Byte} {o : Nat} (h : s.OwnLm va bs.length o) (hn : bs.length ∣ 2 ^ 52)
    (mig : Bool) {k : State → State} (hcur : (k s).cur = s.cur) :
    storeOp .core mig va bs k s = .next (((k s).nearTime s.cur.core).writeAt (.lm s.cur.core o) bs) := by
  have hfar : (if bs.length ≤ 8 then s.aggDest s.cur.core (.lm s.cur.core o) {} false else none) = none := by
    rw [aggDest_ownLm, ite_self]
  have hk := plainStore_ownLm (k s) o {} va bs
  rw [hcur] at hk
  rw [storeOp, reach_ownLm h hn, migFirst_ownLm]
  simp only [effScope, if_true, hfar, afterHeld_ownLm, fillsThen, List.any_cons, List.any_nil, Bool.or_false, Bool.false_eq_true, if_false, hk]

/-- What such a store leaves: the bytes outside the stored ones, and all but memory of the state `u` that its bundle makes beside. -/
theorem writeAt_nearTime_frame {s t u : State} {c n : Nat} {l : Loc} {bs : List Byte} (ht : t = (u.nearTime c).writeAt l bs)
    (hmem : u.mem = s.mem) (hlen : bs.length = n) :
    (∀ a, (a < l.key ∨ l.key + n ≤ a) → memRead t.mem a = memRead s.mem a) ∧ t = { u.nearTime c with mem := t.mem } := by
  subst ht hlen
  refine ⟨fun a ha => ?_, rfl⟩
  rw [State.writeAt_mem, memRead_memWriteN_frame _ _ _ _ ha, State.nearTime_mem, hmem]

theorem cmStore_frame {x b : GR} {off : Off10} {s t : State} {n o : Nat} {i : Instr} (hr : runs i s = true) (hn : n ∣ 2 ^ 52)
    (h : s.OwnLm (s.cmAddr b off n) n o) (ht : strandOp i s (cmStore n x b .core off) = .next t) :
    (∀ a, (a < (Loc.lm s.cur.core o).key ∨ (Loc.lm s.cur.core o).key + n ≤ a) → memRead t.mem a = memRead s.mem a) ∧
    t = { s.nearTime s.cur.core with mem := t.mem } := by
  have hlen : (s.regBytes x n).length = n := leBytes_length ..
  have hop := storeOp_ownLm (s := s) (bs := s.regBytes x n) (by rwa [hlen]) (by rwa [hlen]) false (k := id) rfl
  rw [strandOp_runs _ hr, cmStore, hop] at ht
  exact writeAt_nearTime_frame (Host.Outcome.next.inj ht).symm rfl hlen
theorem xStore_frame {b c : GR} {m : XMode} {mig : Bool} {s t : State} {n o : Nat} {bs : State → List Byte} {i : Instr}
    (hr : runs i s = true) (hn : n ∣ 2 ^ 52) (h : s.OwnLm (s.xAddr m b c n) n o) (hlen : (bs s).length = n)
    (ht : strandOp i s (xStore n bs b c m mig) = .next t) :
    (∀ a, (a < (Loc.lm s.cur.core o).key ∨ (Loc.lm s.cur.core o).key + n ≤ a) → memRead t.mem a = memRead s.mem a) ∧
    t = { ((if m = .postInc then s.setG b (s.g b + c.signExtend 64 * BitVec.ofNat 64 n) else s).nearTime s.cur.core) with mem := t.mem } := by
  have hop := storeOp_ownLm (s := s) (bs := bs s) (by rwa [hlen]) (by rwa [hlen]) mig (xBase_cur m b c n s)
  rw [strandOp_runs _ hr, xStore, hop] at ht
  rw [← xBase_eq]
  exact writeAt_nearTime_frame (Host.Outcome.next.inj ht).symm (xBase_mem ..) hlen

/-- Settles O24: writes by the laws of memory, stores by the two frames above, the place in logical time by `State.nearTime_core`. -/
theorem writesAndStoreFrame : Obligations.WritesAndStoreFrame := by
  refine ⟨fun s l bs k hm hk => memRead_memWriteN hm l.key k bs hk, fun s l bs a ha => memRead_memWriteN_frame s.mem l.key a bs ha,
    fun s l bs => ⟨rfl, fun hm => State.writeAt_wf hm l bs⟩, fun s l bs hm => State.readAt_writeAt hm l bs,
    ?_, ?_, ?_, ?_, ?_, ?_, ?_, ?_, ?_, fun s c => ?_⟩
  iterate 4 · exact fun x b pg off s t o hr h ht => cmStore_frame hr (by decide) h ht
  iterate 4 · exact fun a b c pg m mig s t o hr h ht => xStore_frame hr (by decide) h (leBytes_length ..) ht
  · exact fun a b c pg m mig s t o hr h ht => xStore_frame hr (by decide) h (by simp [State.regBytes, leBytes_length]) ht
  · obtain ⟨p, hp, hcore⟩ := s.nearTime_core c
    refine ⟨State.nearTime_off, s.nearTime_mem c, s.nearTime_fe c, s.nearTime_net c, s.nearTime_slotOf c, fun n hn => ?_, ?_, ?_⟩
    · rw [hcore, if_neg hn]
    · rw [hcore, if_pos rfl]
    · rw [hcore, if_pos rfl]; exact hp

end Sys2Proof.Machine
end

section
/-!
SUPPORT. O54: the stages a bundle passes, one lemma each: the choice of the step, fetch, decode, issue, the two words.
-/
namespace Sys2Proof.Machine
open Sys2Proof

/-! ### Which step comes next (log 2) -/

theorem step_agenda {s : State} {e : AgendaEntry} {r : List AgendaEntry} (h : s.agenda = e :: r) (hd : e.due ≤ s.time) :
    step s = exec e.what { s with agenda := r } := by
  simp only [step, stepOf, h, hd, if_true]
theorem step_coreStep {s : State} (h : s.agenda = []) (hown : s.auto = false ∨ firstChange s s.acts = none) : step s = s.coreStep := by
  have hnone : (if s.auto then firstChange s s.acts else none) = none := by
    rcases hown with ho | ho
    · rw [ho]; rfl
    · rw [ho, ite_self]
  simp only [step, stepOf, h, hnone, Option.getD_none]
theorem State.coreStep_issue {s : State} {c k : Nat} (hrel : s.nextRelease = none) (hres : s.nextResume = none)
    (hiss : s.nextIssue = some (c, k)) : s.coreStep = s.issue c k := by
  simp only [State.coreStep, hrel, hres, hiss]

/-! ### Fetch and decode (R50, R56, R71) -/

theorem State.words_lone {t : State} {n o : Nat} {a : PageAttr} (hpc : t.cur.pc.toNat % 8 = 0) (hl : t.lookup .fetch t.cur.pc = .ok (.lm n o) a)
    (hw : lone (wordOf (t.readAt (.lm n o) 4)) = true) :
    t.words = .ok { t with cur := { t.cur with cword := wordOf (t.readAt (.lm n o) 4), len := 4 } } := by
  have h4 : t.cur.pc.toNat % 4 = 0 := by omega
  simp [State.words, State.fetchWord, State.fetchBank, State.fetchAt, State.bankAt, h4, hl, hw]

section
variable {t : State} {i j : Instr}

/-- R56, R71, R138: the C word passes the decode stage. -/
def State.PassesC (t : State) (i : Instr) : Prop :=
  (decodeC t.cur.cword).toOption = some i ∧ (Instr.privileged i = true → t.cur.pre.priv = true) ∧
  (t.cur.pre.repeating = false ∨ unrepeatable i t.cur.cword = false)

theorem toOption_eq_some {ε α : Type} {x : Except ε α} {a : α} (h : x.toOption = some a) : x = .ok a := by
  cases x with
  | error e => cases h
  | ok b => cases h; rfl
theorem State.PassesC.checks (h : t.PassesC i) : decodeC t.cur.cword = .ok i ∧ (Instr.privileged i && !t.cur.pre.priv) = false ∧
    (t.cur.pre.repeating && unrepeatable i t.cur.cword) = false := by
  obtain ⟨hd, hp, hr⟩ := h
  refine ⟨toOption_eq_some hd, ?_, ?_⟩
  · cases hi : Instr.privileged i
    · rfl
    · rw [hp hi]; rfl
  · rcases hr with hr | hr
    · rw [hr, Bool.false_and]
    · rw [hr, Bool.and_false]
theorem State.decodeStage_lone (h : t.PassesC i) (hlen : t.cur.len = 4) : t.decodeStage = .go i none t := by
  obtain ⟨hd, hp, hr⟩ := h.checks
  simp only [State.decodeStage, hd, hp, hr, hlen, Bool.false_eq_true, if_true, if_false]
theorem State.decodeStage_pair (h : t.PassesC i) (hlen : t.cur.len = 8) (ha : (decodeA t.cur.aword).toOption = some j)
    (hs : sharesDest (Instr.uses i) (Instr.uses j) = false) : t.decodeStage = .go i (some j) t := by
  obtain ⟨hd, hp, hr⟩ := h.checks
  have h4 : t.cur.len ≠ 4 := by omega
  simp only [State.decodeStage, hd, hp, hr, h4, toOption_eq_some ha, hs, Bool.false_eq_true, if_false]

/-! ### Issue (R54, R56, R241) -/

theorem State.issue_go {s : State} {c k : Nat} {a : Option Instr} (hw : (s.atSlot c k).words = .ok t) (hd : t.decodeStage = .go i a t) :
    s.issue c k = t.runBundle i a := by
  have hf : (s.atSlot c k).front = .go i a t := by simp only [State.front, hw, hd]
  simp only [State.issue, hf]
/-- A bundle without an extended time that passes the operand stage and that nothing holds. -/
theorem State.runBundle_now {a : Option Instr} (hx : extendedTime i a = 0) (ho : t.operandStage i a = none) (hh : t.holds i a = none) :
    t.runBundle i a =
      mapNext (fun u => ((u.holdBack t.markIssue).finish (t.markIssue.live i a)).unissued t) (t.markIssue.runWords i a) := by
  simp only [State.runBundle, hx, ho, hh, ite_self, if_true]
theorem State.operandStage_pair (hi : operandFault i t = none) (hj : operandFault j t.asA = none)
    (hq : ((Instr.uses i).src.contains 30 && (Instr.uses j).src.contains 30) = false) : t.operandStage i (some j) = none := by
  simp only [State.operandStage, hi, hq, hj, Bool.false_eq_true, if_false]

@[simp] theorem State.markIssue_cur (t : State) : t.markIssue.cur = t.cur := by
  unfold State.markIssue; dsimp only; split <;> rfl
/-- The mark of issue keeps what an A word that waited has of its bundle's C word (log 52). -/
theorem State.markIssue_early (t : State) (c k : Nat) : (t.markIssue.slotOf c k).early = (t.slotOf c k).early := by
  unfold State.markIssue
  dsimp only
  split
  · rfl
  · rw [State.modSlot, State.slotOf_setSlot_part Slot.early (by rfl), State.slotOf_setCore_same (by rfl)]

/-! ### The two words (R54, R56) -/

/-- The C word's meaning, or none where it had its effect before. -/
def State.runC (s : State) (c : Instr) : Res := if (s.slotOf s.cur.core s.cur.slot).early.isSome then .next s else exec c s

theorem State.runC_markIssue_first {c : Instr} (h : (t.slotOf t.cur.core t.cur.slot).early = none) :
    t.markIssue.runC c = exec c t.markIssue := by
  rw [State.runC, State.markIssue_cur, State.markIssue_early, h]; rfl
theorem State.runC_markIssue_again {c : Instr} (h : (t.slotOf t.cur.core t.cur.slot).early.isSome = true) :
    t.markIssue.runC c = .next t.markIssue := by
  rw [State.runC, State.markIssue_cur, State.markIssue_early, if_pos h]
theorem State.runWords_lone (s : State) (c : Instr) : s.runWords c none = s.runC c := by
  simp [State.runWords, State.runC]
theorem State.runWords_pair {s v w : State} {c a : Instr} (hbad : (Instr.guard s a && Instr.valueBad s a) = false) (hc : s.runC c = .next v)
    (ht : v.cur.flow ≠ .trapped) (hh : v.cur.flow ≠ .held) (ha : exec a v.asA = .next w) (hwt : w.cur.flow ≠ .trapped) (hwh : w.cur.flow ≠ .held) :
    s.runWords c (some a) = .next w := by
  rw [State.runC] at hc
  simp only [State.runWords, Option.any_some, hbad, hc, ha, ht, hh, hwt, hwh, Bool.false_eq_true, or_self, if_false]

end

/-! ### The step -/

theorem extendedTime_lone {i : Instr} (h : Instr.extended i = 0) : extendedTime i none = 0 := by rw [extendedTime, h]; rfl
theorem extendedTime_pair {i j : Instr} (hi : Instr.extended i = 0) (hj : Instr.extended j = 0) : extendedTime i (some j) = 0 := by
  simp only [extendedTime, hi, hj, Nat.max_self]

/-- Settles O54: each clause follows a bundle through the stages above. -/
theorem stepRunsTheDecodedBundle : Obligations.StepRunsTheDecodedBundle := by
  refine ⟨fun s e r => step_agenda, fun s c k ha hown hrel hres hiss => (step_coreStep ha hown).trans (State.coreStep_issue hrel hres hiss),
    ?_, ?_, fun s c k n o a => State.words_lone, ?_⟩
  · intro s t c k i hw hlen hd hp hr hx ho hh he
    have hdec := State.decodeStage_lone ⟨hd, hp, hr⟩ hlen
    have hop : t.operandStage i none = none := by simp only [State.operandStage, ho]
    rw [State.issue_go hw hdec, State.runBundle_now (extendedTime_lone hx) hop hh, State.runWords_lone, State.runC_markIssue_first he]
  · intro s t c k i j v w hw hlen hd ha hs hp hr hx hxj ho hoj hq hh he u hbad hv hvt hvh hwx hwt hwh
    have hdec := State.decodeStage_pair ⟨hd, hp, hr⟩ hlen ha hs
    have hrun := State.runWords_pair hbad ((State.runC_markIssue_first he).trans hv) hvt hvh hwx hwt hwh
    rw [State.issue_go hw hdec, State.runBundle_now (extendedTime_pair hx hxj) (State.operandStage_pair ho hoj hq) hh, hrun]
    rfl
  · intro s t c k i j w hw hlen hd ha hs hp hr hx hxj ho hoj hq hh he u hbad hut huh hwx hwt hwh
    have hdec := State.decodeStage_pair ⟨hd, hp, hr⟩ hlen ha hs
    have hrun := State.runWords_pair hbad (State.runC_markIssue_again (c := i) he) hut huh hwx hwt hwh
    rw [State.issue_go hw hdec, State.runBundle_now (extendedTime_pair hx hxj) (State.operandStage_pair ho hoj hq) hh, hrun]
    rfl

end Sys2Proof.Machine
end

section
/-!
SUPPORT. O23: the caches' part of a release, which leaves the bundle as it is, and the store it precedes.
-/
namespace Sys2Proof.Machine
open Sys2Proof

/-! ### Write-backs keep the bundle -/

/-- What every step of a fold keeps, the fold keeps. -/
theorem foldl_keeps {α β γ : Type} {f : α → β → α} (part : α → γ) (h : ∀ a b, part (f a b) = part a) (l : List β) (a : α) :
    part (l.foldl f a) = part a := by
  induction l generalizing a with
  | nil => rfl
  | cons b l ih => exact (ih (f a b)).trans (h a b)
@[simp] theorem State.clearS_cur (s : State) (l : Loc) (n : Nat) : (s.clearS l n).cur = s.cur := by cases l <;> rfl
@[simp] theorem State.dropReplicas_cur (s : State) (l : Loc) (n : Nat) : (s.dropReplicas l n).cur = s.cur := by
  unfold State.dropReplicas
  split
  · split <;> rfl
  · rfl
@[simp] theorem State.homeWrite_cur (s : State) (l : Loc) (bs : List Byte) : (s.homeWrite l bs).cur = s.cur := by simp [State.homeWrite]
@[simp] theorem State.writeBack_cur (s : State) (cl part pa : Nat) (m : BitVec 64) (bs : List Byte) :
    (s.writeBack cl part pa m bs).cur = s.cur := by
  unfold State.writeBack
  dsimp only
  split
  · rfl
  · split
    · exact State.send_cur ..
    · split
      · rfl
      · exact foldl_keeps State.cur (fun t i => by split <;> simp) _ s
@[simp] theorem State.l1Flush_cur (s : State) (c : Nat) (e : L1Line) : (s.l1Flush c e).cur = s.cur := by
  unfold State.l1Flush
  dsimp only
  split
  · rfl
  · split
    · rfl
    · split <;> simp
@[simp] theorem State.recallFrom_cur (s : State) (c part pa : Nat) : (s.recallFrom c part pa).cur = s.cur := by
  unfold State.recallFrom
  split <;> simp
@[simp] theorem State.recall_cur (s : State) (cl part pa : Nat) (x : Option Nat) : (s.recall cl part pa x).cur = s.cur :=
  foldl_keeps State.cur (fun t c => by split <;> simp) _ s
@[simp] theorem State.wbCore_cur (s : State) (c : Nat) (sel : Nat → Nat → Bool) : (s.wbCore c sel).cur = s.cur := by
  unfold State.wbCore
  dsimp only
  rw [foldl_keeps State.cur (fun u e => by split <;> simp), foldl_keeps State.cur (fun u e => by simp)]
@[simp] theorem State.markRelease_cur (s : State) (c : Nat) (b : Bool) : (s.markRelease c b).cur = s.cur := by
  unfold State.markRelease
  dsimp only
  split <;> rfl
@[simp] theorem State.cacheRelease_cur (s : State) (c : Nat) (sc : Scope) : (s.cacheRelease c sc).cur = s.cur := by
  cases sc <;> simp [State.cacheRelease]

/-! ### Stores to the own LM after their release (R144, R148) -/

theorem deferred_clear {s : State} (h : s.strand.x.pf = false ∨ s.cur.pre.priv = true) (k : State → Res) : deferred k s = k s :=
  if_neg (by rcases h with h | h <;> rw [h] <;> simp)
theorem deferred_pending {s : State} (hpf : s.strand.x.pf = true) (hpriv : s.cur.pre.priv = false) (k : State → Res) :
    deferred k s = .next (s.trap 0x0C logAddr) :=
  if_pos (by rw [hpf, hpriv]; rfl)
theorem scopedStore_ownLm (s : State) (sc : Scope) (o : Nat) (a : PageAttr) (va : W64) (bs : List Byte) :
    scopedStore sc (.lm s.cur.core o) a va bs s = (s.nearTime s.cur.core).writeAt (.lm s.cur.core o) bs :=
  if_pos (by simp [Loc.near])

section
variable {s : State} {sc : Scope} (hsc : sc ≠ .core) (hflush : s.flushStrand s.cur.core s.cur.slot = s) (hquiet : s.strand.quiet = true)
  (hwait : (Scope.wide sc && (s.cacheRelease s.cur.core sc).writesWait s.cur.pre.part) = false)
include hsc hflush hquiet hwait

/-- R144: a release with nothing unacknowledged, none of whose lines waits, goes on after the caches' part. -/
theorem releaseThen_quiet (k : State → Res) : releaseThen sc k s = k (s.cacheRelease s.cur.core sc) := by
  simp only [releaseThen, if_neg hsc, hflush, hquiet, hwait, Bool.not_true, Bool.false_eq_true, if_false]
theorem storeOp_release_ownLm {va : W64} {bs : List Byte} {o : Nat} (h : s.OwnLm va bs.length o) (hn : bs.length ∣ 2 ^ 52) :
    storeOp sc false va bs id s =
      deferred (fun t => .next ((t.nearTime s.cur.core).writeAt (.lm s.cur.core o) bs)) (s.cacheRelease s.cur.core sc) := by
  have hscope : effScope (.lm s.cur.core o) sc = sc := rfl
  have hstore := scopedStore_ownLm (s.cacheRelease s.cur.core sc) sc o {} va bs
  rw [s.cacheRelease_cur] at hstore
  rw [storeOp, reach_ownLm h hn, migFirst_ownLm, hscope, if_neg hsc, releaseThen_quiet hsc hflush hquiet hwait]
  simp only [deferred, fillsThen, List.any_cons, List.any_nil, Bool.or_false, Bool.false_eq_true, if_false, id, hstore]
theorem cmStore_release_ownLm {x b : GR} {off : Off10} {n o : Nat} {i : Instr} (hr : runs i s = true) (hn : n ∣ 2 ^ 52)
    (h : s.OwnLm (s.cmAddr b off n) n o) :
    ((s.cacheRelease s.cur.core sc).strand.x.pf = false ∨ (s.cacheRelease s.cur.core sc).cur.pre.priv = true →
      strandOp i s (cmStore n x b sc off) =
        .next (((s.cacheRelease s.cur.core sc).nearTime s.cur.core).writeAt (.lm s.cur.core o) (leBytes n (s.g x).toNat))) ∧
    ((s.cacheRelease s.cur.core sc).strand.x.pf = true → (s.cacheRelease s.cur.core sc).cur.pre.priv = false →
      strandOp i s (cmStore n x b sc off) = .next ((s.cacheRelease s.cur.core sc).trap 0x0C logAddr)) := by
  have hlen : (s.regBytes x n).length = n := leBytes_length ..
  have hop := (strandOp_runs (cmStore n x b sc off) hr).trans
    (storeOp_release_ownLm hsc hflush hquiet hwait (bs := s.regBytes x n) (by rwa [hlen]) (by rwa [hlen]))
  exact ⟨fun hclear => hop.trans (deferred_clear hclear _), fun hpf hpriv => hop.trans (deferred_pending hpf hpriv _)⟩

end

/-! ### Stores to the own LM with no release -/

theorem cmStore_ownLm {x b : GR} {off : Off10} {s : State} {n o : Nat} {i : Instr} (hr : runs i s = true) (hn : n ∣ 2 ^ 52)
    (h : s.OwnLm (s.cmAddr b off n) n o) :
    strandOp i s (cmStore n x b .core off) = .next ((s.nearTime s.cur.core).writeAt (.lm s.cur.core o) (leBytes n (s.g x).toNat)) := by
  have hlen : (s.regBytes x n).length = n := leBytes_length ..
  exact (strandOp_runs _ hr).trans (storeOp_ownLm (k := id) (by rwa [hlen]) (by rwa [hlen]) false rfl)
theorem xStore_ownLm {b c : GR} {m : XMode} {mig : Bool} {s : State} {n o : Nat} {bs : State → List Byte} {i : Instr}
    (hr : runs i s = true) (hn : n ∣ 2 ^ 52) (h : s.OwnLm (s.xAddr m b c n) n o) (hlen : (bs s).length = n) :
    strandOp i s (xStore n bs b c m mig) =
      .next (((if m = .postInc then s.setG b (s.g b + c.signExtend 64 * BitVec.ofNat 64 n) else s).nearTime s.cur.core).writeAt
        (.lm s.cur.core o) (bs s)) := by
  rw [strandOp_runs _ hr, ← xBase_eq]
  exact storeOp_ownLm (by rwa [hlen]) (by rwa [hlen]) mig (xBase_cur m b c n s)

/-- Settles O23: each store is `cmStore`, plain or after its release, or `xStore`, of its size, which divides `2 ^ 52`. -/
theorem storesToOwnLm : Obligations.StoresToOwnLm := by
  refine ⟨?_, ?_, ?_, ?_, ?_, ?_, ?_, ?_, ?_, ?_, ?_, ?_, ?_⟩
  iterate 4
    · exact fun x b pg off s o hr h => cmStore_ownLm hr (by decide) h
    · exact fun x b pg sc off s o hr h hsc hflush hquiet hwait => cmStore_release_ownLm hsc hflush hquiet hwait hr (by decide) h
  iterate 4 · exact fun a b c pg m mig s o hr h => xStore_ownLm hr (by decide) h (leBytes_length ..)
  exact fun a b c pg m mig s o hr h => xStore_ownLm hr (by decide) h (by simp [State.regBytes, leBytes_length])

end Sys2Proof.Machine
end

section
/-!
SUPPORT. O41: the words that `FCSR` and `XSTAT` read as, and which registers a write reaches.
-/
namespace Sys2Proof.Machine
open Sys2Proof

/-! ### Fields of a word -/

theorem bit01_lt (b : Bool) : bit01 b < 2 := by cases b <;> decide
theorem getLsbD_of_toNat {n i : Nat} {w : BitVec n} {b : Bool} (h : w.toNat / 2 ^ i % 2 = bit01 b) : w.getLsbD i = b := by
  rw [BitVec.getLsbD, Nat.testBit_eq_decide_div_mod_eq, h]
  cases b <;> rfl
theorem extractLsb'_of_toNat {m i n : Nat} {w : BitVec m} {x : BitVec n} (h : w.toNat / 2 ^ i % 2 ^ n = x.toNat) :
    w.extractLsb' i n = x := by
  apply BitVec.eq_of_toNat_eq
  rw [BitVec.extractLsb'_toNat, Nat.shiftRight_eq_div_pow, h]

/-! ### `FCSR` (R231) -/

theorem Fcsr.word_toNat (f : Fcsr) :
    f.word.toNat = f.seed.toNat * 2 ^ 32 + bit01 f.ovf * 2 ^ 13 + f.fen.toNat * 2 ^ 8 + f.frm.toNat * 2 ^ 5 + f.fflags.toNat := by
  have hovf := bit01_lt f.ovf
  rw [Fcsr.word, BitVec.toNat_ofNat, Nat.mod_eq_of_lt (by omega)]
theorem Fcsr.word_fields (f : Fcsr) : f.word.extractLsb' 32 32 = f.seed ∧ f.word.extractLsb' 14 18 = 0 ∧ f.word.getLsbD 13 = f.ovf ∧
    f.word.extractLsb' 8 5 = f.fen ∧ f.word.extractLsb' 5 3 = f.frm ∧ f.word.extractLsb' 0 5 = f.fflags := by
  have hword := f.word_toNat
  have hovf := bit01_lt f.ovf
  exact ⟨extractLsb'_of_toNat (by omega), extractLsb'_of_toNat (show _ = 0 by omega),
    getLsbD_of_toNat (by omega), extractLsb'_of_toNat (by omega), extractLsb'_of_toNat (by omega), extractLsb'_of_toNat (by omega)⟩
/-- The reserved rounding modes are the codes 6 and 7. -/
theorem Fcsr.write_frm (f : Fcsr) (v : W64) :
    (f.write v).frm = if (v.extractLsb' 5 3).toNat < 6 then v.extractLsb' 5 3 else f.frm := by
  have hreserved (m : BV3) : (m = 6 ∨ m = 7) ↔ ¬ m.toNat < 6 := by revert m; decide
  rw [Fcsr.write]
  simp only [hreserved, ite_not]

/-! ### `XSTAT` (R232) -/

/-- The fields of `XSTAT`: `LV`, `PF` and `PP` below, `BSLOT` and `BH` from bit 11 on. -/
theorem Strand.xstat_toNat (x : Strand) : ∃ h, (∀ b, x.borrow = some b → h = b.slot % 16 * 2 + 1) ∧
    x.xstat.toNat = h * 2 ^ 11 + bit01 x.x.lv * 4 + bit01 x.x.pf * 2 + bit01 x.x.pp := by
  have hlv := bit01_lt x.x.lv
  have hpf := bit01_lt x.x.pf
  have hpp := bit01_lt x.x.pp
  rw [Strand.xstat, BitVec.toNat_ofNat]
  cases x.borrow with
  | none => exact ⟨0, nofun, by dsimp only; omega⟩
  | some b => exact ⟨b.slot % 16 * 2 + 1, fun _ h => Option.some.inj h ▸ rfl, by dsimp only; omega⟩
theorem Strand.xstat_fields (x : Strand) :
    (x.xstat.getLsbD 0 = x.x.pp ∧ x.xstat.getLsbD 1 = x.x.pf ∧ x.xstat.getLsbD 2 = x.x.lv) ∧
    ∀ b, x.borrow = some b → x.xstat.getLsbD 11 = true ∧ (x.xstat.extractLsb' 12 4).toNat = b.slot % 16 := by
  obtain ⟨h, hbor, hx⟩ := x.xstat_toNat
  have hlv := bit01_lt x.x.lv
  have hpf := bit01_lt x.x.pf
  have hpp := bit01_lt x.x.pp
  refine ⟨⟨getLsbD_of_toNat (by omega), getLsbD_of_toNat (by omega), getLsbD_of_toNat (by omega)⟩, fun b hb => ?_⟩
  have hh := hbor b hb
  refine ⟨getLsbD_of_toNat (by rw [show bit01 true = 1 from rfl]; omega), ?_⟩
  rw [BitVec.extractLsb'_toNat, Nat.shiftRight_eq_div_pow]
  omega

/-! ### Reads and writes by number (R230) -/

theorem State.crRead_view {s : State} {c k : Nat} {x : Strand} (h : x.priv = true) :
    s.crRead c k x 0x100 = x.x.cause ∧ s.crRead c k x 0x101 = x.x.value ∧ s.crRead c k x 0x102 = x.x.pc ∧
    s.crRead c k x 0x103 = x.xstat ∧ s.crRead c k x 0x104 = x.x.vec ∧ s.crRead c k x 0x105 = x.x.scratch :=
  ⟨if_pos h, if_pos h, if_pos h, if_pos h, if_pos h, if_pos h⟩
theorem clampAge_toNat (n : Nat) : (clampAge n).toNat = max 64 (min n 4096) := by
  have hclamp : (if n < 64 then 64 else if n > 4096 then 4096 else n) = max 64 (min n 4096) := by
    split
    · omega
    · split <;> omega
  rw [clampAge, hclamp, BitVec.toNat_ofNat, Nat.mod_eq_of_lt (by omega)]
theorem State.crWrite_strand {s : State} {n : CRNum} (v : W64) (h : ¬ (0x050 ≤ n.toNat ∧ n.toNat ≤ 0x057)) :
    s.crWrite n v = s.modStrand fun x => x.crWrite s.cur.pre.priv n v := if_neg h
theorem State.crWrite_qcfg {s : State} {n : CRNum} (v : W64) (hlo : 0x050 ≤ n.toNat) (hhi : n.toNat ≤ 0x057) :
    s.crWrite n v = if s.cur.pre.priv then s.writeQcfg s.cur.core (n.toNat - 0x050) v else s := if_pos ⟨hlo, hhi⟩
/-- An update that keeps the strand that issues keeps its slot. -/
theorem State.slotOf_modStrand_id {s : State} {f : Strand → Strand} (hk : s.cur.slot < 16) (hf : f s.strand = s.strand) :
    (s.modStrand f).slotOf s.cur.core s.cur.slot = s.slotOf s.cur.core s.cur.slot := by
  rw [State.modStrand, hf]
  exact State.slotOf_setStrandOf_self s _ _ hk

/-- Settles O41: a read or a write by a literal number is one arm of `crRead` or `crWrite`; `FCSR` and `XSTAT` read by their fields. -/
theorem controlRegisters : Obligations.ControlRegisters := by
  refine ⟨fun d _ n _ h => strandOp_runs (fun s => .next (s.setG d (s.crOld n))) h,
    fun a _ n _ h => strandOp_runs (fun s => .next (s.crWrite n (s.g a))) h,
    fun d a _ n _ h => strandOp_runs (fun s => .next ((s.setG d (s.crOld n)).crWrite n (s.g a))) h, ?_, ?_, ?_, ?_, ?_, ?_, ?_, ?_, ?_,
    fun s c k x v => ⟨fun p => ⟨rfl, rfl, rfl, rfl, rfl, rfl, rfl⟩, rfl, rfl⟩, ?_, fun x p v => ⟨rfl, rfl⟩,
    fun s c k x => x.fcsr.word_fields, fun x v => ⟨rfl, rfl, rfl, rfl⟩⟩
  · intro s c k x hc hk
    rw [Config.cores] at hc
    exact ⟨Nat.mod_eq_of_lt (by omega), Nat.mod_eq_of_lt (by omega), Nat.mod_eq_of_lt (by rw [clusterOf]; omega),
      (Nat.mod_eq_of_lt (by rw [clusterOf, dieOf]; omega)).trans (Nat.div_div_eq_div_mul c 16 48), rfl, rfl, rfl, rfl, rfl⟩
  · intro s c k x hx
    obtain ⟨hcause, hvalue, hpc, hstat, hvec, hscratch⟩ := State.crRead_view (s := s) (c := c) (k := k) hx
    rw [hstat]
    exact ⟨hcause, hvalue, hpc, hvec, hscratch, x.xstat_fields.1⟩
  · exact fun s c k x v hx => ⟨if_pos hx, if_pos hx, if_pos hx, if_pos hx⟩
  · exact fun f v => ⟨rfl, rfl, rfl, f.write_frm v⟩
  · intro x p v
    have hage : (x.crWrite true 0x042 v).agage.toNat = max 64 (min (v.toNat % 8192) 4096) := by
      rw [← Nat.div_one v.toNat]
      exact clampAge_toNat _
    dsimp only
    rw [hage]
    exact ⟨by omega, by omega, by omega, rfl⟩
  · intro x p v n hn
    have hkeeps : ∀ (y : Strand) (q : Bool), y.crWrite q n v = y := by
      rcases hn with rfl | rfl | rfl | rfl | rfl | rfl | rfl | rfl <;> exact fun _ _ => rfl
    have hother : ¬ (0x050 ≤ n.toNat ∧ n.toNat ≤ 0x057) := by
      rcases hn with rfl | rfl | rfl | rfl | rfl | rfl | rfl | rfl <;> decide
    refine ⟨hkeeps x p, fun s hk => ?_⟩
    rw [State.crWrite_strand v hother]
    exact ⟨State.slotOf_modStrand_id hk (hkeeps ..), rfl, rfl, rfl⟩
  · intro x v n hn
    rcases hn with rfl | rfl | rfl | rfl | rfl | rfl | rfl | rfl <;> rfl
  · intro s c k x v hx
    have hstat : s.crRead c k (x.crWrite true 0x103 v) 0x103 = (x.crWrite true 0x103 v).xstat := if_pos hx
    refine ⟨if_pos hx, rfl, rfl, rfl, rfl, rfl, ?_⟩
    rw [hstat]
    exact (x.crWrite true 0x103 v).xstat_fields.1
  · intro s c k x b hx hb hslot
    rw [show s.crRead c k x 0x103 = x.xstat from if_pos hx, ← Nat.mod_eq_of_lt hslot]
    exact x.xstat_fields.2 b hb
  · refine fun s n v => ⟨State.crWrite_strand v, fun hlo hhi => ?_⟩
    rw [State.crWrite_qcfg v hlo hhi]
    exact ⟨fun hp => if_pos hp, fun hp => if_neg (by rw [hp]; decide)⟩

end Sys2Proof.Machine
end

section
/-!
SUPPORT. O1 to O3: the operations of major `0x01`, first at any width, then as the result that a register holds.
-/
namespace Sys2Proof.Machine
open Sys2Proof

/-! ### The operations at the width of their operands (R106 to R108) -/

section
variable {w : Nat} (x y : BitVec w)

theorem AluOp.eval_min (sh : Nat) : AluOp.min.eval x y sh = if x.toInt < y.toInt then x else y := by
  simp only [AluOp.eval, BitVec.slt_iff_toInt_lt]
theorem AluOp.eval_max (sh : Nat) : AluOp.max.eval x y sh = if x.toInt < y.toInt then y else x := by
  simp only [AluOp.eval, BitVec.slt_iff_toInt_lt]
theorem AluOp.eval_minu (sh : Nat) : AluOp.minu.eval x y sh = if x.toNat < y.toNat then x else y := by
  simp only [AluOp.eval, BitVec.ult_iff_toNat_lt]
theorem AluOp.eval_maxu (sh : Nat) : AluOp.maxu.eval x y sh = if x.toNat < y.toNat then y else x := by
  simp only [AluOp.eval, BitVec.ult_iff_toNat_lt]
theorem AluOp.eval_mul (sh : Nat) : AluOp.mul.eval x y sh = BitVec.ofInt w (x.toInt * y.toInt) := by
  rw [BitVec.ofInt_mul, BitVec.ofInt_toInt, BitVec.ofInt_toInt]; rfl

/-- R108: m / −1 wraps to m, and its remainder is 0. -/
theorem ofInt_tdiv_neg_one : BitVec.ofInt w ((BitVec.intMin w).toInt.tdiv (-1)) = BitVec.intMin w := by
  rw [Int.tdiv_neg, Int.tdiv_one, BitVec.ofInt_neg, BitVec.ofInt_toInt, BitVec.neg_intMin]
theorem toInt_neg_one (h : ¬ (-1 : BitVec w) = 0) : (-1 : BitVec w).toInt = -1 := by
  have hw : 0 < w := Nat.pos_of_ne_zero fun h0 => h (by subst h0; rfl)
  show (-1#w).toInt = -1
  rw [BitVec.neg_one_eq_allOnes, BitVec.toInt_allOnes, if_pos hw]
theorem divS_cases : divS x y = if y = 0 then BitVec.allOnes w
    else if x = BitVec.intMin w ∧ y = -1 then BitVec.intMin w else BitVec.ofInt w (x.toInt.tdiv y.toInt) := by
  rw [divS]
  split
  · rfl
  · split
    · obtain ⟨rfl, rfl⟩ := ‹x = _ ∧ y = _›
      rw [toInt_neg_one ‹_›, ofInt_tdiv_neg_one]
    · rfl
theorem remS_cases : remS x y = if y = 0 then x else if x = BitVec.intMin w ∧ y = -1 then 0#w
    else BitVec.ofInt w (x.toInt - y.toInt * x.toInt.tdiv y.toInt) := by
  rw [remS, Int.tmod_def]
  split
  · rfl
  · split
    · obtain ⟨rfl, rfl⟩ := ‹x = _ ∧ y = _›
      rw [toInt_neg_one ‹_›, Int.tdiv_neg, Int.tdiv_one, Int.neg_mul_neg, Int.one_mul, Int.sub_self]; rfl
    · rfl
theorem remU_eq : remU x y = if y = 0 then x else BitVec.ofNat w (x.toNat - y.toNat * (x.toNat / y.toNat)) := by
  rw [remU, Nat.mod_eq_sub]

end

/-! ### The results (R106) -/

theorem toNat_lowBits (x : W64) (n : Nat) : (x.extractLsb' 0 n).toNat = x.toNat % 2 ^ n := by
  rw [BitVec.extractLsb'_toNat, Nat.shiftRight_zero]

/-- R95, R101: a code that has no instruction of its type is undecodable. -/
theorem exec_illFormed {i : Instr} (s : State) (hw : i.hasWord = true) (h : i.wellFormed = false) :
    exec i s = .next (s.trap 0x01 s.word) := by
  obtain ⟨eff, heff⟩ := exec_eq_strandOp s hw
  rw [heff]
  exact strandOp_fault eff (by rw [operandFault, h]; rfl)

/-- An instruction that writes one scalar register with what it computes, `f`, of the state before it. -/
theorem strandOp_setG {i : Instr} {s : State} (d : GR) (f : State → W64) (h : runs i s = true) :
    strandOp i s (fun t => .next (t.setG d (f t))) = .next (s.setG d (f s)) := strandOp_runs _ h

section
variable {o : AluOp} {d a b : GR} {s : State} {i : Instr} (h : runs i s = true)
include h

theorem aluOp_i64 {v : W64} (hv : o.eval (s.g a) (s.g b) ((s.g b).toNat % 64) = v) :
    strandOp i s (aluOp o .i64 d a b) = .next (s.setG d v) := by
  have hsh : ((s.g b).extractLsb' 0 6).toNat = (s.g b).toNat % 64 := toNat_lowBits ..
  rw [← hsh] at hv
  subst hv
  exact strandOp_runs _ h
/-- `.i32` and `.z32` compute the same 32 bits and extend them differently. -/
theorem aluOp_32 {v : W32} {t : IntTy} (hv : o.eval ((s.g a).setWidth 32) ((s.g b).setWidth 32) ((s.g b).toNat % 32) = v)
    (ht : IntTy.width t = 32) : strandOp i s (aluOp o t d a b) = .next (s.setG d (extendTo t v)) := by
  have hsh : ((s.g b).extractLsb' 0 5).toNat = (s.g b).toNat % 32 := toNat_lowBits ..
  rw [← hsh] at hv
  subst hv
  cases t with
  | i64 | q => cases ht
  | i32 | z32 => exact strandOp_runs _ h
theorem aluOp_q {v : W128} (hv : o.eval (s.gq a) (if o.isShift then 0 else s.gq b) ((s.g b).toNat % 128) = v) :
    strandOp i s (aluOp o .q d a b) = .next (s.setQ d v) := by
  have hsh : ((s.g b).extractLsb' 0 7).toNat = (s.g b).toNat % 128 := toNat_lowBits ..
  rw [← hsh] at hv
  subst hv
  exact strandOp_runs _ h

end

/-- Settles O1: the results are those of `AluOp.eval`, whose cases are the formulas stated but for `MIN` to `MUL`. -/
theorem integerAlu : Obligations.IntegerAlu := by
  unfold Obligations.IntegerAlu
  and_intros
  iterate 10 · exact fun d a b pg s h => aluOp_i64 h rfl
  · exact fun d a b pg s h => aluOp_i64 h (AluOp.eval_min ..)
  · exact fun d a b pg s h => aluOp_i64 h (AluOp.eval_max ..)
  · exact fun d a b pg s h => aluOp_i64 h (AluOp.eval_minu ..)
  · exact fun d a b pg s h => aluOp_i64 h (AluOp.eval_maxu ..)
  · exact fun d a b pg s h => aluOp_i64 h (AluOp.eval_mul ..)
  iterate 2 · exact fun d a b pg s h => aluOp_i64 h rfl
  iterate 20 · exact fun d a b pg s h => aluOp_32 h rfl rfl
  iterate 2 · exact fun d a b pg s h => aluOp_32 h (AluOp.eval_min ..) rfl
  iterate 2 · exact fun d a b pg s h => aluOp_32 h (AluOp.eval_max ..) rfl
  iterate 2 · exact fun d a b pg s h => aluOp_32 h (AluOp.eval_minu ..) rfl
  iterate 2 · exact fun d a b pg s h => aluOp_32 h (AluOp.eval_maxu ..) rfl
  iterate 2 · exact fun d a b pg s h => aluOp_32 h (AluOp.eval_mul ..) rfl
  iterate 4 · exact fun d a b pg s h => aluOp_32 h rfl rfl

/-- Settles O2: a pair operation is `AluOp.eval` at 128 bits; a code with no `.q` form is not well-formed. -/
theorem integerAluPair : Obligations.IntegerAluPair := by
  unfold Obligations.IntegerAluPair
  and_intros
  iterate 10 · exact fun d a b pg s h => aluOp_q h rfl
  all_goals exact fun d a b pg s => exec_illFormed s rfl rfl

/-- Settles O3: the special cases at any width, for the result of each type. -/
theorem divisionNeverTraps : Obligations.DivisionNeverTraps := by
  unfold Obligations.DivisionNeverTraps
  and_intros
  · exact fun d a b pg s h => aluOp_i64 h (divS_cases ..)
  · exact fun d a b pg s h => aluOp_i64 h (remS_cases ..)
  · exact fun d a b pg s h => aluOp_i64 h rfl
  · exact fun d a b pg s h => aluOp_i64 h (remU_eq ..)
  iterate 2
    · exact fun d a b pg s h => aluOp_32 h (divS_cases ..) rfl
    · exact fun d a b pg s h => aluOp_32 h (remS_cases ..) rfl
    · exact fun d a b pg s h => aluOp_32 h rfl rfl
    · exact fun d a b pg s h => aluOp_32 h (remU_eq ..) rfl

end Sys2Proof.Machine
end

section
/-!
SUPPORT. O4, O5: counts as places in the list of a value's bits, and the other results of major `0x02` bit by bit.
-/
namespace Sys2Proof.Machine
open Sys2Proof

/-! ### Counts (R109) -/

/-- The false values at the head of a list: how many stand there, and what follows them. -/
theorem takeWhile_not_spec (l : List Bool) : (l.takeWhile (!·)).length ≤ l.length ∧
    (∀ i, i < (l.takeWhile (!·)).length → l.getD i false = false) ∧
    ((l.takeWhile (!·)).length < l.length → l.getD (l.takeWhile (!·)).length false = true) := by
  induction l with
  | nil => simp
  | cons b l ih =>
    obtain ⟨hle, hbelow, hat⟩ := ih
    cases b with
    | true => simp
    | false =>
      simp only [List.takeWhile_cons, Bool.not_false, if_true, List.length_cons, Nat.add_le_add_iff_right, Nat.add_lt_add_iff_right,
        List.getD_cons_succ]
      refine ⟨hle, fun i hi => ?_, hat⟩
      cases i with
      | zero => rfl
      | succ i => exact hbelow i (by omega)

section
variable {w : Nat} (x : BitVec w)

theorem length_bitsOf : (bitsOf x).length = w := by rw [bitsOf, List.length_map, List.length_range]
theorem getD_bitsOf (i : Nat) : (bitsOf x).getD i false = x.getLsbD i := by
  rcases Nat.lt_or_ge i w with h | h
  · simp [bitsOf, List.getD_eq_getElem?_getD, h]
  · simp [bitsOf, List.getD_eq_getElem?_getD, h]
theorem getD_reverse_bitsOf {i : Nat} (h : i < w) : (bitsOf x).reverse.getD i false = x.getLsbD (w - 1 - i) := by
  rw [← getD_bitsOf, List.getD_eq_getElem?_getD, List.getD_eq_getElem?_getD, List.getElem?_reverse (by rwa [length_bitsOf]),
    length_bitsOf]

theorem countTrailing_spec : countTrailing x ≤ w ∧ (∀ i, i < countTrailing x → x.getLsbD i = false) ∧
    (countTrailing x < w → x.getLsbD (countTrailing x) = true) := by
  have h := takeWhile_not_spec (bitsOf x)
  simp only [length_bitsOf, getD_bitsOf] at h
  exact h
theorem countLeading_spec : countLeading x ≤ w ∧ (∀ i, w - countLeading x ≤ i → x.getLsbD i = false) ∧
    (countLeading x < w → x.getLsbD (w - 1 - countLeading x) = true) := by
  obtain ⟨hle, habove, hat⟩ := takeWhile_not_spec (bitsOf x).reverse
  rw [List.length_reverse, length_bitsOf] at hle hat
  refine ⟨hle, fun i hi => ?_, fun h => (getD_reverse_bitsOf x h).symm.trans (hat h)⟩
  rcases Nat.lt_or_ge i w with h | h
  · have hbit := habove (w - 1 - i) (by rw [countLeading] at hi; omega)
    rwa [getD_reverse_bitsOf x (by omega), show w - 1 - (w - 1 - i) = i by omega] at hbit
  · exact BitVec.getLsbD_of_ge x i h
theorem countOnes_eq : countOnes x = (List.range w).countP fun i => x.getLsbD i := by
  rw [countOnes, bitsOf, List.count, List.countP_map]
  exact congrArg (List.countP · _) (funext fun i => by simp)

end

/-- Settles O4: the counts are those of the lists of bits, the words those of the encoder. -/
theorem bitCounts : Obligations.BitCounts := by
  refine ⟨?_, ?_, ?_, ?_, ?_, ?_, ?_, ?_, ?_, fun d a pg => ?_⟩
  iterate 3
    · intro d a pg s h
      obtain ⟨hle, hspec⟩ := countLeading_spec _
      exact ⟨_, hle, strandOp_runs _ h, hspec⟩
  iterate 3
    · intro d a pg s h
      obtain ⟨hle, hspec⟩ := countTrailing_spec _
      exact ⟨_, hle, strandOp_runs _ h, hspec⟩
  iterate 3
    · intro d a pg s h
      rw [← countOnes_eq]
      exact strandOp_runs _ h
  · and_intros
    all_goals exact Laws.decodeA_of_encode rfl rfl rfl rfl

/-! ### Extensions and fields (R110, R111) -/

/-- A value extended with its sign: a bit past the top one is the top one. -/
theorem getLsbD_signExtend_min {w : Nat} (x : BitVec w) {v j : Nat} (h : j < v) :
    (x.signExtend v).getLsbD j = x.getLsbD (min j (w - 1)) := by
  rw [BitVec.getLsbD_signExtend, decide_eq_true h, Bool.true_and]
  split
  · rw [Nat.min_eq_left (by omega)]
  · rw [Nat.min_eq_right (by omega), BitVec.msb_eq_getLsbD_last]
theorem getLsbD_sext {x : W64} {n j : Nat} (hn : 0 < n) (h : j < 64) :
    ((x.setWidth n).signExtend 64).getLsbD j = x.getLsbD (min j (n - 1)) := by
  rw [getLsbD_signExtend_min _ h, BitVec.getLsbD_setWidth, decide_eq_true (by omega), Bool.true_and]
theorem getLsbD_zext {x : W64} {n j : Nat} (h : j < 64) :
    ((x.setWidth n).setWidth 64).getLsbD j = (decide (j < n) && x.getLsbD j) := by
  rw [BitVec.getLsbD_setWidth, BitVec.getLsbD_setWidth, decide_eq_true h, Bool.true_and]

section
variable (b : W64)

theorem fieldPos_eq : fieldPos b = b.toNat % 64 := by
  rw [fieldPos, BitVec.extractLsb'_toNat, Nat.shiftRight_zero]
theorem fieldLen_eq : fieldLen b =
    min (if b.toNat / 256 % 64 = 0 then 64 else b.toNat / 256 % 64) (64 - b.toNat % 64) := by
  have hl : (b.extractLsb' 8 6).toNat = b.toNat / 256 % 64 := by rw [BitVec.extractLsb'_toNat, Nat.shiftRight_eq_div_pow]
  rw [fieldLen, hl, fieldPos_eq]
  split <;> split <;> omega
theorem fieldLen_pos : 0 < fieldLen b := by
  rw [fieldLen_eq]
  split <;> omega

end

section
variable {x b : W64} {j : Nat} (h : j < 64)
include h

theorem getLsbD_bfx : ((x.extractLsb' (fieldPos b) (fieldLen b)).signExtend 64).getLsbD j =
    x.getLsbD (fieldPos b + min j (fieldLen b - 1)) := by
  have hpos := fieldLen_pos b
  rw [getLsbD_signExtend_min _ h, BitVec.getLsbD_extractLsb', decide_eq_true (by omega), Bool.true_and]
theorem getLsbD_bfxu : ((x.extractLsb' (fieldPos b) (fieldLen b)).setWidth 64).getLsbD j =
    (decide (j < fieldLen b) && x.getLsbD (fieldPos b + j)) := by
  rw [BitVec.getLsbD_setWidth, BitVec.getLsbD_extractLsb', decide_eq_true h, Bool.true_and]
theorem getLsbD_insertField (old : W64) : (insertField old x b).getLsbD j =
    if fieldPos b ≤ j ∧ j < fieldPos b + fieldLen b then x.getLsbD (j - fieldPos b) else old.getLsbD j := by
  have hmask : (BitVec.ofNat 64 ((2 ^ fieldLen b - 1) * 2 ^ fieldPos b)).getLsbD j =
      decide (fieldPos b ≤ j ∧ j < fieldPos b + fieldLen b) := by
    rw [BitVec.getLsbD_ofNat, decide_eq_true h, Bool.true_and, Nat.testBit_mul_two_pow, Nat.testBit_two_pow_sub_one,
      ← Bool.decide_and, decide_eq_decide]
    omega
  simp only [insertField, BitVec.getLsbD_or, BitVec.getLsbD_and, BitVec.getLsbD_not, BitVec.getLsbD_shiftLeft, hmask, h]
  split
  · rename_i hin
    simp [hin, Nat.not_lt.mpr hin.1]
  · rename_i hout
    simp [hout]

end

/-- Settles O5: the bits of an extension and of a field, with position and length as the field register gives them. -/
theorem extensionsAndFields : Obligations.ExtensionsAndFields := by
  have hsext {sz : BHW} {d a : GR} {pg : PR} {s : State} (h : runs (.sext sz d a pg) s = true) :
      exec (.sext sz d a pg) s = .next (s.setG d (((s.g a).setWidth (BHW.bits sz)).signExtend 64)) :=
    strandOp_setG d (fun t => ((t.g a).setWidth (BHW.bits sz)).signExtend 64) h
  have hzext {sz : BHW} {d a : GR} {pg : PR} {s : State} (h : runs (.zext sz d a pg) s = true) :
      exec (.zext sz d a pg) s = .next (s.setG d (((s.g a).setWidth (BHW.bits sz)).setWidth 64)) :=
    strandOp_setG d (fun t => ((t.g a).setWidth (BHW.bits sz)).setWidth 64) h
  refine ⟨?_, ?_, ?_, ?_, ?_, ?_, fun d a b pg s h => ?_, fun d a b pg s h => ?_, fun d a b pg s h => ?_⟩
  iterate 3
    · exact fun d a pg s h => ⟨_, hsext h, fun j hj => getLsbD_sext (by decide) hj⟩
    · exact fun d a pg s h => ⟨_, hzext h, fun j hj => getLsbD_zext hj⟩
  all_goals
    dsimp only
    rw [← fieldLen_eq, ← fieldPos_eq]
  · exact ⟨_, strandOp_setG d (fun t => ((t.g a).extractLsb' (fieldPos (t.g b)) (fieldLen (t.g b))).signExtend 64) h,
      fun j hj => getLsbD_bfx hj⟩
  · exact ⟨_, strandOp_setG d (fun t => ((t.g a).extractLsb' (fieldPos (t.g b)) (fieldLen (t.g b))).setWidth 64) h,
      fun j hj => getLsbD_bfxu hj⟩
  · exact ⟨_, strandOp_setG d (fun t => insertField (t.g d) (t.g a) (t.g b)) h, fun j hj => getLsbD_insertField hj _⟩

end Sys2Proof.Machine
end

section
/-!
SUPPORT. O6, O7: the compares at each width, the predicates as bits of a number, and the words of major `0x03`.
-/
namespace Sys2Proof.Laws
open Sys2Proof

/-- The check of well-formedness only refuses: an instruction it lets pass is the one the fields give. -/
theorem rawDecodeA_of_decodeA {w : W32} {i : Instr} (h : decodeA w = .ok i) : rawDecodeA w = .ok i := by
  unfold decodeA at h
  split at h
  · split at h
    · rwa [← Except.ok.inj h]
    · cases h
  · cases h
theorem rawDecodeA_of_encode {i : Instr} {w : W32} (he : encode i = w) (hw : i.hasWord = true) (hc : i.isC = false)
    (h : i.wellFormed = true) : (rawDecodeA w).toOption = some i := by
  rw [← he, rawDecodeA_of_decodeA (decodeA_encode hw hc h)]; rfl
/-- R113: the predicate minors take t = 0. -/
theorem decCmp_predicates {f : FAR} (hlo : 8 ≤ f.c.toNat) (hhi : f.c.toNat < 16) (ht : f.t ≠ 0) : ∃ e, decCmp f = .error e := by
  have hc : f.c.toNat = 8 ∨ f.c.toNat = 9 ∨ f.c.toNat = 10 ∨ f.c.toNat = 11 ∨ f.c.toNat = 12 ∨ f.c.toNat = 13 ∨
      f.c.toNat = 14 ∨ f.c.toNat = 15 := by omega
  have ht' : (f.t == 0) = false := beq_false_of_ne ht
  unfold decCmp
  rcases hc with h | h | h | h | h | h | h | h <;> simp only [h, ht', Bool.and_false, Bool.false_eq_true, if_false] <;> exact ⟨_, rfl⟩
theorem decodeA_error {w : W32} {e : DecodeError} (h : rawDecodeA w = .error e) : decodeA w = .error e := by rw [decodeA, h]

end Sys2Proof.Laws

namespace Sys2Proof.Machine
open Sys2Proof

/-! ### Compares (R112) -/

theorem CmpOp.eval_ne {w : Nat} (x y : BitVec w) : CmpOp.ne.eval x y = decide (x ≠ y) := (decide_not ..).symm

section
variable {o : CmpOp} {d : PR} {a b : GR} {s : State} {i : Instr} {v : Bool} (h : runs i s = true)
include h

theorem cmpOp_i64 (hv : o.eval (s.g a) (s.g b) = v) : strandOp i s (cmpOp o .i64 d a b) = .next (s.setP d v) := by
  subst hv; exact strandOp_runs _ h
theorem cmpOp_q (hv : o.eval (s.gq a) (s.gq b) = v) : strandOp i s (cmpOp o .q d a b) = .next (s.setP d v) := by
  subst hv; exact strandOp_runs _ h
theorem cmpOp_32 {t : IntTy} (hv : o.eval ((s.g a).setWidth 32 : W32) ((s.g b).setWidth 32) = v) (ht : IntTy.width t = 32) :
    strandOp i s (cmpOp o t d a b) = .next (s.setP d v) := by
  subst hv
  cases t with
  | i64 | q => cases ht
  | i32 | z32 => exact strandOp_runs _ h

end

/-- Settles O6: a compare is `CmpOp.eval` of its operands, and the words are those of the encoder. -/
theorem comparesWritePredicates : Obligations.ComparesWritePredicates := by
  unfold Obligations.ComparesWritePredicates
  refine ⟨?_, ?_, ?_, ?_, ?_, ?_, ?_, ?_, ?_, ?_, ?_, ?_, ?_, ?_, ?_, ?_, ?_, ?_, ?_, ?_, ?_, ?_, ?_, ?_, fun d a b pg => ?_⟩
  · exact fun d a b pg s h => cmpOp_i64 h rfl
  · exact fun d a b pg s h => cmpOp_q h rfl
  iterate 2 · exact fun d a b pg s h => cmpOp_32 h rfl rfl
  · exact fun d a b pg s h => cmpOp_i64 h (CmpOp.eval_ne ..)
  · exact fun d a b pg s h => cmpOp_q h (CmpOp.eval_ne ..)
  iterate 2 · exact fun d a b pg s h => cmpOp_32 h (CmpOp.eval_ne ..) rfl
  iterate 4
    · exact fun d a b pg s h => cmpOp_i64 h rfl
    · exact fun d a b pg s h => cmpOp_q h rfl
    iterate 2 · exact fun d a b pg s h => cmpOp_32 h rfl rfl
  · and_intros
    all_goals exact Laws.rawDecodeA_of_encode rfl rfl rfl rfl

/-! ### Predicates (R68, R113) -/

/-- R113: bit j of the predicates as a number is predicate j. -/
theorem State.getLsbD_preds (s : State) {j : Nat} (h : j < 8) : s.preds.getLsbD j = s.pr (BitVec.ofNat 3 j) := by
  have hj : (BitVec.ofNat 3 j).toNat = j := by rw [BitVec.toNat_ofNat, Nat.mod_eq_of_lt h]
  rw [State.preds, BitVec.getLsbD_or, State.pr, hj]
  by_cases h0 : j = 0
  · subst h0
    simp
  · have hne : BitVec.ofNat 3 j ≠ 0 := fun hz => h0 (by rw [← hj, hz]; rfl)
    have hone : (1 : BitVec 8).getLsbD j = false := by simp [BitVec.getLsbD_one, h0]
    rw [if_neg hne, hone, Bool.or_false]

/-- Settles O7: predicate j is bit j of the predicates as a number; a word with t not 0 has no predicate minor. -/
theorem predicateInstructions : Obligations.PredicateInstructions := by
  refine ⟨fun d a b pg s h => strandOp_runs (fun t => .next (t.setP d (t.pr a && t.pr b))) h,
    fun d a b pg s h => strandOp_runs (fun t => .next (t.setP d (t.pr a || t.pr b))) h,
    fun d a b pg s h => strandOp_runs (fun t => .next (t.setP d (t.pr a ^^ t.pr b))) h,
    fun d a b pg s h => strandOp_runs (fun t => .next (t.setP d (t.pr a && !t.pr b))) h,
    fun d a pg s h => strandOp_runs (fun t => .next (t.setP d (!t.pr a))) h,
    fun d pg s h => ⟨_, strandOp_setG d (fun t => t.preds.setWidth 64) h, fun j hj => ?_⟩,
    fun a pg s h => ⟨_, strandOp_runs (fun t => .next (t.modStrand fun x => { x with p := (t.g a).setWidth 8 ||| 1 })) h,
      fun j hj => ?_⟩,
    fun d a b pg => ⟨Laws.decodeA_of_encode rfl rfl rfl rfl, Laws.decodeA_of_encode rfl rfl rfl rfl,
      Laws.decodeA_of_encode rfl rfl rfl rfl, Laws.decodeA_of_encode rfl rfl rfl rfl, Laws.decodeA_of_encode rfl rfl rfl rfl⟩,
    fun r pg => ⟨Laws.decodeA_of_encode rfl rfl rfl rfl, Laws.decodeA_of_encode rfl rfl rfl rfl⟩,
    fun d a b c t pg hlo hhi ht => ?_, State.pr_zero⟩
  · rw [BitVec.getLsbD_setWidth, decide_eq_true hj, Bool.true_and]
    rcases Nat.lt_or_ge j 8 with h8 | h8
    · rw [s.getLsbD_preds h8, decide_eq_true h8, Bool.true_and]
    · rw [BitVec.getLsbD_of_ge _ _ h8, decide_eq_false (Nat.not_lt.mpr h8), Bool.false_and]
  · rw [BitVec.getLsbD_or, BitVec.getLsbD_setWidth, decide_eq_true hj, Bool.true_and, Bool.or_comm]
    congr 1
    simp [BitVec.getLsbD_one]
  · obtain ⟨e, he⟩ := Laws.decCmp_predicates (f := ⟨d, a, b, c, t, pg⟩) hlo hhi ht
    rw [Laws.decodeA_error ((Laws.raw_A_03 _).trans he)]; rfl

end Sys2Proof.Machine
end

section
/-!
SUPPORT. O8, O9: the pieces of a long constant bit by bit, and the instructions that copy or compute one result.
-/
namespace Sys2Proof.Machine
open Sys2Proof

/-! ### Immediates (R96, R115 to R117) -/

/-- R96: the piece k of a long constant. -/
theorem getLsbD_movhValue (old : W64) (k : BV3) (imm : Imm13) {j : Nat} (h : j < 64) : (movhValue old k imm).getLsbD j =
    if 13 * k.toNat ≤ j ∧ j < 13 * k.toNat + 13 then imm.getLsbD (j - 13 * k.toNat) else old.getLsbD j := by
  have hmask : (0x1FFF : W64) = BitVec.ofNat 64 (2 ^ 13 - 1) := rfl
  simp only [movhValue, hmask, BitVec.getLsbD_or, BitVec.getLsbD_and, BitVec.getLsbD_not, BitVec.getLsbD_shiftLeft,
    BitVec.getLsbD_ofNat, BitVec.getLsbD_setWidth, Nat.testBit_two_pow_sub_one, h]
  split
  · rename_i hin
    simp [Nat.not_lt.mpr hin.1, show j - 13 * k.toNat < 13 by omega, show j - 13 * k.toNat < 64 by omega]
  · rename_i hout
    rcases Nat.lt_or_ge j (13 * k.toNat) with hlt | hge
    · simp [hlt]
    · simp [show ¬ j - 13 * k.toNat < 13 by omega, BitVec.getLsbD_of_ge imm (j - 13 * k.toNat) (by omega)]

/-- Settles O8: the immediates are operands of `AluOp.eval`; `MOVH` by its bits. -/
theorem immediateInstructions : Obligations.ImmediateInstructions := by
  refine ⟨?_, ?_, ?_, ?_, ?_, ?_, ?_, ?_, fun d imm pg s h => strandOp_setG d (fun _ => imm.signExtend 64) h,
    fun d k imm pg s h => ⟨_, strandOp_setG d (fun t => movhValue (t.g d) k imm) h, fun j hj => getLsbD_movhValue _ k imm hj⟩⟩
  iterate 4 · exact fun d a imm pg s h => strandOp_runs (immOp _ d a imm) h
  iterate 4 · exact fun d a sh pg s h => strandOp_runs (shiftImm _ d a sh) h

/-! ### Address, select and move (R118 to R120, R131) -/

/-- Settles O9: each result is that of the definition; a write of an ordinary register leaves it full. -/
theorem addressSelectAndMove : Obligations.AddressSelectAndMove := by
  refine ⟨fun d a b sh pg s h => strandOp_setG d (fun t => t.g a + (t.g b <<< sh.toNat)) h,
    fun d pg pn s h => strandOp_setG d (fun t => t.cur.pc) h,
    fun d a b pg s h => strandOp_runs (fun t => .next (t.setGS d (((t.g a).setWidth 32 : W32).setWidth 64) ((t.g b).getLsbD 0))) h,
    fun d a pg s h => ?_,
    fun d q a b pg s h => strandOp_runs (fun t => .next (if t.pr q then t.setGS d (t.g a) (t.gS a) else t.setGS d (t.g b) (t.gS b))) h,
    fun d a pg s h => strandOp_runs (fun t => .next (t.setGS d (t.g a) (t.gS a))) h, fun d v b s hk h0 h9 => ?_⟩
  · rw [show (if s.gS a then 1 else 0 : W64) = BitVec.ofNat 64 (bit01 (s.gS a)) by cases s.gS a <;> rfl]
    exact strandOp_setG d (fun t => BitVec.ofNat 64 (bit01 (t.gS a))) h
  · rw [State.setGS_g _ _ _ _ _ h0 h9 hk, if_pos rfl]

end Sys2Proof.Machine
end

section
/-!
SUPPORT. O10: the cluster window gives back the core and the place that an address made for a byte of its LM is made of.
-/
namespace Sys2Proof.Machine
open Sys2Proof

/-! ### The cluster window's address of a byte of LM (R321) -/

section
variable {c o : Nat} (hc : c < Config.cores) (ho : o < Config.lmBytes)
include hc ho

theorem toNat_lmAlias : (lmAlias c o).toNat =
    0x1E * 2 ^ 52 + clusterOf c / 48 * 2 ^ 28 + clusterOf c % 48 * 2 ^ 22 + c % 16 * 2 ^ 18 + o := by
  rw [Config.cores] at hc
  rw [Config.lmBytes] at ho
  rw [lmAlias, if_neg (by omega), BitVec.toNat_ofNat, clusterOf, dieOf]
  omega
/-- The address lies in the generic space (R74), in the cluster window, and its fields are the die, the cluster, the core and the place. -/
theorem lmAlias_fields : (lmAlias c o).extractLsb' 57 7 = 0 ∧ field (lmAlias c o).toNat 52 5 = 0x1E ∧
    field (lmAlias c o).toNat 30 22 = 0 ∧ field (lmAlias c o).toNat 28 2 = clusterOf c / 48 ∧
    field (lmAlias c o).toNat 22 6 = clusterOf c % 48 ∧ field (lmAlias c o).toNat 18 4 = c % 16 ∧
    (lmAlias c o).toNat % 2 ^ 18 = o := by
  have hva := toNat_lmAlias hc ho
  rw [Config.cores] at hc
  rw [Config.lmBytes] at ho
  have hcl : clusterOf c < 192 := by rw [clusterOf]; omega
  have htop : (lmAlias c o).extractLsb' 57 7 = 0 := by
    apply BitVec.eq_of_toNat_eq
    rw [BitVec.extractLsb'_toNat, hva, Nat.shiftRight_eq_div_pow]
    show _ = 0
    omega
  rw [hva]
  refine ⟨htop, ?_, ?_, ?_, ?_, ?_, by omega⟩ <;> rw [field] <;> omega
theorem State.windowCluster_lmAlias {s : State} {part : Nat} (hpart : (s.partn part).clusters.contains (clusterOf c) = true) :
    s.windowCluster part (lmAlias c o).toNat = some (clusterOf c) := by
  obtain ⟨-, -, hzero, hdie, hclid, -, -⟩ := lmAlias_fields hc ho
  have hcluster : clusterOf c / 48 * 48 + clusterOf c % 48 = clusterOf c := Nat.div_add_mod' ..
  simp only [State.windowCluster, hzero, hdie, hclid, hcluster, hpart]
  exact if_pos ⟨trivial, Nat.mod_lt _ (by decide), trivial⟩
/-- R119, R321: every strand of a partition reaches the byte of a core of its clusters by this address. -/
theorem State.translate_lmAlias {s : State} (who : Actor) (k : Kind)
    (hpart : (s.partn who.part).clusters.contains (clusterOf c) = true) : s.translate who k (lmAlias c o) = .ok (.lm c o) {} := by
  obtain ⟨htop, hsel, -, -, -, hcore, hoff⟩ := lmAlias_fields hc ho
  have hwin : s.window who k (lmAlias c o).toNat = some (.ok (.lm (clusterOf c * 16 + c % 16) o) {}) := by
    simp only [State.window, hsel, State.windowCluster_lmAlias hc ho hpart, hcore, hoff]
  rw [State.translate, hwin, htop, show clusterOf c * 16 + c % 16 = c from Nat.div_add_mod' ..]
  rfl

end

/-! ### `CVTA` (R119) -/

/-- What `CVTA` writes for an address (R119). -/
def State.cvtaValue (s : State) (x : W64) : W64 :=
  match (x.extractLsb' 52 5).toNat with
  | 0b11100 => lmAlias s.cur.pre.priva.core (s.cur.pre.priva.off + (x.extractLsb' 0 52).toNat)
  | 0b11101 => lmAlias s.cur.core (x.extractLsb' 0 52).toNat
  | _ => x

section
variable {s : State} {x : W64}

theorem State.cvtaValue_private (h : x.extractLsb' 52 5 = 0x1C) :
    s.cvtaValue x = lmAlias s.cur.pre.priva.core (s.cur.pre.priva.off + x.toNat % 2 ^ 52) := by
  rw [State.cvtaValue, h, toNat_lowBits]; rfl
theorem State.cvtaValue_own (h : x.extractLsb' 52 5 = 0x1D) : s.cvtaValue x = lmAlias s.cur.core (x.toNat % 2 ^ 52) := by
  rw [State.cvtaValue, h, toNat_lowBits]; rfl
theorem State.cvtaValue_other (hp : x.extractLsb' 52 5 ≠ 0x1C) (ho : x.extractLsb' 52 5 ≠ 0x1D) : s.cvtaValue x = x := by
  rw [State.cvtaValue]
  split
  · exact absurd (BitVec.eq_of_toNat_eq ‹_›) hp
  · exact absurd (BitVec.eq_of_toNat_eq ‹_›) ho
  · rfl

end

/-- Settles O10: `CVTA` writes the cluster window's address of the byte that a window address names, and any other address as it is. -/
theorem cvtaNamesTheSameByte : Obligations.CvtaNamesTheSameByte := by
  intro d a pg s h
  refine ⟨s.cvtaValue (s.g a), strandOp_setG d (fun t => t.cvtaValue (t.g a)) h, State.cvtaValue_other,
    fun k who hc hpart hwin ho => ?_, fun k who hc hpart hwin ho => ?_⟩
  · rw [State.cvtaValue_own hwin]
    exact State.translate_lmAlias hc ho who k hpart
  · rw [State.cvtaValue_private hwin]
    exact State.translate_lmAlias hc ho who k hpart

end Sys2Proof.Machine
end

section
/-!
SUPPORT. O12, O13: the flags of a result, and the value of a carrier by its sign, exponent and fraction.
-/
namespace Sys2Proof.Machine
open Sys2Proof

/-! ### Flags (R39, R123) -/

/-- What an instruction that may raise flags comes to: its effect `k` or the trap, by the enabled ones among the flags. -/
theorem strandOp_withFlags {i : Instr} {s : State} {eff : State → Res} {fl : Flags} {k : State → State} (h : runs i s = true)
    (heff : eff s = s.withFlags fl k) :
    (s.enabled fl = 0 → strandOp i s eff = .next (k (s.raise fl))) ∧
    (s.enabled fl ≠ 0 → strandOp i s eff = .next (s.trap 0x15 (fl.setWidth 64))) := by
  rw [strandOp_runs _ h, heff]
  rcases s.withFlags_cases fl k with ⟨hne, htrap⟩ | ⟨h0, hnext⟩
  · exact ⟨fun h0 => absurd h0 hne, fun _ => htrap⟩
  · exact ⟨fun _ => hnext, fun hne => absurd h0 hne⟩

theorem strandOp_fpWrite {i : Instr} {s : State} {eff : State → Res} {d : GR} {r : FpRes} (h : runs i s = true)
    (heff : eff s = fpWrite d r s) :
    (s.enabled r.fl = 0 → strandOp i s eff = .next ((s.raise r.fl).setGS d (r.w.setWidth 64) r.s)) ∧
    (s.enabled r.fl ≠ 0 → strandOp i s eff = .next (s.trap 0x15 (r.fl.setWidth 64))) := strandOp_withFlags h heff

/-- Settles O12: each instruction is `State.withFlags` of its result and flags. -/
theorem floatingPointCompletesOrTraps : Obligations.FloatingPointCompletesOrTraps := by
  refine ⟨?_, ?_, ?_, ?_, ?_, ?_, ?_, ?_, ?_, ?_, ?_, ?_, ?_, ?_, ?_⟩
  iterate 4 · exact fun t d a b pg s h => strandOp_fpWrite (eff := fpOp _ t d a b) h rfl
  · exact fun t d a pg s h => strandOp_fpWrite (eff := fpOp .sqrt t d a a) h rfl
  · exact fun t d a b c pg s h => strandOp_fpWrite (eff := fmaOp t d a b c) h rfl
  iterate 2 · exact fun t d a b pg s h => strandOp_fpWrite (eff := fpPick _ d a b) h rfl
  · exact fun t d a pg s h => strandOp_fpWrite (eff := cvtOp t d a) h rfl
  · exact fun t d a pg s h => strandOp_fpWrite (eff := fromIntOp t d a) h rfl
  · exact fun d a pg s h => strandOp_withFlags (eff := toIntOp d a) h rfl
  iterate 4 · exact fun d a b pg s h => strandOp_withFlags (eff := fpCmpOp _ d a b) h rfl

/-! ### The value of a carrier (R20, R23, R24) -/

/-- R23, R24: the value of a binary32 code by its sign, exponent and fraction fields. -/
theorem decode_f32 (c : Nat) : Fm.f32.decode c =
    if c / 2 ^ 23 % 256 == 255 then
      if c % 2 ^ 23 == 0 then .inf (c / 2 ^ 31 % 2 == 1) else .nan (c / 2 ^ 31 % 2 == 1) (decide (c % 2 ^ 23 < 2 ^ 22))
    else if c / 2 ^ 23 % 256 == 0 then .fin (c / 2 ^ 31 % 2 == 1) (c % 2 ^ 23) (1 - 127 - 23) false
    else .fin (c / 2 ^ 31 % 2 == 1) (2 ^ 23 + c % 2 ^ 23) ((c / 2 ^ 23 % 256 : Nat) - 127 - 23) false := rfl

section
variable {w : W32}

theorem signBit_eq (w : W32) : (w.toNat / 2 ^ 31 % 2 == 1) = w.getLsbD 31 := by
  rw [BitVec.getLsbD, Nat.testBit_eq_decide_div_mod_eq]; rfl
theorem valueOf_inf (he : w.toNat / 2 ^ 23 % 256 = 255) (hf : w.toNat % 2 ^ 23 = 0) : valueOf w = .inf (w.getLsbD 31) := by
  simp only [valueOf, decode_f32, signBit_eq, he, hf, beq_self_eq_true, if_true]
theorem valueOf_nan (he : w.toNat / 2 ^ 23 % 256 = 255) (hf : w.toNat % 2 ^ 23 ≠ 0) :
    valueOf w = .nan (w.getLsbD 31) (decide (w.toNat % 2 ^ 23 < 2 ^ 22)) := by
  simp only [valueOf, decode_f32, signBit_eq, he, beq_self_eq_true, if_true, beq_eq_false_iff_ne.mpr hf, Bool.false_eq_true, if_false]
theorem valueOf_subnormal (he : w.toNat / 2 ^ 23 % 256 = 0) : valueOf w = .fin (w.getLsbD 31) (w.toNat % 2 ^ 23) (-149) false := by
  simp only [valueOf, decode_f32, signBit_eq, he]; rfl
theorem valueOf_normal (he : w.toNat / 2 ^ 23 % 256 ≠ 255) (hz : w.toNat / 2 ^ 23 % 256 ≠ 0) : ∃ e,
    valueOf w = .fin (w.getLsbD 31) (2 ^ 23 + w.toNat % 2 ^ 23) e false := by
  simp only [valueOf, decode_f32, signBit_eq, beq_eq_false_iff_ne.mpr he, beq_eq_false_iff_ne.mpr hz, Bool.false_eq_true, if_false]
  exact ⟨_, rfl⟩
/-- R24: the NaNs are the codes above infinity's. -/
theorem valueOf_isNan (w : W32) : (valueOf w).isNan = decide (0x7F800000 < w.toNat % 2 ^ 31) := by
  by_cases he : w.toNat / 2 ^ 23 % 256 = 255
  · by_cases hf : w.toNat % 2 ^ 23 = 0
    · rw [valueOf_inf he hf]
      exact (decide_eq_false (by omega)).symm
    · rw [valueOf_nan he hf]
      exact (decide_eq_true (by omega)).symm
  · have hfin : ∃ m e, valueOf w = .fin (w.getLsbD 31) m e false := by
      by_cases hz : w.toNat / 2 ^ 23 % 256 = 0
      · exact ⟨_, _, valueOf_subnormal hz⟩
      · exact ⟨_, valueOf_normal he hz⟩
    obtain ⟨m, e, hv⟩ := hfin
    rw [hv]
    exact (decide_eq_false (by omega)).symm

/-! ### Sign and class (R125, R127) -/

/-- The sign bit put back inverted flips it. -/
theorem or_not_signBit (w : W32) : (w &&& 0x7FFFFFFF) ||| (if !w.getLsbD 31 then 0x80000000 else 0) = w ^^^ 0x80000000 := by
  have hlow : ∀ k < 32, (0x7FFFFFFF : W32).getLsbD k = decide (k ≠ 31) := by decide
  have htop : ∀ k < 32, (0x80000000 : W32).getLsbD k = decide (k = 31) := by decide
  apply BitVec.eq_of_getLsbD_eq
  intro k hk
  rw [BitVec.getLsbD_or, BitVec.getLsbD_and, BitVec.getLsbD_xor, hlow k hk, htop k hk]
  by_cases h31 : k = 31
  · subst h31
    cases w.getLsbD 31 <;> rfl
  · have hzero : (if !w.getLsbD 31 then 0x80000000 else 0 : W32).getLsbD k = false := by
      split
      · rw [htop k hk, decide_eq_false h31]
      · exact BitVec.getLsbD_zero
    rw [hzero, decide_eq_true h31, decide_eq_false h31, Bool.and_true, Bool.or_false, Bool.xor_false]
theorem fpNeg_eq (w : W32) : fpSign true w =
    if 0x7F800000 < w.toNat % 2 ^ 31 then (if w.getLsbD 31 then 0x7FC00000 else 0xFFC00000) else w ^^^ 0x80000000 := by
  simp only [fpSign, valueOf_isNan, decide_eq_true_eq, if_true]
  split
  · cases w.getLsbD 31 <;> rfl
  · exact or_not_signBit w
theorem fpAbs_eq (w : W32) : fpSign false w = if 0x7F800000 < w.toNat % 2 ^ 31 then 0x7FC00000 else w &&& 0x7FFFFFFF := by
  simp only [fpSign, valueOf_isNan, decide_eq_true_eq, Bool.false_eq_true, if_false]
  split
  · rfl
  · exact BitVec.or_zero
theorem signBit_iff (w : W32) : w.getLsbD 31 = decide (2 ^ 31 ≤ w.toNat) :=
  (BitVec.msb_eq_getLsbD_last w).symm.trans (BitVec.msb_eq_decide w)
/-- The class by the fields of `w`: each case of R127. -/
theorem fpClass_eq (w : W32) : fpClass w =
    if w.toNat / 2 ^ 23 % 256 = 255 then
      (if w.toNat % 2 ^ 23 = 0 then (if w.getLsbD 31 then 0 else 7) else if w.toNat % 2 ^ 23 < 2 ^ 22 then 8 else 9)
    else if w.toNat / 2 ^ 23 % 256 = 0 then
      (if w.toNat % 2 ^ 23 = 0 then (if w.getLsbD 31 then 3 else 4) else (if w.getLsbD 31 then 2 else 5))
    else (if w.getLsbD 31 then 1 else 6) := by
  have hp : pow2 23 = 2 ^ 23 := rfl
  have hlt := Nat.mod_lt w.toNat (Nat.two_pow_pos 23)
  rw [fpClass]
  by_cases he : w.toNat / 2 ^ 23 % 256 = 255
  · rw [if_pos he]
    by_cases hf : w.toNat % 2 ^ 23 = 0
    · rw [valueOf_inf he hf, if_pos hf]
    · simp only [valueOf_nan he hf, if_neg hf, decide_eq_true_eq]
  · rw [if_neg he]
    by_cases hz : w.toNat / 2 ^ 23 % 256 = 0
    · simp only [valueOf_subnormal hz, if_pos hz, hp, ge_iff_le, Nat.not_le.mpr hlt, if_false]
    · obtain ⟨e, hv⟩ := valueOf_normal he hz
      simp only [hv, if_neg hz, hp, ge_iff_le, Nat.le_add_right, if_true]
      exact if_neg (by omega)
theorem fpClass_lt (w : W32) : fpClass w < 10 := by
  rw [fpClass_eq]
  repeat' split
  all_goals decide

end

/-- Settles O13: sign and class by the fields of `w`; no flag is raised, so no trap is taken. -/
theorem signAndClass : Obligations.SignAndClass := by
  have hnone (s : State) : s.enabled 0 = 0 := BitVec.zero_and
  refine ⟨fun d a pg s h => ⟨_, (strandOp_fpWrite (eff := fpSignOp true d a) h rfl).1 (hnone s), fpNeg_eq _⟩,
    fun d a pg s h => ⟨_, (strandOp_fpWrite (eff := fpSignOp false d a) h rfl).1 (hnone s), fpAbs_eq _⟩,
    fun d a pg s h => ⟨fpClass (s.gw a), fpClass_lt _, strandOp_runs (classOp d a) h, ?_⟩⟩
  simp only [← signBit_iff]
  exact fpClass_eq _

end Sys2Proof.Machine
end

section
/-!
SUPPORT. O14, O15: a lane, a mask bit and the list of the active lanes, and the integer operations lane by lane.
-/
namespace Sys2Proof.Machine
open Sys2Proof

/-! ### Words from their bits, and vectors from their lanes -/

theorem vget_vmk {α : Type} (f : Nat → α) {i : Nat} (h : i < 32) (d : α) : vget (vmk f) i d = f i := by
  simp [vget, vmk, h]
/-- The bits of a sum of powers of two, each taken at most once. -/
theorem testBit_sum_pow2 (f : Nat → Bool) (n : Nat) :
    (List.range n).foldl (fun a i => if f i then a + pow2 i else a) 0 < 2 ^ n ∧
    ∀ i, i < n → ((List.range n).foldl (fun a i => if f i then a + pow2 i else a) 0).testBit i = f i := by
  induction n with
  | zero => exact ⟨Nat.one_pos, fun i hi => absurd hi (Nat.not_lt_zero i)⟩
  | succ n ih =>
    obtain ⟨hlt, hbit⟩ := ih
    rw [List.range_succ, List.foldl_append, List.foldl_cons, List.foldl_nil, pow2]
    generalize (List.range n).foldl (fun a i => if f i then a + pow2 i else a) 0 = a at hlt hbit
    have hlt' : a.testBit n = false := Nat.testBit_lt_two_pow hlt
    refine ⟨by rw [Nat.pow_succ]; split <;> omega, fun i hi => ?_⟩
    rcases Nat.lt_succ_iff_lt_or_eq.mp hi with hi | rfl
    · rw [← hbit i hi]
      split
      · rw [Nat.add_comm, Nat.testBit_two_pow_add_gt hi]
      · rfl
    · cases hf : f i
      · exact hlt'
      · rw [if_pos rfl, Nat.add_comm, Nat.testBit_two_pow_add_eq, hlt']; rfl
theorem getLsbD_bitsFrom (f : Nat → Bool) {i : Nat} (h : i < 32) : (bitsFrom f).getLsbD i = f i := by
  obtain ⟨-, hbit⟩ := testBit_sum_pow2 f 32
  rw [bitsFrom, BitVec.getLsbD_ofNat, decide_eq_true h, Bool.true_and, hbit i h]

/-! ### Lanes (R70) -/

theorem VReg.get_update (x : VReg) (act : W32) (f : Vector Lane 32) {i : Nat} (h : i < 32) :
    (x.update act f).get i = if act.getLsbD i then vget f i ⟨0, false⟩ else x.get i := by
  simp only [VReg.get, VReg.update, VReg.lane, VReg.laneS, vget_vmk _ h, getLsbD_bitsFrom _ h]
  split <;> rfl
theorem VReg.lanes_update (x : VReg) (act : W32) (f : Nat → Lane) : x.Lanes act f (x.update act (vmk f)) := fun i hi => by
  rw [x.get_update act _ hi, vget_vmk f hi]
theorem VReg.Lanes.congr {x y : VReg} {act : W32} {f g : Nat → Lane} (h : x.Lanes act f y) (hfg : ∀ i, i < 32 → f i = g i) :
    x.Lanes act g y := fun i hi => by rw [h i hi, hfg i hi]

section
variable {i : Instr} {s : State} {eff : State → Res} {d : VR} {mg : MR} (h : runs i s = true)
include h

/-- R70: an instruction that writes the active lanes of one register. -/
theorem strandOp_setLanes {f g : Nat → Lane} (heff : eff s = .next (setLanes d mg f s)) (hfg : ∀ k, k < 32 → f k = g k) :
    ∃ y, strandOp i s eff = .next (s.setV d y) ∧ (s.vr d).Lanes (s.mr mg) g y :=
  ⟨_, (strandOp_runs eff h).trans heff, ((s.vr d).lanes_update (s.mr mg) f).congr hfg⟩
/-- R67: one that writes the active lanes of both registers of a group. -/
theorem strandOp_setGroup {f f' g g' : Nat → Lane} (heff : eff s = .next (setLanes (d + 1) mg f' (setLanes d mg f s)))
    (hf : ∀ k, k < 32 → f k = g k) (hf' : ∀ k, k < 32 → f' k = g' k) :
    ∃ y z, strandOp i s eff = .next ((s.setV d y).setV (d + 1) z) ∧
      (s.vr d).Lanes (s.mr mg) g y ∧ (s.vr (d + 1)).Lanes (s.mr mg) g' z :=
  ⟨_, _, (strandOp_runs eff h).trans heff, ((s.vr d).lanes_update (s.mr mg) f).congr hf,
    ((s.vr (d + 1)).lanes_update (s.mr mg) f').congr hf'⟩

/-! ### Integer operations (R163, R167) -/

variable {o : VOp} {a b : VR}

theorem vIntOp_32 {t : VTy} (ht : t ≠ .i64) : ∃ y, strandOp i s (vIntOp o t d a b mg) = .next (s.setV d y) ∧
    (s.vr d).Lanes (s.mr mg)
      (fun k => ⟨(o.alu t).eval ((s.vr a).lane k) ((s.vr b).lane k) (((s.vr b).lane k).toNat % 32), false⟩) y := by
  refine strandOp_setLanes h (if_neg ht) fun k _ => ?_
  rw [BitVec.extractLsb'_toNat, Nat.shiftRight_zero]
theorem vIntOp_64 : ∃ y z, strandOp i s (vIntOp o .i64 d a b mg) = .next ((s.setV d y).setV (d + 1) z) ∧
    (s.vr d).Lanes (s.mr mg)
      (fun k => ⟨((o.alu .i64).eval (s.elem a k) (s.elem b k) ((s.elem b k).toNat % 64)).extractLsb' 0 32, false⟩) y ∧
    (s.vr (d + 1)).Lanes (s.mr mg)
      (fun k => ⟨((o.alu .i64).eval (s.elem a k) (s.elem b k) ((s.elem b k).toNat % 64)).extractLsb' 32 32, false⟩) z := by
  have hsh (k : Nat) : ((s.elem b k).extractLsb' 0 6).toNat = (s.elem b k).toNat % 64 := toNat_lowBits ..
  refine strandOp_setGroup h (if_pos rfl) (fun k hk => ?_) fun k hk => ?_
  · rw [vget_vmk _ hk, hsh, BitVec.setWidth_eq_extractLsb' (by decide)]
  · rw [vget_vmk _ hk, hsh]

end

/-- Settles O14: an operation is that of the scalar instruction; `.z32` chooses its unsigned form. -/
theorem vectorInteger32 : Obligations.VectorInteger32 := by
  unfold Obligations.VectorInteger32
  and_intros
  iterate 10 · exact fun t d a b mg s h ht => vIntOp_32 h ht
  all_goals
    intro t d a b mg s h ht
    cases t with
    | i64 => exact absurd rfl ht
    | i32 | z32 => exact vIntOp_32 h ht

/-- Settles O15: the halves of each element's result. -/
theorem vectorInteger64 : Obligations.VectorInteger64 := by
  unfold Obligations.VectorInteger64
  and_intros
  all_goals exact fun d a b mg s h => vIntOp_64 h

end Sys2Proof.Machine
end

section
/-!
SUPPORT. O16 to O18: masks bit by bit, the flags of the active lanes together, and the reduction of one lane.
-/
namespace Sys2Proof.Machine
open Sys2Proof

/-! ### The active lanes -/

theorem mem_active {act : W32} {i : Nat} : i ∈ active act ↔ i < 32 ∧ act.getLsbD i = true := by
  rw [active, List.mem_filter, List.mem_range]
/-- Over the active lanes only what a fold does with a lane below 32 counts. -/
theorem foldl_active_congr {α : Type} {act : W32} {f g : α → Nat → α} (h : ∀ a i, i < 32 → f a i = g a i) (a : α) :
    (active act).foldl f a = (active act).foldl g a :=
  List.foldl_rel (r := Eq) rfl fun i hi b _ hbc => hbc ▸ h b i (mem_active.mp hi).1
theorem active_eq_singleton {act : W32} {k : Nat} (hk : k < 32) (h : ∀ i, i < 32 → (act.getLsbD i = true ↔ i = k)) :
    active act = [k] := by
  have hbits : active act = (List.range 32).filter (· == k) := List.filter_congr fun i hi => by
    rw [Bool.eq_iff_iff, h i (List.mem_range.mp hi), beq_iff_eq]
  have hone : ∀ k, k < 32 → (List.range 32).filter (· == k) = [k] := by decide
  rw [hbits, hone k hk]

/-! ### Mask bits (R168, R169) -/

theorem maskBits_bitsFrom (x act : W32) (f : Nat → Bool) : MaskBits x act f ((x &&& ~~~act) ||| (bitsFrom f &&& act)) := fun i hi => by
  rw [BitVec.getLsbD_or, BitVec.getLsbD_and, BitVec.getLsbD_and, BitVec.getLsbD_not, getLsbD_bitsFrom f hi, decide_eq_true hi]
  cases act.getLsbD i <;> simp
theorem MaskBits.congr {x act y : W32} {f g : Nat → Bool} (h : MaskBits x act f y) (hfg : ∀ i, i < 32 → f i = g i) :
    MaskBits x act g y := fun i hi => by rw [h i hi, hfg i hi]
theorem VRel.holds_ne {w : Nat} (sg : Bool) (x y : BitVec w) : VRel.ne.holds sg x y = decide (x ≠ y) := (decide_not ..).symm

section
variable {i : Instr} {s : State} {d mg : MR} (h : runs i s = true)
include h

/-- R70: an instruction that writes the bits of one mask under the guard. -/
theorem strandOp_setMaskBits {eff : State → Res} {f g : Nat → Bool} (heff : eff s = .next (setMaskBits d (s.mr mg) f s))
    (hfg : ∀ k, k < 32 → f k = g k) :
    ∃ w, strandOp i s eff = .next (s.setM d w) ∧ MaskBits (s.mr d) (s.mr mg) g w :=
  ⟨_, (strandOp_runs eff h).trans heff, (maskBits_bitsFrom (s.mr d) (s.mr mg) f).congr hfg⟩

variable {o : VRel} {a b : VR} {g : Nat → Bool}

theorem vCmpOp_32 {t : VTy} (ht : t ≠ .i64)
    (hg : ∀ k, k < 32 → o.holds (t != .z32) ((s.vr a).lane k) ((s.vr b).lane k) = g k) :
    ∃ w, strandOp i s (vCmpOp o t d a b mg) = .next (s.setM d w) ∧ MaskBits (s.mr d) (s.mr mg) g w :=
  strandOp_setMaskBits h rfl fun k hk => (if_neg ht).trans (hg k hk)
theorem vCmpOp_64 (hg : ∀ k, k < 32 → o.holds true (s.elem a k) (s.elem b k) = g k) :
    ∃ w, strandOp i s (vCmpOp o .i64 d a b mg) = .next (s.setM d w) ∧ MaskBits (s.mr d) (s.mr mg) g w :=
  strandOp_setMaskBits h rfl fun k hk => (if_pos rfl).trans (hg k hk)

end

/-- Settles O16: the relations and the operations on masks, bit by bit. -/
theorem vectorComparesAndMasks : Obligations.VectorComparesAndMasks := by
  refine ⟨?_, ?_, ?_, ?_, ?_, ?_, ?_, ?_, ?_, ?_, ?_, ?_, fun d a b mg s h => ?_, fun d a b mg s h => ?_, fun d a b mg s h => ?_,
    fun d a b mg s h => ?_, fun d a mg s h => ?_, fun d a mg s h => ?_, fun d a mg s h => ?_, fun d a mg s h => ?_⟩
  iterate 2 · exact fun d a b mg s h => vCmpOp_32 h (by decide) fun _ _ => rfl
  · exact fun d a b mg s h => vCmpOp_64 h fun _ _ => rfl
  iterate 2 · exact fun d a b mg s h => vCmpOp_32 h (by decide) fun _ _ => VRel.holds_ne ..
  · exact fun d a b mg s h => vCmpOp_64 h fun _ _ => VRel.holds_ne ..
  iterate 2
    · exact fun d a b mg s h => vCmpOp_32 h (by decide) fun _ _ => rfl
    · exact fun d a b mg s h => vCmpOp_32 h (by decide) fun _ _ => rfl
    · exact fun d a b mg s h => vCmpOp_64 h fun _ _ => rfl
  · exact strandOp_setMaskBits (eff := maskOp (fun x y => x &&& y) d a b mg) h rfl fun _ _ => BitVec.getLsbD_and
  · exact strandOp_setMaskBits (eff := maskOp (fun x y => x ||| y) d a b mg) h rfl fun _ _ => BitVec.getLsbD_or
  · exact strandOp_setMaskBits (eff := maskOp (fun x y => x ^^^ y) d a b mg) h rfl fun _ _ => BitVec.getLsbD_xor
  · refine strandOp_setMaskBits (eff := maskOp (fun x y => x &&& ~~~y) d a b mg) h rfl fun k hk => ?_
    rw [BitVec.getLsbD_and, BitVec.getLsbD_not, decide_eq_true hk, Bool.true_and]
  · refine strandOp_setMaskBits (eff := maskNot d a mg) h rfl fun k hk => ?_
    rw [BitVec.getLsbD_not, decide_eq_true hk, Bool.true_and]
  · exact strandOp_setMaskBits (eff := maskFromG d a mg) h rfl fun _ _ => rfl
  · exact strandOp_setG d (fun t => (t.mr a &&& t.mr mg).setWidth 64) h
  · simp only [← BitVec.getLsbD_and, ← countOnes_eq]
    exact strandOp_setG d (fun t => BitVec.ofNat 64 (countOnes (t.mr a &&& t.mr mg))) h

/-! ### Floating point lane by lane (R166) -/

/-- R166: the flags of the active lanes, together. -/
def laneFlags (act : W32) (r : Nat → Flags) : Flags := ((List.range 32).filter act.getLsbD).foldl (fun f i => f ||| r i) 0

section
variable {i : Instr} {s : State} {mg : MR} (h : runs i s = true)
include h

/-- An instruction that writes the active lanes of one register and raises their flags together. -/
theorem strandOp_setFpLanes {eff : State → Res} {d : VR} {r : Nat → FpRes} (heff : eff s = setFpLanes d mg (vmk r) s) :
    (s.enabled (laneFlags (s.mr mg) fun k => (r k).fl) = 0 →
      ∃ y, strandOp i s eff = .next ((s.raise (laneFlags (s.mr mg) fun k => (r k).fl)).setV d y) ∧
        (s.vr d).Lanes (s.mr mg) (fun k => ⟨(r k).w, (r k).s⟩) y) ∧
    (s.enabled (laneFlags (s.mr mg) fun k => (r k).fl) ≠ 0 →
      strandOp i s eff = .next (s.trap 0x15 ((laneFlags (s.mr mg) fun k => (r k).fl).setWidth 64))) := by
  have hfl : unionFlags (s.mr mg) (vmk r) = laneFlags (s.mr mg) fun k => (r k).fl :=
    foldl_active_congr (fun f k hk => by rw [vget_vmk r hk]) 0
  rw [setFpLanes, hfl] at heff
  obtain ⟨hnext, htrap⟩ := strandOp_withFlags h heff
  refine ⟨fun h0 => ⟨_, hnext h0, ?_⟩, htrap⟩
  exact ((s.vr d).lanes_update (s.mr mg) _).congr fun k hk => by rw [vget_vmk r hk]

/-- A comparison lane by lane. -/
theorem strandOp_vFpCmp {o : FpCmp} {d : MR} {a b : VR} {r : Nat → Bool × Flags}
    (hr : r = fun k => fpCompare o ((s.vr a).lane k) ((s.vr b).lane k)) :
    (s.enabled (laneFlags (s.mr mg) fun k => (r k).2) = 0 →
      ∃ w, strandOp i s (vFpCmp o d a b mg) = .next ((s.raise (laneFlags (s.mr mg) fun k => (r k).2)).setM d w) ∧
        MaskBits (s.mr d) (s.mr mg) (fun k => (r k).1) w) ∧
    (s.enabled (laneFlags (s.mr mg) fun k => (r k).2) ≠ 0 →
      strandOp i s (vFpCmp o d a b mg) = .next (s.trap 0x15 ((laneFlags (s.mr mg) fun k => (r k).2).setWidth 64))) := by
  subst hr
  have heff : vFpCmp o d a b mg s = s.withFlags (laneFlags (s.mr mg) fun k => (fpCompare o ((s.vr a).lane k) ((s.vr b).lane k)).2)
      fun t => setMaskBits d (s.mr mg)
        (fun k => (vget (vmk fun k => fpCompare o ((s.vr a).lane k) ((s.vr b).lane k)) k (false, 0)).1) t :=
    congrArg (s.withFlags · _) (foldl_active_congr (fun f k hk => by rw [vget_vmk _ hk]) 0)
  obtain ⟨hnext, htrap⟩ := strandOp_withFlags h heff
  refine ⟨fun h0 => ⟨_, hnext h0, ?_⟩, htrap⟩
  exact (maskBits_bitsFrom (s.mr d) (s.mr mg) _).congr fun k hk => by rw [vget_vmk _ hk]

/-- R172: a reduction writes the root of its tree; over one active lane that is the lane itself. -/
theorem strandOp_reduce {eff : State → Res} {d : GR} {a : VR} {red : Bool} {f : FpRes → FpRes → FpRes} {r : FpRes}
    (hr : r = reduce red f (s.mr mg) (s.vr a)) (heff : eff s = fpWrite d r s) :
    (s.enabled r.fl = 0 → strandOp i s eff = .next ((s.raise r.fl).setGS d (r.w.setWidth 64) r.s)) ∧
    (s.enabled r.fl ≠ 0 → strandOp i s eff = .next (s.trap 0x15 (r.fl.setWidth 64))) ∧
    ∀ k, k < 32 → (∀ i, i < 32 → ((s.mr mg).getLsbD i = true ↔ i = k)) → r = ⟨(s.vr a).lane k, (s.vr a).laneS k, 0⟩ := by
  obtain ⟨hnext, htrap⟩ := strandOp_fpWrite h heff
  refine ⟨hnext, htrap, fun k hk hone => ?_⟩
  rw [hr, reduce, active_eq_singleton hk hone]

end

/-- Settles O17: each instruction is `setFpLanes` of the scalar operation on its lanes. -/
theorem vectorFloatingPoint : Obligations.VectorFloatingPoint := by
  refine ⟨?_, ?_, ?_, ?_, ?_, ?_, ?_, ?_, ?_, ?_, ?_, ?_, ?_, ?_, ?_, ?_, ?_⟩
  iterate 4 · exact fun t d a b mg s h => strandOp_setFpLanes (eff := vArith _ t d a b mg) h rfl
  · exact fun t d a mg s h => strandOp_setFpLanes (eff := vArith .sqrt t d a a mg) h rfl
  · exact fun t d a b c mg s h => strandOp_setFpLanes (eff := vFma t d a b c mg) h rfl
  iterate 2 · exact fun t d a b mg s h => strandOp_setFpLanes (eff := vPick _ d a b mg) h rfl
  iterate 2 · exact fun d a mg s h => strandOp_setFpLanes (eff := vSign _ d a mg) h rfl
  · exact fun t d a mg s h => strandOp_setFpLanes (eff := vCvt t d a mg) h rfl
  · exact fun t d a mg s h => strandOp_setFpLanes (eff := vFromInt t d a mg) h rfl
  · exact fun d a mg s h => strandOp_setFpLanes (eff := vToInt d a mg) h rfl
  iterate 4 · exact fun t d a mg s h => strandOp_setFpLanes (eff := vApprox _ t d a mg) h rfl

/-- Settles O18: a comparison lane by lane; a reduction is `fpWrite` of its root. -/
theorem vectorFpComparesAndReductions : Obligations.VectorFpComparesAndReductions := by
  refine ⟨?_, ?_, ?_, ?_, ?_, ?_, ?_⟩
  iterate 4 · exact fun d a b mg s h => strandOp_vFpCmp h rfl
  · exact fun t d a mg s h => strandOp_reduce (eff := vRed t d a mg) h rfl rfl
  iterate 2 · exact fun t d a mg s h => strandOp_reduce (eff := vRedPick _ d a mg) h rfl rfl

end Sys2Proof.Machine
end

section
/-!
SUPPORT. O19: where each lane of a permute comes from.
-/
namespace Sys2Proof.Machine
open Sys2Proof

/-- R176: the place of a lane among the active ones is the number of active lanes below it. -/
theorem rankOf_eq (act : W32) {i : Nat} (hi : i < 32) : rankOf act i = (List.range i).countP act.getLsbD := by
  have hsplit : List.range 32 = List.range i ++ (List.range (32 - i)).map (i + ·) := by
    rw [← List.range_add, Nat.add_sub_cancel' (Nat.le_of_lt hi)]
  have habove : ((List.range (32 - i)).map (i + ·)).countP (fun k => decide (k < i) && act.getLsbD k) = 0 := by
    rw [List.countP_eq_zero, List.forall_mem_map]
    exact fun k _ => by rw [decide_eq_false (by omega), Bool.false_and]; exact Bool.false_ne_true
  rw [rankOf, active, List.filter_filter, ← List.countP_eq_length_filter, hsplit, List.countP_append, habove, Nat.add_zero]
  exact List.countP_congr fun k hk => by rw [decide_eq_true (List.mem_range.mp hk), Bool.true_and]
/-- A register with those lanes replaced that a choice of lanes names. -/
theorem VReg.get_update_bitsFrom (x : VReg) (p : Nat → Bool) (f : Nat → Lane) {i : Nat} (h : i < 32) :
    (x.update (bitsFrom p) (vmk f)).get i = if p i then f i else x.get i := by
  rw [x.get_update _ _ h, getLsbD_bitsFrom p h, vget_vmk f h]
theorem State.laneNo_eq (s : State) (b : GR) : s.laneNo b = (s.g b).toNat % 32 := toNat_lowBits ..

section
variable {i : Instr} {s : State} {d : VR} {mg : MR} (h : runs i s = true)
include h

/-- R176: the active lanes of a come together at the low lanes of d. -/
theorem compressOp_lanes {a : VR} : ∃ y, strandOp i s (compressOp d a mg) = .next (s.setV d y) ∧
    ∀ k, k < 32 → y.get k =
      if k < (active (s.mr mg)).length then (s.vr a).get ((active (s.mr mg)).getD k 0) else (s.vr d).get k := by
  refine ⟨_, strandOp_runs _ h, fun k hk => ?_⟩
  rw [VReg.get_update_bitsFrom _ _ _ hk]
  simp only [decide_eq_true_eq]
/-- R177: one lane is replaced, where it is active. -/
theorem insOp_lanes {a b : GR} : ∃ y, strandOp i s (insOp d a b mg) = .next (s.setV d y) ∧
    ∀ k, k < 32 → y.get k =
      if (s.mr mg).getLsbD k ∧ k = (s.g b).toNat % 32 then ⟨s.gw a, s.gS a⟩ else (s.vr d).get k := by
  refine ⟨_, strandOp_runs _ h, fun k hk => ?_⟩
  rw [VReg.get_update _ _ _ hk, BitVec.getLsbD_and, getLsbD_bitsFrom _ hk, vget_vmk _ hk, s.laneNo_eq]
  simp only [Bool.and_eq_true, beq_iff_eq]
/-- R177: a lane that is not active is not read. -/
theorem extOp_lane {a : VR} {b d : GR} : strandOp i s (extOp d a b mg) =
    .next (if (s.mr mg).getLsbD ((s.g b).toNat % 32) then
      s.setGS d (((s.vr a).lane ((s.g b).toNat % 32)).setWidth 64) ((s.vr a).laneS ((s.g b).toNat % 32)) else s) := by
  rw [strandOp_runs _ h, extOp, s.laneNo_eq]
  split <;> rfl
/-- R176: the two halves of the lanes taken by turns. -/
theorem zipOp_lanes {a b : VR} {f : Nat → Lane} (hf : ∀ k, (if k % 2 = 0 then (s.vr a).get (k / 2) else (s.vr b).get (k / 2)) = f k) :
    ∃ y z, strandOp i s (zipOp d a b mg) = .next ((s.setV d y).setV (d + 1) z) ∧
    ∀ j, j < 32 → y.get j = (if (s.mr mg).getLsbD (j / 2) then f j else (s.vr d).get j) ∧
      z.get j = (if (s.mr mg).getLsbD ((32 + j) / 2) then f (32 + j) else (s.vr (d + 1)).get j) := by
  have hhalf (e : VR) (n : Nat) {j : Nat} (hj : j < 32) : (zipHalf s e a b mg n).get j =
      if (s.mr mg).getLsbD ((32 * n + j) / 2) then f (32 * n + j) else (s.vr e).get j := by
    rw [zipHalf, VReg.get_update_bitsFrom _ _ _ hj, hf]
  refine ⟨_, _, strandOp_runs _ h, fun j hj => ⟨?_, hhalf (d + 1) 1 hj⟩⟩
  rw [hhalf d 0 hj, Nat.mul_zero, Nat.zero_add]

end

/-- Settles O19: the lane that each lane of the destination takes. -/
theorem vectorPermutes : Obligations.VectorPermutes := by
  refine ⟨fun d a b mg s h => strandOp_setLanes (eff := permOp d a b mg) h rfl fun k _ => ?_,
    fun d a b mg s h => strandOp_setLanes (eff := slideOp d a b mg) h rfl fun k _ => ?_,
    fun d a mg s h => strandOp_setLanes (eff := bcastOp d a mg) h rfl fun _ _ => rfl,
    fun d a mg s h => strandOp_setLanes (eff := vmovOp d a mg) h rfl fun _ _ => rfl,
    fun d a mg s h => strandOp_setLanes (eff := expandOp d a mg) h rfl fun k hk => ?_,
    fun d a mg s h => compressOp_lanes h, fun d a b mg s h => insOp_lanes h, fun d a b mg s h => extOp_lane h,
    fun d a b mg s h => zipOp_lanes h fun _ => rfl,
    fun d a mg s h => strandOp_setGroup (eff := unzipOp d a mg) h rfl (fun _ _ => rfl) fun _ _ => rfl⟩
  · rw [BitVec.extractLsb'_toNat, Nat.shiftRight_zero]
  · have hle (n : Int) : n ≤ 31 ↔ n < 32 := by omega
    simp only [hle]
  · rw [rankOf_eq _ hk]

end Sys2Proof.Machine
end

section
/-!
SUPPORT. O30: what a vector access of the own LM passes, one lemma a stage, and the elements and images that fill a register.
-/
namespace Sys2Proof.Machine
open Sys2Proof

/-! ### Folds -/

/-- Two folds whose steps agree under what the second one's steps keep. -/
theorem foldl_congr_of_keeps {α β : Type} (P : α → Prop) {f g : α → β → α} (h : ∀ a b, P a → f a b = g a b ∧ P (g a b))
    (l : List β) {a : α} (ha : P a) : l.foldl f a = l.foldl g a := by
  induction l generalizing a with
  | nil => rfl
  | cons b l ih =>
    obtain ⟨heq, hkeep⟩ := h a b ha
    rw [List.foldl_cons, List.foldl_cons, heq, ih hkeep]

/-! ### The lanes of an access, each in the own LM (R184) -/

/-- R205: with no transfer in flight none of the own LM is held. -/
theorem State.ownLm_of_idle {s : State} {va : W64} {n o : Nat} (hte : (s.core s.cur.core).teQueue = [])
    (h : va = ownLmBase + BitVec.ofNat 64 o ∧ o % n = 0 ∧ o + n ≤ Config.lmBytes) : s.OwnLm va n o := by
  obtain ⟨hva, ho, hlen⟩ := h
  exact ⟨hva, ho, hlen, by simp [State.teHolds, hte]⟩

/-- The accesses of lanes at addresses that lie in the LM of core `c` at offsets `f`. -/
def ownLanes (c : Nat) (f : Nat → Nat) (addr : Nat → W64) (ls : List Nat) : List LaneAcc :=
  ls.map fun i => { lane := i, va := addr i, loc := .lm c (f i), attr := {} }

section
variable {s : State} {n : Nat} {ls : List Nat} {addr : Nat → W64} {f : Nat → Nat}

theorem State.locate_ownLm (hn : n ∣ 2 ^ 52) (h : ∀ i ∈ ls, s.OwnLm (addr i) n (f i)) (k : Kind) :
    s.locate k n (ls.map fun i => (i, addr i)) = .ok (ownLanes s.cur.core f addr ls) := by
  induction ls with
  | nil => rfl
  | cons i ls ih =>
    have hi := (h i List.mem_cons_self).lookup hn k
    have hr := ih fun j hj => h j (List.mem_cons_of_mem i hj)
    simp only [List.map_cons, State.locate, hi, hr]
    rfl
/-- R141, R184: no lane is misaligned, none faults, none is held. -/
theorem lanesThen_ownLm (hn : n ∣ 2 ^ 52) (h : ∀ i ∈ ls, s.OwnLm (addr i) n (f i)) (k : Kind) (g : List LaneAcc → State → Res) :
    lanesThen k n (ls.map fun i => (i, addr i)) g s = g (ownLanes s.cur.core f addr ls) s := by
  have halign : (ls.map fun i => (i, addr i)).find? (fun x => x.2.toNat % n != 0) = none := by
    rw [List.find?_eq_none, List.forall_mem_map]
    exact fun i hi => by rw [(h i hi).aligned hn]; exact Bool.false_ne_true
  have hfree : (ownLanes s.cur.core f addr ls).any (fun x => s.teHolds s.cur.core x.loc n) = false := by
    simp only [ownLanes, List.any_map, List.any_eq_false]
    intro i hi
    obtain ⟨-, -, -, hfree⟩ := h i hi
    simp [hfree]
  simp only [lanesThen, halign, State.locate_ownLm hn h k, hfree, Bool.false_eq_true, if_false]

theorem ownLanes_places (c : Nat) : (ownLanes c f addr ls).map (·.place) = ls.map fun i => (Loc.lm c (f i), {}) := by
  rw [ownLanes, List.map_map]; rfl
/-- R146, R346: no place of the own LM is a line of another unit. -/
theorem afterHeld_ownLanes (c : Nat) (k : State → Res) (hc : c = s.cur.core) :
    afterHeld ((ownLanes c f addr ls).map (·.place)) n k s = k s := by
  subst hc
  have hdest : (ls.map fun i => (Loc.lm s.cur.core (f i), {})).filterMap (s.heldDest n) = [] := by
    rw [List.filterMap_eq_nil_iff, List.forall_mem_map]
    exact fun i _ => by rw [State.heldDest, aggDest_ownLm]
  have hopen : (ls.map fun i => (Loc.lm s.cur.core (f i), {})).any (s.writeOpen n) = false := by
    rw [List.any_eq_false, List.forall_mem_map]
    exact fun i _ => Bool.false_ne_true
  simp only [ownLanes_places, afterHeld, hdest, hopen, Bool.false_eq_true, if_false]
theorem fillsThen_ownLanes (c : Nat) (k : State → Res) (s : State) : fillsThen ((ownLanes c f addr ls).map (·.place)) k s = k s := by
  rw [fillsThen, if_neg]
  rw [ownLanes_places, Bool.not_eq_true, List.any_eq_false, List.forall_mem_map]
  exact fun i _ => Bool.false_ne_true
theorem destsThen_ownLanes (k : State → Res) : destsThen (s.laneDests (ownLanes s.cur.core f addr ls)) k s = k s := by
  have hdests : (ownLanes s.cur.core f addr ls).filterMap (fun x => s.aggDest s.cur.core x.loc x.attr false) = [] := by
    rw [List.filterMap_eq_nil_iff, ownLanes, List.forall_mem_map]
    exact fun i _ => aggDest_ownLm ..
  have hnone : s.laneDests (ownLanes s.cur.core f addr ls) = [] := by rw [State.laneDests, hdests]; rfl
  simp only [hnone, destsThen, State.flushDests, List.foldl_nil, destsClear_nil, if_true]

/-! ### Loads (R185, R186, R189) -/

/-- R184: a destination in a vector register. -/
def Dest.vector : Dest → Option VR
  | .lane v _ _ | .bcast v _ _ | .image v _ => some v
  | _ => none

/-- What the loads of one bundle's lanes leave alone. -/
def State.SameIssue (s t : State) : Prop := t.cur = s.cur ∧ t.issueCycle = s.issueCycle ∧ t.mem = s.mem

theorem State.issueCycle_congr {s t : State} (hcur : t.cur = s.cur) (hisl : t.islands = s.islands)
    (hiss : (t.slotOf s.cur.core s.cur.slot).lastIssue = (s.slotOf s.cur.core s.cur.slot).lastIssue) : t.issueCycle = s.issueCycle := by
  simp only [State.issueCycle, State.now, State.cycle, hcur, hisl, hiss]
theorem State.raisePts_islands (s : State) (c t : Nat) : (s.raisePts c t).islands = s.islands := by
  unfold State.raisePts; split <;> rfl
theorem State.nearTime_islands (s : State) (c : Nat) : (s.nearTime c).islands = s.islands := by
  cases h : s.ccOn (clusterOf c)
  · rw [State.nearTime_off h]
  · rw [State.nearTime_on h]; exact s.raisePts_islands ..
theorem State.nearTime_issueCycle (s : State) (c : Nat) : (s.nearTime c).issueCycle = s.issueCycle :=
  State.issueCycle_congr (s.nearTime_cur c) (s.nearTime_islands c) (by rw [s.nearTime_slotOf])
/-- R65, R184: data on its way to a vector register marks it, and asks of its core. -/
theorem State.arriveAt_vector {d : Dest} {v : VR} (hd : d.vector = some v) (s : State) (k : AccKind) (l : Loc) (n : Nat) (va : W64)
    (cyc : Nat) (bs : List Byte) : ∃ q, s.arriveAt d k l n va cyc bs false =
      (({ s with token := s.token + 1 }.modStrand fun x => { x with vpend := x.vpend ||| ((1 : BitVec 32) <<< v.toNat) }).addReq q) := by
  cases d with
  | lane | bcast | image => exact ⟨_, by rw [← Option.some.inj hd]; rfl⟩
  | none_ | held | g | pair | gS => cases hd
theorem State.arriveAt_vector_sameIssue {d : Dest} (hd : d.vector.isSome = true) (s : State) (k : AccKind) (l : Loc) (n : Nat) (va : W64)
    (cyc : Nat) (bs : List Byte) : s.SameIssue (s.arriveAt d k l n va cyc bs false) := by
  obtain ⟨v, hv⟩ := Option.isSome_iff_exists.mp hd
  obtain ⟨q, hq⟩ := State.arriveAt_vector hv s k l n va cyc bs
  rw [hq]
  refine ⟨rfl, State.issueCycle_congr rfl rfl ?_, rfl⟩
  rw [State.addReq, State.slotOf_setCore_same (by rfl)]
  exact State.slotOf_setSlot_part Slot.lastIssue (by rfl) _ _

theorem vecLoad_ownLm (hn : n ∣ 2 ^ 52) (h : ∀ i ∈ ls, s.OwnLm (addr i) n (f i)) {d : Nat → Dest} (hd : ∀ i, (d i).vector.isSome = true) :
    vecLoad n .core (ls.map fun i => (i, addr i)) d s = .next (ls.foldl (fun t i => (t.nearTime s.cur.core).arriveAt (d i) .load
      (.lm s.cur.core (f i)) n (addr i) (s.issueCycle + 8) (s.readAt (.lm s.cur.core (f i)) n) false) s) := by
  rw [vecLoad, lanesThen_ownLm hn h, afterHeld_ownLanes _ _ rfl, ownLanes, List.foldl_map, State.acquireAfter, if_pos rfl]
  refine congrArg _ (foldl_congr_of_keeps s.SameIssue (fun t i ht => ?_) ls ⟨rfl, rfl, rfl⟩)
  obtain ⟨hcur, hcyc, hmem⟩ := ht
  obtain ⟨acur, acyc, amem⟩ := State.arriveAt_vector_sameIssue (hd i) (t.nearTime s.cur.core) .load (.lm s.cur.core (f i)) n (addr i)
    (s.issueCycle + 8) (s.readAt (.lm s.cur.core (f i)) n)
  refine ⟨?_, acur.trans ((t.nearTime_cur _).trans hcur), acyc.trans ((t.nearTime_issueCycle _).trans hcyc),
    amem.trans ((t.nearTime_mem _).trans hmem)⟩
  simp only [loadAt, hcur, hcyc, State.readAt, hmem, if_true]
  rfl

/-! ### Stores (R185 to R187, R189) -/

theorem plainWrite_ownLm {t : State} (hcur : t.cur = s.cur) (o : Nat) (a : PageAttr) (va : W64) (bs : List Byte) :
    plainWrite (.lm s.cur.core o) a va bs t = (t.nearTime s.cur.core).writeAt (.lm s.cur.core o) bs := by
  have hnear : (Loc.lm s.cur.core o).near s.cur.core = true := beq_self_eq_true _
  simp only [plainWrite, hcur, hnear, if_true, State.nearWrite]
  rfl
theorem vecStore_ownLm (hn : n ∣ 2 ^ 52) (h : ∀ i ∈ ls, s.OwnLm (addr i) n (f i)) (data : Nat → List Byte) :
    vecStore n .core (ls.map fun i => (i, addr i)) data s =
      .next (ls.foldl (fun t i => (t.nearTime s.cur.core).writeAt (.lm s.cur.core (f i)) (data i)) s) := by
  rw [vecStore, lanesThen_ownLm hn h, if_pos rfl, afterHeld_ownLanes _ _ rfl, fillsThen_ownLanes, destsThen_ownLanes, ownLanes,
    List.foldl_map]
  exact congrArg _ (foldl_congr_of_keeps (·.cur = s.cur)
    (fun t i ht => ⟨plainWrite_ownLm ht .., (t.nearTime_cur _).trans ht⟩) ls rfl)
/-- R187: a lane whose destination is no other unit's is written at once. -/
theorem State.scatter_ownLm {t : State} (hcur : t.cur = s.cur) (v : VR) (ls : List Nat) : t.scatter v (ownLanes s.cur.core f addr ls) =
    some (ls.foldl (fun t i => (t.nearTime s.cur.core).writeAt (.lm s.cur.core (f i)) (s.laneBytes v i)) t) := by
  induction ls generalizing t with
  | nil => rfl
  | cons i ls ih =>
    have hbytes : t.laneBytes v i = s.laneBytes v i := by simp only [State.laneBytes, State.vr, hcur]
    have hdest : t.aggDest t.cur.core (.lm s.cur.core (f i)) {} false = none := by rw [hcur, aggDest_ownLm]
    simp only [ownLanes, List.map_cons, State.scatter, hdest, plainWrite_ownLm hcur, hbytes, List.foldl_cons]
    exact ih ((t.nearTime_cur _).trans hcur)
theorem vecScatter_ownLm (h : ∀ i ∈ ls, s.OwnLm (addr i) 4 (f i)) (v : VR) :
    vecScatter v (ls.map fun i => (i, addr i)) s =
      .next (ls.foldl (fun t i => (t.nearTime s.cur.core).writeAt (.lm s.cur.core (f i)) (s.laneBytes v i)) s) := by
  have hall : (ownLanes s.cur.core f addr ls).filter (fun x => (s.aggDest s.cur.core x.loc x.attr false).isNone) =
      ownLanes s.cur.core f addr ls := by
    rw [List.filter_eq_self, ownLanes, List.forall_mem_map]
    exact fun i _ => by rw [aggDest_ownLm]; rfl
  simp only [vecScatter, lanesThen_ownLm (by decide) h, hall, afterHeld_ownLanes _ _ rfl, fillsThen_ownLanes, State.scatter_ownLm rfl]

end

/-! ### Registers filled lane by lane and word by word (R184, R22) -/

theorem rset_rset (v : Vector α 32) (r : BitVec 5) (a b : α) : rset (rset v r a) r b = rset v r b := by
  simp [rset, Vector.set_set]
theorem rset_rget (v : Vector α 32) (r : BitVec 5) : rset v r (rget v r) = v := Vector.set_getElem_self _
theorem vset_vset (v : Vector α n) (i : Nat) (a b : α) : vset (vset v i a) i b = vset v i b := by
  simp [vset]
/-- R184: an element that fills a lane clears its S. -/
theorem VReg.get_setLane (x : VReg) (i : Nat) (w : W32) {j : Nat} (hj : j < 32) :
    (x.setLane i w).get j = if j = i then ⟨w, false⟩ else x.get j := by
  have hbit : (x.s &&& ~~~((1 : BitVec 32) <<< i)).getLsbD j = (x.s.getLsbD j && !decide (j = i)) := by
    have hone : ((1 : BitVec 32) <<< i).getLsbD j = decide (j = i) := by
      rw [show (1 : BitVec 32) <<< i = BitVec.twoPow 32 i from rfl, BitVec.getLsbD_twoPow, ← Bool.decide_and, decide_eq_decide]
      omega
    rw [BitVec.getLsbD_and, BitVec.getLsbD_not, hone, decide_eq_true hj, Bool.true_and]
  simp only [VReg.get, VReg.setLane, VReg.lane, VReg.laneS, hbit]
  by_cases h : j = i
  · subst h
    rw [vget_vset_self _ _ _ hj, if_pos rfl, decide_eq_true rfl, Bool.not_true, Bool.and_false]
  · rw [vget_vset_ne _ _ _ h, if_neg h, decide_eq_false h, Bool.not_false, Bool.and_true]
theorem VReg.get_foldl_setLane (w : Nat → W32) (ls : List Nat) (x : VReg) {j : Nat} (hj : j < 32) :
    (ls.foldl (fun y i => y.setLane i (w i)) x).get j = if j ∈ ls then ⟨w j, false⟩ else x.get j := by
  induction ls generalizing x with
  | nil => rfl
  | cons i ls ih =>
    rw [List.foldl_cons, ih, x.get_setLane i _ hj]
    by_cases h : j = i
    · subst h; simp
    · simp [h]
theorem VReg.lanes_foldl_setLane (w : Nat → W32) (act : W32) (x : VReg) :
    x.Lanes act (fun i => ⟨w i, false⟩) ((active act).foldl (fun y i => y.setLane i (w i)) x) := fun j hj => by
  simp only [VReg.get_foldl_setLane w _ x hj, mem_active, hj, true_and]
/-- Elements delivered one after the other to lanes of one register. -/
theorem Strand.foldl_deliver_lane (x : Strand) (v : VR) (mt : MTy) (f : Nat → List Byte) (ls : List Nat) :
    ls.foldl (fun y i => y.deliver (.lane v i mt) (f i) false) x =
      { x with v := rset x.v v (ls.foldl (fun y i => y.setLane i (MTy.widen mt (f i))) (rget x.v v)) } := by
  induction ls generalizing x with
  | nil => rw [List.foldl_nil, List.foldl_nil, rset_rget]
  | cons i ls ih =>
    rw [List.foldl_cons, ih, List.foldl_cons]
    simp only [Strand.deliver, rset_rset, rget_rset, if_true]
theorem Strand.deliver_bcast (x : Strand) (v : VR) (act : W32) (mt : MTy) (bs : List Byte) : x.deliver (.bcast v act mt) bs false =
    { x with v := rset x.v v ((active act).foldl (fun y i => y.setLane i (MTy.widen mt bs)) (rget x.v v)) } := by
  rw [active, List.foldl_filter]; rfl
/-- R184: elements fill the active lanes of their register, and nothing else of the strand. -/
theorem Strand.fillLanes_spec (x : Strand) (v : VR) (act : W32) (w : Nat → W32) :
    let y : Strand := { x with v := rset x.v v ((active act).foldl (fun y i => y.setLane i (w i)) (rget x.v v)) }
    (rget x.v v).Lanes act (fun i => ⟨w i, false⟩) (rget y.v v) ∧ (∀ r, r ≠ v → rget y.v r = rget x.v r) ∧ y = { x with v := y.v } := by
  refine ⟨?_, fun r hr => by rw [rget_rset, if_neg hr], rfl⟩
  rw [rget_rset, if_pos rfl]
  exact (rget x.v v).lanes_foldl_setLane w act

/-! ### The image of a register (R22) -/

theorem word_of_bytes (w : W32) : BitVec.ofNat 32 (leNat (leBytes 4 w.toNat)) = w := by
  apply BitVec.eq_of_toNat_eq
  rw [leNat_leBytes, BitVec.toNat_ofNat]
  omega
theorem leBytes_leNat (l : List Byte) : leBytes l.length (leNat l) = l := by
  induction l with
  | nil => rfl
  | cons b l ih =>
    have hb := b.isLt
    rw [List.length_cons, leBytes, leNat, show (b.toNat + 256 * leNat l) / 256 = leNat l by omega, ih]
    congr 1
    apply BitVec.eq_of_toNat_eq
    rw [BitVec.toNat_ofNat]
    omega
theorem leNat_lt (l : List Byte) : leNat l < 256 ^ l.length := by
  induction l with
  | nil => exact Nat.one_pos
  | cons b l ih =>
    have hb := b.isLt
    rw [leNat, List.length_cons, Nat.pow_succ]
    omega
theorem bytes_of_word {l : List Byte} (h : l.length = 4) : leBytes 4 (BitVec.ofNat 32 (leNat l)).toNat = l := by
  have hlt := leNat_lt l
  have hl := leBytes_leNat l
  rw [h] at hlt hl
  rwa [BitVec.toNat_ofNat, Nat.mod_eq_of_lt (show leNat l < 2 ^ 32 from hlt)]

/-- A word with one of its bytes replaced, as an image puts it in. -/
def setByte (w : W32) (k : Nat) (b : Byte) : W32 := BitVec.ofNat 32 (leNat (overwrite (leBytes 4 w.toNat) k [b]))

theorem leBytes_setByte (w : W32) {k : Nat} (hk : k < 4) (b : Byte) :
    leBytes 4 (setByte w k b).toNat = overwrite (leBytes 4 w.toNat) k [b] := by
  refine bytes_of_word ?_
  rw [overwrite, List.length_append, List.length_append, List.length_take, List.length_drop, leBytes_length, List.length_singleton]
  omega
/-- Its four bytes, put in one after the other, make a word. -/
theorem setByte_all (v w : W32) {p q r t : Byte} (hw : leBytes 4 w.toNat = [p, q, r, t]) :
    setByte (setByte (setByte (setByte v 0 p) 1 q) 2 r) 3 t = w := by
  have hbytes : leBytes 4 (setByte (setByte (setByte (setByte v 0 p) 1 q) 2 r) 3 t).toNat = leBytes 4 w.toNat := by
    rw [hw, leBytes_setByte _ (by decide), leBytes_setByte _ (by decide), leBytes_setByte _ (by decide), leBytes_setByte _ (by decide)]
    rfl
  rw [← word_of_bytes (setByte _ _ _), hbytes, word_of_bytes]

/-- One byte of an image put in. -/
def VReg.putByte (y : VReg) (k : Nat) (b : Byte) : VReg :=
  if k < 128 then { y with w := vset y.w (k / 4) (setByte (vget y.w (k / 4) 0) (k % 4) b) } else { y with s := setByte y.s (k - 128) b }

theorem VReg.putImage_bytes (y : VReg) (o : Nat) (p q r t : Byte) :
    y.putImage o [p, q, r, t] = (((y.putByte o p).putByte (o + 1) q).putByte (o + 2) r).putByte (o + 3) t := rfl
theorem VReg.putByte_word (y : VReg) {i k : Nat} (hi : i < 32) (hk : k < 4) (b : Byte) :
    y.putByte (4 * i + k) b = { y with w := vset y.w i (setByte (vget y.w i 0) k b) } := by
  rw [VReg.putByte, if_pos (by omega), show (4 * i + k) / 4 = i by omega, show (4 * i + k) % 4 = k by omega]
theorem VReg.putImage_word (y : VReg) (w : W32) {i : Nat} (hi : i < 32) :
    y.putImage (4 * i) (leBytes 4 w.toNat) = { y with w := vset y.w i w } := by
  obtain ⟨p, q, r, t, hw⟩ : ∃ p q r t, leBytes 4 w.toNat = [p, q, r, t] := ⟨_, _, _, _, rfl⟩
  have hfirst := y.putByte_word hi (k := 0) (by decide) p
  rw [Nat.add_zero] at hfirst
  rw [hw, VReg.putImage_bytes, hfirst, VReg.putByte_word _ hi (by decide), VReg.putByte_word _ hi (by decide),
    VReg.putByte_word _ hi (by decide)]
  simp only [vget_vset_self _ _ _ hi, vset_vset, setByte_all _ w hw]
theorem VReg.putImage_s (y : VReg) (w : W32) : y.putImage 128 (leBytes 4 w.toNat) = { y with s := w } := by
  obtain ⟨p, q, r, t, hw⟩ : ∃ p q r t, leBytes 4 w.toNat = [p, q, r, t] := ⟨_, _, _, _, rfl⟩
  rw [hw, VReg.putImage_bytes]
  exact congrArg (fun v => ({ y with s := v } : VReg)) (setByte_all y.s w hw)

theorem VReg.ext_lanes {x y : VReg} (hw : ∀ i, i < 32 → x.lane i = y.lane i) (hs : x.s = y.s) : x = y := by
  have hvec : x.w = y.w := Vector.ext fun i hi => by simpa [VReg.lane, vget, hi] using hw i hi
  exact congr (congrArg VReg.mk hvec) hs
/-- The words of a register's image put in from the first on. -/
theorem VReg.foldl_putImage_lane (x z : VReg) {n : Nat} (hn : n ≤ 32) :
    ∀ i, i < n → ((List.range n).foldl (fun y i => y.putImage (4 * i) (leBytes 4 (x.lane i).toNat)) z).lane i = x.lane i := by
  induction n with
  | zero => exact fun i hi => absurd hi (Nat.not_lt_zero i)
  | succ n ih =>
    intro i hi
    have hlane := ih (Nat.le_of_succ_le hn) i
    simp only [List.range_succ, List.foldl_append, List.foldl_cons, List.foldl_nil, VReg.putImage_word _ _ (Nat.lt_of_succ_le hn),
      VReg.lane]
    rcases Nat.lt_succ_iff_lt_or_eq.mp hi with hlt | rfl
    · rw [vget_vset_ne _ _ _ (Nat.ne_of_lt hlt)]
      exact hlane hlt
    · rw [vget_vset_self _ _ _ (Nat.lt_of_succ_le hn)]
/-- R22, R189: a register filled with the image of another is that register. -/
theorem VReg.foldl_putImage (x z : VReg) :
    (List.range 33).foldl (fun y i => y.putImage (4 * i) (leBytes 4 (if i < 32 then x.lane i else x.s).toNat)) z = x := by
  have hlanes : (List.range 32).foldl (fun y i => y.putImage (4 * i) (leBytes 4 (if i < 32 then x.lane i else x.s).toNat)) z =
      (List.range 32).foldl (fun y i => y.putImage (4 * i) (leBytes 4 (x.lane i).toNat)) z :=
    List.foldl_rel (r := Eq) rfl fun i hi y _ hy => by rw [if_pos (List.mem_range.mp hi), hy]
  have hfill := x.foldl_putImage_lane z (Nat.le_refl 32)
  rw [List.range_succ, List.foldl_append, hlanes, List.foldl_cons, List.foldl_nil, if_neg (Nat.lt_irrefl 32), VReg.putImage_s]
  generalize (List.range 32).foldl (fun y i => y.putImage (4 * i) (leBytes 4 (x.lane i).toNat)) z = y at hfill
  exact VReg.ext_lanes hfill rfl

/-! ### The addresses of the lanes (R185, R186, R189) -/

section
variable {s : State} (hte : (s.core s.cur.core).teQueue = [])
include hte

theorem ownLm_of_active {mg : MR} {n : Nat} {addr : Nat → W64} {f : Nat → Nat}
    (hf : ∀ i, i < 32 → (s.mr mg).getLsbD i = true →
      addr i = ownLmBase + BitVec.ofNat 64 (f i) ∧ f i % n = 0 ∧ f i + n ≤ Config.lmBytes) :
    ∀ i ∈ active (s.mr mg), s.OwnLm (addr i) n (f i) := fun i hi => by
  obtain ⟨hlt, hbit⟩ := mem_active.mp hi
  exact State.ownLm_of_idle hte (hf i hlt hbit)
theorem ownLm_of_image {va : W64} {o : Nat} (hva : va = ownLmBase + BitVec.ofNat 64 o) (ho : o % 4 = 0) (hlen : o + 132 ≤ Config.lmBytes) :
    ∀ i ∈ List.range 33, s.OwnLm (va + BitVec.ofNat 64 (4 * i)) 4 (o + 4 * i) := fun i hi => by
  have hlt := List.mem_range.mp hi
  exact State.ownLm_of_idle hte ⟨by rw [hva, BitVec.ofNat_add, BitVec.add_assoc], by omega, by omega⟩

end

theorem MTy.bytes_dvd (mt : MTy) : MTy.bytes mt ∣ 2 ^ 52 := by cases mt <;> decide

/-- Settles O30: the accesses by the stages above, the delivered elements and images by the lanes they fill. -/
theorem vectorMemoryInOwnLm : Obligations.VectorMemoryInOwnLm := by
  refine ⟨fun v b mg off s f h hte hf => (strandOp_runs _ h).trans (vecLoad_ownLm (by decide) (ownLm_of_active hte hf) fun _ => rfl),
    fun v b c mg mt s f h hte hf => (strandOp_runs _ h).trans (vecLoad_ownLm (MTy.bytes_dvd mt) (ownLm_of_active hte hf) fun _ => rfl),
    fun v b c mg mt s f h hte hf => (strandOp_runs _ h).trans (vecLoad_ownLm (MTy.bytes_dvd mt) (ownLm_of_active hte hf) fun _ => rfl),
    fun v b mg mt s o h ho => (strandOp_runs _ h).trans (vecLoad_ownLm (ls := [0]) (addr := fun _ => s.g b) (f := fun _ => o)
      (d := fun _ => .bcast v (s.mr mg) mt) (MTy.bytes_dvd mt) (fun _ _ => ho) fun _ => rfl),
    fun x v act mt f bs => ⟨?_, ?_, fun k => rfl⟩,
    fun v b mg off s f h hte hf => (strandOp_runs _ h).trans (vecStore_ownLm (by decide) (ownLm_of_active hte hf) _),
    fun v b c mg s f h hte hf => (strandOp_runs _ h).trans (vecScatter_ownLm (ownLm_of_active hte hf) v),
    fun v b c mg s f h hte hf => (strandOp_runs _ h).trans (vecScatter_ownLm (ownLm_of_active hte hf) v),
    fun v b s o h hb ho hlen hte => ?_,
    fun v b s o h hb ho hlen hte => (strandOp_runs _ h).trans
      (vecLoad_ownLm (by decide) (ownLm_of_image hte hb ho hlen) fun _ => rfl),
    VReg.foldl_putImage⟩
  · intro y
    rw [show y = _ from x.foldl_deliver_lane v mt f (active act)]
    exact x.fillLanes_spec v act fun i => MTy.widen mt (f i)
  · rw [x.deliver_bcast]
    exact x.fillLanes_spec v act fun _ => MTy.widen mt bs
  · have hbytes (i : Nat) : (if i < 32 then s.laneBytes v i else leBytes 4 (s.vr v).s.toNat) =
        leBytes 4 (if i < 32 then (s.vr v).lane i else (s.vr v).s).toNat := by split <;> rfl
    simp only [← hbytes]
    exact (strandOp_runs _ h).trans (vecStore_ownLm (by decide) (ownLm_of_image hte hb ho hlen) _)

end Sys2Proof.Machine
end

section
/-!
SUPPORT. O20: bytes and codes of a register's image, the scale of a block, and the generator beside the flags.
-/
namespace Sys2Proof.Machine
open Sys2Proof

/-! ### Bytes of an image (R27, R179) -/

theorem vmk_congr {α : Type} {f g : Nat → α} (h : ∀ i, i < 32 → f i = g i) : vmk f = vmk g := by
  have hmap : (List.range 32).map f = (List.range 32).map g := List.map_congr_left fun i hi => h i (List.mem_range.mp hi)
  simp only [vmk, hmap]
theorem VReg.length_image (x : VReg) : x.image.length = 128 := by rw [VReg.image, List.length_map, List.length_range]
theorem VReg.getD_image (x : VReg) {k : Nat} (hk : k < 128) : x.image.getD k 0 = (x.lane (k / 4)).extractLsb' (8 * (k % 4)) 8 := by
  rw [VReg.image, List.getD_eq_getElem?_getD, List.getElem?_map, List.getElem?_range hk]
  apply BitVec.eq_of_toNat_eq
  simp [BitVec.extractLsb'_toNat]
/-- Byte `j` of a little-endian number. -/
theorem getD_leNat (l : List Byte) (j : Nat) : BitVec.ofNat 8 (leNat l / 256 ^ j) = l.getD j 0 := by
  induction l generalizing j with
  | nil => simp [leNat]
  | cons b l ih =>
    have hb := b.isLt
    cases j with
    | zero =>
      apply BitVec.eq_of_toNat_eq
      rw [leNat, Nat.pow_zero, Nat.div_one, BitVec.toNat_ofNat, List.getD_cons_zero]
      omega
    | succ j =>
      rw [leNat, List.getD_cons_succ, ← ih, Nat.pow_succ', ← Nat.div_div_eq_div_mul, show (b.toNat + 256 * leNat l) / 256 = leNat l by omega]
theorem leNat_take_succ (l : List Byte) (o n : Nat) :
    leNat ((l.drop o).take (n + 1)) = (l.getD o 0).toNat + 256 * leNat ((l.drop (o + 1)).take n) := by
  rcases Nat.lt_or_ge o l.length with h | h
  · rw [List.drop_eq_getElem_cons h, List.take_succ_cons, leNat, List.getD_eq_getElem?_getD, List.getElem?_eq_getElem h]; rfl
  · simp [List.drop_eq_nil_of_le h, List.drop_eq_nil_of_le (Nat.le_succ_of_le h), h, leNat]
theorem leNat_take_one (l : List Byte) (o : Nat) : leNat ((l.drop o).take 1) = (l.getD o 0).toNat := leNat_take_succ l o 0

/-- R27: the nibbles of a byte. -/
theorem toNat_nibble (b : Byte) (j : Nat) : (b.extractLsb' (4 * (j % 2)) 4).toNat = if j % 2 = 0 then b.toNat % 16 else b.toNat / 16 := by
  have hb := b.isLt
  rw [BitVec.extractLsb'_toNat, Nat.shiftRight_eq_div_pow]
  rcases Nat.mod_two_eq_zero_or_one j with h | h
  · rw [if_pos h, h]; simp
  · rw [if_neg (by omega), h]; omega

/-- R179: the code of an element by the bytes that hold it. -/
theorem Fm.codeAt_e2m1 (img : List Byte) (i : Nat) :
    Fm.codeAt .e2m1 img i = ((img.getD (i / 2) 0).extractLsb' (4 * (i % 2)) 4).toNat := by
  rw [toNat_nibble, ← leNat_take_one]; rfl
theorem Fm.codeAt_byte {f : Fm} (hf : f.bytes = 1) (hne : f ≠ .e2m1) (img : List Byte) (i : Nat) :
    f.codeAt img i = (img.getD i 0).toNat % 2 ^ f.bits := by
  simp only [Fm.codeAt, Fm.place, if_neg hne, hf, Nat.one_mul, leNat_take_one, pow2]
theorem Fm.codeAt_two {f : Fm} (hf : f.bytes = 2) (img : List Byte) (i : Nat) :
    f.codeAt img i = (img.getD (2 * i) 0).toNat + 256 * (img.getD (2 * i + 1) 0).toNat := by
  have hne : f ≠ .e2m1 := by rintro rfl; cases hf
  have hbits : f.bits = 16 := by
    cases f with
    | bf16 | f16 => rfl
    | f32 | e4m3 | e5m2 | e3m2 | e2m3 | e2m1 | mi8 => cases hf
  have hlo := (img.getD (2 * i) 0).isLt
  have hhi := (img.getD (2 * i + 1) 0).isLt
  simp only [Fm.codeAt, Fm.place, if_neg hne, hf, hbits, leNat_take_succ img _ 1, leNat_take_one, pow2]
  omega

/-- The image of a register made from an image of 128 bytes is that image. -/
theorem VReg.getD_image_imageLane {img : List Byte} (h : img.length = 128) (b : W32) (k : Nat) :
    (VReg.image { w := vmk (imageLane img), s := b }).getD k 0 = img.getD k 0 := by
  rcases Nat.lt_or_ge k 128 with hk | hk
  · have hlen : ((img.drop (4 * (k / 4))).take 4).length = 4 := by rw [List.length_take, List.length_drop]; omega
    have hlt := leNat_lt ((img.drop (4 * (k / 4))).take 4)
    rw [hlen] at hlt
    have hbyte := getD_leNat ((img.drop (4 * (k / 4))).take 4) (k % 4)
    have hget : ((img.drop (4 * (k / 4))).take 4).getD (k % 4) 0 = img.getD k 0 := by
      rw [List.getD_eq_getElem?_getD, List.getElem?_take_of_lt (Nat.mod_lt k (by decide)), List.getElem?_drop, Nat.div_add_mod,
        List.getD_eq_getElem?_getD]
    rw [VReg.getD_image _ hk, VReg.lane, vget_vmk _ (by omega), imageLane, ← hget, ← hbyte]
    apply BitVec.eq_of_toNat_eq
    rw [BitVec.extractLsb'_toNat, BitVec.toNat_ofNat, Nat.mod_eq_of_lt (show _ < 2 ^ 32 from hlt), Nat.shiftRight_eq_div_pow, Nat.pow_mul,
      BitVec.toNat_ofNat]
  · rw [List.getD_eq_getElem?_getD, List.getD_eq_getElem?_getD, List.getElem?_eq_none (by rw [VReg.length_image]; exact hk),
      List.getElem?_eq_none (by rw [h]; exact hk)]

/-! ### Codes put into an image (R183) -/

theorem length_overwrite {α : Type} {l b : List α} {o : Nat} (h : o + b.length ≤ l.length) : (overwrite l o b).length = l.length := by
  rw [overwrite, List.length_append, List.length_append, List.length_take, List.length_drop]
  omega
theorem getD_overwrite {α : Type} {l b : List α} {o : Nat} (h : o + b.length ≤ l.length) (k : Nat) (d : α) :
    (overwrite l o b).getD k d = if o ≤ k ∧ k < o + b.length then b.getD (k - o) d else l.getD k d := by
  have htake : (l.take o).length = o := by rw [List.length_take]; omega
  simp only [overwrite, List.getD_eq_getElem?_getD, List.append_assoc, List.getElem?_append, htake]
  split
  · rw [if_neg (by omega), List.getElem?_take_of_lt ‹_›]
  · split
    · rw [if_pos (by omega)]
    · rw [if_neg (by omega), List.getElem?_drop]
      congr 2
      omega

/-- Writes at different places, each of which reads back as what was written there and leaves the others. -/
theorem foldl_put {α β : Type} {put : α → Nat → α} {ok : α → Prop} {read : α → Nat → β} {val : Nat → β} {ls : List Nat}
    (hput : ∀ i ∈ ls, ∀ a, ok a → ok (put a i) ∧ ∀ j, read (put a i) j = if j = i then val i else read a j) {a : α} (ha : ok a) :
    ok (ls.foldl put a) ∧ ∀ j, read (ls.foldl put a) j = if j ∈ ls then val j else read a j := by
  induction ls generalizing a with
  | nil => exact ⟨ha, fun j => rfl⟩
  | cons i ls ih =>
    obtain ⟨hok, hread⟩ := hput i List.mem_cons_self a ha
    obtain ⟨hok', hread'⟩ := ih (fun k hk => hput k (List.mem_cons_of_mem i hk)) hok
    refine ⟨hok', fun j => ?_⟩
    rw [List.foldl_cons, hread' j, hread j]
    by_cases h : j = i
    · subst h; simp
    · simp [h]

theorem Fm.putAt_byte {f : Fm} (hf : f ≠ .e2m1) (img : List Byte) (i c : Nat) :
    f.putAt img i c = overwrite img (f.bytes * i) (leBytes f.bytes c) := by
  simp only [Fm.putAt, Fm.place, Fm.putCode, if_neg hf]
/-- R27: a byte with one of its nibbles replaced. -/
def nibbleByte (old : Byte) (i c : Nat) : Byte :=
  BitVec.ofNat 8 (if i % 2 = 0 then old.toNat / 16 * 16 + c % 16 else old.toNat % 16 + c % 16 * 16)
theorem Fm.putAt_e2m1 (img : List Byte) (i c : Nat) :
    Fm.putAt .e2m1 img i c = overwrite img (i / 2) [nibbleByte (img.getD (i / 2) 0) i c] := by
  rw [nibbleByte, ← leNat_take_one]; rfl
theorem toNat_nibbleByte (old : Byte) (i c : Nat) :
    (nibbleByte old i c).toNat = if i % 2 = 0 then old.toNat / 16 * 16 + c % 16 else old.toNat % 16 + c % 16 * 16 := by
  have hold := old.isLt
  rw [nibbleByte, BitVec.toNat_ofNat, Nat.mod_eq_of_lt]
  split <;> omega
theorem nibble_nibbleByte (old : Byte) (i j c : Nat) : (nibbleByte old i c).extractLsb' (4 * (j % 2)) 4 =
    if j % 2 = i % 2 then BitVec.ofNat 4 c else old.extractLsb' (4 * (j % 2)) 4 := by
  apply BitVec.eq_of_toNat_eq
  rw [toNat_nibble, toNat_nibbleByte]
  by_cases hij : j % 2 = i % 2
  · rw [if_pos hij, BitVec.toNat_ofNat, hij]
    split <;> omega
  · rw [if_neg hij, toNat_nibble]
    split
    · rw [if_neg (by omega)]; omega
    · rw [if_pos (by omega)]; omega

/-- R183: the image with the codes of the active lanes put in. -/
def packImage (f : Fm) (act : W32) (code : Nat → Nat) (img : List Byte) : List Byte :=
  (active act).foldl (fun b i => f.putAt b i (code i)) img

theorem Fm.bytes_le (f : Fm) : f.bytes ≤ 4 := by cases f <;> decide
theorem byte_place_le (f : Fm) {img : List Byte} (himg : img.length = 128) {i : Nat} (hi : i < 32) (c : Nat) :
    f.bytes * i + (leBytes f.bytes c).length ≤ img.length := by
  have hblock : f.bytes * (i + 1) ≤ 4 * 32 := Nat.mul_le_mul f.bytes_le hi
  rw [himg, leBytes_length]
  exact hblock
theorem nibble_place_le {img : List Byte} (himg : img.length = 128) {i : Nat} (hi : i < 32) (b : Byte) : i / 2 + [b].length ≤ img.length := by
  rw [himg, List.length_singleton]
  omega
theorem Fm.length_putAt (f : Fm) {img : List Byte} (himg : img.length = 128) {i : Nat} (hi : i < 32) (c : Nat) :
    (f.putAt img i c).length = 128 := by
  by_cases hf : f = .e2m1
  · rw [hf, Fm.putAt_e2m1, length_overwrite (nibble_place_le himg hi _), himg]
  · rw [Fm.putAt_byte hf, length_overwrite (byte_place_le f himg hi c), himg]
/-- Of blocks of `n` places, only block `i` holds the places of block `i`. -/
theorem block_iff {n k : Nat} (hk : k < n) (i j : Nat) : (n * i ≤ n * j + k ∧ n * j + k < n * i + n) ↔ j = i := by
  refine ⟨fun ⟨hlo, hhi⟩ => ?_, fun h => by subst h; omega⟩
  have hj : n * j < n * (i + 1) := by rw [Nat.mul_succ]; omega
  have hi : n * i < n * (j + 1) := by rw [Nat.mul_succ]; omega
  have hj' := Nat.lt_of_mul_lt_mul_left hj
  have hi' := Nat.lt_of_mul_lt_mul_left hi
  omega

section
variable {f : Fm} {act : W32} {code : Nat → Nat} {img : List Byte} (himg : img.length = 128)
include himg

theorem packImage_byte (hf : f ≠ .e2m1) {k : Nat} (hk : k < f.bytes) {j : Nat} (hj : j < 32) :
    (packImage f act code img).getD (f.bytes * j + k) 0 =
      if act.getLsbD j then (leBytes f.bytes (code j)).getD k 0 else img.getD (f.bytes * j + k) 0 := by
  obtain ⟨-, hread⟩ := foldl_put (put := fun b i => f.putAt b i (code i)) (ok := fun b => b.length = 128)
    (read := fun b j => b.getD (f.bytes * j + k) 0) (val := fun i => (leBytes f.bytes (code i)).getD k 0) (ls := active act)
    (fun i hi b hb => ⟨f.length_putAt hb (mem_active.mp hi).1 _, fun j => by
      rw [Fm.putAt_byte hf, getD_overwrite (byte_place_le f hb (mem_active.mp hi).1 _), leBytes_length]
      simp only [block_iff hk]
      by_cases h : j = i
      · subst h; rw [if_pos rfl, if_pos rfl, Nat.add_sub_cancel_left]
      · rw [if_neg h, if_neg h]⟩) himg
  simp only [packImage, hread, mem_active, hj, true_and]
theorem packImage_nibble {j : Nat} (hj : j < 32) :
    ((packImage .e2m1 act code img).getD (j / 2) 0).extractLsb' (4 * (j % 2)) 4 =
      if act.getLsbD j then BitVec.ofNat 4 (code j) else (img.getD (j / 2) 0).extractLsb' (4 * (j % 2)) 4 := by
  obtain ⟨-, hread⟩ := foldl_put (put := fun b i => Fm.putAt .e2m1 b i (code i)) (ok := fun b => b.length = 128)
    (read := fun b j => (b.getD (j / 2) 0).extractLsb' (4 * (j % 2)) 4) (val := fun i => BitVec.ofNat 4 (code i)) (ls := active act)
    (fun i hi b hb => ⟨Fm.length_putAt _ hb (mem_active.mp hi).1 _, fun j => by
      have hsame : j = i ↔ j / 2 = i / 2 ∧ j % 2 = i % 2 := by omega
      rw [Fm.putAt_e2m1, getD_overwrite (nibble_place_le hb (mem_active.mp hi).1 _), List.length_singleton]
      by_cases h : j / 2 = i / 2
      · rw [if_pos (by omega), h, Nat.sub_self, List.getD_cons_zero, nibble_nibbleByte]
        simp only [hsame, h, true_and]
      · rw [if_neg (by omega), if_neg (fun hji => h (by rw [hji]))]⟩) himg
  simp only [packImage, hread, mem_active, hj, true_and]
/-- The bytes past the last element's are kept. -/
theorem packImage_beyond {k : Nat} (hk : if f = .e2m1 then 16 ≤ k else 32 * f.bytes ≤ k) :
    (packImage f act code img).length = 128 ∧ (packImage f act code img).getD k 0 = img.getD k 0 := by
  refine List.foldlRecOn (motive := fun (b : List Byte) => b.length = 128 ∧ b.getD k 0 = img.getD k 0) _ _ ⟨himg, rfl⟩ fun b hb i hi => ?_
  obtain ⟨hlen, hkeep⟩ := hb
  have hi := (mem_active.mp hi).1
  refine ⟨f.length_putAt hlen hi _, ?_⟩
  by_cases hf : f = .e2m1
  · rw [if_pos hf] at hk
    rw [hf, Fm.putAt_e2m1, getD_overwrite (nibble_place_le hlen hi _), List.length_singleton, if_neg (by omega), hkeep]
  · have hblock : f.bytes * (i + 1) ≤ f.bytes * 32 := Nat.mul_le_mul_left _ hi
    rw [if_neg hf] at hk
    rw [Fm.putAt_byte hf, getD_overwrite (byte_place_le f hlen hi _), leBytes_length, if_neg (by rw [Nat.mul_succ] at hblock; omega), hkeep]
theorem length_packImage : (packImage f act code img).length = 128 :=
  List.foldlRecOn (motive := fun (b : List Byte) => b.length = 128) _ _ himg fun _ hb _ hi => f.length_putAt hb (mem_active.mp hi).1 _

end

/-! ### The scale of a block (R180) -/

/-- R180: the scale code that the magnitude `m · 2^x` alone needs. -/
def neededScale (fmt : NTy) (m : Nat) (x : Int) : Int := floorLog2 m x - (NTy.fm fmt).emax + 127
/-- R180: `e` covers what every magnitude of a block needs, and is what one of them needs, or 0. -/
def ScalesBlock (fmt : NTy) (l : List Fv) (e : Int) : Prop :=
  (∀ n m x st, .fin n m x st ∈ l → m ≠ 0 → neededScale fmt m x ≤ e) ∧
  (e = 0 ∨ ∃ n m x st, .fin n m x st ∈ l ∧ m ≠ 0 ∧ neededScale fmt m x = e)

section
variable {fmt : NTy} {l : List Fv} {e : Int} (h : ScalesBlock fmt l e)
include h

theorem ScalesBlock.cons_zero {v : Fv} (hv : ∀ n m x st, v = .fin n m x st → m = 0) : ScalesBlock fmt (v :: l) e := by
  obtain ⟨hle, hat⟩ := h
  refine ⟨fun n m x st hx hm => ?_, hat.imp_right fun ⟨n, m, x, st, hx, hm, he⟩ => ⟨n, m, x, st, List.mem_cons_of_mem v hx, hm, he⟩⟩
  rcases List.mem_cons.mp hx with hx | hx
  · exact absurd (hv n m x st hx.symm) hm
  · exact hle n m x st hx hm
theorem ScalesBlock.cons_fin {n : Bool} {m : Nat} (hm : m ≠ 0) (x : Int) (st : Bool) :
    ScalesBlock fmt (.fin n m x st :: l) (max e (neededScale fmt m x)) := by
  obtain ⟨hle, hat⟩ := h
  refine ⟨fun n' m' x' st' hx hm' => ?_, ?_⟩
  · rcases List.mem_cons.mp hx with hx | hx
    · cases hx; exact Int.le_max_right ..
    · exact Int.le_trans (hle n' m' x' st' hx hm') (Int.le_max_left ..)
  · rcases Int.le_total e (neededScale fmt m x) with hlt | hge
    · exact .inr ⟨n, m, x, st, List.mem_cons_self, hm, (Int.max_eq_right hlt).symm⟩
    · rw [Int.max_eq_left hge]
      exact hat.imp_right fun ⟨n', m', x', st', hx, hm', he⟩ => ⟨n', m', x', st', List.mem_cons_of_mem _ hx, hm', he⟩

end

theorem scalesBlock_scaleCode (fmt : NTy) (l : List Fv) : ScalesBlock fmt l (scaleCode fmt l) := by
  induction l with
  | nil => exact ⟨fun _ _ _ _ h => absurd h List.not_mem_nil, .inl rfl⟩
  | cons v l ih =>
    cases v with
    | nan | inf => exact ih.cons_zero fun _ _ _ _ h => nomatch h
    | fin n m x st =>
      by_cases hm : m = 0
      · rw [show scaleCode fmt (.fin n m x st :: l) = scaleCode fmt l from if_pos hm]
        exact ih.cons_zero fun _ _ _ _ h => by cases h; exact hm
      · rw [show scaleCode fmt (.fin n m x st :: l) = max (scaleCode fmt l) (neededScale fmt m x) from if_neg hm]
        exact ih.cons_fin hm x st
/-- R180: no scale is below 0. -/
theorem scalesBlock_clamped (fmt : NTy) (l : List Fv) : ScalesBlock fmt l (max 0 (scaleCode fmt l)) := by
  obtain ⟨hle, hat⟩ := scalesBlock_scaleCode fmt l
  refine ⟨fun n m x st hx hm => Int.le_trans (hle n m x st hx hm) (Int.le_max_right ..), ?_⟩
  rcases Int.le_total (scaleCode fmt l) 0 with h | h
  · exact .inl (Int.max_eq_left h)
  · rw [Int.max_eq_right h]
    exact hat

/-! ### Values (R24) and flags beside the generator (R42, R166) -/

theorem valueOf_special {w : W32} (h : 0x7F800000 ≤ w.toNat % 2 ^ 31) : (∃ n, valueOf w = .inf n) ∨ ∃ n g, valueOf w = .nan n g := by
  have he : w.toNat / 2 ^ 23 % 256 = 255 := by omega
  by_cases hf : w.toNat % 2 ^ 23 = 0
  · exact .inl ⟨_, valueOf_inf he hf⟩
  · exact .inr ⟨_, _, valueOf_nan he hf⟩
theorem valueOf_finite {w : W32} (h : w.toNat % 2 ^ 31 < 0x7F800000) : ∃ n m e, valueOf w = .fin n m e false := by
  have he : w.toNat / 2 ^ 23 % 256 ≠ 255 := by omega
  by_cases hz : w.toNat / 2 ^ 23 % 256 = 0
  · exact ⟨_, _, _, valueOf_subnormal hz⟩
  · obtain ⟨e, hv⟩ := valueOf_normal he hz
    exact ⟨_, _, e, hv⟩
theorem State.advance_cur (s : State) (m : RMode) (n : Nat) : (s.advance m n).cur = s.cur := by
  unfold State.advance; split <;> rfl
/-- R39: an instruction that changes the state to `u` before its flags. -/
theorem strandOp_withFlags_from {i : Instr} {s u : State} {eff : State → Res} {fl : Flags} {k : State → State} (h : runs i s = true)
    (hu : u.cur = s.cur) (heff : eff s = u.withFlags fl k) :
    (s.enabled fl = 0 → strandOp i s eff = .next (k (u.raise fl))) ∧
    (s.enabled fl ≠ 0 → strandOp i s eff = .next (u.trap 0x15 (fl.setWidth 64))) := by
  have hen : u.enabled fl = s.enabled fl := by rw [State.enabled, State.enabled, hu]
  rw [strandOp_runs _ h, heff, ← hen]
  rcases u.withFlags_cases fl k with ⟨hne, htrap⟩ | ⟨h0, hnext⟩
  · exact ⟨fun h0 => absurd h0 hne, fun _ => htrap⟩
  · exact ⟨fun _ => hnext, fun hne => absurd h0 hne⟩

/-! ### The block formats (R180, R182, R183) -/

section
variable {fmt : NTy} {mode : RMode} {d a : VR} {b : GR} {mg : MR} {s : State}

theorem setFpLanes_noFlags {r : Nat → FpRes} (hr : ∀ i, (r i).fl = 0) : setFpLanes d mg (vmk r) s =
    .next ((s.raise 0).setV d ((s.vr d).update (s.mr mg) (vmk fun i => ⟨(r i).w, (r i).s⟩))) := by
  have hfl : unionFlags (s.mr mg) (vmk r) = 0 :=
    List.foldlRecOn (motive := fun (f : Flags) => f = 0) _ _ rfl fun f hf i hi => by
      rw [hf, vget_vmk r (mem_active.mp hi).1, hr]; rfl
  have hen : s.enabled 0 = 0 := BitVec.zero_and
  rw [setFpLanes, hfl, State.withFlags, if_neg (not_not_intro hen)]
  exact congrArg (fun x => Host.Outcome.next (((s.raise 0).setV d ((s.vr d).update (s.mr mg) x))))
    (vmk_congr fun i hi => by rw [vget_vmk r hi])
/-- R182: a block whose scale code is 255 is NaN. -/
theorem vdqmxOp_nan (hb : (s.g b).toNat % 256 = 255) : vdqmxOp fmt d a b mg s =
    .next ((s.raise 0).setV d ((s.vr d).update (s.mr mg) (vmk fun _ => ⟨nanW, false⟩))) := by
  have hcode : ((s.g b).setWidth 8 : BitVec 8).toNat = 255 := (BitVec.toNat_setWidth ..).trans hb
  have hlanes : vdqmxOp fmt d a b mg s = setFpLanes d mg (vmk fun _ => ⟨nanW, false, 0⟩) s :=
    congrArg (fun r => setFpLanes d mg (vmk r) s) (funext fun i => if_pos hcode)
  exact hlanes.trans (setFpLanes_noFlags fun _ => rfl)

/-- R180: an infinity or NaN in the block gives no scale. -/
theorem vqmxOp_special (h : ∃ i, i < 32 ∧ (s.mr mg).getLsbD i = true ∧ 0x7F800000 ≤ ((s.vr a).lane i).toNat % 2 ^ 31) :
    vqmxOp fmt mode d b a mg s = (s.advance mode (active (s.mr mg)).length).withFlags Flags.nv
      fun t => (t.setV d ((s.vr d).update (s.mr mg) (vmk fun _ => ⟨0, false⟩))).setG b 0xFF := by
  obtain ⟨i, hi, hbit, hw⟩ := h
  refine if_pos (List.any_eq_true.mpr ⟨i, mem_active.mpr ⟨hi, hbit⟩, ?_⟩)
  rcases valueOf_special hw with ⟨n, hv⟩ | ⟨n, g, hv⟩
  · rw [hv]
  · rw [hv]
/-- R180: the elements of a finite block, each rounded under the block's scale. -/
theorem vqmxOp_finite (h : ∀ i, i < 32 → (s.mr mg).getLsbD i = true → ((s.vr a).lane i).toNat % 2 ^ 31 < 0x7F800000) {e : Int}
    (he : e = max 0 (scaleCode fmt ((active (s.mr mg)).map fun i => valueOf ((s.vr a).lane i)))) {r : Nat → Nat × Flags}
    (hr : r = fun i => finalRound ((s.vr a).lane i) ((s.vr a).laneS i) (127 - e) (NTy.fm fmt) mode s.ovf
      ((s.draws mode (active (s.mr mg)).length).getD (rankOf (s.mr mg) i) 0)) :
    vqmxOp fmt mode d b a mg s = (s.advance mode (active (s.mr mg)).length).withFlags (laneFlags (s.mr mg) fun i => (r i).2)
      fun t => (t.setV d ((s.vr d).update (s.mr mg) (vmk fun i => ⟨(NTy.fm fmt).widen (vget (vmk r) i (0, 0)).1, false⟩))).setG b
        (BitVec.ofInt 64 e) := by
  subst hr he
  refine (if_neg ?_).trans (congrArg (State.withFlags _ · _) (foldl_active_congr (fun f i hi => by rw [vget_vmk _ hi]) 0))
  rw [Bool.not_eq_true, List.any_eq_false]
  intro i hi
  obtain ⟨hlt, hbit⟩ := mem_active.mp hi
  obtain ⟨n, m, x, hv⟩ := valueOf_finite (h i hlt hbit)
  rw [hv]
  exact Bool.false_ne_true

/-- R183: the register with the codes of the active lanes packed into its image. -/
def VReg.pack (x : VReg) (f : Fm) (act : W32) (code : Nat → Nat) : VReg :=
  { w := vmk (imageLane (packImage f act code x.image))
    s := bitsFrom fun j => x.laneS j && !((active act).any fun i => (f.place i).1 / 4 == j) }

theorem vpackOp_eq {r : Nat → Nat × Flags} (hr : r = fun i => finalRound ((s.vr a).lane i) ((s.vr a).laneS i) 0 (NTy.fm fmt) mode s.ovf
      ((s.draws mode (active (s.mr mg)).length).getD (rankOf (s.mr mg) i) 0)) :
    vpackOp fmt mode d a mg s = (s.advance mode (active (s.mr mg)).length).withFlags (laneFlags (s.mr mg) fun i => (r i).2)
      fun t => t.setV d ((s.vr d).pack (NTy.fm fmt) (s.mr mg) fun i => (r i).1) := by
  subst hr
  simp only [vpackOp, List.foldl_map]
  rfl

end

section
variable (x : VReg) (f : Fm) (act : W32) (code : Nat → Nat)

theorem VReg.getD_image_pack (k : Nat) : (x.pack f act code).image.getD k 0 = (packImage f act code x.image).getD k 0 :=
  VReg.getD_image_imageLane (length_packImage x.length_image) _ k
/-- R183: a lane loses its S where a code was put into it. -/
theorem VReg.laneS_pack {j : Nat} (hj : j < 32) : (x.pack f act code).laneS j =
    (x.laneS j && !((List.range 32).any fun i => act.getLsbD i && (f.place i).1 / 4 == j)) := by
  rw [VReg.pack, VReg.laneS, getLsbD_bitsFrom _ hj, active, List.any_filter]

end

theorem NTy.fm_eq_e2m1 (fmt : NTy) : NTy.fm fmt = .e2m1 ↔ fmt = .e2m1 := by cases fmt <;> decide
/-- R27: the lane of an image in which the code of an element begins. -/
theorem NTy.place_lane (fmt : NTy) (i : Nat) :
    ((NTy.fm fmt).place i).1 / 4 = if fmt = .e2m1 then i / 8 else (NTy.fm fmt).bytes * i / 4 := by
  simp only [Fm.place, NTy.fm_eq_e2m1]
  split
  · exact Nat.div_div_eq_div_mul i 2 4
  · rfl
/-- R183: the image and the S bits of a register with codes packed into it. -/
theorem VReg.pack_spec (x : VReg) (fmt : NTy) (act : W32) (code : Nat → Nat) :
    (fmt ≠ .e2m1 → ∀ i k, i < 32 → k < (NTy.fm fmt).bytes → (x.pack (NTy.fm fmt) act code).image.getD ((NTy.fm fmt).bytes * i + k) 0 =
      if act.getLsbD i then (leBytes (NTy.fm fmt).bytes (code i)).getD k 0 else x.image.getD ((NTy.fm fmt).bytes * i + k) 0) ∧
    (fmt = .e2m1 → ∀ i, i < 32 → ((x.pack (NTy.fm fmt) act code).image.getD (i / 2) 0).extractLsb' (4 * (i % 2)) 4 =
      if act.getLsbD i then BitVec.ofNat 4 (code i) else (x.image.getD (i / 2) 0).extractLsb' (4 * (i % 2)) 4) ∧
    (∀ j, 32 * (NTy.fm fmt).bits ≤ 8 * j → 32 * (NTy.fm fmt).bytes ≤ j ∨ fmt = .e2m1 →
      (x.pack (NTy.fm fmt) act code).image.getD j 0 = x.image.getD j 0) ∧
    ∀ j, j < 32 → (x.pack (NTy.fm fmt) act code).laneS j = (x.laneS j &&
      !((List.range 32).any fun i => act.getLsbD i && (if fmt = .e2m1 then i / 8 else (NTy.fm fmt).bytes * i / 4) == j)) := by
  refine ⟨fun hf i k hi hk => ?_, fun hf i hi => ?_, fun j hbits hj => ?_, fun j hj => ?_⟩
  · rw [x.getD_image_pack, packImage_byte x.length_image (mt (NTy.fm_eq_e2m1 fmt).mp hf) hk hi]
  · rw [x.getD_image_pack, hf]
    exact packImage_nibble x.length_image hi
  · rw [x.getD_image_pack]
    refine (packImage_beyond x.length_image ?_).2
    by_cases hf : fmt = .e2m1
    · rw [if_pos ((NTy.fm_eq_e2m1 fmt).mpr hf)]
      rw [hf] at hbits
      have hbits : 32 * 4 ≤ 8 * j := hbits
      omega
    · rw [if_neg (mt (NTy.fm_eq_e2m1 fmt).mp hf)]
      exact hj.resolve_right hf
  · simp only [x.laneS_pack _ _ _ hj, NTy.place_lane]

/-! ### The instructions -/

section
variable {i : Instr} {fmt : NTy} {mode : RMode} {d a : VR} {b : GR} {mg : MR} {s u : State} (h : runs i s = true)
  (hu : u = s.advance mode (active (s.mr mg)).length)
include h hu

theorem strandOp_vqmx_special (hs : ∃ i, i < 32 ∧ (s.mr mg).getLsbD i = true ∧ 0x7F800000 ≤ ((s.vr a).lane i).toNat % 2 ^ 31) :
    (s.enabled Flags.nv = 0 → ∃ y, strandOp i s (vqmxOp fmt mode d b a mg) = .next (((u.raise Flags.nv).setV d y).setG b 255) ∧
      (s.vr d).Lanes (s.mr mg) (fun _ => ⟨0, false⟩) y) ∧
    (s.enabled Flags.nv ≠ 0 → strandOp i s (vqmxOp fmt mode d b a mg) = .next (u.trap 0x15 (Flags.nv.setWidth 64))) := by
  subst hu
  obtain ⟨hnext, htrap⟩ := strandOp_withFlags_from h (s.advance_cur mode _) (vqmxOp_special hs)
  exact ⟨fun h0 => ⟨_, hnext h0, (s.vr d).lanes_update (s.mr mg) _⟩, htrap⟩
theorem strandOp_vqmx_finite (hs : ∀ i, i < 32 → (s.mr mg).getLsbD i = true → ((s.vr a).lane i).toNat % 2 ^ 31 < 0x7F800000) {e : Int}
    (he : e = max 0 (scaleCode fmt ((active (s.mr mg)).map fun i => valueOf ((s.vr a).lane i)))) {r : Nat → Nat × Flags}
    (hr : r = fun i => finalRound ((s.vr a).lane i) ((s.vr a).laneS i) (127 - e) (NTy.fm fmt) mode s.ovf
      ((s.draws mode (active (s.mr mg)).length).getD (rankOf (s.mr mg) i) 0)) :
    (s.enabled (laneFlags (s.mr mg) fun i => (r i).2) = 0 → ∃ y, strandOp i s (vqmxOp fmt mode d b a mg) =
      .next (((u.raise (laneFlags (s.mr mg) fun i => (r i).2)).setV d y).setG b (BitVec.ofInt 64 e)) ∧
      (s.vr d).Lanes (s.mr mg) (fun i => ⟨(NTy.fm fmt).widen (r i).1, false⟩) y) ∧
    (s.enabled (laneFlags (s.mr mg) fun i => (r i).2) ≠ 0 →
      strandOp i s (vqmxOp fmt mode d b a mg) = .next (u.trap 0x15 ((laneFlags (s.mr mg) fun i => (r i).2).setWidth 64))) := by
  subst hu
  obtain ⟨hnext, htrap⟩ := strandOp_withFlags_from h (s.advance_cur mode _) (vqmxOp_finite hs he hr)
  refine ⟨fun h0 => ⟨_, hnext h0, ((s.vr d).lanes_update (s.mr mg) _).congr fun k hk => ?_⟩, htrap⟩
  rw [vget_vmk r hk]
theorem strandOp_vpack {r : Nat → Nat × Flags} (hr : r = fun i => finalRound ((s.vr a).lane i) ((s.vr a).laneS i) 0 (NTy.fm fmt) mode
      s.ovf ((s.draws mode (active (s.mr mg)).length).getD (rankOf (s.mr mg) i) 0)) :
    (s.enabled (laneFlags (s.mr mg) fun i => (r i).2) = 0 → strandOp i s (vpackOp fmt mode d a mg) =
      .next ((u.raise (laneFlags (s.mr mg) fun i => (r i).2)).setV d ((s.vr d).pack (NTy.fm fmt) (s.mr mg) fun i => (r i).1))) ∧
    (s.enabled (laneFlags (s.mr mg) fun i => (r i).2) ≠ 0 →
      strandOp i s (vpackOp fmt mode d a mg) = .next (u.trap 0x15 ((laneFlags (s.mr mg) fun i => (r i).2).setWidth 64))) := by
  subst hu
  exact strandOp_withFlags_from h (s.advance_cur mode _) (vpackOp_eq hr)

end

/-- R182: the elements of a block whose scale code is not 255. -/
theorem vdqmxOp_elements {fmt : NTy} {d a : VR} {b : GR} {mg : MR} {s : State} {e : Nat} (he : e = (s.g b).toNat % 256) (hne : e ≠ 255) :
    vdqmxOp fmt d a b mg s = setFpLanes d mg (vmk fun i => match (NTy.fm fmt).decode ((NTy.fm fmt).codeAt (s.vr a).image i) with
      | .fin n m x st => roundF32 s.frm n m (x + (e : Int) - 127) st
      | v => ⟨carrier v, false, 0⟩) s := by
  have hcode : ((s.g b).setWidth 8 : BitVec 8).toNat = e := (BitVec.toNat_setWidth ..).trans he.symm
  subst hcode
  exact congrArg (fun r => setFpLanes d mg (vmk r) s) (funext fun i => if_neg hne)

/-- Settles O20: hashes lane by lane; the block formats by their scale, their codes and the image they stand in. -/
theorem generatorsAndBlockFormats : Obligations.GeneratorsAndBlockFormats := by
  refine ⟨fun d a b mg s h => strandOp_runs (rnghOp d a b) h,
    fun d a b mg s h => strandOp_setLanes (eff := vrnghOp d a b mg) h rfl fun _ _ => rfl,
    fun fmt d a b mg s h hb => (strandOp_runs (vdqmxOp fmt d a b mg) h).trans (vdqmxOp_nan hb),
    fun fmt d a b mg s h he => strandOp_setFpLanes (eff := vdqmxOp fmt d a b mg) h (vdqmxOp_elements rfl he),
    fun fmt mode d b a mg s h hs => strandOp_vqmx_special h rfl hs,
    fun fmt mode d b a mg s h hs => strandOp_vqmx_finite h rfl hs rfl rfl,
    fun fmt l hl => ?_, fun fmt mode d a mg s h => ?_,
    fun x f i hi => ⟨fun k hk => x.getD_image hk, fun hf => ?_, fun hf hne => Fm.codeAt_byte hf hne .., fun hf => Fm.codeAt_two hf ..⟩⟩
  · obtain ⟨hle, hat⟩ := scalesBlock_clamped fmt l
    refine ⟨fun n m x => hle n m x false, hat.imp_right fun ⟨n, m, x, st, hx, hm, he⟩ => ?_⟩
    obtain ⟨_, _, _, hv⟩ := hl _ hx
    cases hv
    exact ⟨n, m, x, hx, hm, he⟩
  · obtain ⟨hnext, htrap⟩ := strandOp_vpack (fmt := fmt) (d := d) (a := a) h rfl rfl
    exact ⟨fun h0 => ⟨_, hnext h0, (s.vr d).pack_spec fmt (s.mr mg) _⟩, htrap⟩
  · rw [hf]
    exact Fm.codeAt_e2m1 ..

end Sys2Proof.Machine
end

section
/-!
SUPPORT. O49: what the reads and writes of lines at their homes, the caches and the network leave of the dispatch unit's records.
-/
namespace Sys2Proof.Machine
open Sys2Proof

/-! ### The records of the dispatch unit, and the slots -/

/-- The jobs, the gangs, every partition's submission queues and every core's slots. -/
def State.schedule (s : State) : Tbl Job × Tbl Gang × (Nat → Vector SubQueue 64) × (Nat → Vector Slot 16) :=
  (s.jobs, s.gangs, fun p => (s.partn p).squeues, fun c => (s.core c).slots)

section
variable {s t : State} (h : t.schedule = s.schedule)
include h

theorem jobs_of_schedule : t.jobs = s.jobs := congrArg (·.1) h
theorem gangs_of_schedule : t.gangs = s.gangs := congrArg (·.2.1) h
theorem job_of_schedule (n : Nat) : t.job n = s.job n := by rw [State.job, jobs_of_schedule h]; rfl
theorem squeue_of_schedule (p q : Nat) : t.squeue p q = s.squeue p q := by
  rw [State.squeue, show (t.partn p).squeues = _ from congrFun (congrArg (·.2.2.1) h) p]; rfl
theorem slotOf_of_schedule (c k : Nat) : t.slotOf c k = s.slotOf c k := by
  rw [State.slotOf, show (t.core c).slots = _ from congrFun (congrArg (·.2.2.2) h) c]; rfl

end

@[simp] theorem State.schedule_setCluster (s : State) (n : Nat) (x : Cluster) : (s.setCluster n x).schedule = s.schedule := rfl
@[simp] theorem State.schedule_setSlice (s : State) (n : Nat) (x : Slice) : (s.setSlice n x).schedule = s.schedule := rfl
@[simp] theorem State.schedule_send (s : State) (a b : Node) (n : Nat) (ch : Chan) (y : Body) :
    (s.send a b n ch y).schedule = s.schedule := rfl
@[simp] theorem State.schedule_setCore {s : State} {n : Nat} {c : Core} (h : c.slots = (s.core n).slots) :
    (s.setCore n c).schedule = s.schedule := by
  have hslots : (fun d => ((s.setCore n c).core d).slots) = fun d => (s.core d).slots := by
    funext d
    rw [State.core_setCore]
    split
    · rw [h, ‹d = n›]
    · rfl
  exact congrArg (fun x => (s.jobs, s.gangs, (fun p => (s.partn p).squeues), x)) hslots
@[simp] theorem State.schedule_setPartn {s : State} {n : Nat} {p : Partition} (h : p.squeues = (s.partn n).squeues) :
    (s.setPartn n p).schedule = s.schedule := by
  have hqueues : (fun d => ((s.setPartn n p).partn d).squeues) = fun d => (s.partn d).squeues := by
    funext d
    rw [State.partn_setPartn]
    split
    · rw [h, ‹d = n›]
    · rfl
  exact congrArg (fun x => (s.jobs, s.gangs, x, (fun d => (s.core d).slots))) hqueues

/-! ### Reads of lines at their homes (R337, R380) -/

/-- A part of the state that a read of a line at its home leaves: no slice, S bit or replica stands in it. -/
structure KeptByReads {γ : Type} (part : State → γ) : Prop where
  slice : ∀ s n x, part (s.setSlice n x) = part s
  sbits : ∀ (s : State) b, part { s with sbits := b } = part s
  replicas : ∀ s n l, part (s.setPartn n { s.partn n with replicas := l }) = part s

theorem keptByReads_mem : KeptByReads State.mem := ⟨fun _ _ _ => rfl, fun _ _ => rfl, fun _ _ _ => rfl⟩
theorem keptByReads_schedule : KeptByReads State.schedule :=
  ⟨fun _ _ _ => rfl, fun _ _ => rfl, fun _ _ _ => State.schedule_setPartn rfl⟩

section
variable {γ : Type} {part : State → γ} (h : KeptByReads part)
include h

theorem State.clearS_keeps (s : State) (l : Loc) (n : Nat) : part (s.clearS l n) = part s := by
  cases l with
  | hbm p o => exact h.sbits s _
  | _ => rfl
theorem State.dropReplicas_keeps (s : State) (l : Loc) (n : Nat) : part (s.dropReplicas l n) = part s := by
  unfold State.dropReplicas
  split
  · split
    · rfl
    · exact h.replicas s _ _
  · rfl
theorem State.evictLine_keeps (s : State) (n p o : Nat) : part (s.evictLine n p o) = part s := by
  unfold State.evictLine
  split
  · rfl
  · exact (State.clearS_keeps h _ _ _).trans (h.slice s _ _)
theorem State.makeRoom_keeps (s : State) (n p k : Nat) : part (s.makeRoom n p k) = part s := by
  have hfold (l : List (Nat × Nat × Nat)) : part (l.foldl (fun u e => u.evictLine n e.1 e.2.1) s) = part s :=
    foldl_keeps part (fun u e => State.evictLine_keeps h u n e.1 e.2.1) l s
  unfold State.makeRoom
  dsimp only
  split
  · exact hfold _
  · exact (h.replicas _ _ _).trans (hfold _)
theorem State.holdLine_keeps (s : State) (n p o k : Nat) : part (s.holdLine n p o k) = part s := by
  unfold State.holdLine
  split
  · rfl
  · refine (h.slice _ _ _).trans ((State.makeRoom_keeps h _ _ _ _).trans ?_)
    split
    · exact State.evictLine_keeps h ..
    · rfl
theorem State.replicate_keeps (s : State) (p home region : Nat) : part (s.replicate p home region) = part s := by
  unfold State.replicate
  dsimp only
  split
  · rfl
  · exact h.replicas s _ _
theorem State.countHot_keeps (s : State) (home : Nat) (src : Node) (p o : Nat) : part (s.countHot home src p o) = part s := by
  unfold State.countHot
  dsimp only
  split
  · rfl
  · split
    · exact (State.replicate_keeps h _ _ _ _).trans (h.slice s _ _)
    · exact h.slice s _ _
theorem State.fillReplica_keeps (s : State) (r : Replica) (m p o k : Nat) : part (s.fillReplica r m p o k) = part s := by
  unfold State.fillReplica
  dsimp only
  split
  · rfl
  · split
    · exact State.makeRoom_keeps h ..
    · exact (h.replicas _ _ _).trans (State.makeRoom_keeps h ..)
theorem State.noteRead_keeps (s : State) (src : Node) (p o k : Nat) : part (s.noteRead src p o k) = part s := by
  unfold State.noteRead
  dsimp only
  split
  · split
    · rfl
    · exact (State.countHot_keeps h ..).trans ((State.fillReplica_keeps h ..).trans (State.holdLine_keeps h ..))
  · exact (State.countHot_keeps h ..).trans (State.holdLine_keeps h ..)
theorem State.noteWalk_keeps (s : State) (src : Node) (p va : Nat) : part (s.noteWalk src p va) = part s :=
  foldl_keeps part (fun u o => State.noteRead_keeps h u src p o 0) _ s
theorem State.frontNote_keeps (s : State) (p : Nat) (va : W64) : part (s.frontNote p va) = part s := by
  unfold State.frontNote
  dsimp only
  split
  · exact (State.noteRead_keeps h ..).trans (State.noteWalk_keeps h ..)
  · exact State.noteWalk_keeps h ..

end

/-! ### Writes of lines, and the caches (R333, R335, R341) -/

@[simp] theorem State.homeWrite_schedule (s : State) (l : Loc) (bs : List Byte) : (s.homeWrite l bs).schedule = s.schedule :=
  (State.dropReplicas_keeps keptByReads_schedule ..).trans (State.clearS_keeps keptByReads_schedule ..)
@[simp] theorem State.writeBack_schedule (s : State) (cl p pa : Nat) (m : BitVec 64) (bs : List Byte) :
    (s.writeBack cl p pa m bs).schedule = s.schedule := by
  unfold State.writeBack
  dsimp only
  split
  · rfl
  · split
    · exact State.schedule_send ..
    · split
      · exact State.schedule_setSlice ..
      · exact foldl_keeps State.schedule (fun t i => by split <;> simp) _ s
@[simp] theorem State.l1Flush_schedule (s : State) (c : Nat) (e : L1Line) : (s.l1Flush c e).schedule = s.schedule := by
  unfold State.l1Flush
  dsimp only
  split
  · rfl
  · split
    · rfl
    · split <;> simp
@[simp] theorem State.recallFrom_schedule (s : State) (c p pa : Nat) : (s.recallFrom c p pa).schedule = s.schedule := by
  unfold State.recallFrom
  split <;> simp
@[simp] theorem State.recall_schedule (s : State) (cl p pa : Nat) (x : Option Nat) : (s.recall cl p pa x).schedule = s.schedule :=
  foldl_keeps State.schedule (fun t c => by split <;> simp) _ s
@[simp] theorem State.dropFills_schedule (s : State) (cl : Nat) (sel : Access → Nat → Nat → Bool) :
    (s.dropFills cl sel).schedule = s.schedule :=
  foldl_keeps State.schedule (fun t c => by split <;> simp) _ s
@[simp] theorem State.ccEvict_schedule (s : State) (cl : Nat) (e : CcLine) : (s.ccEvict cl e).schedule = s.schedule := by
  simp [State.ccEvict]
theorem State.foldl_l1Flush_schedule (c : Nat) (l : List L1Line) (s : State) :
    (l.foldl (fun u e => u.l1Flush c e) s).schedule = s.schedule := foldl_keeps State.schedule (fun u e => u.l1Flush_schedule c e) l s
theorem State.foldl_ccEvict_schedule (cl : Nat) (l : List CcLine) (s : State) :
    (l.foldl (fun u e => u.ccEvict cl e) s).schedule = s.schedule := foldl_keeps State.schedule (fun u e => u.ccEvict_schedule cl e) l s
@[simp] theorem State.invCore_schedule (s : State) (c : Nat) (sel : Nat → Nat → Bool) : (s.invCore c sel).schedule = s.schedule := by
  simp [State.invCore, State.foldl_l1Flush_schedule, State.foldl_ccEvict_schedule]
@[simp] theorem State.raisePts_schedule (s : State) (c t : Nat) : (s.raisePts c t).schedule = s.schedule := by
  unfold State.raisePts
  split <;> simp
@[simp] theorem State.pastLeases_schedule (s : State) (c : Nat) : (s.pastLeases c).schedule = s.schedule := s.raisePts_schedule c _
@[simp] theorem State.cacheAcquire_schedule (s : State) (c : Nat) (sc : Scope) : (s.cacheAcquire c sc).schedule = s.schedule := by
  unfold State.cacheAcquire
  split
  · rfl
  · rw [State.raisePts_schedule]
  · rw [State.pastLeases_schedule, State.invCore_schedule]
/-- The L1Ds of a cluster written back and emptied. -/
theorem State.emptyL1ds_schedule (l : List Nat) (s : State) :
    (l.foldl (fun u c => if (u.core c).l1d.isEmpty then u else u.setCore c { u.core c with l1d := [] }) s).schedule = s.schedule :=
  foldl_keeps State.schedule (fun u c => by split <;> simp) l s
theorem State.flushL1ds_schedule (l : List Nat) (s : State) :
    (l.foldl (fun u c => (u.core c).l1d.foldl (fun v e => v.l1Flush c e) u) s).schedule = s.schedule :=
  foldl_keeps State.schedule (fun u c => State.foldl_l1Flush_schedule c _ u) l s
@[simp] theorem State.flushCluster_schedule (s : State) (cl : Nat) : (s.flushCluster cl).schedule = s.schedule := by
  unfold State.flushCluster
  dsimp only
  rw [State.foldl_ccEvict_schedule, State.emptyL1ds_schedule, State.flushL1ds_schedule]
@[simp] theorem State.answer_schedule (s : State) (a b : Node) (x : Access) (r : AccResult) : (s.answer a b x r).schedule = s.schedule := by
  cases b <;> rfl
@[simp] theorem State.scrub_schedule (s : State) (lo hi : Nat) : (s.scrub lo hi).schedule = s.schedule := rfl
theorem State.setRetry_schedule (s : State) (l : List (Node × Waiter)) : ({ s with retry := l } : State).schedule = s.schedule := rfl
@[simp] theorem State.resizeCc_schedule (s : State) (cl : Nat) (code : BV2) : (s.resizeCc cl code).schedule = s.schedule := by
  unfold State.resizeCc
  dsimp only
  rw [State.schedule_setCluster, State.scrub_schedule, State.setRetry_schedule,
    foldl_keeps State.schedule (fun u w => u.answer_schedule ..), State.flushCluster_schedule]

end Sys2Proof.Machine
end

section
/-!
SUPPORT. O49: what placing, starting and ending a job changes in the table of jobs and in a queue.
-/
namespace Sys2Proof.Machine
open Sys2Proof

/-! ### Jobs, gangs and queues read back -/

theorem State.job_setJob (s : State) (n m : Nat) (j : Job) : (s.setJob n j).job m = if m = n then j else s.job m := tget_tset ..
@[simp] theorem State.job_setJob_self (s : State) (n : Nat) (j : Job) : (s.setJob n j).job n = j := tget_tset_self ..
theorem State.gang_setGang (s : State) (n m : Nat) (g : Gang) : (s.setGang n g).gang m = if m = n then g else s.gang m := tget_tset ..
theorem State.job_congr {s t : State} (h : t.jobs = s.jobs) (n : Nat) : t.job n = s.job n := congrArg (tget · n _) h
/-- The slot a queue reads next stands in no update of its other fields. -/
theorem State.squeue_next_setSqueue {s : State} {p q : Nat} {x : SubQueue} (h : x.next = (s.squeue p q).next) (a b : Nat) :
    ((s.setSqueue p q x).squeue a b).next = (s.squeue a b).next := by
  rw [State.squeue, State.setSqueue, State.partn_setPartn]
  by_cases ha : a = p
  · subst ha
    rw [if_pos rfl]
    by_cases hb : b = q
    · subst hb
      by_cases hlt : b < 64
      · rw [vget_vset_self _ _ _ hlt, h]
      · simp [vget, vset, State.squeue, hlt]
    · rw [vget_vset_ne _ _ _ hb]; rfl
  · rw [if_neg ha]; rfl

/-! ### A job's state (R262) -/

theorem State.jobState_schedule (s : State) (n st reason : Nat) :
    (s.jobState n st reason).schedule = (s.setJob n { s.job n with st, reason }).schedule := by
  unfold State.jobState
  dsimp only
  split
  · rfl
  · rw [State.homeWrite_schedule]
theorem State.job_jobState (s : State) (n st reason m : Nat) :
    (s.jobState n st reason).job m = if m = n then { s.job n with st, reason } else s.job m := by
  rw [job_of_schedule (s.jobState_schedule ..), State.job_setJob]
theorem State.jobState_gangs (s : State) (n st reason : Nat) : (s.jobState n st reason).gangs = s.gangs :=
  (gangs_of_schedule (s.jobState_schedule n st reason)).trans rfl
theorem State.squeue_jobState (s : State) (n st reason p q : Nat) : (s.jobState n st reason).squeue p q = s.squeue p q :=
  squeue_of_schedule (s.jobState_schedule n st reason) p q
/-- R262: the state word stands in the job's slot. -/
theorem State.readAt_jobState {s : State} (h : Memory.wf s.mem = true) {n : Nat}
    (hr : s.isRetired (s.job n).part ((s.job n).slotAt + 112) = false) (st reason : Nat) :
    (s.jobState n st reason).readAt ((Loc.hbm (s.job n).part ((s.job n).slotAt + 112)).forward s) 8 = leBytes 8 (reason * 256 + st) := by
  have hmem : (s.jobState n st reason).mem =
      (s.writeAt ((Loc.hbm (s.job n).part ((s.job n).slotAt + 112)).forward s) (leBytes 8 (reason * 256 + st))).mem := by
    unfold State.jobState
    dsimp only
    rw [if_neg (Bool.eq_false_iff.mp hr), State.homeWrite, State.dropReplicas_mem, State.clearS_mem]
    rfl
  have hread := State.readAt_writeAt h ((Loc.hbm (s.job n).part ((s.job n).slotAt + 112)).forward s) (leBytes 8 (reason * 256 + st))
  rw [leBytes_length] at hread
  rw [State.readAt, hmem]
  exact hread

theorem State.advanceHead_jobs (p q k : Nat) (s : State) : (s.advanceHead p q k).jobs = s.jobs := by
  induction k generalizing s with
  | zero => rfl
  | succ k ih =>
    rw [State.advanceHead]
    split
    · rfl
    · split
      · split
        · exact ih _
        · rfl
      · rfl
theorem State.squeue_next_advanceHead (p q k a b : Nat) (s : State) :
    ((s.advanceHead p q k).squeue a b).next = (s.squeue a b).next := by
  induction k generalizing s with
  | zero => rfl
  | succ k ih =>
    rw [State.advanceHead]
    split
    · rfl
    · split
      · split
        · exact (ih _).trans (State.squeue_next_setSqueue (by rfl) a b)
        · rfl
      · rfl
theorem State.raiseMsi_schedule (s : State) (p v : Nat) : (s.raiseMsi p v).schedule = s.schedule := by
  unfold State.raiseMsi State.sendMsi
  split <;> rfl
/-- R262, R403: a final state is recorded for the job, and for no other. -/
theorem State.job_finishJob (s : State) (n st reason m : Nat) :
    (s.finishJob n st reason).job m = if m = n then { s.job n with st, reason } else s.job m := by
  rw [← State.job_jobState]
  unfold State.finishJob
  dsimp only
  rw [State.job_congr (State.advanceHead_jobs ..)]
  split
  · exact job_of_schedule (State.raiseMsi_schedule ..) m
  · rfl
theorem State.squeue_next_finishJob (s : State) (n st reason p q : Nat) :
    ((s.finishJob n st reason).squeue p q).next = (s.squeue p q).next := by
  rw [← s.squeue_jobState n st reason]
  unfold State.finishJob
  dsimp only
  rw [State.squeue_next_advanceHead]
  split
  · rw [squeue_of_schedule (State.raiseMsi_schedule ..)]
  · rfl

/-! ### Tests of waiting jobs (R266) -/

theorem State.testJob_cases (s : State) (n : Nat) :
    s.testJob n = s ∨ ((s.job n).st = 1 ∧ s.testJob n = s.jobState n 2 0) := by
  unfold State.testJob
  split
  · exact .inr ⟨‹_ ∧ _›.1, rfl⟩
  · exact .inl rfl
/-- A test of one job leaves each job that does not wait. -/
theorem State.job_testJob {s : State} {n m : Nat} (h : m = n → (s.job n).st ≠ 1) : (s.testJob n).job m = s.job m := by
  rcases s.testJob_cases n with ht | ⟨hst, ht⟩
  · rw [ht]
  · rw [ht, State.job_jobState, if_neg fun hm => h hm hst]
theorem State.squeue_testJob (s : State) (n p q : Nat) : (s.testJob n).squeue p q = s.squeue p q := by
  rcases s.testJob_cases n with ht | ⟨-, ht⟩ <;> rw [ht]
  exact State.squeue_jobState ..
theorem State.foldl_frontNote_keeps {γ : Type} {part : State → γ} (h : KeptByReads part) (p : Nat) (l : List W64) (s : State) :
    part (l.foldl (fun u v => u.frontNote p v) s) = part s := foldl_keeps part (fun u v => State.frontNote_keeps h u p v) l s
theorem State.job_testEdges {s : State} {m : Nat} (h : (s.job m).st ≠ 1) (p : Nat) : (s.testEdges p).job m = s.job m := by
  unfold State.testEdges
  refine List.foldlRecOn (motive := fun t : State => t.job m = s.job m) _ _ rfl fun t ht e _ => ?_
  have hnote := job_of_schedule (State.foldl_frontNote_keeps keptByReads_schedule p (t.edgeVas e.2) t) m
  rw [State.job_testJob, hnote, ht]
  rintro rfl
  rwa [hnote, ht]
theorem State.job_testSoon {s : State} {m : Nat} (h : (s.job m).st ≠ 1) (p : Nat) : (s.testSoon p).job m = s.job m := by
  unfold State.testSoon
  split
  · rfl
  · exact State.job_testEdges h p

/-! ### Completion (R267) -/

theorem State.job_jobCompleted (s : State) (n : Nat) : (s.jobCompleted n).job n = { s.job n with st := 6, reason := 0, adding := none } := by
  have hdone : ((s.setJob n { s.job n with adding := none }).finishJob n 6 0).job n =
      { s.job n with st := 6, reason := 0, adding := none } := by
    rw [State.job_finishJob, if_pos rfl, State.job_setJob_self]
  refine (State.job_testSoon ?_ _).trans hdone
  rw [hdone]
  exact (by decide : (6 : Nat) ≠ 1)
/-- R267: a release takes the job's number from the cores of its clusters. -/
theorem State.release_eq (s : State) (n : Nat) :
    ∃ t : State, t.schedule = s.schedule ∧ t.mem = s.mem ∧ s.release n = t.setJob n { s.job n with placed := false, clusters := [] } := by
  refine ⟨_, ?_, ?_, rfl⟩
  · exact foldl_keeps State.schedule (fun u cl => foldl_keeps State.schedule (fun w c => by split <;> simp) _ u) _ s
  · exact foldl_keeps State.mem (fun u cl => foldl_keeps State.mem (fun w c => by split <;> rfl) _ u) _ s
theorem State.release_spec (s : State) (n : Nat) :
    (s.release n).job n = { s.job n with placed := false, clusters := [] } ∧ (s.release n).mem = s.mem ∧
      (∀ m, m ≠ n → (s.release n).job m = s.job m) ∧ ∀ c k, k < 16 → (s.release n).slotOf c k = s.slotOf c k := by
  obtain ⟨t, hsch, hmem, he⟩ := s.release_eq n
  rw [he]
  refine ⟨State.job_setJob_self .., hmem, fun m hm => ?_, fun c k _ => slotOf_of_schedule hsch c k⟩
  rw [State.job_setJob, if_neg hm, job_of_schedule hsch]
theorem State.addOne_spec (s : State) (n : Nat) (l : Loc) :
    (∃ id, (s.addOne n l).job n = { s.job n with adding := some id }) ∧ (s.addOne n l).mem = s.mem ∧
      ∀ m, m ≠ n → (s.addOne n l).job m = s.job m := by
  have hjob (m : Nat) : (s.noteWalk .iod (s.job n).part ((s.job n).dw 96).toNat).job m = s.job m :=
    job_of_schedule (State.noteWalk_keeps keptByReads_schedule ..) m
  refine ⟨⟨_, State.job_setJob_self ..⟩, State.noteWalk_keeps keptByReads_mem .., fun m hm => ?_⟩
  exact (State.job_setJob ..).trans ((if_neg hm).trans (hjob m))
/-- R267, R355: the order of a completion: the lines home, then the clusters, then the counter. -/
theorem State.completeJob_spec (s : State) (n : Nat) :
    let j := s.job n
    let t := j.clusters.foldl (fun u cl => u.wbCluster cl) s
    let held := t.writesWait j.part = true ∨ (j.dw 96 ≠ 0 ∧ t.walkCut .iod j.part (j.dw 96).toNat = true)
    (held → s.completeJob n = t) ∧ (¬ held → (t.release n).counterLoc j = none → s.completeJob n = (t.release n).jobCompleted n) ∧
      ∀ l, ¬ held → (t.release n).counterLoc j = some l → s.completeJob n = (t.release n).addOne n l := by
  dsimp only
  unfold State.completeJob
  dsimp only
  refine ⟨fun h => if_pos (by simpa using h), fun h hl => ?_, fun l h hl => ?_⟩ <;> rw [if_neg (by simpa using h), hl]

/-! ### Placement (R270 to R272) -/

theorem State.clustersFree_iff (s : State) (cs : List Nat) :
    s.clustersFree cs = true ↔ ∀ e ∈ s.jobs, e.2.placed = true → ∀ c ∈ e.2.clusters, c ∉ cs := by
  simp [State.clustersFree, List.all_eq_true, Decidable.imp_iff_not_or]

theorem State.edgeInval_schedule (s : State) (cl p : Nat) (es : List Edge) : (s.edgeInval cl p es).schedule = s.schedule :=
  foldl_keeps State.schedule (fun t e => by split <;> simp) es s
theorem State.edgeInvalAll_schedule (s : State) (cl p : Nat) (es : List Edge) : (s.edgeInvalAll cl p es).schedule = s.schedule := by
  unfold State.edgeInvalAll
  split
  · rfl
  · refine (foldl_keeps State.schedule (fun t c => ?_) _ _).trans (s.edgeInval_schedule cl p es)
    split
    · rfl
    · refine foldl_keeps State.schedule (fun u e => ?_) es t
      exact (State.schedule_setCore (by rfl)).trans (State.foldl_l1Flush_schedule ..)
theorem State.placeCores_jobs (n : Nat) (task : Bool) (l : List Nat) (s : State) :
    (l.foldl (fun w c => w.setCore c ((w.core c).placed n c task)) s).jobs = s.jobs := foldl_keeps State.jobs (fun _ _ => by rfl) l s
/-- R270: a job holds the clusters it needs from its placement on. -/
theorem State.takeClusters_jobs (s : State) (n : Nat) :
    (s.takeClusters n).jobs = (s.setJob n { s.job n with placed := true, clusters := (s.job n).needs }).jobs := by
  unfold State.takeClusters
  refine foldl_keeps State.jobs (fun u cl => ?_) _ _
  dsimp only
  rw [State.placeCores_jobs, jobs_of_schedule (State.edgeInvalAll_schedule ..), jobs_of_schedule (State.resizeCc_schedule ..)]
theorem State.reserveMember_jobs (s : State) (c k : Nat) (cl : Claim) : (s.reserveMember c k cl).jobs = s.jobs := by
  unfold State.reserveMember
  split <;> rfl
theorem State.reserveFrom_jobs (g k m : Nat) (s : State) : (s.reserveFrom g m k).jobs = s.jobs := by
  induction k generalizing m s with
  | zero => rfl
  | succ k ih =>
    rw [State.reserveFrom]
    dsimp only
    rw [ih]
    split
    · rfl
    · split
      · exact State.reserveMember_jobs ..
      · rfl
theorem State.reserve_jobs (s : State) (cl : Nat) : (s.reserve cl).jobs = s.jobs := by
  unfold State.reserve
  split
  · exact State.reserveFrom_jobs ..
  · rfl
theorem State.assignGangs_jobs (n k i : Nat) (s : State) : (s.assignGangs n i k).jobs = s.jobs := by
  induction k generalizing i s with
  | zero => rfl
  | succ k ih =>
    rw [State.assignGangs]
    dsimp only
    split
    · rfl
    · exact ih _ _
/-- R271: the root's start, or its claim, changes no job but its own, whose clusters stay. -/
theorem State.job_placeRoot (s : State) (n : Nat) :
    (∃ st reason, (s.placeRoot n).job n = { s.job n with st, reason }) ∧ ∀ m, m ≠ n → (s.placeRoot n).job m = s.job m := by
  unfold State.placeRoot
  dsimp only
  split
  · have hstart (c k m : Nat) : (s.startRoot c k n).job m = if m = n then { s.job n with st := 3, reason := 0 } else s.job m :=
      State.job_jobState ..
    exact ⟨⟨3, 0, (hstart ..).trans (if_pos rfl)⟩, fun m hm => (hstart ..).trans (if_neg hm)⟩
  · exact ⟨⟨_, _, rfl⟩, fun _ _ => rfl⟩
theorem State.placeJob_spec (s : State) (n : Nat) :
    ((s.placeJob n).job n).placed = true ∧ ((s.placeJob n).job n).clusters = (s.job n).needs ∧
      ∀ m, m ≠ n → (s.placeJob n).job m = s.job m := by
  have htake (m : Nat) : (s.takeClusters n).job m =
      if m = n then { s.job n with placed := true, clusters := (s.job n).needs } else s.job m :=
    (State.job_congr (s.takeClusters_jobs n) m).trans (State.job_setJob ..)
  have hself := (htake n).trans (if_pos rfl)
  unfold State.placeJob
  dsimp only
  split
  · have hgang (m : Nat) (l : List Nat) (k : Nat) :
        (l.foldl (fun u cl => u.reserve cl) ((s.takeClusters n).assignGangs n 0 k)).job m = (s.takeClusters n).job m :=
      State.job_congr ((foldl_keeps State.jobs (fun u cl => u.reserve_jobs cl) _ _).trans (State.assignGangs_jobs ..)) m
    refine ⟨?_, ?_, fun m hm => ?_⟩ <;> rw [hgang]
    · rw [hself]
    · rw [hself]
    · rw [htake, if_neg hm]
  · obtain ⟨⟨st, reason, hn⟩, hother⟩ := (s.takeClusters n).job_placeRoot n
    refine ⟨?_, ?_, fun m hm => ?_⟩
    · rw [hn, hself]
    · rw [hn, hself]
    · rw [hother m hm, htake, if_neg hm]
theorem State.offerJob_spec (s : State) (p n : Nat) :
    (s.clustersFree (s.job n).needs = true → s.offerJob p n = (s.setPartn p { s.partn p with waitJob := none }).placeJob n) ∧
      (s.clustersFree (s.job n).needs = false → s.offerJob p n = s.setPartn p { s.partn p with waitJob := some n }) :=
  ⟨fun h => if_pos h, fun h => if_neg (Bool.eq_false_iff.mp h)⟩
theorem State.placeNext_free {s : State} {p : Nat} (hw : (s.partn p).waitJob = none) :
    (s.choose p (s.readyJobs p) (s.readyJobs p) = none → s.placeNext p = s) ∧
      ∀ c t, s.choose p (s.readyJobs p) (s.readyJobs p) = some (c, t) → s.placeNext p = t.offerJob p c.1 := by
  refine ⟨fun h => ?_, fun c t h => ?_⟩ <;> simp only [State.placeNext, hw, h]
theorem State.placeNext_waiting {s : State} {p w : Nat} (hw : (s.partn p).waitJob = some w) :
    let o := (s.readyJobs p).filter fun c => c.1 != w
    (∀ c t, s.choose p o (o.filter fun c => c.2.level < (s.job w).level) = some (c, t) → s.placeNext p = t.offerJob p c.1) ∧
      (s.choose p o (o.filter fun c => c.2.level < (s.job w).level) = none → s.clustersFree (s.job w).needs = true →
        s.placeNext p = (s.setPartn p { s.partn p with waitJob := none }).placeJob w) := by
  refine ⟨fun c t h => ?_, fun h hf => ?_⟩ <;> simp only [State.placeNext, hw, h]
  rw [if_pos hf]

/-! ### The start of a gang (R272, R254) -/

/-- Which gangs have started. -/
def State.startedGangs (s : State) (g : Nat) : Bool := (s.gang g).started
theorem State.startedGangs_setGang {s : State} {g : Nat} {x : Gang} (h : x.started = (s.gang g).started) :
    (s.setGang g x).startedGangs = s.startedGangs := by
  funext m
  rw [State.startedGangs, State.gang_setGang]
  split
  · rw [h, State.startedGangs, ‹m = g›]
  · rfl
theorem State.reserveMember_startedGangs (s : State) (c k : Nat) (cl : Claim) : (s.reserveMember c k cl).startedGangs = s.startedGangs := by
  unfold State.reserveMember
  split
  · rfl
  · exact State.startedGangs_setGang (by rfl)
theorem State.reserveFrom_startedGangs (g k m : Nat) (s : State) : (s.reserveFrom g m k).startedGangs = s.startedGangs := by
  induction k generalizing m s with
  | zero => rfl
  | succ k ih =>
    rw [State.reserveFrom]
    dsimp only
    rw [ih]
    split
    · rfl
    · split
      · exact State.reserveMember_startedGangs ..
      · rfl
theorem State.reserve_startedGangs (s : State) (cl : Nat) : (s.reserve cl).startedGangs = s.startedGangs := by
  unfold State.reserve
  split
  · exact State.reserveFrom_startedGangs ..
  · rfl
theorem State.startMember_keeps (s : State) (g m : Nat) :
    ((s.startMember g m).jobs, (s.startMember g m).startedGangs) = (s.jobs, s.startedGangs) := by
  unfold State.startMember
  dsimp only
  split
  · rfl
  · exact congrArg (Prod.mk s.jobs) (State.startedGangs_setGang (by rfl))
/-- R272: the members are created in a state that knows of the gang's start, and then the job is running. -/
theorem State.startGang_eq (s : State) (g : Nat) : ∃ t : State, t.jobs = s.jobs ∧ t.startedGangs g = true ∧
    s.startGang g = (if (t.job (s.gang g).job).st = 3 then t else t.jobState (s.gang g).job 3 0).reserve (s.gang g).cluster := by
  have hfold (l : List Nat) (u : State) := foldl_keeps (fun t : State => (t.jobs, t.startedGangs)) (fun t m => t.startMember_keeps g m) l u
  refine ⟨_, (congrArg (·.1) (hfold _ _)).trans rfl, ?_, rfl⟩
  rw [show State.startedGangs _ = _ from congrArg (·.2) (hfold _ _)]
  simp only [State.startedGangs, State.gang_setGang, if_true]
theorem State.startGang_spec (s : State) (g : Nat) :
    ((s.startGang g).gang g).started = true ∧ ((s.startGang g).job (s.gang g).job).st = 3 := by
  obtain ⟨t, -, hstarted, he⟩ := s.startGang_eq g
  rw [he]
  constructor
  · refine (congrFun (State.reserve_startedGangs ..) g).trans ?_
    split
    · exact hstarted
    · exact (congrArg (fun l => (tget l g { job := 0, cluster := 0 }).started) (t.jobState_gangs ..)).trans hstarted
  · rw [State.job_congr (State.reserve_jobs ..)]
    split
    · assumption
    · rw [State.job_jobState, if_pos rfl]

end Sys2Proof.Machine
end

section
/-!
SUPPORT. O49: the entry that the front end reads, the gang switch, `UNFENCE`, and the steps of the device that take them.
-/
namespace Sys2Proof.Machine
open Sys2Proof

/-! ### What a new number leaves as it was -/

/-- The state whose next fresh number is another. -/
def State.withToken (s : State) (n : Nat) : State := { s with token := n }

theorem State.walkFrom_withToken (s : State) (n part va k table : Nat) :
    (s.withToken n).walkFrom part va k table = s.walkFrom part va k table := by
  induction k generalizing table with
  | zero => rfl
  | succ k ih => simp only [State.walkFrom, ih]; rfl
theorem State.readsFrom_withToken (s : State) (n part va k table : Nat) :
    (s.withToken n).readsFrom part va k table = s.readsFrom part va k table := by
  induction k generalizing table with
  | zero => rfl
  | succ k ih => simp only [State.readsFrom, ih]; rfl
theorem State.walk_withToken (s : State) (n part va : Nat) : (s.withToken n).walk part va = s.walk part va := by
  simp only [State.walk, State.walkFrom_withToken]; rfl
theorem State.walkReads_withToken (s : State) (n part va : Nat) : (s.withToken n).walkReads part va = s.walkReads part va := by
  simp only [State.walkReads, State.readsFrom_withToken]; rfl
theorem State.globalLoc_withToken (s : State) (n part : Nat) (k : Kind) (va : W64) :
    (s.withToken n).globalLoc part k va = s.globalLoc part k va := by
  simp only [State.globalLoc, State.walk_withToken]; rfl
theorem State.globalDw_withToken (s : State) (n part : Nat) (va : W64) : (s.withToken n).globalDw part va = s.globalDw part va := by
  simp only [State.globalDw, State.globalLoc_withToken]; rfl
theorem State.edgesFrom_withToken (s : State) (n part k : Nat) (va : W64) : (s.withToken n).edgesFrom part va k = s.edgesFrom part va k := by
  induction k generalizing va with
  | zero => rfl
  | succ k ih => simp only [State.edgesFrom, State.globalDw_withToken, ih]
theorem State.edgeVas_withToken (s : State) (n : Nat) (j : Job) : (s.withToken n).edgeVas j = s.edgeVas j := by
  simp only [State.edgeVas, State.edgesOf, State.edgesFrom_withToken]
theorem State.frontHeld_withToken (s : State) (n part : Nat) (va : W64) : (s.withToken n).frontHeld part va = s.frontHeld part va := by
  simp only [State.frontHeld, State.walkCut, State.walkReads_withToken, State.globalLoc_withToken]; rfl

/-! ### Reading an entry (R261 to R266) -/

/-- The place of the entry that a queue reads next. -/
def State.entryAt (s : State) (part q : Nat) : Nat := (s.squeue part q).off + 128 * (s.squeue part q).next
/-- The job of the entry that a queue reads next. -/
def State.entryJob (s : State) (part q : Nat) : Job :=
  let j : Job := { part, queue := q, qslot := (s.squeue part q).next, slotAt := s.entryAt part q
                   bytes := s.homeRead (.hbm part (s.entryAt part q)) 128 0 0, read := s.gtime.toNat }
  { j with level := j.fld 88 8 2 }
/-- The queue can give its next entry: it is enabled with one unread, whose page is in use and whose lines nothing holds. -/
def State.EntryReady (s : State) (part q : Nat) : Prop :=
  (s.squeue part q).en = true ∧ (s.squeue part q).next ≠ (s.squeue part q).tail ∧ s.isRetired part (s.entryAt part q) = false ∧
    s.frontBusy part (s.entryAt part q) = false ∧ s.frontBusy part (s.entryAt part q + 64) = false
/-- A read that brings job `j`, under the number `n`, recorded: the job stands in the table and the queue goes on. -/
def State.noteEntry (s : State) (part q n : Nat) (j : Job) : State :=
  let t := (s.edgeVas j).foldl (fun u v => u.frontNote part v)
    (((s.withToken (n + 1)).noteRead .iod part (s.entryAt part q) 0).noteRead .iod part (s.entryAt part q + 64) 0)
  (t.setJob n j).setSqueue part q { s.squeue part q with next := ((s.squeue part q).next + 1) % (s.squeue part q).slots }

theorem State.readEntry_held {s : State} {part q : Nat}
    (h : (s.squeue part q).en = false ∨ (s.squeue part q).next = (s.squeue part q).tail ∨ s.isRetired part (s.entryAt part q) = true ∨
      s.frontBusy part (s.entryAt part q) = true ∨ s.frontBusy part (s.entryAt part q + 64) = true) : s.readEntry part q = s :=
  if_pos (by rwa [Bool.not_eq_true'])
theorem State.readEntry_ready {s : State} {part q : Nat} (h : s.EntryReady part q)
    (hv : ∀ v ∈ s.edgeVas (s.entryJob part q), s.frontHeld part v = false) :
    let j := s.entryJob part q
    let t := s.noteEntry part q s.token j
    s.readEntry part q =
      if t.rejectReason j ≠ 0 then t.finishJob s.token 4 (t.rejectReason j) else (t.jobState s.token 1 0).testJob s.token := by
  obtain ⟨hen, hnext, hret, hbusy, hbusy64⟩ := h
  have hheld : ¬ ((s.withToken (s.token + 1)).edgeVas (s.entryJob part q)).any ((s.withToken (s.token + 1)).frontHeld part) = true := by
    rw [State.edgeVas_withToken, List.any_eq_true]
    rintro ⟨v, hm, ht⟩
    rw [State.frontHeld_withToken, hv v hm] at ht
    cases ht
  have hready : ¬ ((!(s.squeue part q).en) = true ∨ (s.squeue part q).next = (s.squeue part q).tail ∨
      s.isRetired part (s.entryAt part q) = true ∨ s.frontBusy part (s.entryAt part q) = true ∨
      s.frontBusy part (s.entryAt part q + 64) = true) := by
    simp [hen, hnext, hret, hbusy, hbusy64]
  simp only [State.noteEntry, ← s.edgeVas_withToken (s.token + 1)]
  exact (if_neg hready).trans (if_neg hheld)
theorem State.noteEntry_jobs (s : State) (part q n : Nat) (j : Job) : (s.noteEntry part q n j).jobs = tset s.jobs n j :=
  congrArg (tset · n j) ((jobs_of_schedule (State.foldl_frontNote_keeps keptByReads_schedule ..)).trans (jobs_of_schedule
    ((State.noteRead_keeps keptByReads_schedule ..).trans (State.noteRead_keeps keptByReads_schedule ..))))
theorem State.noteEntry_next (s : State) {part q : Nat} (n : Nat) (j : Job) (hq : q < 64) :
    ((s.noteEntry part q n j).squeue part q).next = ((s.squeue part q).next + 1) % (s.squeue part q).slots := by
  rw [State.noteEntry, State.squeue, State.setSqueue, State.partn_setPartn_self, vget_vset_self _ _ _ hq]
theorem State.job_noteEntry (s : State) (part q n m : Nat) (j : Job) :
    (s.noteEntry part q n j).job m = if m = n then j else s.job m := by
  rw [State.job, State.noteEntry_jobs, tget_tset]; rfl

/-- R261 to R266: the queue goes on to its next slot, and the job of the entry is rejected with a reason, or waits, or is ready. -/
theorem State.readEntry_spec {s : State} {part q : Nat} (hq : q < 64) (h : s.EntryReady part q)
    (hv : ∀ v ∈ s.edgeVas (s.entryJob part q), s.frontHeld part v = false) :
    ((s.readEntry part q).squeue part q).next = ((s.squeue part q).next + 1) % (s.squeue part q).slots ∧
      (∃ st r, (s.readEntry part q).job s.token = { s.entryJob part q with st := st, reason := r } ∧
        ((st = 4 ∧ r ≠ 0) ∨ ((st = 1 ∨ st = 2) ∧ r = 0))) ∧
      ∀ m, m ≠ s.token → (s.readEntry part q).job m = s.job m := by
  rw [State.readEntry_ready h hv]
  generalize ht : s.noteEntry part q s.token (s.entryJob part q) = t
  have hnext : (t.squeue part q).next = ((s.squeue part q).next + 1) % (s.squeue part q).slots := by
    rw [← ht, State.noteEntry_next _ _ _ hq]
  have hself : t.job s.token = s.entryJob part q := by rw [← ht, State.job_noteEntry, if_pos rfl]
  have hother (m : Nat) (hm : m ≠ s.token) : t.job m = s.job m := by rw [← ht, State.job_noteEntry, if_neg hm]
  split
  · refine ⟨?_, ⟨4, t.rejectReason (s.entryJob part q), ?_, .inl ⟨rfl, ‹_›⟩⟩, fun m hm => ?_⟩
    · rw [State.squeue_next_finishJob, hnext]
    · rw [State.job_finishJob, if_pos rfl, hself]
    · rw [State.job_finishJob, if_neg hm, hother m hm]
  · refine ⟨?_, ?_, fun m hm => ?_⟩
    · rw [State.squeue_testJob, State.squeue_jobState, hnext]
    · rcases (t.jobState s.token 1 0).testJob_cases s.token with hj | ⟨-, hj⟩ <;> rw [hj]
      · exact ⟨1, 0, by rw [State.job_jobState, if_pos rfl, hself], .inr ⟨.inl rfl, rfl⟩⟩
      · exact ⟨2, 0, by simp only [State.job_jobState, if_true, hself], .inr ⟨.inr rfl, rfl⟩⟩
    · rw [State.job_testJob fun h => absurd h hm, State.job_jobState, if_neg hm, hother m hm]

/-! ### Gang switches (R289, R292, R295) -/

theorem State.switchStop_spec (s : State) (p : Nat) :
    ((s.partn p).stopLeft = none → (∀ i ∈ (s.partn p).islands, s.islandOff i = false) →
      ((s.switchStop p).partn p).swSt = 2 ∧ ((s.switchStop p).partn p).stopLeft = none) ∧
    (let left := ((s.partn p).stopLeft.getD (s.partn p).islands).filter s.islandOff;
      left ≠ [] → (s.partn p).stopLeft ≠ some left →
        ((s.switchStop p).partn p).swSt = 1 ∧ ((s.switchStop p).partn p).stopLeft = some left) := by
  refine ⟨fun hnone hon => ?_, fun hleft hnew => ?_⟩
  · have hleft : ((s.partn p).stopLeft.getD (s.partn p).islands).filter s.islandOff = [] := by
      rw [hnone]
      exact List.filter_eq_nil_iff.mpr fun i hi => Bool.eq_false_iff.mp (hon i hi)
    unfold State.switchStop
    dsimp only
    rw [hleft, if_neg (by rw [hnone]; simp), State.partn_setPartn_self]
    exact ⟨rfl, rfl⟩
  · unfold State.switchStop
    dsimp only
    rw [if_neg hnew, State.partn_setPartn_self, if_neg (by simpa using hleft), if_neg (by simpa using hleft)]
    exact ⟨rfl, rfl⟩
theorem State.switchSave_spec (s : State) (p : Nat) :
    ((s.switchSave p).partn p).swSt = 3 ∧ ((s.switchSave p).partn p).parked = [] ∧
      ∃ i ∈ ((s.switchSave p).partn p).images, ∃ b, b ∈ ((s.switchSave p).partn p).marked ∧ b.1 = i.base % 2 ^ 43 := by
  unfold State.switchSave
  dsimp only
  rw [State.partn_setPartn_self]
  exact ⟨rfl, rfl, _, List.mem_append_right _ (List.mem_singleton_self _), _, List.mem_cons_self, rfl⟩

/-- A key that no entry of a list has keeps its value when all are set. -/
theorem tget_foldl_tset_ne {α : Type} {l : List (Nat × α)} {k : Nat} (h : ∀ d ∈ l, d.1 ≠ k) (t : Tbl α) (x : α) :
    tget (l.foldl (fun r d => tset r d.1 d.2) t) k x = tget t k x :=
  List.foldlRecOn (motive := fun r : Tbl α => tget r k x = tget t k x) _ _ rfl fun r hr d hd =>
    (tget_tset_ne r d.2 x (Ne.symm (h d hd))).trans hr
/-- A key that one entry of a list alone has reads that entry's value once all are set. -/
theorem tget_foldl_tset {α : Type} {l : List (Nat × α)} {e : Nat × α} (he : e ∈ l) (hu : ∀ d ∈ l, d.1 = e.1 → d = e) (t : Tbl α) (x : α) :
    tget (l.foldl (fun r d => tset r d.1 d.2) t) e.1 x = e.2 := by
  induction l generalizing t with
  | nil => cases he
  | cons d l ih =>
    rw [List.foldl_cons]
    by_cases hm : e ∈ l
    · exact ih hm (fun c hc => hu c (List.mem_cons_of_mem d hc)) _
    · obtain rfl : e = d := (List.mem_cons.mp he).resolve_right hm
      have hne : ∀ c ∈ l, c.1 ≠ e.1 := fun c hc hk => hm (hu c (List.mem_cons_of_mem e hc) hk ▸ hc)
      rw [tget_foldl_tset_ne hne, tget_tset_self]

theorem State.reinject_jobs (s : State) (p : Packet) : (s.reinject p).jobs = s.jobs := by
  unfold State.reinject
  dsimp only
  split <;> rfl
theorem State.queueState_jobs (s : State) (h : Handle) : (s.queueState h).2.2.jobs = s.jobs := by
  unfold State.queueState
  split <;> rfl
theorem State.fabReply_jobs (s : State) (dev req : Nat) (a : FabAns) : (s.fabReply dev req a).jobs = s.jobs := by
  unfold State.fabReply
  dsimp only
  split
  · rfl
  · cases a with
    | fault k =>
      dsimp only
      split
      · exact State.queueState_jobs ..
      · rfl
    | _ => rfl
theorem State.fabAggReply_jobs (s : State) (dev core seq mask : Nat) (cs : List Nat) :
    (s.fabAggReply dev core seq mask cs).jobs = s.jobs := by
  unfold State.fabAggReply
  dsimp only
  split <;> rfl

theorem State.switchResume_none {s : State} {p : Nat}
    (h : (s.partn p).images.find? (fun i => i.base == (s.partn p).swbase.toNat) = none) : s.switchResume p = s := by
  simp only [State.switchResume, h]
/-- R295: the partition runs with the jobs of its image, before the traffic held at the IOD is admitted. -/
theorem State.switchResume_some {s : State} {p : Nat} {i : SaveImage}
    (h : (s.partn p).images.find? (fun i => i.base == (s.partn p).swbase.toNat) = some i) :
    ∃ u : State, s.switchResume p = u.admitAll ∧ (u.partn p).swSt = 0 ∧
      ∀ e ∈ i.jobs, (∀ d ∈ i.jobs, d.1 = e.1 → d = e) → u.job e.1 = e.2 := by
  simp only [State.switchResume, h]
  refine ⟨_, rfl, ?_, fun e he hu => ?_⟩
  · rw [State.partn_setPartn_self]
  · rw [State.job, State.setPartn_jobs, foldl_keeps State.jobs, foldl_keeps State.jobs fun u q => u.reinject_jobs q]
    · exact tget_foldl_tset he hu _ _
    · intro u d
      split
      · exact State.fabReply_jobs ..
      · exact State.fabAggReply_jobs ..
      · rfl

/-! ### `UNFENCE` (R252, R286) -/

/-- When each slot issued last, from which its 8 cycles count (R241). -/
def State.lastIssues (s : State) (c k : Nat) : Option Nat := (s.slotOf c k).lastIssue
theorem lastIssues_of_schedule {s t : State} (h : t.schedule = s.schedule) : t.lastIssues = s.lastIssues :=
  funext fun c => funext fun k => congrArg Slot.lastIssue (slotOf_of_schedule h c k)
theorem State.wake_lastIssues (s : State) (c k : Nat) : (s.wake c k).lastIssues = s.lastIssues := by
  funext d j
  unfold State.wake
  split
  · exact State.slotOf_setSlot_part Slot.lastIssue (by rfl) d j
  · exact State.slotOf_setSlot_part Slot.lastIssue (by rfl) d j
  · rfl
theorem State.tryBarrier_lastIssues (s : State) (cl n : Nat) : (s.tryBarrier cl n).lastIssues = s.lastIssues := by
  unfold State.tryBarrier
  dsimp only
  split
  · rfl
  · split
    · rfl
    · refine foldl_keeps State.lastIssues (fun u a => ?_) _ _
      split
      · refine (lastIssues_of_schedule (State.cacheAcquire_schedule ..)).trans ?_
        split
        · exact State.wake_lastIssues ..
        · rfl
      · rfl
theorem State.endGang_lastIssues (s : State) (g : Nat) : (s.endGang g).lastIssues = s.lastIssues := by
  unfold State.endGang
  exact foldl_keeps State.lastIssues (fun u c => lastIssues_of_schedule (State.schedule_setCore (by rfl))) _ _
theorem State.leaveGang_lastIssues (s : State) (g sid : Nat) : (s.leaveGang g sid).lastIssues = s.lastIssues := by
  unfold State.leaveGang
  dsimp only
  split
  · exact State.endGang_lastIssues ..
  · exact foldl_keeps State.lastIssues (fun u i => u.tryBarrier_lastIssues ..) _ _
theorem State.gangsLose_lastIssues (s : State) (c : Nat) : (s.gangsLose c).lastIssues = s.lastIssues := by
  unfold State.gangsLose
  refine foldl_keeps State.lastIssues (fun u x => ?_) _ _
  split
  · split
    · exact State.leaveGang_lastIssues ..
    · rfl
  · rfl
theorem State.gangsLose_no_gang {s : State} {c : Nat} (h : ∀ k g, k < 16 → (s.strandOf c k).role ≠ .gang g) : s.gangsLose c = s := by
  unfold State.gangsLose
  refine List.foldlRecOn (motive := fun t : State => t = s) _ _ rfl fun t ht x hx => ?_
  obtain ⟨k, hk, rfl⟩ := List.getElem_of_mem hx
  have hk16 : k < 16 := by simpa using hk
  have hrole := fun g => h k g hk16
  split
  · rename_i g hg
    refine absurd ?_ (hrole g)
    rw [← hg]
    simp [State.strandOf, State.slotOf, vget, hk16]
  · exact ht

theorem State.unfence_off {s : State} {p c : Nat} (h : (s.core c).fenced = false ∨ (s.partn p).clusters.contains (clusterOf c) = false) :
    s.unfence p c = s := if_pos (by rcases h with h | h <;> simp only [h, Bool.not_false, Bool.true_or, Bool.or_true])
/-- R286: the fence ends in the state that the gang strands of the core have left. -/
theorem State.unfence_spec {s : State} {p c : Nat} (hf : (s.core c).fenced = true) (hp : (s.partn p).clusters.contains (clusterOf c) = true) :
    ∃ t, s.unfence p c = t ∧ (t.core c).fenced = false ∧ (∀ k, k < 16 → t.slotOf c k = { lastIssue := (s.slotOf c k).lastIssue }) ∧
      (t.core c).teQueue = [] ∧ (t.core c).meQueue = [] ∧ (t.core c).deque = [] ∧ (t.core c).calls = [] ∧ (t.core c).inbox = [] ∧
      ((∀ k g, k < 16 → (s.strandOf c k).role ≠ .gang g) → t.mem = s.mem ∧ ∀ n, n ≠ c → t.core n = s.core n) := by
  refine ⟨_, if_neg (by rw [hf, hp]; decide), ?_⟩
  dsimp only
  rw [State.core_setCore_self]
  refine ⟨rfl, fun k hk => ?_, rfl, rfl, rfl, rfl, rfl, fun hg => ?_⟩
  · have hlast := congrFun (congrFun (s.gangsLose_lastIssues c) c) k
    rw [← show _ = (s.slotOf c k).lastIssue from hlast, State.slotOf, State.core_setCore_self]
    simp [State.lastIssues, State.slotOf, vget, hk, Slot.freed]
  · rw [State.gangsLose_no_gang hg]
    exact ⟨rfl, fun n hn => by rw [State.core_setCore, if_neg hn]⟩

/-! ### Doorbells (R402) -/

theorem State.doorbell_spec (s : State) (p q : Nat) (v : W64) :
    let x := s.squeue p q
    let n := x.slots
    let d := (v.toNat + n - x.head) % n
    ((x.en = false ∨ x.mode = true) → s.doorbell p q v = s.setSqueue p q { x with err := 2 }) ∧
    (x.en = true → x.mode = false → n ≤ v.toNat → s.doorbell p q v = s.setSqueue p q { x with err := 1 }) ∧
    (x.en = true → x.mode = false → v.toNat < n → d < (x.tail + n - x.head) % n → s.doorbell p q v = s.setSqueue p q { x with err := 3 }) ∧
    (x.en = true → x.mode = false → v.toNat < n → (x.tail + n - x.head) % n ≤ d →
      s.doorbell p q v = s.setSqueue p q { x with tail := v.toNat }) := by
  dsimp only
  unfold State.doorbell
  dsimp only
  refine ⟨fun h => if_pos (by simpa using h), fun he hm hn => ?_, fun he hm hn hd => ?_, fun he hm hn hd => ?_⟩ <;>
    rw [if_neg (by simp [he, hm])]
  · exact if_pos hn
  · rw [if_neg (Nat.not_le.mpr hn), if_pos hd]
  · rw [if_neg (Nat.not_le.mpr hn), if_neg (Nat.not_lt.mpr hd)]

end Sys2Proof.Machine
end

section
/-!
SUPPORT. O49: the steps of the device that are taken of jobs, gang switches and doorbells.
-/
namespace Sys2Proof.Machine
open Sys2Proof

/-! ### A step that names a partition -/

theorem onPart_runs {p : Nat} {ok : Bool} {s : State} {r : Res} (hp : p < 64) (hok : ok = true) (hf : s.frontOff p = false) :
    onPart p ok s r = r := by
  rw [onPart, hok, hf, decide_eq_true hp]; rfl
theorem onPart_none {p : Nat} (ok : Bool) (s : State) (r : Res) (hp : 64 ≤ p) : onPart p ok s r = .fault .noSuchUnit := by
  rw [onPart, decide_eq_false (Nat.not_lt.mpr hp)]; rfl
theorem onUnit_runs {p : Nat} (r : Res) (hp : p < 64) : onUnit (decide (p < 64)) r = r := by rw [decide_eq_true hp]; rfl
theorem onUnit_none {p : Nat} (r : Res) (hp : 64 ≤ p) : onUnit (decide (p < 64)) r = .fault .noSuchUnit := by
  rw [decide_eq_false (Nat.not_lt.mpr hp)]; rfl

section
variable {p : Nat} {s : State} (hp : p < 64)
include hp

theorem exec_jobEntryRead {q : Nat} (hq : q < 64) (hf : s.frontOff p = false) :
    exec (.jobEntryRead p q) s = .next (s.readEntry p q) := onPart_runs hp (decide_eq_true hq) hf
theorem exec_edgeTest (hf : s.frontOff p = false) (hh : s.testHeld p = false) (hd : (s.partn p).edgeDue ≤ s.gtime.toNat) :
    exec (.edgeTest p) s =
      .next ((s.setPartn p { s.partn p with edgeDue := s.gtime.toNat / 10000 * 10000 + 10000 }).testEdges p) :=
  (onPart_runs hp rfl hf).trans (congrArg Host.Outcome.next (if_neg (by simp [hh, Nat.not_lt.mpr hd])))
theorem exec_jobAging {n : Nat} (hj : (s.job n).part = p) (ha : s.agingDue n = true) :
    exec (.jobAging p n) s = .next (s.setJob n { s.job n with level := (s.job n).level - 1, rises := (s.job n).rises + 1 }) :=
  (onUnit_runs _ hp).trans (congrArg Host.Outcome.next (if_pos ⟨hj, ha⟩))
theorem exec_jobPlace (hf : s.frontOff p = false) (hh : s.placeHeld p = false) : exec (.jobPlace p) s = .next (s.placeNext p) :=
  (onPart_runs hp rfl hf).trans (congrArg Host.Outcome.next (if_neg (Bool.eq_false_iff.mp hh)))
/-- R267: a completion first adds to the counter, or awaits the answer of its addition. -/
theorem exec_jobComplete {n : Nat} (hf : s.frontOff p = false) (hj : (s.job n).part = p) (hfin : (s.job n).final = false) :
    ((s.job n).adding = none → s.jobDone n = true → exec (.jobComplete p n) s = .next (s.completeJob n)) ∧
      ∀ id, (s.job n).adding = some id → (s.added id = none → exec (.jobComplete p n) s = .next s) ∧
        ∀ a q t, s.added id = some a → s.takeArrived a.id = some (q, t) → exec (.jobComplete p n) s = .next (t.jobCompleted n) := by
  have hrun : exec (.jobComplete p n) s = .next (match (s.job n).adding with
      | some id => match (s.added id).bind fun a => s.takeArrived a.id with | some (_, t) => t.jobCompleted n | none => s
      | none => if s.jobDone n then s.completeJob n else s) :=
    (onPart_runs hp rfl hf).trans (congrArg Host.Outcome.next (if_neg (by simp [hj, hfin])))
  refine ⟨fun ha hd => ?_, fun id ha => ⟨fun h => ?_, fun a q t h ht => ?_⟩⟩ <;> rw [hrun, ha]
  · simp only [hd, if_true]
  · simp only [h, Option.bind_none]
  · simp only [h, Option.bind_some, ht]
theorem exec_switchStop : exec (.switchStop p) s =
    .next (if (s.partn p).swSt = 1 ∧ (s.partn p).swAt.toNat ≤ s.gtime.toNat then s.switchStop p else s) := onUnit_runs _ hp
theorem exec_switchSaveDone : exec (.switchSaveDone p) s =
    .next (if (s.partn p).swSt = 2 ∧ s.finishing p = false ∧ s.saveOff p = false then s.switchSave p else s) := by
  refine (onUnit_runs _ hp).trans ?_
  simp only [Bool.not_eq_true']
theorem exec_switchResume : exec (.switchResume p) s =
    .next (if (s.partn p).swSt = 4 ∧ (s.partn p).swAt.toNat ≤ s.gtime.toNat then s.switchResume p
      else if (s.partn p).injected ≠ [] ∧ (s.partn p).injected.any s.stillInjected = false then
        (s.setPartn p { s.partn p with injected := [] }).admitAll
      else s) := by
  refine (onUnit_runs _ hp).trans ?_
  simp only [Bool.and_eq_true, Bool.not_eq_true', List.isEmpty_eq_false_iff, ge_iff_le]
theorem exec_unfence (v : W64) : exec (.unfence p v) s = .next (s.unfence p (field v.toNat 0 12)) := onUnit_runs _ hp
theorem exec_doorbell {q : Nat} (hq : q < 64) (v : W64) : exec (.doorbell p q v) s = .next (s.doorbell p q v) := by
  show onUnit (decide (p < 64) && decide (q < 64)) _ = _
  rw [decide_eq_true hq, Bool.and_true, onUnit_runs _ hp]

end

theorem exec_gangStart {cl g : Nat} {s : State} (hc : cl < Config.clusters) (ho : s.islandOff (islandOf cl) = false)
    (hr : s.gangReady cl = some g) (hh : s.heldPart (s.job (s.gang g).job).part = false) :
    exec (.gangStart cl) s = .next (s.startGang g) := by
  show onCluster cl s _ = _
  rw [onCluster, ho, decide_eq_true hc]
  simp only [onUnit, hr, hh, if_true, Bool.false_eq_true, if_false]

/-- Settles O49: each step of the device by the operation it takes, and each operation by what it changes of jobs, queues and slots. -/
theorem jobAndSwitchEvents : Obligations.JobAndSwitchEvents := by
  refine ⟨fun p q s hp hq hf => exec_jobEntryRead hp hq hf, fun p s hp hf hh hd => exec_edgeTest hp hf hh hd,
    fun p n s hp hj ha => exec_jobAging hp hj ha, fun p s hp hf hh => exec_jobPlace hp hf hh,
    fun cl g s hc ho hr hh => exec_gangStart hc ho hr hh, fun p n s hp hf hj hfin => exec_jobComplete hp hf hj hfin,
    fun n s => s.completeJob_spec n, fun n l s => s.addOne_spec n l, fun n s => s.release_spec n, fun n s => s.job_jobCompleted n,
    fun n st reason s hwf => ⟨(State.job_jobState ..).trans (if_pos rfl), fun hr => State.readAt_jobState hwf hr st reason⟩,
    fun n s => s.placeJob_spec n, fun p n s => s.offerJob_spec p n, fun s cs => s.clustersFree_iff cs,
    fun p s hw => State.placeNext_free hw, fun p w s hw => State.placeNext_waiting hw, fun g s => s.startGang_spec g,
    fun p q s h => State.readEntry_held h,
    fun p q s hq hen hnext hret hbusy hbusy64 hv => State.readEntry_spec hq ⟨hen, hnext, hret, hbusy, hbusy64⟩ hv,
    fun p s hp => exec_switchStop hp, fun p s => (s.switchStop_spec p).1, fun p s => (s.switchStop_spec p).2,
    fun p s hp => exec_switchSaveDone hp, fun p s hp => exec_switchResume hp, ?_, ?_, ?_,
    fun p s => s.switchSave_spec p, fun p i s h => State.switchResume_some h, fun p s h => State.switchResume_none h⟩
  · rintro p c v s hp rfl _
    rw [exec_unfence hp]
    refine ⟨fun h => by rw [State.unfence_off h], fun hf hc => ?_⟩
    obtain ⟨t, ht, h⟩ := State.unfence_spec hf hc
    exact ⟨t, congrArg Host.Outcome.next ht, h⟩
  · intro p q v s hp hq
    obtain ⟨hoff, hpast, hback, hin⟩ := s.doorbell_spec p q v
    rw [exec_doorbell hp hq]
    exact ⟨fun h => congrArg Host.Outcome.next (hoff h), fun he hm hn => congrArg Host.Outcome.next (hpast he hm hn),
      fun he hm hn hd => congrArg Host.Outcome.next (hback he hm hn hd), fun he hm hn hd => congrArg Host.Outcome.next (hin he hm hn hd)⟩
  · exact fun p s hp => ⟨onPart_none _ _ _ hp, onPart_none _ _ _ hp, onUnit_none _ hp⟩

end Sys2Proof.Machine
end

section
/-!
SUPPORT. O50: what the writes of the registers of a partition's control block that act, and of its submission queues, change.
-/
namespace Sys2Proof.Machine
open Sys2Proof

@[simp] theorem State.setPartn_setPartn (s : State) (n : Nat) (p q : Partition) : (s.setPartn n p).setPartn n q = s.setPartn n q := by
  simp [State.setPartn, tset_tset]

/-! ### A word with a request bit set or cleared: its other fields stay -/

theorem extractLsb'_or_of_zero {m : W64} {lo n : Nat} (h : m.extractLsb' lo n = 0) (v : W64) :
    (v ||| m).extractLsb' lo n = v.extractLsb' lo n := by
  rw [BitVec.extractLsb'_or, h]
  exact BitVec.or_zero
theorem getLsbD_or_of_false {m : W64} {i : Nat} (h : m.getLsbD i = false) (v : W64) : (v ||| m).getLsbD i = v.getLsbD i := by
  rw [BitVec.getLsbD_or, h, Bool.or_false]
theorem getLsbD_or_of_true {m : W64} {i : Nat} (h : m.getLsbD i = true) (v : W64) : (v ||| m).getLsbD i = true := by
  rw [BitVec.getLsbD_or, h, Bool.or_true]

/-! ### Ranges of the partition's HBM (R287) -/

theorem State.hbmRange_eq_some_iff (s : State) (p pa n al o : Nat) :
    s.hbmRange p pa n al = some o ↔ pa / 2 ^ 43 = s.devid.toNat ∧ pa % al = 0 ∧ o = pa % 2 ^ 43 ∧ o + n ≤ (s.partn p).hbm := by
  rw [State.hbmRange, Option.ite_none_right_eq_some, Option.some_inj]
  constructor
  · rintro ⟨⟨hdev, hal, hfit⟩, rfl⟩
    exact ⟨hdev, hal, rfl, hfit⟩
  · rintro ⟨hdev, hal, rfl, hfit⟩
    exact ⟨⟨hdev, hal, hfit⟩, rfl⟩

/-! ### The gang switch's requests (R287, R288, R295) -/

section
variable {s : State} {p want : Nat}

theorem State.swCheck_wrongState (h : (s.partn p).swSt.toNat ≠ want) : s.swCheck p want = 4 := if_pos h

variable (hst : (s.partn p).swSt.toNat = want)
include hst

theorem State.swCheck_late (h : (s.partn p).swtime.toNat < s.gtime.toNat + 10000) : s.swCheck p want = 1 :=
  (if_neg (not_not_intro hst)).trans (if_pos h)

variable (hlate : ¬ (s.partn p).swtime.toNat < s.gtime.toNat + 10000)
include hlate

theorem State.swCheck_noRange (h : s.hbmRange p (s.partn p).swbase.toNat (s.partn p).saveBytes (2 * 2 ^ 20) = none) :
    s.swCheck p want = 2 := by
  rw [State.swCheck]
  simp only [hst, hlate, h, ne_eq, not_true_eq_false, Option.isNone_none, if_true, if_false]
theorem State.swCheck_inRange (h : s.hbmRange p (s.partn p).swbase.toNat (s.partn p).saveBytes (2 * 2 ^ 20) ≠ none) :
    s.swCheck p want = if want = 3 ∧ ¬ ∃ i ∈ (s.partn p).images, i.base = (s.partn p).swbase.toNat then 3 else 0 := by
  rw [State.swCheck]
  simp only [hst, hlate, ne_eq, not_true_eq_false, Option.isNone_iff_eq_none, h, if_false, Bool.not_eq_true', Bool.eq_false_iff,
    List.any_eq_true, beq_iff_eq]

end

section
variable {s : State} {p : Nat}

theorem State.swArm_refused {e : Nat} (h : s.swCheck p 0 = e + 1) : s.swArm p = s.swFail p (e + 1) := by rw [State.swArm, h]; rfl
theorem State.swArm_accepted (h : s.swCheck p 0 = 0) :
    s.swArm p = s.setPartn p { s.partn p with swSt := 1, swAt := (s.partn p).swtime } := by rw [State.swArm, h]; rfl
theorem State.swRes_refused {e : Nat} (h : s.swCheck p 3 = e + 1) : s.swRes p = s.swFail p (e + 1) := by rw [State.swRes, h]; rfl
theorem State.swRes_accepted (h : s.swCheck p 3 = 0) :
    s.swRes p = s.setPartn p { s.partn p with swSt := 4, swAt := (s.partn p).swtime } := by rw [State.swRes, h]; rfl

end

/-- `ARM` alone, and with `RES`. -/
theorem State.swctlWrite_or_one (s : State) (p : Nat) (v : W64) :
    s.swctlWrite p (v ||| 1) = if v.getLsbD 1 = true then s.swFail p 5 else s.swArm p := by
  rw [State.swctlWrite, getLsbD_or_of_true rfl, getLsbD_or_of_false rfl]
  cases v.getLsbD 1 <;> rfl
/-- `RES` alone, and with `ARM`. -/
theorem State.swctlWrite_or_two (s : State) (p : Nat) (v : W64) :
    s.swctlWrite p (v ||| 2) = if v.getLsbD 0 = true then s.swFail p 5 else s.swRes p := by
  rw [State.swctlWrite, getLsbD_or_of_false rfl, getLsbD_or_of_true rfl]
  cases v.getLsbD 0 <;> rfl

/-- R288: `ARM`: at `ST` 0, in time and with a save area in the partition's HBM. -/
theorem State.swArm_spec (s : State) (p : Nat) :
    let x := s.partn p
    let r := s.hbmRange p x.swbase.toNat x.saveBytes (2 * 2 ^ 20)
    let late := x.swtime.toNat < s.gtime.toNat + 10000
    (x.swSt ≠ 0 → s.swArm p = s.setPartn p { x with swErr := 4 }) ∧
    (x.swSt = 0 → late → s.swArm p = s.setPartn p { x with swErr := 1 }) ∧
    (x.swSt = 0 → ¬ late → r = none → s.swArm p = s.setPartn p { x with swErr := 2 }) ∧
    (x.swSt = 0 → ¬ late → r ≠ none → s.swArm p = s.setPartn p { x with swSt := 1, swAt := x.swtime }) := by
  have hst (h : (s.partn p).swSt = 0) : (s.partn p).swSt.toNat = 0 := congrArg BitVec.toNat h
  exact ⟨fun h => State.swArm_refused (State.swCheck_wrongState fun e => h (BitVec.eq_of_toNat_eq e)),
    fun h hl => State.swArm_refused (State.swCheck_late (hst h) hl),
    fun h hl hr => State.swArm_refused (State.swCheck_noRange (hst h) hl hr),
    fun h hl hr => State.swArm_accepted ((State.swCheck_inRange (hst h) hl hr).trans (if_neg fun e => absurd e.1 (by decide)))⟩
/-- R288, R295: `RES`: at `ST` 3, in time and with an image in the partition's HBM. -/
theorem State.swRes_spec (s : State) (p : Nat) :
    let x := s.partn p
    let r := s.hbmRange p x.swbase.toNat x.saveBytes (2 * 2 ^ 20)
    let late := x.swtime.toNat < s.gtime.toNat + 10000
    (x.swSt ≠ 3 → s.swRes p = s.setPartn p { x with swErr := 4 }) ∧
    (x.swSt = 3 → late → s.swRes p = s.setPartn p { x with swErr := 1 }) ∧
    (x.swSt = 3 → ¬ late → r = none → s.swRes p = s.setPartn p { x with swErr := 2 }) ∧
    (x.swSt = 3 → ¬ late → r ≠ none → (∀ i ∈ x.images, i.base ≠ x.swbase.toNat) → s.swRes p = s.setPartn p { x with swErr := 3 }) ∧
    (x.swSt = 3 → ¬ late → r ≠ none → (∃ i ∈ x.images, i.base = x.swbase.toNat) →
      s.swRes p = s.setPartn p { x with swSt := 4, swAt := x.swtime }) := by
  have hst (h : (s.partn p).swSt = 3) : (s.partn p).swSt.toNat = 3 := congrArg BitVec.toNat h
  exact ⟨fun h => State.swRes_refused (State.swCheck_wrongState fun e => h (BitVec.eq_of_toNat_eq e)),
    fun h hl => State.swRes_refused (State.swCheck_late (hst h) hl),
    fun h hl hr => State.swRes_refused (State.swCheck_noRange (hst h) hl hr),
    fun h hl hr hno => State.swRes_refused
      ((State.swCheck_inRange (hst h) hl hr).trans (if_pos ⟨rfl, fun ⟨i, hi, e⟩ => hno i hi e⟩)),
    fun h hl hr hi => State.swRes_accepted ((State.swCheck_inRange (hst h) hl hr).trans (if_neg fun e => e.2 hi))⟩

/-! ### Page migration (R330, R331) -/

/-- R331: `PMCTL`'s own fields, as a write of a word leaves them before its requests are taken. -/
def PmReg.written (m : PmReg) (v : W64) : PmReg :=
  { m with sz := if v.extractLsb' 8 2 = 3 then m.sz else v.extractLsb' 8 2, err := m.err && !v.getLsbD 4 }
/-- The state in which the requests of a write of `PMCTL` are taken. -/
def State.pmWritten (s : State) (p : Nat) (v : W64) : State := s.setPartn p { s.partn p with pm := (s.partn p).pm.written v }

theorem State.pmAnswered_setPartn (s : State) (p : Nat) (x : Partition) (refused : Bool) :
    (s.setPartn p x).pmAnswered p refused = s.setPartn p { x with pm := { x.pm with err := refused } } := by
  rw [State.pmAnswered, State.partn_setPartn_self, State.setPartn_setPartn]
theorem PmReg.written_or {k : W64} (hz : k.extractLsb' 8 2 = 0) (he : k.getLsbD 4 = false) (m : PmReg) (v : W64) :
    m.written (v ||| k) = m.written v := by
  rw [PmReg.written, PmReg.written, extractLsb'_or_of_zero hz, getLsbD_or_of_false he]
theorem State.pmWritten_or {k : W64} (hz : k.extractLsb' 8 2 = 0) (he : k.getLsbD 4 = false) (s : State) (p : Nat) (v : W64) :
    s.pmWritten p (v ||| k) = s.pmWritten p v := by
  rw [State.pmWritten, State.pmWritten, PmReg.written_or hz he]
/-- `GO` alone. -/
theorem State.pmctlWrite_or_one {v : W64} (h : v.getLsbD 1 = false) (s : State) (p : Nat) :
    s.pmctlWrite p (v ||| 1) = if (s.partn p).pm.st ≠ 0 then (s.pmWritten p v).pmAnswered p true
      else ((s.pmWritten p v).pmGo p).1.pmAnswered p !((s.pmWritten p v).pmGo p).2 := by
  have hgo : (v ||| 1).getLsbD 0 = true := getLsbD_or_of_true rfl v
  have hclr : (v ||| 1).getLsbD 1 = false := (getLsbD_or_of_false rfl v).trans h
  rw [← State.pmWritten_or (k := 1) rfl rfl]
  simp only [State.pmctlWrite, hgo, hclr, if_true, Bool.false_eq_true, if_false]
  rfl
/-- `CLR` alone. -/
theorem State.pmctlWrite_or_two {v : W64} (h : v.getLsbD 0 = false) (s : State) (p : Nat) :
    s.pmctlWrite p (v ||| 2) = if (s.partn p).pm.st = 2 then ((s.pmWritten p v).pmClr p).pmAnswered p false
      else (s.pmWritten p v).pmAnswered p true := by
  have hgo : (v ||| 2).getLsbD 0 = false := (getLsbD_or_of_false rfl v).trans h
  have hclr : (v ||| 2).getLsbD 1 = true := getLsbD_or_of_true rfl v
  rw [← State.pmWritten_or (k := 2) rfl rfl]
  simp only [State.pmctlWrite, hgo, hclr, if_true, Bool.false_eq_true, if_false]
  rfl

/-- R331: a page move that cannot begin or end. -/
theorem State.pmWritten_refused (s : State) (p : Nat) (v : W64) :
    (s.pmWritten p v).pmAnswered p true = s.setPartn p { s.partn p with pm := { (s.partn p).pm.written v with err := true } } :=
  s.pmAnswered_setPartn ..
theorem State.pmGo_setPartn_some {s : State} {p a b : Nat} {x : Partition} :
    let n := pmBytes x.pm.sz
    (s.setPartn p x).hbmRange p (x.pmsrc.toNat * 4096) n n = some a → (s.setPartn p x).hbmRange p (x.pmdst.toNat * 4096) n n = some b →
      (s.setPartn p x).pmGo p = (s.setPartn p { x with
        pm := { x.pm with st := 1, src := a, dst := b, len := n }
        replicas := x.replicas.filter fun r => !meets (r.region * 65536) 65536 a n }, true) := by
  intro n ha hb
  simp only [State.pmGo, State.partn_setPartn_self, ha, hb, State.setPartn_setPartn, n]
theorem State.pmGo_none {s : State} {p : Nat} :
    let x := s.partn p
    let n := pmBytes x.pm.sz
    (s.hbmRange p (x.pmsrc.toNat * 4096) n n = none ∨ s.hbmRange p (x.pmdst.toNat * 4096) n n = none) → s.pmGo p = (s, false) := by
  intro x n h
  rw [State.pmGo]
  dsimp only
  split
  · next ha hb => exact h.elim (fun e => nomatch ha.symm.trans e) fun e => nomatch hb.symm.trans e
  · rfl

/-- R331: `GO` while no page move is under way. -/
theorem State.pmctlWrite_go {v : W64} {s : State} {p : Nat} (hv : v.getLsbD 1 = false) (hst : (s.partn p).pm.st = 0) :
    let x := s.partn p
    let m := x.pm.written v
    let t := s.pmWritten p v
    let n := pmBytes m.sz
    (∀ a b, t.hbmRange p (x.pmsrc.toNat * 4096) n n = some a → t.hbmRange p (x.pmdst.toNat * 4096) n n = some b →
      s.pmctlWrite p (v ||| 1) = s.setPartn p { x with
        pm := { m with err := false, st := 1, src := a, dst := b, len := n }
        replicas := x.replicas.filter fun r => !meets (r.region * 65536) 65536 a n }) ∧
    ((t.hbmRange p (x.pmsrc.toNat * 4096) n n = none ∨ t.hbmRange p (x.pmdst.toNat * 4096) n n = none) →
      s.pmctlWrite p (v ||| 1) = s.setPartn p { x with pm := { m with err := true } }) := by
  dsimp only
  rw [State.pmctlWrite_or_one hv, if_neg (not_not_intro hst)]
  refine ⟨fun a b ha hb => ?_, fun h => ?_⟩
  · rw [State.pmWritten, State.pmGo_setPartn_some ha hb]
    exact State.pmAnswered_setPartn ..
  · rw [State.pmGo_none (by rwa [State.pmWritten, State.partn_setPartn_self])]
    exact s.pmWritten_refused p v
/-- R330: `CLR` of a copied page. -/
theorem State.pmctlWrite_clr {v : W64} {s : State} {p : Nat} (hv : v.getLsbD 0 = false) (hst : (s.partn p).pm.st = 2) :
    let d := (s.pmWritten p v).dropRange p (s.partn p).pm.src (s.partn p).pm.len
    s.pmctlWrite p (v ||| 2) = d.setPartn p { d.partn p with pm := { (d.partn p).pm with st := 0, err := false } } := by
  dsimp only
  rw [State.pmctlWrite_or_two hv, if_pos hst, State.pmClr, State.pmAnswered_setPartn, State.pmWritten, State.partn_setPartn_self]
  rfl

/-! ### Bindings (R385, R386) -/

/-- R386: whether `n` bytes of code at a physical address lie in HBM, on a line's boundary. -/
def State.CodeInHbm (s : State) (p pa n : Nat) : Prop :=
  (∃ q o q' o', s.paLoc p pa = some (.hbm q o) ∧ s.paLoc p (pa + (n - 1)) = some (.hbm q' o')) ∧ pa % 64 = 0

theorem State.bctlGo_spec (s : State) (p : Nat) :
    let x := s.partn p
    let n := x.blen.toNat
    let code := s.CodeInHbm p x.bcode.toNat n
    let c := s.slice x.bslice.toNat
    (x.bBusy = true → s.bctlGo p = s.setPartn p { x with bErr := 3 }) ∧
    (x.bBusy = false → x.bslice.toNat ∉ x.slices → s.bctlGo p = s.setPartn p { x with bErr := 1 }) ∧
    (x.bBusy = false → x.bslice.toNat ∈ x.slices → (n % 2 = 1 ∨ 1024 < n ∨ ¬ code) → s.bctlGo p = s.setPartn p { x with bErr := 2 }) ∧
    (x.bBusy = false → x.bslice.toNat ∈ x.slices → n % 2 = 0 → n ≤ 1024 → code →
      s.bctlGo p = (s.setPartn p { x with bBusy := true }).setSlice x.bslice.toNat
        { c with queue := c.queue ++ [.bind p x.bidx.toNat x.bcode.toNat n] }) := by
  dsimp only
  unfold State.bctlGo
  dsimp only
  refine ⟨fun hb => if_pos hb, fun hb hs => ?_, fun hb hs hbad => ?_, fun hb hs heven hlen hcode => ?_⟩ <;>
    rw [if_neg (Bool.eq_false_iff.mp hb)]
  · exact if_pos (by simpa using hs)
  · rw [if_neg (by simpa using hs), if_pos]
    refine hbad.imp_right (Or.imp_right fun hno => ?_)
    split
    · next q o q' o' h h' => simpa using fun hal => hno ⟨⟨q, o, q', o', h, h'⟩, hal⟩
    · rfl
  · obtain ⟨⟨q, o, q', o', h, h'⟩, hal⟩ := hcode
    rw [if_neg (by simpa using hs), if_neg]
    simp [h, h', hal, heven, hlen]
theorem State.bctlWrite_go (s : State) (p : Nat) (v : W64) : s.bctlWrite p (v ||| w64 (2 ^ 63)) =
    (s.setPartn p { s.partn p with blen := v.extractLsb' 16 16, bidx := v.extractLsb' 0 6 }).bctlGo p := by
  rw [State.bctlWrite, getLsbD_or_of_true (by decide), extractLsb'_or_of_zero (by decide), extractLsb'_or_of_zero (by decide)]
  rfl

/-! ### Submission queues (R401) -/

/-- R401: the fields of `SQCFG` beside `EN`, as a write of a word leaves them: an enabled queue keeps its size and its mode. -/
def SubQueue.written (x : SubQueue) (v : W64) : SubQueue :=
  { x with
    err := x.err &&& ~~~(v.extractLsb' 16 8), weight := v.extractLsb' 8 4, ivec := v.extractLsb' 3 5, ie := v.getLsbD 2
    logn := if x.en ∨ v.extractLsb' 12 4 = 0 ∨ (v.extractLsb' 12 4).toNat > 12 then x.logn else v.extractLsb' 12 4
    mode := if x.en then x.mode else v.getLsbD 1 }

theorem State.sqcfgWrite_eq (s : State) (p q : Nat) (v : W64) : s.sqcfgWrite p q v =
    if (s.squeue p q).en then s.setSqueue p q { (s.squeue p q).written v with en := v.getLsbD 0 }
    else if v.getLsbD 0 then (s.setSqueue p q ((s.squeue p q).written v)).queueEnable p q
    else s.setSqueue p q ((s.squeue p q).written v) := rfl

section
variable {x : SubQueue}

/-- Bit 0 of the word, which is `EN`, is none of these fields. -/
theorem SubQueue.written_congr {v w : W64} (h : ∀ i, 0 < i → w.getLsbD i = v.getLsbD i) : x.written w = x.written v := by
  have hf {lo : Nat} (hlo : 0 < lo) (n : Nat) : w.extractLsb' lo n = v.extractLsb' lo n :=
    BitVec.eq_of_getLsbD_eq fun i hi => by
      rw [BitVec.getLsbD_extractLsb', BitVec.getLsbD_extractLsb', h _ (Nat.add_pos_left hlo i)]
  simp only [SubQueue.written, hf (show 0 < 16 by decide), hf (show 0 < 12 by decide), hf (show 0 < 8 by decide),
    hf (show 0 < 3 by decide), h 2 (by decide), h 1 (by decide)]
theorem SubQueue.written_or_one (v : W64) : x.written (v ||| 1) = x.written v :=
  SubQueue.written_congr fun i hi =>
    getLsbD_or_of_false (by rw [show (1 : W64) = 1#64 from rfl, BitVec.getLsbD_one, decide_eq_false (Nat.ne_of_gt hi), Bool.and_false]) v
theorem SubQueue.written_and_not_one (v : W64) : x.written (v &&& ~~~1) = x.written v :=
  SubQueue.written_congr fun i hi => by
    rw [BitVec.getLsbD_and, BitVec.getLsbD_not, show (1 : W64) = 1#64 from rfl, BitVec.getLsbD_one, decide_eq_false (Nat.ne_of_gt hi),
      Bool.and_false, Bool.not_false, Bool.and_true]
    cases hv : v.getLsbD i with
    | false => rfl
    | true => exact decide_eq_true (BitVec.lt_of_getLsbD hv)
theorem SubQueue.written_enabled (h : x.en = true) (v : W64) (b : Bool) : { x.written v with en := b } = { x with
    err := x.err &&& ~~~(v.extractLsb' 16 8), weight := v.extractLsb' 8 4, ivec := v.extractLsb' 3 5, ie := v.getLsbD 2, en := b } := by
  simp only [SubQueue.written, h, true_or, if_true]
theorem SubQueue.written_stays_disabled (h : x.en = false) (v : W64) : { x.written v with en := false } = x.written v :=
  congrArg (fun b => { x.written v with en := b }) h.symm
theorem SubQueue.written_disabled (h : x.en = false) (v : W64) : x.written v = { x with
    err := x.err &&& ~~~(v.extractLsb' 16 8), weight := v.extractLsb' 8 4, ivec := v.extractLsb' 3 5, ie := v.getLsbD 2
    logn := if v.extractLsb' 12 4 = 0 ∨ 12 < (v.extractLsb' 12 4).toNat then x.logn else v.extractLsb' 12 4
    mode := v.getLsbD 1 } := by
  simp only [SubQueue.written, h, Bool.false_eq_true, false_or, if_false, gt_iff_lt]

end

/-- R401: `EN` from 0 to 1. -/
theorem State.queueEnable_spec {s : State} {p q : Nat} {x : SubQueue} (hx : s.squeue p q = x) :
    let n := 128 * 2 ^ x.logn.toNat
    let r := s.hbmRange p x.base.toNat n (max 4096 n)
    ((x.logn = 0 ∨ r = none) → s.queueEnable p q = s.setSqueue p q { x with err := 4 }) ∧
    (x.logn ≠ 0 → r ≠ none → x.head ≠ x.tail → s.queueEnable p q = s.setSqueue p q { x with err := 5 }) ∧
    (x.logn ≠ 0 → r ≠ none → x.head = x.tail →
      s.queueEnable p q = s.setSqueue p q { x with en := true, ring := x.logn, head := 0, tail := 0, next := 0 }) := by
  subst hx
  dsimp only
  unfold State.queueEnable
  simp only [Option.isNone_iff_eq_none]
  refine ⟨fun h => if_pos h, fun hl hr ht => ?_, fun hl hr ht => ?_⟩ <;> rw [if_neg (not_or_intro hl hr)]
  · exact if_pos ht
  · exact if_neg (not_not_intro ht)
theorem State.squeue_setSqueue_self (s : State) (p : Nat) {q : Nat} (hq : q < 64) (x : SubQueue) : (s.setSqueue p q x).squeue p q = x := by
  rw [State.squeue, State.setSqueue, State.partn_setPartn_self, vget_vset_self _ _ _ hq]

/-! ### Messages, limits and the unprivileged view (R399, R403, R369, R425) -/

theorem State.raiseMsi_spec (s : State) (p : Nat) {k : Nat} (hk : k < 32) :
    let e := 32 * p + k
    (s.msix.masked e = true → s.raiseMsi p k = { s with msix := { s.msix with pending := sinsert s.msix.pending e } }) ∧
    (s.msix.masked e = false →
      s.raiseMsi p k = { s with msi := s.msi ++ [e], msix := { s.msix with pending := sremove s.msix.pending e } }) := by
  dsimp only
  rw [State.raiseMsi, Nat.mod_eq_of_lt hk]
  exact ⟨fun h => if_pos h, fun h => if_neg (Bool.eq_false_iff.mp h)⟩
theorem field_zero (v n : Nat) : field v 0 n = v % 2 ^ n := by rw [field, Nat.pow_zero, Nat.div_one]
theorem clampTo_eq {lo hi : Nat} (h : lo ≤ hi) (n : Nat) : clampTo lo hi n = max lo (min hi n) := by
  unfold clampTo
  split
  · omega
  · split <;> omega
theorem State.areaWrite_msireq (s : State) (p : Nat) (v : W64) : s.areaWrite p 0x10000 v true = s.raiseMsi p (v.toNat % 32) :=
  (if_pos rfl).trans (congrArg (s.raiseMsi p) (field_zero v.toNat 5))
theorem State.deviceWrite_meshctl (s : State) (v : W64) :
    s.deviceWrite 0x180 v = { s with dlt := BitVec.ofNat 16 (max 256 (min 1024 (v.toNat % 65536))) } := by
  simp only [State.deviceWrite, field_zero, clampTo_eq (show 256 ≤ 1024 by decide), Nat.reducePow]
theorem State.deviceWrite_plim (s : State) (v : W64) :
    s.deviceWrite 0x210 v = { s with power := { s.power with plim := BitVec.ofNat 12 (max 1000 (min 3000 (v.toNat % 4096))) } } := by
  simp only [State.deviceWrite, field_zero, clampTo_eq (show 1000 ≤ 3000 by decide), Nat.reducePow]
theorem State.bar0Write_device_user {off : Nat} (h : off < 0x2000000) (s : State) (v : W64) : s.bar0Write off v false = s := by
  rw [State.bar0Write, bar0Part, if_neg fun hoff => absurd hoff.1 (Nat.not_le.mpr h)]
  rfl

end Sys2Proof.Machine
end

section
/-!
SUPPORT. O50: the steps of the device that write a register.
-/
namespace Sys2Proof.Machine
open Sys2Proof

section
variable {p : Nat} (hp : p < 64) (v : W64) (s : State)
include hp

theorem exec_swctlArm : exec (.swctlArm p v) s = .next (if v.getLsbD 1 = true then s.swFail p 5 else s.swArm p) :=
  (onUnit_runs _ hp).trans (congrArg Host.Outcome.next (s.swctlWrite_or_one p v))
theorem exec_swctlRes : exec (.swctlRes p v) s = .next (if v.getLsbD 0 = true then s.swFail p 5 else s.swRes p) :=
  (onUnit_runs _ hp).trans (congrArg Host.Outcome.next (s.swctlWrite_or_two p v))
theorem exec_pmctlGo : exec (.pmctlGo p v) s = .next (s.pmctlWrite p (v ||| 1)) := onUnit_runs _ hp
theorem exec_pmctlClr : exec (.pmctlClr p v) s = .next (s.pmctlWrite p (v ||| 2)) := onUnit_runs _ hp
theorem exec_bctlGo : exec (.bctlGo p v) s =
    .next ((s.setPartn p { s.partn p with blen := v.extractLsb' 16 16, bidx := v.extractLsb' 0 6 }).bctlGo p) :=
  (onUnit_runs _ hp).trans (congrArg Host.Outcome.next (s.bctlWrite_go p v))
theorem exec_msireq : exec (.msireq p v) s = .next (s.raiseMsi p (v.toNat % 32)) :=
  (onUnit_runs _ hp).trans (congrArg Host.Outcome.next (s.areaWrite_msireq p v))

variable {q : Nat} (hq : q < 64)
include hq

theorem exec_sqcfgEnable : exec (.sqcfgEnable p q v) s = .next (s.sqcfgWrite p q (v ||| 1)) := by
  show onUnit (decide (p < 64) && decide (q < 64)) _ = _
  rw [decide_eq_true hq, Bool.and_true, onUnit_runs _ hp]
theorem exec_sqcfgDisable : exec (.sqcfgDisable p q v) s = .next (s.sqcfgWrite p q (v &&& ~~~1)) := by
  show onUnit (decide (p < 64) && decide (q < 64)) _ = _
  rw [decide_eq_true hq, Bool.and_true, onUnit_runs _ hp]

end

theorem exec_meshctlWrite (v : W64) (s : State) :
    exec (.meshctlWrite v) s = .next { s with dlt := BitVec.ofNat 16 (max 256 (min 1024 (v.toNat % 65536))) } :=
  congrArg Host.Outcome.next (s.deviceWrite_meshctl v)
theorem exec_plimWrite (v : W64) (s : State) : exec (.plimWrite v) s =
    .next { s with power := { s.power with plim := BitVec.ofNat 12 (max 1000 (min 3000 (v.toNat % 4096))) } } :=
  congrArg Host.Outcome.next (s.deviceWrite_plim v)
theorem exec_registerWrite (off : Nat) (v : W64) (priv : Bool) (s : State) :
    exec (.registerWrite off v priv) s = .next (if off % 8 = 0 then s.bar0Write off v priv else s) := rfl
theorem exec_registerWrite_device_user {off : Nat} (h : off < 0x2000000) (v : W64) (s : State) :
    exec (.registerWrite off v false) s = .next s := by
  rw [exec_registerWrite, State.bar0Write_device_user h, ite_self]

/-! ### The requests, by the state they find -/

section
variable {p : Nat} (hp : p < 64) (s : State) {v : W64}
include hp

theorem exec_swctlArm_alone (hv : v.getLsbD 1 = false) : exec (.swctlArm p v) s = .next (s.swArm p) := by
  rw [exec_swctlArm hp, hv]; rfl
theorem exec_swctlRes_alone (hv : v.getLsbD 0 = false) : exec (.swctlRes p v) s = .next (s.swRes p) := by
  rw [exec_swctlRes hp, hv]; rfl
/-- R331: `GO` while a page move is under way. -/
theorem exec_pmctlGo_busy (hv : v.getLsbD 1 = false) (hst : (s.partn p).pm.st ≠ 0) :
    exec (.pmctlGo p v) s = .next (s.setPartn p { s.partn p with pm := { (s.partn p).pm.written v with err := true } }) := by
  rw [exec_pmctlGo hp, State.pmctlWrite_or_one hv, if_pos hst, State.pmWritten_refused]
/-- R331: `CLR` while no page is copied. -/
theorem exec_pmctlClr_uncopied (hv : v.getLsbD 0 = false) (hst : (s.partn p).pm.st ≠ 2) :
    exec (.pmctlClr p v) s = .next (s.setPartn p { s.partn p with pm := { (s.partn p).pm.written v with err := true } }) := by
  rw [exec_pmctlClr hp, State.pmctlWrite_or_two hv, if_neg hst, State.pmWritten_refused]

variable {q : Nat} (hq : q < 64) (v)
include hq

theorem exec_sqcfgEnable_enabled (he : (s.squeue p q).en = true) :
    exec (.sqcfgEnable p q v) s = .next (s.setSqueue p q { (s.squeue p q).written v with en := true }) := by
  rw [exec_sqcfgEnable hp v s hq, State.sqcfgWrite_eq, SubQueue.written_or_one, if_pos he, getLsbD_or_of_true rfl]
theorem exec_sqcfgEnable_disabled (he : (s.squeue p q).en = false) :
    exec (.sqcfgEnable p q v) s = .next ((s.setSqueue p q ((s.squeue p q).written v)).queueEnable p q) := by
  rw [exec_sqcfgEnable hp v s hq, State.sqcfgWrite_eq, SubQueue.written_or_one, if_neg (Bool.eq_false_iff.mp he),
    if_pos (getLsbD_or_of_true rfl v)]
theorem exec_sqcfgDisable_eq : exec (.sqcfgDisable p q v) s = .next (s.setSqueue p q { (s.squeue p q).written v with en := false }) := by
  have hen : (v &&& ~~~1).getLsbD 0 = false := by simp
  rw [exec_sqcfgDisable hp v s hq, State.sqcfgWrite_eq, SubQueue.written_and_not_one, hen]
  split
  · rfl
  · next he => rw [SubQueue.written_stays_disabled (Bool.eq_false_iff.mpr he), if_neg Bool.false_ne_true]

end

/-- R331: a refused page move sets `ERR` and moves nothing. -/
theorem State.pm_refused (s : State) (p : Nat) (v : W64) :
    let t := s.setPartn p { s.partn p with pm := { (s.partn p).pm.written v with err := true } }
    (t.partn p).pm.err = true ∧ (t.partn p).pm.st = (s.partn p).pm.st ∧ t.mem = s.mem := by
  dsimp only
  rw [State.partn_setPartn_self]
  exact ⟨rfl, rfl, rfl⟩

/-- Settles O50: each write of a register by the operation it takes, and each request by the state it finds. -/
theorem registerWriteEvents : Obligations.RegisterWriteEvents := by
  refine ⟨fun p v s hp => exec_swctlArm hp v s, fun p v s hp => exec_swctlRes hp v s,
    fun p v s hp hv hst => ?_, fun p v s hp hv hst => ?_, fun p v s hp => exec_bctlGo hp v s,
    fun p q v s hp hq => ?_, fun p v s hp => exec_msireq hp v s, exec_meshctlWrite, exec_plimWrite, exec_registerWrite,
    fun off v s h => exec_registerWrite_device_user h v s, fun p v s hp => ?_, fun p v s hp => ?_,
    State.hbmRange_eq_some_iff, fun p v s hp => ?_, fun s p k hk => s.raiseMsi_spec p hk,
    fun p v s hp => ⟨onUnit_none _ hp, onUnit_none _ hp, onUnit_none _ hp⟩,
    fun p v s hp hv hst => ?_, fun p v s hp hv hst => ?_, fun p q v s hp hq => ?_⟩
  · exact ⟨_, exec_pmctlGo_busy hp s hv hst, s.pm_refused p v⟩
  · exact ⟨_, exec_pmctlClr_uncopied hp s hv hst, s.pm_refused p v⟩
  · refine ⟨fun he => ?_, fun he => ?_, fun he hl hle => ?_⟩
    · rw [exec_sqcfgEnable_enabled hp s v hq he, SubQueue.written_enabled he, ← he]
    · rw [exec_sqcfgDisable_eq hp s v hq, SubQueue.written_enabled he]
    · rw [exec_sqcfgDisable_eq hp s v hq, SubQueue.written_disabled he, if_neg (not_or_intro hl (Nat.not_lt.mpr hle)), ← he]
  · intro x r hv late
    simp only [exec_swctlArm_alone hp s hv, Host.Outcome.next.injEq]
    exact s.swArm_spec p
  · intro x r hv late
    simp only [exec_swctlRes_alone hp s hv, Host.Outcome.next.injEq]
    exact s.swRes_spec p
  · have hgo := (s.setPartn p { s.partn p with blen := v.extractLsb' 16 16, bidx := v.extractLsb' 0 6 }).bctlGo_spec p
    simp only [State.partn_setPartn_self, State.setPartn_setPartn] at hgo
    obtain ⟨hbusy, hslice, hbad, hok⟩ := hgo
    rw [exec_bctlGo hp]
    refine ⟨fun h => congrArg Host.Outcome.next (hbusy h), fun h hs => congrArg Host.Outcome.next (hslice h hs),
      fun h hs hb => congrArg Host.Outcome.next (hbad h hs hb),
      fun h hs heven hlen hcode => ⟨_, congrArg Host.Outcome.next (hok h hs heven hlen hcode), ?_, rfl, ?_, fun m hm => ?_⟩⟩
    · exact congrArg Partition.bBusy (State.partn_setPartn_self ..)
    · rw [State.slice_setSlice_self]; rfl
    · rw [State.slice_setSlice, if_neg hm]; rfl
  · obtain ⟨hok, hbad⟩ := State.pmctlWrite_go hv hst
    rw [exec_pmctlGo hp]
    exact ⟨fun a b ha hb => ⟨_, congrArg Host.Outcome.next (hok a b ha hb), State.partn_setPartn_self .., fun q hq =>
      (State.partn_setPartn ..).trans (if_neg hq), rfl⟩,
      fun h => ⟨_, congrArg Host.Outcome.next (hbad h), State.partn_setPartn_self .., rfl⟩⟩
  · exact ⟨_, (exec_pmctlClr hp v s).trans (congrArg Host.Outcome.next (State.pmctlWrite_clr hv hst)), rfl,
      congrArg Partition.pm (State.partn_setPartn_self ..)⟩
  · intro x he l y t n r
    have hy : x.written v = y := SubQueue.written_disabled he v
    rw [exec_sqcfgEnable_disabled hp s v hq he, hy]
    simp only [Host.Outcome.next.injEq]
    exact State.queueEnable_spec (s.squeue_setSqueue_self p hq y)

end Sys2Proof.Machine
end

section
/-!
SUPPORT. O51: packets of other devices, the ports, and combining at the switch.
-/
namespace Sys2Proof.Machine
open Sys2Proof

/-! ### Packets of other devices (R392, R393) -/

/-- R392: whether a packet that comes is held: it lies in its source's window, or travels in combining mode, and is not held already. -/
def State.fabTakes (s : State) (p : FabPkt) : Bool :=
  (p.comb || s.inWindow p) &&
    !(if p.comb then s.fabIn.contains p else s.fabIn.any fun q => !q.comb && q.srcDev == p.srcDev && q.seq % 65536 == p.seq % 65536)

section
variable {s : State} {p : FabPkt}

theorem State.fabTakes_combining (h : p.comb = true) : s.fabTakes p = !s.fabIn.contains p := by
  rw [State.fabTakes, if_pos h, h]; rfl
theorem State.fabTakes_numbered (h : p.comb = false) : s.fabTakes p =
    (s.inWindow p && !s.fabIn.any fun q => !q.comb && q.srcDev == p.srcDev && q.seq % 65536 == p.seq % 65536) := by
  rw [State.fabTakes, h]; rfl
theorem exec_fabricPacketArrive_held (h : s.fabTakes p = true) : exec (.fabricPacketArrive p) s =
    .next (let t : State := { s with fabIn := s.fabIn ++ [p] }; t.fabAdmit t.fabIn.length) :=
  congrArg (fun t : State => Host.Outcome.next (t.fabAdmit t.fabIn.length)) (if_pos h)
theorem exec_fabricPacketArrive_dropped (h : s.fabTakes p = false) :
    exec (.fabricPacketArrive p) s = .next (s.fabAdmit s.fabIn.length) :=
  congrArg (fun t : State => Host.Outcome.next (t.fabAdmit t.fabIn.length)) (if_neg (Bool.eq_false_iff.mp h))

end

/-! ### Ports out of service (R392, R423) -/

/-- The state without its partitions, where the records of lasting faults stand. -/
def State.besideParts (s : State) : State := { s with parts := [] }

/-- R423: a record of a lasting fault stands in its partition. -/
@[simp] theorem State.lastingFault_besideParts (s : State) (p : Nat) (a b : W64) : (s.lastingFault p a b).besideParts = s.besideParts := by
  unfold State.lastingFault
  dsimp only
  split <;> rfl
/-- R392: the packets of a port change their port, and nothing else. -/
theorem State.resendPort_keeps (s : State) (port : Nat) :
    ((s.resendPort port).portsDown, (s.resendPort port).mem) = (s.portsDown, s.mem) := by
  unfold State.resendPort
  exact foldl_keeps (fun t : State => (t.portsDown, t.mem)) (fun t e => by split <;> rfl) _ s
theorem onUnit_lt {k n : Nat} (r : Res) (h : k < n) : onUnit (decide (k < n)) r = r := by rw [decide_eq_true h]; rfl
theorem onUnit_ge {k n : Nat} (r : Res) (h : n ≤ k) : onUnit (decide (k < n)) r = .fault .noSuchUnit := by
  rw [decide_eq_false (Nat.not_lt.mpr h)]; rfl
/-- R392, R422: a port whose retry fails too is down. -/
theorem exec_portCrcFail_again {port : Nat} {s : State} (hport : port < 18) (hup : s.portsDown.getLsbD port = false) :
    ∃ t, exec (.portCrcFail port true) s = .next t ∧ (t.portsDown, t.mem) = (s.portsDown ||| ((1 : BitVec 18) <<< port), s.mem) := by
  refine ⟨_, (onUnit_lt _ hport).trans (congrArg Host.Outcome.next (if_neg (Bool.eq_false_iff.mp hup))),
    (State.resendPort_keeps _ _).trans ?_⟩
  refine congrArg (fun t : State => (t.portsDown, t.mem)) (foldl_keeps State.besideParts (fun u e => ?_) _ _)
  split
  · dsimp only
    split <;> simp only [State.lastingFault_besideParts]
  · rfl

/-! ### Combining (R395) -/

/-- R395: a held request with other parts. -/
def State.withParts (s : State) (x : SwitchAdd) (l : List (Option (Nat × Nat) × W64)) : State :=
  { s with switchBuf := s.switchBuf.map fun y => if y.id = x.id then { y with parts := l } else y }

/-- R395: the held requests without one, whose parts another has taken. -/
def State.withoutHeld (s : State) (id : Nat) : State := { s with switchBuf := s.switchBuf.filter fun x => x.id != id }

/-- R395: the parts change where the port's wait buffer has room for them. -/
theorem State.setParts_getD (s u : State) (x : SwitchAdd) (l : List (Option (Nat × Nat) × W64)) :
    ((s.withParts x l).waitEntries x.port ≤ 64 → (s.setParts x l).getD u = s.withParts x l) ∧
      (64 < (s.withParts x l).waitEntries x.port → (s.setParts x l).getD u = u) :=
  ⟨fun h => congrArg (Option.getD · u) (if_pos h), fun h => congrArg (Option.getD · u) (if_neg (Nat.not_le.mpr h))⟩

section
variable {s : State} {i j : Nat} {a b : SwitchAdd}

theorem exec_switchCombine_both (ha : s.switchBuf.find? (fun x => x.id == i) = some a)
    (hb : s.switchBuf.find? (fun x => x.id == j) = some b) : exec (.switchCombine i j) s =
      .next (if i ≠ j ∧ a.dev = b.dev ∧ a.tpart = b.tpart ∧ a.pa = b.pa ∧ a.size = b.size ∧ a.port = b.port then
        ((s.withoutHeld j).setParts a (a.parts ++ b.parts)).getD s else s) := by
  show execSwitchCombine i j s = _
  simp only [execSwitchCombine, ha, hb]
  rfl
theorem exec_switchCombine_first (ha : s.switchBuf.find? (fun x => x.id == i) = some a)
    (hb : s.switchBuf.find? (fun x => x.id == j) = none) :
    exec (.switchCombine i j) s = .next ((s.draw.2.setParts a (a.parts ++ [(none, s.draw.1)])).getD s) := by
  show execSwitchCombine i j s = _
  simp only [execSwitchCombine, ha, hb]
theorem exec_switchCombine_second (ha : s.switchBuf.find? (fun x => x.id == i) = none)
    (hb : s.switchBuf.find? (fun x => x.id == j) = some b) :
    exec (.switchCombine i j) s = .next ((s.draw.2.setParts b ((none, s.draw.1) :: b.parts)).getD s) := by
  show execSwitchCombine i j s = _
  simp only [execSwitchCombine, ha, hb]

variable {id : Nat}

theorem exec_combinedReply_off (h : s.islandOff 17 = true) (r : W64) : exec (.combinedReply id r) s = .next s := by
  show execCombinedReply id r s = _
  simp only [execCombinedReply, h, if_true]
theorem exec_combinedReply_found (h : s.islandOff 17 = false) (ha : s.switchBuf.find? (fun x => x.id == id) = some a) {r : W64} :
    exec (.combinedReply id r) s = .next (s.splitReply a r).toFabric := by
  show execCombinedReply id r s = _
  simp only [execCombinedReply, h, ha, Bool.false_eq_true, if_false]

end

/-- Settles O51: each step by the operation it takes, and the switch's by the requests it finds. -/
theorem hostAndFabricEvents : Obligations.HostAndFabricEvents := by
  refine ⟨fun req bar addr bs s => rfl, fun req bar addr len s => rfl, fun pkt s => ⟨fun hc h => ?_, fun hc hw h => ?_, fun hc h => ?_⟩,
    fun dev s => rfl, fun port s hp => onUnit_lt _ hp, fun port s hp hup => ?_, fun port again s hp => onUnit_ge _ hp,
    fun i j a b s ha hb => ⟨fun hij hd ht hpa hsz hport => ?_, fun h => ?_⟩, fun i j a s ha hb => ⟨?_, ?_⟩,
    fun size r v o l => ⟨rfl, rfl⟩, fun id r x s hx hoff => ?_, fun id r s hoff => ?_⟩
  · exact exec_fabricPacketArrive_held (by rw [State.fabTakes_combining hc, h]; rfl)
  · exact exec_fabricPacketArrive_held (by rw [State.fabTakes_numbered hc, hw, h]; rfl)
  · refine exec_fabricPacketArrive_dropped ?_
    rw [State.fabTakes_numbered hc]
    rcases h with h | h <;> rw [h]
    · rfl
    · exact Bool.and_false _
  · obtain ⟨t, ht, hkept⟩ := exec_portCrcFail_again hp hup
    exact ⟨t, ht, congrArg (·.1) hkept, congrArg (·.2) hkept⟩
  · rw [exec_switchCombine_both ha hb, if_pos ⟨hij, hd, ht, hpa, hsz, hport⟩]
    exact ((s.withoutHeld j).setParts_getD s a _).imp (congrArg Host.Outcome.next ∘ ·) (congrArg Host.Outcome.next ∘ ·)
  · rw [exec_switchCombine_both ha hb, if_neg]
    rintro ⟨hij, hd, -, hpa, hsz, hport⟩
    exact h.elim hij fun h => h.elim (· hd) fun h => h.elim (· hpa) fun h => h.elim (· hsz) (· hport)
  · rw [exec_switchCombine_first ha hb]
    exact (s.draw.2.setParts_getD s a _).imp (congrArg Host.Outcome.next ∘ ·) (congrArg Host.Outcome.next ∘ ·)
  · rw [exec_switchCombine_second hb ha]
    exact (s.draw.2.setParts_getD s a _).imp (congrArg Host.Outcome.next ∘ ·) (congrArg Host.Outcome.next ∘ ·)
  · exact exec_combinedReply_found hoff hx
  · exact exec_combinedReply_off hoff r

end Sys2Proof.Machine
end

section
/-!
SUPPORT. O52: the commands of the security controller, each by the state it finds.
-/
namespace Sys2Proof.Machine
open Sys2Proof

/-! ### Steps of the security controller (R18, R424) -/

theorem onController_on {s : State} (h : s.islandOff 16 = false) (r : Res) : onController s r = r := if_neg (Bool.eq_false_iff.mp h)
theorem onController_off {s : State} (h : s.islandOff 16 = true) (r : Res) : onController s r = .next s := if_pos h

section
variable {s : State} (hon : s.islandOff 16 = false)
include hon

/-! ### The mailbox (R406, R421) -/

theorem exec_mbSetDevid (h : s.mbIs 1 = true) : exec .mbSetDevid s = .next (if s.started = true ∧ s.anyPartition = false
    then (s.setDevid ((s.mbArg 0).setWidth 9)).mbDone 0 else s.mbDone 2) := by
  refine (onController_on hon _).trans (congrArg Host.Outcome.next ?_)
  rw [h]
  cases s.started <;> cases s.anyPartition <;> rfl
theorem exec_mbCreatePartition (h : s.mbIs 2 = true) : exec .mbCreatePartition s = .next s.create :=
  (onController_on hon _).trans (congrArg Host.Outcome.next (if_pos h))
theorem exec_mbDestroyPartition (h : s.mbIs 3 = true) : exec .mbDestroyPartition s = .next (
    if s.started = false then s.mbDone 2
    else if 64 ≤ (s.mbArg 0).toNat then s.mbDone 4
    else if (s.partn (s.mbArg 0).toNat).exists_ = false then s.mbDone 2
    else (s.destroy (s.mbArg 0).toNat).mbDone 0) := by
  refine (onController_on hon _).trans (congrArg Host.Outcome.next ?_)
  simp only [h, Bool.not_true, Bool.false_eq_true, if_false, Bool.not_eq_true', ge_iff_le]
theorem exec_mbWriteFirmware (h : s.mbIs 4 = true) : exec .mbWriteFirmware s = .next s.writeFirmware :=
  (onController_on hon _).trans (congrArg Host.Outcome.next (if_pos h))
theorem exec_mbRestart (h : s.mbIs 5 = true) :
    exec .mbRestart s = .next (State.begin { s with boot := { s.boot with att := 0 } }) :=
  (onController_on hon _).trans (congrArg Host.Outcome.next (if_pos h))

/-! ### Key requests (R411, R412) -/

theorem exec_keyBind (h : s.keyOp = 1) : exec .keyBind s = .next s.bind :=
  (onController_on hon _).trans (congrArg Host.Outcome.next (if_pos h))
theorem exec_keyUnbind (h : s.keyOp = 2) : exec .keyUnbind s = .next s.unbindReq :=
  (onController_on hon _).trans (congrArg Host.Outcome.next (if_pos h))
theorem exec_keyQuery : exec .keyQuery s = .next (if s.recordBad = true then s.refuseRecord
    else if s.keyOp = 3 then s.query else if s.keyOp = 1 ∨ s.keyOp = 2 then s else s.keyReply [5]) := onController_on hon _

theorem exec_spdmRequest : exec .spdmRequest s = .next s.spdmAnswer := onController_on hon _

end

theorem State.create_unstarted {s : State} (h : s.started = false) : s.create = s.mbDone 2 := if_pos (by rw [h]; rfl)

theorem getLsbD_one_shiftLeft {n i : Nat} (hi : i < n) (k : Nat) : ((1 : BitVec n) <<< k).getLsbD i = decide (i = k) := by
  rw [show (1 : BitVec n) <<< k = BitVec.twoPow n k from rfl, BitVec.getLsbD_twoPow, decide_eq_decide.mpr (eq_comm (a := k))]
  by_cases h : i = k
  · subst h
    rw [decide_eq_true hi, Bool.true_and]
  · rw [decide_eq_false h, Bool.and_false]
/-- R390: the bits of a mask that a list of ports sets. -/
theorem getLsbD_foldl_setBit {n : Nat} (c : Nat → Bool) (l : List Nat) (w : BitVec n) {i : Nat} (hi : i < n) :
    (l.foldl (fun m k => if c k then m ||| ((1 : BitVec n) <<< k) else m) w).getLsbD i = (w.getLsbD i || (decide (i ∈ l) && c i)) := by
  induction l generalizing w with
  | nil => simp
  | cons k l ih =>
    have hbit : (if c k then w ||| ((1 : BitVec n) <<< k) else w).getLsbD i = (w.getLsbD i || (decide (i = k) && c i)) := by
      by_cases hk : i = k
      · subst hk
        cases hc : c i
        · simp
        · rw [if_pos rfl, BitVec.getLsbD_or, getLsbD_one_shiftLeft hi, Bool.and_true]
      · rw [decide_eq_false hk, Bool.false_and, Bool.or_false]
        split
        · rw [BitVec.getLsbD_or, getLsbD_one_shiftLeft hi, decide_eq_false hk, Bool.or_false]
        · rfl
    rw [List.foldl_cons, ih, hbit, Bool.or_assoc, ← Bool.and_or_distrib_right]
    simp only [List.mem_cons, Bool.decide_or]
theorem State.setDevid_portsDown (s : State) (d : BitVec 9) {k : Nat} (hk : k < 18) :
    (s.setDevid d).portsDown.getLsbD k = (s.portsDown.getLsbD k || Config.devidHeld k d.toNat) := by
  refine (getLsbD_foldl_setBit (fun k => Config.devidHeld k d.toNat) (List.range 18) s.portsDown hk).trans ?_
  rw [decide_eq_true (List.mem_range.mpr hk), Bool.true_and]

section
variable {s : State}

/-- R411: a request that fails whatever it asks. -/
theorem State.bind_bad {e : Nat} (h : s.keyBad = some e) : s.bind = s.keyReply [BitVec.ofNat 8 e] := by
  rw [State.bind, h]
theorem State.unbindReq_bad {e : Nat} (h : s.keyBad = some e) : s.unbindReq = s.keyReply [BitVec.ofNat 8 e] := by
  rw [State.unbindReq, h]
/-- R411, R412: a bind: of a slot in use, to another partition than the request's digest names, or done. -/
theorem State.bind_good (h : s.keyBad = none) : s.bind =
    if (s.keys.lookup s.keySlot).isSome = true then s.keyReply [1]
    else if (s.partn s.keyPart).exists_ = false ∨ (s.partn s.keyPart).digest ≠ s.keyReq 8 64 then s.keyReply [2]
    else (({ s with
      keys := tset s.keys s.keySlot { part := s.keyPart, key := s.keyReq 72 64, binder := sha3_512 s.spdm.chain } } : State).setKown
        s.keyPart s.keySlot true).keyReply [0] := by
  rw [State.bind, h]
  simp only [Bool.or_eq_true, Bool.not_eq_true', bne_iff_ne]
/-- R411: a record that does not authenticate asks for no operation. -/
theorem State.keyOp_of_recordBad (h : s.recordBad = true) : s.keyOp = 0 := by
  unfold State.recordBad at h
  unfold State.keyOp State.keyReq
  split at h
  · next r hr =>
    rw [hr]
    dsimp only
    rw [Option.isNone_iff_eq_none.mp h]
    rfl
  · cases h

/-! ### The SPDM channel (R409) -/

theorem State.spdmRecord_of_session {a b : List Byte} (h : s.spdm.session = some (a, b)) : s.spdmRecord =
    if s.mbBytes spdmBase 4 = a ++ b
    then some (s.mbBytes spdmBase 6, s.mbBytes (spdmBase + 6) (leNat (s.mbBytes (spdmBase + 4) 2))) else none := by
  simp only [State.spdmRecord, Spdm.sid, h, Option.isSome_some, Bool.true_and, beq_iff_eq]
theorem State.spdmRecord_of_no_session (h : s.spdm.session = none) : s.spdmRecord = none := by
  simp only [State.spdmRecord, h, Option.isSome_none, Bool.false_and, Bool.false_eq_true, if_false]
theorem State.spdmAnswer_clear (h : s.spdmRecord = none) : s.spdmAnswer = s.spdmServe false (s.mbBytes spdmBase 0x10000) := by
  rw [State.spdmAnswer, h]
theorem State.spdmAnswer_record {r : List Byte × List Byte} (h : s.spdmRecord = some r) :
    (∀ req, s.spdm.unseal r = some req → s.spdmAnswer = s.spdmServe true req) ∧
      (s.spdm.unseal r = none → s.spdmAnswer = s.refuseRecord) := by
  rw [State.spdmAnswer, h]
  dsimp only
  exact ⟨fun req hr => by rw [hr], fun hr => by rw [hr]⟩
theorem State.keyReply_clear (h : s.spdmRecord = none) (bs : List Byte) : s.keyReply bs = s.mbPut spdmBase bs ∧ s.recordBad = false := by
  rw [State.keyReply, State.recordBad, h]
  exact ⟨rfl, rfl⟩
theorem State.keyReply_record {r : List Byte × List Byte} (h : s.spdmRecord = some r) (bs : List Byte) :
    s.recordBad = (s.spdm.unseal r).isNone ∧ s.keyReply bs =
      { s.mbPut spdmBase (s.spdm.seal bs) with spdm := { s.spdm with taken := s.spdm.taken + 1, given := s.spdm.given + 1 } } := by
  rw [State.keyReply, State.recordBad, h]
  exact ⟨rfl, rfl⟩

end

end Sys2Proof.Machine
end

section
/-!
SUPPORT. O52: starts, islands, and what an average of the power changes of each island.
-/
namespace Sys2Proof.Machine
open Sys2Proof

/-! ### Starts (R418 to R420) -/

section
variable {s : State}

/-- R419: the third failure in a row. -/
theorem State.failStart_last (h : 2 ≤ s.boot.att.toNat) (c : Nat) : s.failStart c =
    { s with boot := { s.boot with cause := BitVec.ofNat 8 c, att := 3, began := none, min := true, again := none }, portsDown := 0x3FFFF } := by
  have hn : min 3 (s.boot.att.toNat + 1) = 3 := by omega
  simp only [State.failStart, hn, ge_iff_le, le_refl, if_true]
  rfl
/-- R418: an earlier one. -/
theorem State.failStart_earlier (h : s.boot.att.toNat < 2) (c : Nat) : s.failStart c =
    { s with boot := { s.boot with
      cause := BitVec.ofNat 8 c, att := s.boot.att + 1, began := none, again := some (s.gtime.toNat + 100000000) } } := by
  have hn : min 3 (s.boot.att.toNat + 1) = s.boot.att.toNat + 1 := by omega
  have hatt : BitVec.ofNat 2 (s.boot.att.toNat + 1) = s.boot.att + 1 := by
    rw [BitVec.ofNat_add, BitVec.ofNat_toNat, BitVec.setWidth_eq]
    rfl
  have hless : ¬ s.boot.att.toNat + 1 ≥ 3 := by omega
  simp only [State.failStart, hn, hatt, hless, if_false]
theorem State.failStart_cause (s : State) (c : Nat) : (s.failStart c).boot.cause = BitVec.ofNat 8 c := by
  unfold State.failStart
  dsimp only
  split <;> rfl
theorem State.failStart_min (s : State) (c : Nat) :
    (s.failStart c).boot.min = true ↔ 2 ≤ s.boot.att.toNat ∨ s.boot.min = true := by
  rcases Nat.lt_or_ge s.boot.att.toNat 2 with h | h
  · rw [State.failStart_earlier h]
    exact (or_iff_right (Nat.not_le.mpr h)).symm
  · rw [State.failStart_last h]
    exact iff_of_true rfl (.inl h)

theorem exec_startStageDone_failed {b : Nat} {f : Option StartFail} {c : StartFail} (hb : s.boot.began = some b)
    (h : f.or s.imageFault = some c) : exec (.startStageDone f) s = .next (s.failStart (StartFail.code c)) := by
  show execStartStageDone f s = _
  simp only [execStartStageDone, hb, h]
theorem exec_startStageDone_passed {b : Nat} (hb : s.boot.began = some b) (h : s.imageFault = none) :
    exec (.startStageDone none) s = .next (
      if s.boot.stage = 2 then { s with boot := { s.boot with stage := 3, att := 0, began := none } }
      else { s with boot := { s.boot with stage := s.boot.stage + 1, began := some s.gtime.toNat } }) := by
  show execStartStageDone none s = _
  simp only [execStartStageDone, hb, h, Option.or_none]
/-- R418: the last stage has no image to check. -/
theorem State.imageFault_last (h : s.boot.stage = 2) : s.imageFault = none := if_pos (by rw [h]; decide)
theorem exec_stageTimeout {b : Nat} (hb : s.boot.began = some b) :
    exec .stageTimeout s = .next (if b + 10000000000 ≤ s.gtime.toNat then s.failStart 6 else s) := by
  show execStageTimeout s = _
  simp only [execStageTimeout, hb, ge_iff_le]
theorem exec_startRetry {b : Nat} (hb : s.boot.again = some b) :
    exec .startRetry s = .next (if b ≤ s.gtime.toNat then s.begin else s) := by
  show execStartRetry s = _
  simp only [execStartRetry, hb, ge_iff_le]

end

/-! ### A change of frequency (R424) -/

/-- R424: an island after a change of its frequency at a time. -/
def Island.atMhz (x : Island) (mhz now : Nat) : Island :=
  if x.mhz = mhz then x else { x with mhz, mv := if mhz = 2400 then 500 else Config.supplyMv mhz, stall := some (now + 2000) }
/-- The state without its islands. -/
def State.besideIslands (s : State) : State := { s with islands := Vector.replicate 20 {} }

theorem Island.atMhz_spec (x : Island) (mhz now : Nat) :
    (x.atMhz mhz now).mhz = mhz ∧ (x.atMhz mhz now).setMhz = x.setMhz ∧
      ((x.atMhz mhz now).mhz ≠ x.mhz → (x.atMhz mhz now).stall = some (now + 2000)) ∧
      ((x.atMhz mhz now).mhz = x.mhz → x.atMhz mhz now = x) := by
  unfold Island.atMhz
  split
  · next h => exact ⟨h, rfl, fun hne => absurd rfl hne, fun _ => rfl⟩
  · next h => exact ⟨rfl, rfl, fun _ => rfl, fun heq => absurd heq.symm h⟩
theorem State.setMhz_besideIslands (s : State) (i mhz : Nat) : (s.setMhz i mhz).besideIslands = s.besideIslands := by
  unfold State.setMhz
  dsimp only
  split <;> rfl
theorem State.island_setMhz (s : State) {i j : Nat} (hj : j < 20) (mhz : Nat) : vget (s.setMhz i mhz).islands j {} =
    if j = i then (vget s.islands i {}).atMhz mhz s.gtime.toNat else vget s.islands j {} := by
  unfold State.setMhz Island.atMhz
  dsimp only
  by_cases hji : j = i
  · subst hji
    rw [if_pos rfl]
    split
    · rfl
    · exact vget_vset_self _ _ _ hj
  · rw [if_neg hji]
    split
    · rfl
    · exact vget_vset_ne _ _ _ hji

/-! ### An average of the power (R425) -/

/-- R425: an island that an average or its own heat lowers. -/
def Power.lowers (p : Power) (mw i : Nat) : Prop := (p.plim.toNat * 1000 < mw ∧ i < 16) ∨ 100 ≤ tget p.sensors i 0
/-- R425: what an average makes of an island. -/
def Island.averaged (x : Island) (p : Power) (mw now i : Nat) : Island :=
  if (mw > p.plim.toNat * 1000 ∧ i < 16) ∨ decide (tget p.sensors i 0 ≥ 100) then x.atMhz (max 1000 (x.mhz - 100)) now
  else if 100 * mw < 95 * (p.plim.toNat * 1000) then x.atMhz (min x.setMhz (x.mhz + 100)) now
  else x

theorem Island.averaged_spec (x : Island) (p : Power) (mw now i : Nat) :
    let y := x.averaged p mw now i
    (p.lowers mw i → y.mhz = max 1000 (x.mhz - 100)) ∧
    (¬ p.lowers mw i → 100 * mw < 95 * (p.plim.toNat * 1000) → y.mhz = min x.setMhz (x.mhz + 100)) ∧
    (¬ p.lowers mw i → 95 * (p.plim.toNat * 1000) ≤ 100 * mw → y = x) ∧
    (y.mhz ≠ x.mhz → y.stall = some (now + 2000)) ∧ (y.mhz = x.mhz → y = x) ∧ y.setMhz = x.setMhz := by
  intro y
  have hcond : (mw > p.plim.toNat * 1000 ∧ i < 16) ∨ decide (tget p.sensors i 0 ≥ 100) = true ↔ p.lowers mw i :=
    or_congr Iff.rfl decide_eq_true_iff
  by_cases hdown : p.lowers mw i
  · have hy : y = x.atMhz (max 1000 (x.mhz - 100)) now := if_pos (hcond.mpr hdown)
    obtain ⟨hmhz, hset, hstall, hsame⟩ := x.atMhz_spec (max 1000 (x.mhz - 100)) now
    rw [hy]
    exact ⟨fun _ => hmhz, fun h => absurd hdown h, fun h => absurd hdown h, hstall, hsame, hset⟩
  · by_cases hup : 100 * mw < 95 * (p.plim.toNat * 1000)
    · have hy : y = x.atMhz (min x.setMhz (x.mhz + 100)) now := (if_neg (mt hcond.mp hdown)).trans (if_pos hup)
      obtain ⟨hmhz, hset, hstall, hsame⟩ := x.atMhz_spec (min x.setMhz (x.mhz + 100)) now
      rw [hy]
      exact ⟨fun h => absurd h hdown, fun _ _ => hmhz, fun _ h => absurd hup (Nat.not_lt.mpr h), hstall, hsame, hset⟩
    · have hy : y = x := (if_neg (mt hcond.mp hdown)).trans (if_neg hup)
      rw [hy]
      exact ⟨fun h => absurd h hdown, fun _ h => absurd h hup, fun _ _ => rfl, fun h => absurd rfl h, fun _ => rfl, rfl⟩

theorem State.powerStep_besideIslands (s : State) (mw i : Nat) : (s.powerStep mw i).besideIslands = s.besideIslands := by
  unfold State.powerStep
  dsimp only
  split
  · exact State.setMhz_besideIslands ..
  · split
    · exact State.setMhz_besideIslands ..
    · rfl
theorem State.island_powerStep (s : State) (mw i : Nat) {j : Nat} (hj : j < 20) : vget (s.powerStep mw i).islands j {} =
    if j = i then (vget s.islands i {}).averaged s.power mw s.gtime.toNat i else vget s.islands j {} := by
  unfold State.powerStep Island.averaged
  dsimp only
  split
  · exact s.island_setMhz hj _
  · split
    · exact s.island_setMhz hj _
    · split
      · next h => rw [h]
      · rfl
/-- The islands of a list, each averaged once. -/
theorem State.island_foldl_powerStep (mw : Nat) {l : List Nat} (hl : l.Nodup) (s : State) {j : Nat} (hj : j < 20) :
    vget (l.foldl (fun u i => u.powerStep mw i) s).islands j {} =
      if j ∈ l then (vget s.islands j {}).averaged s.power mw s.gtime.toNat j else vget s.islands j {} := by
  induction l generalizing s with
  | nil => rfl
  | cons i l ih =>
    obtain ⟨hi, hnd⟩ := List.nodup_cons.mp hl
    have hkept := s.powerStep_besideIslands mw i
    have hpower : (s.powerStep mw i).power = s.power := congrArg (·.power) hkept
    have htime : (s.powerStep mw i).gtime = s.gtime := congrArg (·.gtime) hkept
    rw [List.foldl_cons, ih hnd, hpower, htime, s.island_powerStep mw i hj]
    by_cases hji : j = i
    · subst hji
      rw [if_neg hi, if_pos rfl, if_pos List.mem_cons_self]
    · simp only [List.mem_cons, hji, false_or, if_false]
theorem State.allLow_iff (s : State) : s.allLow = true ↔ ∀ i, i < 16 → (vget s.islands i {}).mhz = 1000 := by
  simp only [State.allLow, List.all_eq_true, List.mem_range, beq_iff_eq]
/-- R425: `OVR` after an average. -/
def State.ovrAfter (s : State) (mw : Nat) : Bool :=
  if mw > s.power.plim.toNat * 1000 ∧ s.allLow then true else if mw < s.power.plim.toNat * 1000 then false else s.power.ovr
theorem State.ovrAfter_spec (s : State) (mw : Nat) :
    let lim := s.power.plim.toNat * 1000
    (lim < mw → (∀ i, i < 16 → (vget s.islands i {}).mhz = 1000) → s.ovrAfter mw = true) ∧ (mw < lim → s.ovrAfter mw = false) ∧
      (lim ≤ mw → (mw = lim ∨ ∃ i, i < 16 ∧ (vget s.islands i {}).mhz ≠ 1000) → s.ovrAfter mw = s.power.ovr) := by
  refine ⟨fun h hlow => if_pos ⟨h, s.allLow_iff.mpr hlow⟩, fun h => ?_, fun h hor => ?_⟩
  · exact (if_neg fun hc => Nat.lt_asymm h hc.1).trans (if_pos h)
  · refine (if_neg fun hc => ?_).trans (if_neg (Nat.not_lt.mpr h))
    rcases hor with heq | ⟨i, hi, hne⟩
    · exact Nat.lt_irrefl _ (heq ▸ hc.1)
    · exact hne (s.allLow_iff.mp hc.2 i hi)
/-- R425: an average changes the islands, and shows in the power's own record. -/
theorem exec_powerWindow (mw : Nat) (s : State) : ∃ t : State, t.besideIslands = s.besideIslands ∧
    (∀ i, i < 20 → vget t.islands i {} = (vget s.islands i {}).averaged s.power mw s.gtime.toNat i) ∧
    exec (.powerWindow mw) s = .next { t with power := { t.power with mw := BitVec.ofNat 32 mw, ovr := s.ovrAfter mw } } := by
  refine ⟨_, foldl_keeps State.besideIslands (fun u i => u.powerStep_besideIslands mw i) (List.range 20) s, fun i hi => ?_, rfl⟩
  exact (State.island_foldl_powerStep mw List.nodup_range s hi).trans (if_pos (List.mem_range.mpr hi))

theorem exec_islandFreqChange {i m : Nat} (hi : i < 20) (hlo : 1000 ≤ m) (hhi : m ≤ 2400) (hstep : m % 100 = 0) (s : State) :
    exec (.islandFreqChange i m) s = .next (let t := s.setMhz i m
      { t with islands := vset t.islands i { vget t.islands i {} with setMhz := m } }) :=
  (onUnit_lt _ hi).trans (congrArg Host.Outcome.next (if_neg (by omega)))
theorem exec_islandStallEnd {i t : Nat} {s : State} (hi : i < 20) (hs : (vget s.islands i {}).stall = some t) (ht : t ≤ s.gtime.toNat) :
    exec (.islandStallEnd i) s = .next (
      let u := { s with islands := vset s.islands i { vget s.islands i {} with stall := none } }
      let w := (u.parts.map (·.1)).foldl State.stopDue u
      w.hostPump w.hostQ.length) := by
  refine (onUnit_lt _ hi).trans ?_
  simp only [hs, ge_iff_le, ht, if_true]

/-! ### Heat (R425) -/

theorem exec_overTemperature_hot {s : State} {n d : Nat} (hd : 110 ≤ d) (hs : s.power.stopped = false) :
    ∃ t, exec (.overTemperature n d) s = .next t ∧ t.power.stopped = true ∧ t.boot.cause = 7 ∧ t.boot.again = none :=
  ⟨_, congrArg Host.Outcome.next (if_neg (not_or_intro (Nat.not_lt.mpr hd) (Bool.eq_false_iff.mp hs))), rfl,
    State.failStart_cause _ 7, rfl⟩
theorem exec_thermalRestart (s : State) :
    exec .thermalRestart s = .next (if s.power.stopped = true ∧ s.boot.min = false ∧ s.tmax < 85
      then { s.begin with power := { ({} : Power) with sensors := s.power.sensors } } else s) := by
  show execThermalRestart s = _
  simp only [execThermalRestart, Bool.not_eq_true']

/-- Settles O52: each command by the state it finds, each stage by its result, and each island by the average. -/
theorem managementStartAndPowerEvents : Obligations.ManagementStartAndPowerEvents := by
  refine ⟨fun s hon h => exec_mbSetDevid hon h, fun s d => ⟨rfl, rfl, fun k hk => s.setDevid_portsDown d hk⟩,
    fun s hon h => exec_mbCreatePartition hon h, fun s hon h hs => ?_, fun s hon h => ?_, fun s hon h => exec_mbWriteFirmware hon h,
    fun s hon h => exec_mbRestart hon h, fun s hon => ⟨rfl, fun hr => ?_, fun r req hr hu => ?_, fun r hr hu => ?_⟩,
    fun s sec req => ⟨fun h => ⟨?_, ?_⟩, fun h => ?_⟩, fun s => ⟨State.spdmRecord_of_no_session, fun a b h => ⟨fun hne => ?_, fun he => ?_⟩,
      fun r => rfl, fun m => rfl⟩,
    fun s => ⟨fun h => if_pos h, fun h => ⟨_, rfl, if_neg (Bool.eq_false_iff.mp h)⟩⟩, fun s e hon hb => ⟨fun h => ?_, fun h => ?_⟩,
    fun s hon h hb hk => ?_, fun s hon h hb hk => ⟨fun hp => ?_, fun he hd => ?_⟩, fun s hon h => exec_keyUnbind hon h, fun s hon h => ?_,
    fun s hon h1 h2 h3 => ?_, fun s bs => ⟨fun h => State.keyReply_clear h bs, fun r h => State.keyReply_record h bs⟩,
    fun s => ⟨fun h => congrArg Host.Outcome.next (if_pos h), fun h => ⟨_, congrArg Host.Outcome.next (if_neg (Bool.eq_false_iff.mp h)),
      rfl, rfl, rfl, rfl, rfl, rfl, rfl, rfl⟩⟩,
    fun s b c hb hf => exec_startStageDone_failed hb hf,
    fun s b hb => ⟨fun c => exec_startStageDone_failed hb rfl, fun h => ?_, fun h hf => ?_, exec_stageTimeout hb⟩,
    fun s c => ⟨s.failStart_min c, fun h => ?_, fun h => ?_, s.failStart_cause c⟩, fun s b hb => exec_startRetry hb,
    fun i m s hi hlo hhi hstep => exec_islandFreqChange hi hlo hhi hstep s, fun i t s hi hs ht => exec_islandStallEnd hi hs ht,
    fun s mw => ?_, fun s n d hd => congrArg Host.Outcome.next (if_pos (.inl hd)), fun s n d hd hs => exec_overTemperature_hot hd hs,
    exec_thermalRestart, fun s hoff => ?_⟩
  · rw [exec_mbCreatePartition hon h, State.create_unstarted hs]
  · rw [exec_mbDestroyPartition hon h]
    refine ⟨fun hs => by rw [if_pos hs], fun hs hp => ?_, fun hs hp he => ?_, fun hs hp he => ?_⟩ <;>
      rw [if_neg (Bool.ne_false_iff.mpr hs)]
    · rw [if_pos hp]
    · rw [if_neg (Nat.not_le.mpr hp), if_pos he]
    · rw [if_neg (Nat.not_le.mpr hp), if_neg (Bool.ne_false_iff.mpr he)]
  · rw [exec_spdmRequest hon, State.spdmAnswer_clear hr]
  · rw [exec_spdmRequest hon, (State.spdmAnswer_record hr).1 req hu]
  · rw [exec_spdmRequest hon, (State.spdmAnswer_record hr).2 hu]
    rfl
  · exact congrArg (fun x : Spdm => { (s.drawMany 40).1.mbPut spdmBase _ with spdm := x }) (if_pos h)
  · exact if_pos h
  · exact congrArg (fun x : Spdm => { (s.drawMany 40).1.mbPut spdmBase _ with spdm := x }) (if_neg (Bool.eq_false_iff.mp h))
  · rw [State.spdmRecord_of_session h, if_neg hne]
  · rw [State.spdmRecord_of_session h, if_pos he]
  · rw [exec_keyBind hon h, State.bind_bad hb]
  · rw [exec_keyUnbind hon h, State.unbindReq_bad hb]
  · rw [exec_keyBind hon h, State.bind_good hb, if_pos hk]
  · rw [exec_keyBind hon h, State.bind_good hb, hk, if_neg (by simp), if_pos hp]
  · rw [exec_keyBind hon h, State.bind_good hb, hk, if_neg (by simp), if_neg (by simp [he, hd])]
  · have hgood : s.recordBad ≠ true := fun hbad => absurd ((State.keyOp_of_recordBad hbad).symm.trans h) (by decide)
    rw [exec_keyQuery hon, if_neg hgood, if_pos h]
  · rw [exec_keyQuery hon, if_neg h3, if_neg (not_or_intro h1 h2)]
  · rw [exec_startStageDone_passed hb (State.imageFault_last h), if_pos h]
  · rw [exec_startStageDone_passed hb hf, if_neg h]
  · rw [State.failStart_earlier h]
    exact ⟨rfl, rfl⟩
  · rw [State.failStart_last h]
    exact ⟨rfl, rfl, rfl⟩
  · obtain ⟨t, hkept, hislands, hexec⟩ := exec_powerWindow mw s
    obtain ⟨hover, hunder, hstays⟩ := s.ovrAfter_spec mw
    refine ⟨_, hexec, rfl, congrArg (·.mem) hkept, congrArg (·.cores) hkept, fun i hi => ?_, hover, hunder, hstays⟩
    rw [hislands i hi]
    exact Island.averaged_spec ..
  · exact ⟨onController_off hoff _, onController_off hoff _, onController_off hoff _, onController_off hoff _, onController_off hoff _,
      onController_off hoff _, onController_off hoff _, onController_off hoff _, onController_off hoff _, onController_off hoff _⟩

end Sys2Proof.Machine
end

section
/-!
SUPPORT. O45: packets on the mesh, and links that fail.
-/
namespace Sys2Proof.Machine
open Sys2Proof

/-! ### Arrival in sequence (R370, R372) -/

section
variable {id : Nat} {p : Packet} {s : State} (hfind : s.net.find? (fun x => x.id == id) = some p)
include hfind

theorem exec_meshPacketArrive_held (h : s.routeFailed p = true ∨ s.routeOff p = true) : exec (.meshPacketArrive id) s = .next s := by
  show execMeshPacketArrive id s = _
  rw [execMeshPacketArrive, hfind]
  exact if_pos (by rcases h with h | h <;> simp [h])
theorem exec_meshPacketArrive_passes (hfailed : s.routeFailed p = false) (hoff : s.routeOff p = false) :
    let t : State := { s with net := s.net.filter fun x => x.id != id }
    let q := seqOf s.recvSeq p.src p.dst
    (p.seq = q → exec (.meshPacketArrive id) s = .next (({ t with
      arrived := t.arrived ++ [p], recvSeq := seqSet t.recvSeq p.src p.dst ((q + 1) % 65536) }).releaseHeld p.src p.dst
        t.reorder.length).toFabric) ∧
    (p.seq ≠ q → s.reorderFull p = false → exec (.meshPacketArrive id) s = .next { t with reorder := t.reorder ++ [p] }) := by
  have hpass : (s.routeFailed p || s.routeOff p) ≠ true := by simp [hfailed, hoff]
  show (_ → execMeshPacketArrive id s = _) ∧ (_ → _ → execMeshPacketArrive id s = _)
  rw [execMeshPacketArrive, hfind]
  refine ⟨fun hseq => ?_, fun hseq hfull => ?_⟩
  · exact (if_neg hpass).trans (if_pos hseq)
  · exact (if_neg hpass).trans ((if_neg hseq).trans (if_neg (Bool.eq_false_iff.mp hfull)))

end

/-! ### Links (R372, R422, R423) -/

theorem exec_linkCrcFail_once (src dst : Nat) (s : State) :
    exec (.linkCrcFail src dst false) s = .next (s.transient (linkIsland src)) := rfl
/-- R372, R423: a link whose resend fails too is out of service, and the records of it stand in the partitions. -/
theorem exec_linkCrcFail_again {src dst : Nat} {s : State} (h : s.failed.contains (src, dst) = false) :
    ∃ t, exec (.linkCrcFail src dst true) s = .next t ∧
      t.besideParts = State.besideParts { s with failed := s.failed ++ [(src, dst)] } := by
  refine ⟨_, congrArg Host.Outcome.next (if_neg (Bool.eq_false_iff.mp h)), foldl_keeps State.besideParts (fun u e => ?_) _ _⟩
  split
  · simp only [State.lastingFault_besideParts]
  · rfl

end Sys2Proof.Machine
end

section
/-!
SUPPORT. O45: accesses and withdrawals at their homes.
-/
namespace Sys2Proof.Machine
open Sys2Proof

section
variable {id : Nat} {p : Packet} {s t : State} (harr : s.takeArrived id = some (p, t))
include harr
variable {b : Access} (hbody : p.body = .access b)
include hbody

/-- R153: an access at a core, a cluster memory or the IOD. -/
theorem exec_homeAccess_unit (hf : p.dst.fencedBy s = false) (hdev : ∀ d, p.dst ≠ .dev d) (hslice : ∀ n, p.dst ≠ .slice n) :
    exec (.homeAccess id) s = .next (t.performAnswer p.dst p.src b) := by
  show execHomeAccess id s = _
  rw [execHomeAccess, harr]
  dsimp only
  rw [if_neg (Bool.eq_false_iff.mp hf), hbody]
  cases hd : p.dst with
  | dev d => exact absurd hd (hdev d)
  | slice n => exact absurd hd (hslice n)
  | _ => rfl

variable {n : Nat} (hdst : p.dst = .slice n)
include hdst

theorem exec_homeAccess_slice_other (hloc : ∀ q o, b.loc.forward s ≠ .hbm q o) :
    exec (.homeAccess id) s = .next (t.performAnswer (.slice n) p.src { b with loc := b.loc.forward s }) := by
  show execHomeAccess id s = _
  rw [execHomeAccess, harr]
  dsimp only
  rw [if_neg (by rw [hdst]; exact Bool.false_ne_true), hdst, hbody]
  dsimp only
  split
  · next q o h => exact absurd h (hloc q o)
  · rfl

/-- R338, R346, R380: an access to a line of HBM: behind the bytes its cluster writes back, at a replica, behind what its source has waiting
there, behind the line's replicas, with the line's fill, or performed. -/
theorem exec_homeAccess_line {q o : Nat} (hloc : b.loc.forward s = .hbm q o) :
    let a := { b with loc := b.loc.forward s }
    let m := if a.loc = b.loc then n else s.homeSlice q o
    let g := s.replicaGate id m q o a
    let u : State := { g.1 with arrived := t.arrived }
    exec (.homeAccess id) s =
      if s.behindWb p.src b.loc = true then .next s
      else if a.loc = b.loc ∧ s.homeSlice q o ≠ n ∧ a.kind.reads = true then .next (t.atReplica n q o a)
      else if (t.slice m).fills.any (fun f => f.2 == p.src) = true then .next s
      else if (!g.2) = true then .next g.1
      else if (!s.homeRefuses a && t.waitsFill m q o a) = true then
        .next (u.setSlice m { u.slice m with fills := (u.slice m).fills ++ [(a, p.src)] })
      else .next ((u.performAnswer (.slice m) p.src a).writeDone m q o a) := by
  show execHomeAccess id s = _
  rw [execHomeAccess, harr]
  dsimp only
  rw [if_neg (by rw [hdst]; exact Bool.false_ne_true), hdst, hbody]
  dsimp only
  split
  · next q' o' h =>
    obtain ⟨rfl, rfl⟩ := Loc.hbm.inj (h.symm.trans hloc)
    rfl
  · next h => exact absurd hloc (h q o)
/-- R338, R380: the access at the line's home, once the asking cluster's bytes are there. -/
theorem exec_homeAccess_home {q o : Nat} :
    let a := { b with loc := b.loc.forward s }
    a.loc = .hbm q o → s.behindWb p.src b.loc = false → ¬ (a.loc = b.loc ∧ s.homeSlice q o ≠ n ∧ a.kind.reads = true) →
    let m := if a.loc = b.loc then n else s.homeSlice q o
    ((t.slice m).fills.any (fun f => f.2 == p.src) = true → exec (.homeAccess id) s = .next s) ∧
    ((t.slice m).fills.any (fun f => f.2 == p.src) = false →
      let g := s.replicaGate id m q o a
      let u : State := { g.1 with arrived := t.arrived }
      (g.2 = false → exec (.homeAccess id) s = .next g.1) ∧
      (g.2 = true → (s.homeRefuses a = true ∨ t.waitsFill m q o a = false) →
        exec (.homeAccess id) s = .next ((u.performAnswer (.slice m) p.src a).writeDone m q o a)) ∧
      (g.2 = true → s.homeRefuses a = false → t.waitsFill m q o a = true →
        exec (.homeAccess id) s = .next (u.setSlice m { u.slice m with fills := (u.slice m).fills ++ [(a, p.src)] }))) := by
  intro a hloc hbehind hread m
  rw [exec_homeAccess_line harr hbody hdst hloc, if_neg (Bool.eq_false_iff.mp hbehind), if_neg hread]
  refine ⟨fun hfill => if_pos hfill, fun hfill => ?_⟩
  intro g u
  rw [if_neg (Bool.eq_false_iff.mp hfill)]
  refine ⟨fun hgo => if_pos ?_, fun hgo hnow => (if_neg ?_).trans (if_neg ?_), fun hgo href hwait => (if_neg ?_).trans (if_pos ?_)⟩
  · rw [hgo]; rfl
  · rw [hgo]; exact Bool.false_ne_true
  · rcases hnow with href | hwait
    · rw [href]; exact Bool.false_ne_true
    · rw [hwait, Bool.and_false]; exact Bool.false_ne_true
  · rw [hgo]; exact Bool.false_ne_true
  · rw [href, hwait]; rfl
/-- R337: a read that has come to a replica. -/
theorem exec_homeAccess_replica {q o : Nat} (hloc : b.loc = .hbm q o) (hfwd : b.loc.forward s = b.loc)
    (hbehind : s.behindWb p.src b.loc = false) (hhome : s.homeSlice q o ≠ n) (hread : b.kind.reads = true) :
    exec (.homeAccess id) s = .next (t.atReplica n q o b) := by
  rw [exec_homeAccess_line harr hbody hdst (hfwd.trans hloc), if_neg (Bool.eq_false_iff.mp hbehind), hfwd]
  exact if_pos ⟨rfl, hhome, hread⟩

end

/-- R152: a withdrawal, once no slice keeps its access for a fill. -/
theorem exec_homeAccess_withdraw {id : Nat} {p : Packet} {s t : State} (harr : s.takeArrived id = some (p, t)) {req sl : Nat} {l : Loc}
    (hbody : p.body = .withdraw req sl l) (hf : p.dst.fencedBy s = false) (hdev : ∀ d, p.dst ≠ .dev d)
    (hfill : ∀ n, p.dst = .slice n → ∀ e ∈ s.slices, ∀ f ∈ e.2.fills, ¬ (f.2 = p.src ∧ f.1.req = req)) :
    exec (.homeAccess id) s = .next (t.withdrawn p.src req) := by
  show execHomeAccess id s = _
  rw [execHomeAccess, harr]
  dsimp only
  rw [if_neg (Bool.eq_false_iff.mp hf), hbody]
  cases hd : p.dst with
  | dev d => exact absurd hd (hdev d)
  | slice n =>
    refine if_neg fun h => ?_
    simp only [List.any_eq_true, Bool.and_eq_true, beq_iff_eq] at h
    obtain ⟨e, he, f, hwaits, hmine⟩ := h
    exact hfill n hd e he f hwaits hmine
  | _ => rfl

/-! ### Replicas (R337, R338) -/

theorem State.atReplica_held {s u : State} {n q o : Nat} {r : Replica} {x : AccResult} {b : Access}
    (hon : s.replicaOn (n / 16) q o = some (r, n)) (href : s.homeRefuses b = false)
    (hline : r.lines.contains (n, lineOf o, b.kslot) = true) (hperf : s.performAt (.slice n) (.core b.core) b = (u, some x)) :
    s.atReplica n q o b = u.answer (.slice n) (.core b.core) b x := by
  simp only [State.atReplica, hon, href, hline, hperf, Bool.false_eq_true, if_false, and_self, if_true]
/-- R338: a read does not wait for replicas. -/
theorem State.replicaGate_read {a : Access} (h : a.kind.writes = false) (s : State) (id n p o : Nat) :
    s.replicaGate id n p o a = (s, true) ∧ s.writeDone n p o a = s :=
  ⟨if_neg (Bool.eq_false_iff.mp h), if_neg (Bool.eq_false_iff.mp h)⟩

end Sys2Proof.Machine
end

section
/-!
SUPPORT. O45: aggregated elements at their homes.
-/
namespace Sys2Proof.Machine
open Sys2Proof

/-! ### Elements (R148, R376, R377) -/

theorem State.sliceEntry_mem (s : State) (n part va : Nat) : (s.sliceEntry n part va).2.mem = s.mem := by
  unfold State.sliceEntry
  split
  · rfl
  · dsimp only
    split <;> exact State.noteWalk_keeps keptByReads_mem ..
/-- R148: the test of an element writes no memory. -/
theorem State.elemLoc_mem (s : State) (dst : Node) (part : Nat) (e : AggElem) (key : Nat) : (s.elemLoc dst part e key).1.mem = s.mem := by
  unfold State.elemLoc
  dsimp only
  split
  · rfl
  · split
    · exact State.sliceEntry_mem ..
    · rfl
    · split <;> rfl

section
variable {s t : State} {dst : Node} {part : Nat} {e : AggElem} {k : Nat}

theorem State.applyElems_good {l : Loc} (h : s.elemLoc dst part e k = (t, .ok l)) (r : List (AggElem × Nat)) :
    s.applyElems dst part ((e, k) :: r) =
      (((t.applyElem e l).applyElems dst part r).1, 0 :: ((t.applyElem e l).applyElems dst part r).2) := by
  rw [State.applyElems, h]
theorem State.applyElems_bad {c : Nat} (h : s.elemLoc dst part e k = (t, .error c)) (r : List (AggElem × Nat)) :
    s.applyElems dst part ((e, k) :: r) = ((t.applyElems dst part r).1, c :: (t.applyElems dst part r).2) := by
  rw [State.applyElems, h]

end

/-- R376: each element has its answer. -/
theorem State.applyElems_length (s : State) (dst : Node) (part : Nat) (es : List (AggElem × Nat)) :
    (s.applyElems dst part es).2.length = es.length := by
  induction es generalizing s with
  | nil => rfl
  | cons e es ih =>
    obtain ⟨e, k⟩ := e
    cases h : s.elemLoc dst part e k with
    | mk t r =>
      cases r with
      | ok l => rw [State.applyElems_good h, List.length_cons, List.length_cons, ih]
      | error c => rw [State.applyElems_bad h, List.length_cons, List.length_cons, ih]
theorem State.reopenIdle_mem (s : State) (n part off : Nat) : (s.reopenIdle n part off).mem = s.mem := by
  unfold State.reopenIdle
  split
  · rfl
  · unfold State.reopen
    split <;> rfl
theorem State.performElems_mem (s : State) (dst : Node) (part : Nat) (es : List (AggElem × Nat)) :
    (State.performElems s dst part es).1.mem = (s.applyElems dst part es).1.mem := by
  unfold State.performElems
  exact foldl_keeps State.mem (fun v (l : Nat × Nat) => v.reopenIdle_mem (v.homeSlice l.1 l.2) l.1 l.2) _ _

/-! ### Packets of elements (R376, R380) -/

/-- A packet taken, with its destination and its body written out. -/
theorem taken_as {id : Nat} {p : Packet} {s t : State} (harr : s.takeArrived id = some (p, t)) {b : Body} (hbody : p.body = b) {d : Node}
    (hdst : p.dst = d) : s.takeArrived id = some ({ p with dst := d, body := b }, t) := by
  rw [harr, ← hbody, ← hdst]

section
variable {id : Nat} {p : Packet} {s t : State} (harr : s.takeArrived id = some (p, t))
include harr

theorem exec_aggPacketApply_elements {es : List (AggElem × Nat)} {g : Trigger} (hbody : p.body = .agg es g) (hf : p.dst.fencedBy s = false)
    (hdev : ∀ d, p.dst ≠ .dev d)
    (hslice : ∀ n, p.dst = .slice n → s.elemsWait p.dst p.part p.src es = false ∧ s.elemsBehind p.dst p.part p.src es = false) :
    let w := s.elemGates id p.dst p.part es
    let x := State.performElems { w.1 with arrived := t.arrived } p.dst p.part es
    exec (.aggPacketApply id) s =
      if (!w.2) = true then .next w.1 else .next (x.1.send p.dst p.src p.part .reply (.aggReply p.seq (maskOf x.2) x.2)) := by
  show execAggPacketApply id s = _
  rw [execAggPacketApply, taken_as harr hbody rfl]
  refine if_neg fun h => ?_
  rw [hf, Bool.false_or] at h
  cases hd : p.dst with
  | dev d => exact hdev d hd
  | slice n =>
    obtain ⟨hwait, hbehind⟩ := hslice n hd
    rw [hwait, hbehind, hd] at h
    exact Bool.false_ne_true h
  | _ =>
    rw [hd] at h
    exact Bool.false_ne_true h
theorem exec_aggPacketApply_waits {es : List (AggElem × Nat)} {g : Trigger} (hbody : p.body = .agg es g) {n : Nat} (hdst : p.dst = .slice n)
    (h : s.elemsWait p.dst p.part p.src es = true ∨ s.elemsBehind p.dst p.part p.src es = true) :
    exec (.aggPacketApply id) s = .next s := by
  show execAggPacketApply id s = _
  rw [execAggPacketApply, taken_as harr hbody hdst]
  rw [hdst] at h
  exact if_pos (Bool.or_eq_true_iff.mpr (.inr (Bool.or_eq_true_iff.mpr h)))
/-- R377: the elements of another device's packet. -/
theorem exec_aggPacketApply_fabric {c q : Nat} {fs : List AggElem} (hbody : p.body = .fabAgg c q fs) :
    let es := fs.map fun e => (e, 0)
    let w := s.elemGates id p.dst p.part es
    let x := State.performElems { w.1 with arrived := t.arrived } p.dst p.part es
    exec (.aggPacketApply id) s =
      if s.elemsWait p.dst p.part p.src es = true then .next s
      else if (!w.2) = true then .next w.1
      else .next (x.1.sendInside p.dst p.src p.part .reply (.fabAggReply c q (maskOf x.2) x.2)) := by
  show execAggPacketApply id s = _
  rw [execAggPacketApply, taken_as harr hbody rfl]

end

end Sys2Proof.Machine
end

section
/-!
SUPPORT. O45: replies, calls, triggers and strands at the units they are for.
-/
namespace Sys2Proof.Machine
open Sys2Proof

section
variable {id : Nat} {p : Packet} {s t : State} (harr : s.takeArrived id = some (p, t))
include harr

theorem exec_amsgTriggerArrive {n : Nat} {q : PhloxTrig} (hbody : p.body = .amsg q) (hdst : p.dst = .slice n) :
    exec (.amsgTriggerArrive id) s = .next (t.triggerArrive n q) := by
  show execAmsgTriggerArrive id s = _
  rw [execAmsgTriggerArrive, taken_as harr hbody hdst]
/-- R317: the acknowledgement of a line of the host, which no job's counter awaits. -/
theorem exec_hostLineAck {req sl : Nat} {r : AccResult} (hbody : p.body = .accReply req sl r) (hdst : p.dst = .iod)
    (hjobs : ∀ e ∈ s.jobs, e.2.adding ≠ some req) : exec (.hostLineAck id) s = .next (
      let u : State := { t with hostOpen := t.hostOpen.filter fun o => o.2 != req }
      u.hostPump u.hostQ.length) := by
  show execHostLineAck id s = _
  rw [execHostLineAck, taken_as harr hbody hdst]
  exact if_neg fun h => by
    obtain ⟨e, he, hadd⟩ := List.any_eq_true.mp h
    exact hjobs e he (beq_iff_eq.mp hadd)

variable {c : Nat} (hdst : p.dst = .core c)
include hdst

theorem exec_queueTokenArrive {k : Token} (hbody : p.body = .token k) : exec (.queueTokenArrive id) s = .next (t.tokenArrive k) := by
  show execQueueTokenArrive id s = _
  simp only [execQueueTokenArrive, harr, hdst, hbody]
theorem exec_callArrive {r : Call} (hbody : p.body = .call r) : exec (.callArrive id) s = .next (t.callArrive c r) := by
  show execCallArrive id s = _
  rw [execCallArrive, taken_as harr hbody hdst]
theorem exec_callReply {req sl : Nat} {v : W64} (hbody : p.body = .callReply req sl v) :
    exec (.callReply id) s = .next (t.callReply c req v) := by
  show execCallReply id s = _
  rw [execCallReply, taken_as harr hbody hdst]
theorem exec_fencedPacket (hfence : (s.core c).fenced = true) : exec (.fencedPacket id) s = .next (t.fencedAnswer c p) := by
  show execFencedPacket id s = _
  simp only [execFencedPacket, harr, hdst, hfence, if_true]

variable (hfence : (s.core c).fenced = false)
include hfence

theorem exec_aggReply {q : Nat} {m : W32} {cs : List Nat} (hbody : p.body = .aggReply q m cs) :
    exec (.aggReply id) s = .next (t.aggAnswered c p.src q m cs) := by
  show execAggReply id s = _
  rw [execAggReply, taken_as harr hbody hdst]
  exact congrArg Host.Outcome.next (if_neg (Bool.eq_false_iff.mp hfence))

/-! ### Replies of loads and atomics (R142, R153) -/

section
variable {req sl : Nat} {r : AccResult} {q : Req} (hbody : p.body = .accReply req sl r) (hreq : (s.core c).req req = some q)
include hbody hreq

theorem exec_loadReply (hq : q.isAtomic = false) : exec (.loadReply id) s = .next (t.replyAccess c req r) := by
  show execLoadReply id s = _
  rw [execLoadReply, taken_as harr hbody hdst]
  dsimp only
  rw [if_neg (Bool.eq_false_iff.mp hfence), hreq]
  exact congrArg Host.Outcome.next (if_neg (Bool.eq_false_iff.mp hq))
theorem exec_atomicReply (hq : q.isAtomic = true) : exec (.atomicReply id) s = .next (t.replyAccess c req r) := by
  show execAtomicReply id s = _
  rw [execAtomicReply, taken_as harr hbody hdst]
  dsimp only
  rw [if_neg (Bool.eq_false_iff.mp hfence), hreq]
  exact congrArg Host.Outcome.next (if_pos hq)

end

/-! ### Strands that arrive (R256, R285) -/

section
variable {m : Migration} (hbody : p.body = .migrate m)
include hbody

/-- R285: a strand of a job that has ended. -/
theorem exec_migrationArrive_ended {j : Nat} (hj : m.strand.job = some j) (hst : 4 ≤ (t.job j).st) : exec (.migrationArrive id) s =
    .next ((t.leftGang m.strand).send (.core c) (.core m.origin) p.part .reply (.migrateAns m.originSlot true)) := by
  show execMigrationArrive id s = _
  rw [execMigrationArrive, taken_as harr hbody hdst]
  refine (if_neg (Bool.eq_false_iff.mp hfence)).trans (if_pos ?_)
  rw [hj]
  exact decide_eq_true hst
/-- R256: another takes a free slot, behind none in the inbox, or waits in the inbox while it has a place. -/
theorem exec_migrationArrive_live (hj : ∀ n, m.strand.job = some n → (t.job n).st < 4) :
    let answer (u : State) (ok : Bool) : State := u.send (.core c) (.core m.origin) p.part .reply (.migrateAns m.originSlot ok)
    (∀ k, (t.core c).inbox = [] → t.freeSlot c = some k → exec (.migrationArrive id) s = .next (answer (t.arriveStrand c k m) true)) ∧
    (((t.core c).inbox ≠ [] ∨ t.freeSlot c = none) → exec (.migrationArrive id) s = .next (
      if 4 ≤ (t.core c).inbox.length then answer t false
      else answer (t.setCore c { t.core c with inbox := (t.core c).inbox ++ [m] }) true)) := by
  show (∀ k, _ → _ → execMigrationArrive id s = _) ∧ (_ → execMigrationArrive id s = _)
  rw [execMigrationArrive, taken_as harr hbody hdst]
  dsimp only
  rw [if_neg (Bool.eq_false_iff.mp hfence), if_neg (by
    cases h : m.strand.job with
    | none => exact Bool.false_ne_true
    | some n => exact fun hst => Nat.not_le.mpr (hj n h) (of_decide_eq_true hst))]
  refine ⟨fun k hempty hk => ?_, fun hnone => ?_⟩
  · rw [hempty, if_pos List.isEmpty_nil, hk]
  · have hplace : (if (t.core c).inbox.isEmpty = true then t.freeSlot c else none) = none := by
      split
      · exact hnone.resolve_left (not_not_intro (List.isEmpty_iff.mp ‹_›))
      · rfl
    rw [hplace]
    exact (apply_ite Host.Outcome.next _ _ _).symm

end

end

/-! ### Calls (R211, R255, R286, R364) -/

theorem Call.before_iff (q x : Call) : q.before x = true ↔ x.came = q.came ∧ q.caller.core < x.caller.core := by
  rw [Call.before, Bool.and_eq_true, decide_eq_true_iff, decide_eq_true_iff, eq_comm (a := q.came)]
/-- R364: a call goes behind those of earlier cycles, and before those of its own cycle whose callers' cores are higher. -/
theorem putCall_split (q : Call) (l : List Call) : ∃ l1 l2, l = l1 ++ l2 ∧ putCall q l = l1 ++ q :: l2 ∧
    (∀ x ∈ l1, x.came = q.came → x.caller.core ≤ q.caller.core) ∧
    ∀ x, l2.head? = some x → x.came = q.came ∧ q.caller.core < x.caller.core := by
  refine ⟨l.takeWhile fun x => !q.before x, l.dropWhile fun x => !q.before x, List.takeWhile_append_dropWhile.symm, rfl,
    fun x hx hcame => Nat.le_of_not_lt fun hlt => ?_, fun x hx => (q.before_iff x).mp ?_⟩
  · have hnot := List.mem_takeWhile_imp hx
    rw [(q.before_iff x).mpr ⟨hcame, hlt⟩] at hnot
    exact Bool.false_ne_true hnot
  · have hhead := List.head?_dropWhile_not (fun x => !q.before x) l
    rw [hx] at hhead
    simpa using hhead

section
variable {s : State} {c : Nat} {r : Call}

theorem State.callArrive_fenced (h : (s.core c).fenced = true) : s.callArrive c r = s.replyCall (.core c) r.part r.caller (refusal 6) :=
  if_pos h

variable (hfence : (s.core c).fenced = false)
include hfence

/-- R285: a call of a job that has ended. -/
theorem State.callArrive_ended {n : Nat} (hj : r.job = some n) (hfin : (s.job n).final = true) : s.callArrive c r = s := by
  refine (if_neg (Bool.eq_false_iff.mp hfence)).trans (if_pos ?_)
  dsimp only
  rw [hj]
  exact hfin

variable (hj : ∀ n, r.job = some n → (s.job n).final = false)
include hj

/-- R211, R255, R364: another call is refused at a core of another partition, takes its place among the 64, or one of its cycle is
refused. -/
theorem State.callArrive_live :
    let q : Call := { r with came := s.cycle c }
    let calls := (s.core c).calls
    let here := (s.partn r.part).clusters.contains (clusterOf c)
    (here = false → s.callArrive c r = s.replyCall (.core c) q.part q.caller (refusal 2)) ∧
    (here = true → calls.length < 64 → s.callArrive c r = s.setCore c { s.core c with calls := putCall q calls }) ∧
    (here = true → 64 ≤ calls.length → ∀ x, calls.getLast? = some x →
      (q.before x = false → s.callArrive c r = s.replyCall (.core c) q.part q.caller (refusal 1)) ∧
      (q.before x = true → s.callArrive c r =
        (s.setCore c { s.core c with calls := (putCall q calls).dropLast }).replyCall (.core c) x.part x.caller (refusal 1))) := by
  unfold State.callArrive
  dsimp only
  rw [if_neg (Bool.eq_false_iff.mp hfence), if_neg (by
    cases h : r.job with
    | none => exact Bool.false_ne_true
    | some n => exact Bool.eq_false_iff.mp (hj n h))]
  refine ⟨fun hpart => ?_, fun hpart hroom => ?_, fun hpart hfull x hx => ?_⟩
  · exact if_pos (by rw [hpart]; rfl)
  · exact (if_neg (by rw [hpart]; decide)).trans (if_pos hroom)
  · rw [if_neg (by rw [hpart]; decide), if_neg (Nat.not_lt.mpr hfull), hx]
    exact ⟨fun hb => if_neg (Bool.eq_false_iff.mp hb), fun hb => if_pos hb⟩

end

/-- Settles O45: each packet by what its unit does of it, each link by its failure, and each element, call and strand by what it finds. -/
theorem packetsAreDelivered : Obligations.PacketsAreDelivered := by
  refine ⟨fun id p s hp hf ho => exec_meshPacketArrive_passes hp hf ho, fun id p s hp h => exec_meshPacketArrive_held hp h,
    fun id s => rfl, fun src dst s => ⟨exec_linkCrcFail_once src dst s, fun h => ?_⟩,
    fun id p s t b h hb hf hd hn => exec_homeAccess_unit h hb hf hd hn,
    fun id p s t b n h hb hd => exec_homeAccess_slice_other h hb hd,
    fun id p s t b n q o h hb hd hl hw => (exec_homeAccess_line h hb hd hl).trans (if_pos hw),
    fun id p s t b n q o h hb hd hl hw hr => exec_homeAccess_home h hb hd hl hw hr,
    fun id p s t b n q o h hb hd hl hfw hw hn hr => exec_homeAccess_replica h hb hd hl hfw hw hn hr,
    fun id p s t n q o r x b u h hb hd hl hfw hw href hn hr hon hline hperf => ?_,
    fun s id n p o a ha => State.replicaGate_read ha s id n p o,
    fun id p s t req sl l h hb hf hd hn => exec_homeAccess_withdraw h hb hf hd hn,
    fun id p s t c req sl r q h hb hd hf hq ha => exec_loadReply h hd hf hb hq ha,
    fun id p s t c req sl r q h hb hd hf hq ha => exec_atomicReply h hd hf hb hq ha,
    fun id p s t g es h hb hf hd hn => ?_, fun id p s t g es h hb n hd hw => exec_aggPacketApply_waits h hb hd hw,
    fun id p s t c q fs h hb => ?_,
    fun s dst part es => ⟨rfl, State.performElems_mem s dst part es, s.applyElems_length dst part es⟩,
    fun s dst part e k r => ⟨fun t l h => State.applyElems_good h r, fun t c h => ⟨State.applyElems_bad h r, ?_⟩⟩,
    fun id p s t c q m cs h hb hd hf => exec_aggReply h hd hf hb, fun id p s t k c h hb hd => exec_queueTokenArrive h hd hb,
    fun id p s t c r h hb hd hf hj hpart hroom => ?_, fun id p s t c r h hb hd hf hj hpart hfull x hx => ?_,
    fun id p s t c r h hb hd => ⟨fun hf => ?_, fun n hf hj hfin => ?_, fun hf hj hpart => ?_⟩,
    fun id p s t c req sl v h hb hd => exec_callReply h hd hb, fun id p s t n q h hb hd => exec_amsgTriggerArrive h hb hd,
    fun id p s t c k m h hb hd hf hj hi hk => (exec_migrationArrive_live h hd hf hb hj).1 k hi hk,
    fun id p s t c m h hb hd hf hj hi => (exec_migrationArrive_live h hd hf hb hj).2 hi,
    fun id p s t c j m h hb hd hf hj hst => exec_migrationArrive_ended h hd hf hb hj hst,
    fun id p s t c h hd hf => exec_fencedPacket h hd hf, fun id p s t req sl r h hb hd hj => exec_hostLineAck h hb hd hj⟩
  · obtain ⟨t, ht, hkept⟩ := exec_linkCrcFail_again h
    exact ⟨t, ht, congrArg (·.failed) hkept, congrArg (·.mem) hkept, congrArg (·.cores) hkept⟩
  · rw [exec_homeAccess_replica h hb hd hl hfw hw hn hr, State.atReplica_held hon href hline hperf]
  · intro w
    have happly := exec_aggPacketApply_elements h hb hf hd hn
    exact ⟨fun hgo => happly.trans (if_pos (by rw [hgo]; rfl)), fun hgo => happly.trans (if_neg (by rw [hgo]; exact Bool.false_ne_true))⟩
  · have happly := exec_aggPacketApply_fabric h hb
    refine ⟨fun hw => happly.trans (if_pos hw), fun hw => ?_⟩
    intro w
    have hnow := happly.trans (if_neg (Bool.eq_false_iff.mp hw))
    exact ⟨fun hgo => hnow.trans (if_pos (by rw [hgo]; rfl)), fun hgo => hnow.trans (if_neg (by rw [hgo]; exact Bool.false_ne_true))⟩
  · exact (congrArg (·.1.mem) h).symm.trans (State.elemLoc_mem ..)
  · obtain ⟨l1, l2, hcalls, hput, hbefore, hafter⟩ := putCall_split { r with came := t.cycle c } (t.core c).calls
    refine ⟨l1, l2, hcalls, hbefore, hafter, ?_⟩
    rw [exec_callArrive h hd hb, (State.callArrive_live hf hj).2.1 hpart hroom, hput]
  · obtain ⟨hlast, hjoins⟩ := (State.callArrive_live hf hj).2.2 hpart hfull x hx
    rw [exec_callArrive h hd hb]
    exact ⟨fun hno => congrArg Host.Outcome.next (hlast (Bool.eq_false_iff.mpr (mt (Call.before_iff _ x).mp hno))),
      fun hcame hlt => congrArg Host.Outcome.next (hjoins ((Call.before_iff _ x).mpr ⟨hcame, hlt⟩))⟩
  · rw [exec_callArrive h hd hb, State.callArrive_fenced hf]
  · rw [exec_callArrive h hd hb, State.callArrive_ended hf hj hfin]
  · rw [exec_callArrive h hd hb, (State.callArrive_live hf hj).1 hpart]

end Sys2Proof.Machine
end
